-- ==== Sys2Proof/Word.lean ====
section
/-! DEFINITION. The words of the W9: the 64-bit word, bytes, and the indices that instructions carry
(spec/00_scope.md R4, spec/15_encoding.md R322). -/

namespace Sys2Proof

/-- A byte of memory or local store. -/
abbrev Byte := BitVec 8

/-- A 64-bit machine word. -/
abbrev Word := BitVec 64

/-- A name index of the slot's tuning, 0 (`nil`) to 255 (R323). -/
abbrev Ix := BitVec 8

/-- A thread id: core × 16 + slot (R4, R332). -/
abbrev Tid := Nat

end Sys2Proof
end

