-- ==== Sys2Proof/Config.lean ====
section
/-! DEFINITION. What is fixed for this part, and the free values: constants without a body, of which nothing in
Lean can tell the value (notes/assumptions names each). -/

namespace Sys2Proof.Config

/-- Register-store bits of a core (R51). -/
def storeBits : Nat := 262144
/-- Bytes of a local store (R161). -/
def lsBytes : Nat := 262144
/-- First local-store byte that U mode may not touch (R161). -/
def lsSys : Nat := 0x3E000
/-- Cores, slots a core, clusters (R4, R12). -/
def cores : Nat := 4096
/-- Slots of one core (R4). -/
def slots : Nat := 16
/-- Clusters of the device (R4). -/
def clusters : Nat := 512
/-- Entries of a translation cache (R171). -/
def tcacheEntries : Nat := 1024
/-- Core cycles of a microsecond (R273): 600 MHz. -/
def cyclesPerUs : Nat := 600
/-- The stepping register (R1, R332). -/
def stepping : Nat := 0xC0
/-- The architecture level (R332). -/
def archLevel : Nat := 3

/-- Which of the f32 values within the bound of R125 the special-function unit delivers, for a function code and a source
pattern (log entry 40). -/
opaque sfuPick : Nat → BitVec 32 → Nat
/-- Messages that a cluster switch holds for cores whose inbound ports are full (R80; log entry 50). -/
opaque switchHolds : Nat

/-- Requests of the cores of a cluster for which the fabric has room beyond one of each slot (R172; log entry 70). -/
opaque fabricSpare : Nat
/-- A value that the spec leaves open, the n-th of a run (log entry 41). -/
opaque freeWord : Nat → Word

/-- What a vector minimum or maximum writes for a chosen operand that its destination kind (a code) does not hold: R119 rounds
nothing and gives no pattern (log entry 59). The operand is given by its sign, whether it is finite, its mantissa and its
exponent. -/
opaque unheld : Nat → Bool → Bool → Nat → Int → Word

/-- The CRC-64 of the bytes of a flit before its CRC field (R296 names no polynomial; log entry 44). -/
opaque crc64 : List Byte → Word
/-- The digest of the boot ROM (R306; the spec gives no contents of it: log entry 48). -/
opaque romDigest : Nat → Byte
/-- The bytes of the device certificate chain in slot 0, and how many there are (R306 gives no contents: log entry 48). -/
opaque certByte : Nat → Byte
/-- One less than the number of bytes of the certificate chain, modulo 65,535 (log entry 48). -/
opaque certLen : Nat
/-- The n-th test of an offline core by PRESET finds it good (R292; the spec does not say when a core fails: log entry 31). -/
opaque coreTest : Nat → Bool

end Sys2Proof.Config
end

