-- ==== Sys2Proof/Syntax.lean ====
section
/-! DEFINITION. The instructions of the W9 and the events of its device, one constructor for each row of
spec/opcode_table.json. An op carries its decoded fields; a reserved field code has no constructor. An event
carries the identity of the pending thing it acts on, or the data an agent outside the device brings. -/

namespace Sys2Proof

/-- The guard of an op: index 0 means always (R36, R324). -/
structure Guard where
  name : Ix
  neg  : Bool
  deriving DecidableEq, Repr

/-- A name operand with its `!` modifier (R35, R323). -/
structure Opd where
  ix   : Ix
  sync : Bool
  deriving DecidableEq, Repr

/-- The WS32 extension of an engine command (R326). -/
structure Ws where
  wsem : BitVec 8
  wthr : BitVec 12
  ssem : BitVec 8
  sinc : BitVec 4
  deriving DecidableEq, Repr

/-- An immediate that stands in IMM14, X32 or X64: the constructor is the length of the word (R340, R383). -/
inductive Imm where
  | i14 (v : BitVec 14)
  | x32 (v : BitVec 32)
  | x64 (v : BitVec 64)
  deriving DecidableEq, Repr

/-- An immediate of SEMSET, SPAWN: IMM14 or X32. -/
inductive ImmS where
  | i14 (v : BitVec 14)
  | x32 (v : BitVec 32)
  deriving DecidableEq, Repr

/-- The constant of CMPI: eleven bits of IMM14, or X32 (R351). -/
inductive ImmC where
  | i11 (v : BitVec 11)
  | x32 (v : BitVec 32)
  deriving DecidableEq, Repr

/-- A source that is a name, or the 64-bit extension (TUNE R55, MCFG R142). -/
inductive Src64 where
  | name (a : Opd)
  | x64  (v : BitVec 64)
  deriving DecidableEq, Repr

/-- The trip count of LOOP (R72). -/
inductive LoopCnt where
  | name (a : Opd)
  | x32  (v : BitVec 32)
  deriving DecidableEq, Repr

/-- The request of SHAPE: a name without `!`, or X32 (R57). -/
inductive ShapeReq where
  | name (b : Ix)
  | x32  (v : BitVec 32)
  deriving DecidableEq, Repr

/-- The count of ROT, SHL, SHR and SRA (R400). -/
inductive Cnt where
  | name (b : Opd)
  | imm  (k : BitVec 6)
  deriving DecidableEq, Repr

/-- Rounding modes (R115). -/
inductive Rm where
  | rne | rtz | rdn | rup
  deriving DecidableEq, Repr

/-- Integer comparison conditions (R351). -/
inductive Cc where
  | eq | ne | lt | le | gt | ge
  deriving DecidableEq, Repr

/-- Float comparison conditions (R366). -/
inductive FCc where
  | eq | ne | lt | le | gt | ge | un
  deriving DecidableEq, Repr

/-- Scopes (R196). -/
inductive Scope where
  | slot | core | clu | qtr | dev | sys
  deriving DecidableEq, Repr

/-- The wait of LDL (R163). -/
inductive LdFe where
  | plain | w | c
  deriving DecidableEq, Repr

/-- The space of an atomic (R175). -/
inductive ASpace where
  | va | ls | cl
  deriving DecidableEq, Repr

/-- The order of an atomic, with its scope (R175, R334). -/
inductive AOrder where
  | plain
  | acq (s : Scope)
  | rel (s : Scope)
  | ar  (s : Scope)
  deriving DecidableEq, Repr

/-- The type of an integer atomic (R175). -/
inductive ITy where
  | s64 | u64 | s32 | u32
  deriving DecidableEq, Repr

/-- The type of a float atomic (R175). -/
inductive FTy where
  | f32 | a56
  deriving DecidableEq, Repr

/-- The fields that all atomics share; D is used with RET = 1 and by ACAS (R175, R334). -/
structure AtomF where
  ret   : Bool
  space : ASpace
  order : AOrder
  d     : Ix
  a     : Opd
  b     : Opd
  deriving DecidableEq, Repr

/-- The place of a COPY operand (R352). -/
inductive CopySp where
  | va | loc | clu
  deriving DecidableEq, Repr

/-- The conversion kind of a COPY (R352): IMM14 bits 7:5. -/
inductive CopyCk where
  | none | f32 | f16 | bf16 | e4m3 | e5m2
  deriving DecidableEq, Repr

/-- The modifiers of COPY (R352). -/
structure CopyMods where
  try_  : Bool
  keepf : Bool
  dsp   : CopySp
  ssp   : CopySp
  ck    : CopyCk
  rm    : Rm
  sat   : Bool
  fmt   : Bool
  deriving DecidableEq, Repr

/-- The modifiers of the Plectrum commands (R214). -/
structure PlkMods where
  try_  : Bool
  psn   : Bool
  keepf : Bool
  deriving DecidableEq, Repr

/-- The space of SLOTRD and SLOTWR (R407). -/
inductive SlotSp where
  | reg | nv | nf
  deriving DecidableEq, Repr

/-- The functions of the special-function unit (R368). -/
inductive SfuFn where
  | exp2 | log2 | rcp | rsq | sin | cos | tanh | sigmoid
  deriving DecidableEq, Repr

/-- The forms of FSGN (R370). -/
inductive SgnOp where
  | cpy | neg | xor | abs
  deriving DecidableEq, Repr

/-- The reductions of VRED (R429). -/
inductive RedOp where
  | add | min | max | and | or | xor
  deriving DecidableEq, Repr

/-- The prefixes of VSCAN (R429). -/
inductive ScanOp where
  | add | min | max
  deriving DecidableEq, Repr

/-- Group sizes of quantized codes: 32, 64, 128 (R424). -/
inductive Gs where
  | g32 | g64 | g128
  deriving DecidableEq, Repr

/-- Guard and mask of a vector op (R420). -/
structure VH where
  g    : Guard
  msk  : Ix
  mneg : Bool
  deriving DecidableEq, Repr

/-- The address an event of the link carries, and other data from outside the device, as plain numbers. -/
abbrev Id := Nat

/-- A site of a memory error: bank or tier byte address, local-store offset of a core, name of a slot, translation
cache of a cluster, accumulator set of a cluster, queue entry, deque record, capsule buffer, inbound port, logic of a core, or
the host link (R290, R291). -/
inductive ErrSite where
  | mem    (pa : Nat)
  | lstore (core off : Nat)
  | name   (tid ix : Nat)
  | slotState (tid : Nat)
  | queue  (core q pos : Nat)
  | deque  (core pos : Nat)
  | tcache (cl : Nat)
  | acc    (cl set row col : Nat)
  | capsule (core buf off : Nat)
  | inbound (core pos : Nat)
  | logic  (core : Nat)
  | hostLink
  deriving DecidableEq, Repr

/-- A firmware image as boot finds it (R305): its measurement digest, whether its Ed25519 and its ML-DSA-65 signature
verify, and the configuration it applies: the device number, partition 0's configuration block, the bytes it loads
(partition 0's handler table among them), and the device that each peer port reaches (R295). -/
structure FwImage where
  digest  : List Byte
  edOk    : Bool
  mlOk    : Bool
  devNum  : BitVec 10
  pcb     : List Word
  mem     : List (Nat × Byte)
  peers   : List (BitVec 10)
  deriving DecidableEq, Repr

/-- The instructions of the W9 and the events of its device: one constructor for each row of the opcode table. -/
inductive Instr where
  -- group 0
  | nop (g : Guard) (pad : Bool)
  | b (g : Guard) (t : Imm)
  | bl (g : Guard) (d : Ix) (t : Imm)
  | bx (g : Guard) (d : Ix) (a : Opd)
  | ret (g : Guard) (a : Opd)
  | loop (g : Guard) (cnt : LoopCnt) (off : BitVec 14)
  | lexit (g : Guard)
  | trap (g : Guard) (code : BitVec 8)
  | eret (g : Guard)
  | sread (g : Guard) (d : Opd) (sel : BitVec 14)
  | swrite (g : Guard) (sel : BitVec 14) (a : Opd)
  | rgn (g : Guard) (f : BitVec 8) (c : BitVec 6) (live : Option Word)
  | rgnend (g : Guard)
  | ifence (g : Guard)
  | yield (g : Guard)
  | tune (g : Guard) (src : Src64)
  | resize (g : Guard) (d : Ix) (wm1 : BitVec 6)
  | shape (g : Guard) (d v : Ix) (q : ShapeReq)
  | width (g : Guard) (d : Ix) (a : Opd)
  | fset (g : Guard) (d : Ix)
  | fclr (g : Guard) (d : Ix)
  | ftest (g : Guard) (d a : Ix)
  | pdrainDrain (g : Guard) (d : Ix) (a : Opd)
  | pdrainDrainPart (g : Guard) (d : Ix) (a : Opd)
  | pdrainSave (g : Guard) (d : Ix) (a b : Opd)
  | pdrainResume (g : Guard) (d : Ix) (b : Opd)
  | preset (g : Guard) (d : Ix) (a b : Opd)
  | presetKeep (g : Guard) (d : Ix) (a : Opd)
  | slotrd (g : Guard) (d : Ix) (a : Opd) (sp : SlotSp) (sel : BitVec 8)
  | slotwr (g : Guard) (d : Ix) (a b : Opd) (sp : SlotSp) (sel : BitVec 8) (run : Bool)
  | slotkill (g : Guard) (d : Ix) (a : Opd)
  | tlbinvPage (g : Guard) (d : Ix) (a : Opd)
  | tlbinvRange (g : Guard) (d : Ix) (a b : Opd)
  | tlbinvCtx (g : Guard) (d : Ix)
  | tlbinvAll (g : Guard) (d : Ix)
  | wdset (g : Guard) (d : Ix) (a b : Opd)
  | pmcfg (g : Guard) (a b : Opd) (zero : Bool)
  | pmrd (g : Guard) (d : Ix) (a : Opd) (cfg : Bool)
  | tracerd (g : Guard) (d : Ix) (a : Opd) (b : Option Opd)
  -- group 1
  | add (g : Guard) (d a b : Opd)
  | addi (g : Guard) (d a : Opd) (imm : Imm)
  | sub (g : Guard) (d a b : Opd)
  | mul (g : Guard) (d a b : Opd)
  | mulh (g : Guard) (d a b : Opd)
  | madd (g : Guard) (d a b : Opd) (c : Ix)
  | div (g : Guard) (d a b : Opd) (nz : Bool)
  | rem (g : Guard) (d a b : Opd) (nz : Bool)
  | and (g : Guard) (d a b : Opd)
  | or (g : Guard) (d a b : Opd)
  | xor (g : Guard) (d a b : Opd)
  | andn (g : Guard) (d a b : Opd)
  | shl (g : Guard) (d a : Opd) (k : Cnt)
  | shr (g : Guard) (d a : Opd) (k : Cnt)
  | sra (g : Guard) (d a : Opd) (k : Cnt)
  | rot (g : Guard) (d a : Opd) (k : Cnt)
  | min (g : Guard) (d a b : Opd)
  | max (g : Guard) (d a b : Opd)
  | abs (g : Guard) (d a : Opd)
  | clz (g : Guard) (d a : Opd)
  | ctz (g : Guard) (d a : Opd)
  | popc (g : Guard) (d a : Opd)
  | cmp (g : Guard) (cc : Cc) (d a b : Opd)
  | cmpi (g : Guard) (cc : Cc) (d a : Opd) (imm : ImmC)
  | sel (g : Guard) (d a b : Opd) (c : Ix)
  | mov (g : Guard) (d a : Opd)
  | movi (g : Guard) (d : Opd) (imm : Imm)
  | ext (g : Guard) (s : Bool) (d a : Opd) (pos lenm1 : BitVec 6)
  | ins (g : Guard) (d : Ix) (a : Opd) (pos lenm1 : BitVec 6)
  -- group 2
  | ldl (g : Guard) (fe : LdFe) (d : Ix) (a : Opd)
  | stl (g : Guard) (f : Bool) (a b : Opd)
  | ldx (g : Guard) (cl : Bool) (acq : Option Scope) (d : Ix) (a : Opd)
  | stx (g : Guard) (cl : Bool) (rel : Option Scope) (a b : Opd)
  | fence (g : Guard) (sc : Scope)
  | copy (g : Guard) (m : CopyMods) (d : Ix) (a b : Opd) (n : BitVec 32) (ws : Option Ws)
  | gather (g : Guard) (m : PlkMods) (d : Ix) (a : Opd) (ws : Option Ws)
  | scatter (g : Guard) (m : PlkMods) (d : Ix) (a : Opd) (ws : Option Ws)
  | scatadd (g : Guard) (m : PlkMods) (d : Ix) (a : Opd) (ws : Option Ws)
  | bankopFill (g : Guard) (tr : Bool) (d : Ix) (a : Opd) (ws : Option Ws)
  | bankopAxpy (g : Guard) (tr : Bool) (d : Ix) (a : Opd) (ws : Option Ws)
  | bankopCvt (g : Guard) (tr : Bool) (d : Ix) (a : Opd) (ws : Option Ws)
  | bankopSum (g : Guard) (tr : Bool) (d : Ix) (a : Opd) (ws : Option Ws)
  | dtload (g : Guard) (tr : Bool) (d : Ix) (a : Opd) (ws : Option Ws)
  | aadd (g : Guard) (f : AtomF) (ty : ITy)
  | aand (g : Guard) (f : AtomF) (ty : ITy)
  | acas (g : Guard) (f : AtomF) (ty : ITy)
  | afadd (g : Guard) (f : AtomF) (ty : FTy) (rm : Rm)
  | afmax (g : Guard) (f : AtomF) (ty : FTy)
  | afmin (g : Guard) (f : AtomF) (ty : FTy)
  | amax (g : Guard) (f : AtomF) (ty : ITy)
  | amin (g : Guard) (f : AtomF) (ty : ITy)
  | aor (g : Guard) (f : AtomF) (ty : ITy)
  | aswap (g : Guard) (f : AtomF) (ty : ITy)
  | axor (g : Guard) (f : AtomF) (ty : ITy)
  -- group 3
  | fadd (g : Guard) (rm : Rm) (sat : Bool) (d a b : Opd)
  | fsub (g : Guard) (rm : Rm) (sat : Bool) (d a b : Opd)
  | fmul (g : Guard) (rm : Rm) (sat : Bool) (d a b : Opd)
  | ffma (g : Guard) (rm : Rm) (sat : Bool) (d a b : Opd) (c : Ix)
  | fdiv (g : Guard) (rm : Rm) (sat : Bool) (d a b : Opd)
  | fsqrt (g : Guard) (rm : Rm) (sat : Bool) (d a : Opd)
  | fmin (g : Guard) (d a b : Opd)
  | fmax (g : Guard) (d a b : Opd)
  | fcmp (g : Guard) (cc : FCc) (d a b : Opd)
  | fsgn (g : Guard) (op : SgnOp) (d a b : Opd)
  | cvt (g : Guard) (rm : Rm) (sat : Bool) (d a : Opd)
  | fsfu (g : Guard) (fn : SfuFn) (rm : Rm) (sat : Bool) (d a : Opd)
  -- group 4
  | vadd (h : VH) (rm : Rm) (sat : Bool) (d a b : Opd)
  | vsub (h : VH) (rm : Rm) (sat : Bool) (d a b : Opd)
  | vmul (h : VH) (rm : Rm) (sat : Bool) (d a b : Opd)
  | vfma (h : VH) (rm : Rm) (sat : Bool) (d a b : Opd)
  | vmin (h : VH) (d a b : Opd)
  | vmax (h : VH) (d a b : Opd)
  | vand (h : VH) (d a b : Opd)
  | vor (h : VH) (d a b : Opd)
  | vxor (h : VH) (d a b : Opd)
  | vshl (h : VH) (d a b : Opd)
  | vshr (h : VH) (d a b : Opd)
  | vcmp (h : VH) (cc : FCc) (d a b : Opd)
  | vsel (h : VH) (d a b : Opd)
  | vcvt (h : VH) (rm : Rm) (sat : Bool) (d a : Opd)
  | vld (h : VH) (w q : Bool) (rm : Rm) (sat : Bool) (d a b : Opd)
  | vst (h : VH) (setf : Bool) (d : Ix) (a b : Opd)
  | vldt (h : VH) (w : Bool) (d a b : Opd)
  | vbcast (h : VH) (rm : Rm) (sat : Bool) (d a : Opd)
  | vred (h : VH) (op : RedOp) (rm : Rm) (d a : Opd)
  | vscan (h : VH) (op : ScanOp) (rm : Rm) (d a : Opd)
  | vperm (h : VH) (d a b : Opd)
  | vcomp (h : VH) (d a : Opd)
  | vexpd (h : VH) (d a : Opd)
  | viota (h : VH) (d a : Opd)
  | vsfu (h : VH) (fn : SfuFn) (rm : Rm) (d a : Opd)
  | vquant (g : Guard) (gs : Gs) (d a e : Opd)
  | vdeq (h : VH) (gs : Gs) (rm : Rm) (sat : Bool) (d a e : Opd)
  | vmovs (g : Guard) (d a b : Opd)
  -- group 5
  | mcfg (g : Guard) (src : Src64)
  | mma (g : Guard) (tr z gg t : Bool) (d : Ix) (a : Opd) (ws : Option Ws)
  | mdrain (g : Guard) (tr acc : Bool) (d : Ix) (ws : Option Ws)
  | mmap (g : Guard) (tr : Bool) (d : Ix) (a : Opd) (ws : Option Ws)
  | mclr (g : Guard) (tr : Bool) (d : Ix) (ws : Option Ws)
  | xreduce (g : Guard) (tr confine : Bool) (d : Ix) (a : Opd) (ws : Option Ws)
  | xgather (g : Guard) (tr confine : Bool) (d : Ix) (a : Opd) (ws : Option Ws)
  | xbcast (g : Guard) (tr confine : Bool) (d : Ix) (a : Opd) (ws : Option Ws)
  | xmemberCreate (g : Guard) (d a b : Ix)
  | xmemberShrink (g : Guard) (d a b : Ix)
  | xmemberJoin (g : Guard) (d a b : Ix)
  | xmemberLeave (g : Guard) (d a : Ix)
  | xlog (g : Guard) (tr keepf : Bool) (d : Ix) (a : Opd) (ws : Option Ws)
  -- group 6
  | semwait (g : Guard) (n : BitVec 8) (t : BitVec 12) (take : Bool)
  | semsig (g : Guard) (n : BitVec 8) (i : BitVec 12)
  | semset (g : Guard) (n : BitVec 8) (v : ImmS)
  | semrd (g : Guard) (d : Opd) (n : BitVec 8)
  | qcfg (g : Guard) (d : Ix) (a : Opd) (n : BitVec 5)
  | qcount (g : Guard) (d : Opd) (n : BitVec 5)
  | msend (g : Guard) (k : BitVec 6) (a : Opd) (pl : List Ix)
  | spawn (g : Guard) (a : Opd) (t : ImmS)
  | sync (g : Guard)
  | done (g : Guard)
  | launch (g : Guard) (tr : Bool) (lev : BitVec 2) (d : Ix) (a : Opd) (ws : Option Ws)
  | genter (g : Guard) (a : Opd)
  | gleave (g : Guard)
  | gbar (g : Guard)
  | gsize (g : Guard) (d : Opd)
  | cmake (g : Guard) (d : Ix) (a : Opd)
  | csend (g : Guard)
  | cstop (g : Guard) (d : Ix) (k : BitVec 6)
  | cins (g : Guard) (a b : Opd)
  | cdel (g : Guard) (n : BitVec 4)
  | csetp (g : Guard) (k : BitVec 4) (a : Opd)
  | csplit (g : Guard) (a b : Opd)
  | cdivert (g : Guard) (a : Opd)
  -- group 7
  | vtopk (g : Guard) (mn : Bool) (d a : Opd)
  -- pairs
  | instructionPair (s v : Instr)
  -- events of the device
  | repack (core : Nat)
  | waitTimeout (tid : Tid)
  | trapMessageStart (core : Nat)
  | messageStart (core : Nat)
  | messageDrop (id : Id)
  | remotePush (id : Id)
  | tailWriteSeen (part lev : Nat)
  | threadPlacement (quarter : Nat)
  | launchCompletion (launch : Nat)
  | continuationStart (tid : Tid)
  | periodicSeek (core : Nat)
  | seekProbe (id : Id)
  | dequeTake (id : Id)
  | inc (id : Id)
  | incAcknowledgement (id : Id)
  | hdr (id : Id)
  | dec (id : Id)
  | decPrime (id : Id)
  | test (id : Id)
  | testReply (id : Id)
  | decReply (id : Id)
  | genterAtBank (id : Id)
  | genterReply (id : Id)
  | genterWithdrawal (id : Id)
  | gleaveAtBank (id : Id)
  | gbarArrival (id : Id)
  | gsizeAtBank (id : Id)
  | atomicAtOwner (id : Id)
  | readAtOwner (id : Id)
  | writeAtOwner (id : Id)
  | translationWalk (id : Id)
  | landName (id : Id)
  | sfuResult (id : Id)
  | slotrdAtTarget (id : Id)
  | slotwrAtTarget (id : Id)
  | slotkillAtTarget (id : Id)
  | clusterFifoEntry (id : Id)
  | copyTransfer (id : Id) (upTo : Option Nat)
  | gatherExecute (id : Id) (upTo : Option Nat)
  | scatterExecute (id : Id) (upTo : Option Nat)
  | scataddExecute (id : Id) (upTo : Option Nat)
  | bankopExecute (id : Id) (upTo : Option Nat)
  | dtloadExecute (id : Id)
  | launchAppend (id : Id)
  | mmaExecute (id : Id) (upTo : Option Nat)
  | mmapExecute (id : Id)
  | mdrainExecute (id : Id) (upTo : Option Nat)
  | mdrainInboxTimeout (id : Id)
  | mclrExecute (id : Id)
  | xreduceExecute (id : Id)
  | xgatherExecute (id : Id)
  | xbcastExecute (id : Id)
  | collectiveDeadline (id : Id)
  | xlogExecute (id : Id) (upTo : Option Nat)
  | membershipChange (set : Nat)
  | membershipAgreementTimeout (id : Id)
  | capsuleEntry (id : Id)
  | capsuleStopStart (core : Nat)
  | bankStop (id : Id)
  | homeStop (id : Id)
  | egressArrival (id : Id)
  | sinkStop (id : Id)
  | capsuleWaitTimeout (id : Id)
  | restartEntryStart (core : Nat)
  | launchWatchdogExpiry (launch : Nat)
  | queueStallWatchdog (part lev : Nat)
  | currentLimiterEngage (quarter : Nat)
  | currentLimiterRelease (quarter : Nat)
  | uncorrectableError (site : ErrSite)
  | scrub (site : ErrSite)
  | coreOffline (core : Nat)
  | flitReceived (port : Nat) (bytes : List Byte)
  | replayTimeout (port : Nat)
  | portDown (port : Nat)
  | hostRead (pa n : Nat)
  | hostWrite (pa : Nat) (bytes : List Byte) (psn : Bool)
  | mchkstatWrite (v : Word)
  | machineCheckReport
  | getVersion (req : List Byte)
  | getCapabilities (req : List Byte)
  | negotiateAlgorithms (req : List Byte)
  | getDigests (req : List Byte)
  | getCertificate (req : List Byte)
  | challenge (req : List Byte)
  | getMeasurements (req : List Byte)
  | spdmSessionRequest (req : List Byte)
  | deviceReset (img : Option FwImage)
  | messageArrival (id : Id)
  | portRetrain (port : Nat)
  | counterWrap (unit idx ctr : Nat)
  | correctedError (site : ErrSite)
  deriving DecidableEq, Repr

end Sys2Proof
end

