-- ==== Sys2Proof/WellFormed.lean ====
section
/-! DEFINITION. Well-formedness of an instruction: the checks of LegalEncoding (spec/15_encoding.md R331) that the
types of Sys2Proof.Syntax do not make already, and the classes of a pair (R327). -/

namespace Sys2Proof

/-- G = 0 with GN = 1 is reserved (R324). -/
def Guard.wf (g : Guard) : Bool := !(decide (g.name = 0) && g.neg)

/-- MNEG = 1 with MSK = 0 is reserved (R420). -/
def VH.wf (h : VH) : Bool := h.g.wf && !(decide (h.msk = 0) && h.mneg)

/-- With WTHR = 0, WSEM is 0; with SINC = 0, SSEM is 0 (R326). -/
def Ws.wf (w : Ws) : Bool :=
  (decide (w.wthr ≠ 0) || decide (w.wsem = 0)) && (decide (w.sinc ≠ 0) || decide (w.ssem = 0))

/-- A WS32 extension, where there is one, keeps its rules. -/
def wsOk : Option Ws → Bool
  | none => true
  | some w => w.wf

/-- Without `.ret`, D is reserved on every atomic other than ACAS (R334). -/
def AtomF.wf (f : AtomF) : Bool := f.ret || decide (f.d = 0)

/-- The modifier rules of COPY (R352). -/
def CopyMods.wf (m : CopyMods) : Bool :=
  (decide (m.ck = .none) || (m.fmt && decide (m.ssp = .va))) &&
  (decide (m.ck ≠ .none) || (decide (m.rm = .rne) && !m.sat)) &&
  (!m.fmt || decide (m.ssp = .va)) &&
  !(m.fmt && decide (m.ck = .none) && decide (m.dsp = .va)) &&
  !(m.keepf && decide (m.dsp = .va))

/-- The selector of SLOTRD (R407). -/
def slotSelOk (sp : SlotSp) (sel : BitVec 8) : Bool :=
  match sp with
  | .reg => decide (sel.toNat ≤ 0x1C)
  | .nv => decide (sel ≠ 0)
  | .nf => decide (sel ≠ 0)

/-- The selector of SLOTWR (R407). -/
def slotWrSelOk (sp : SlotSp) (sel : BitVec 8) : Bool :=
  match sp with
  | .reg => [0x09, 0x0A, 0x0B, 0x0E, 0x0F, 0x10, 0x11, 0x12, 0x13, 0x1A, 0x1B].contains sel.toNat
  | .nv => decide (sel ≠ 0)
  | .nf => decide (sel ≠ 0)

/-- The immediate stands in IMM14. -/
def Imm.is14 : Imm → Bool
  | .i14 _ => true
  | .x32 _ => false
  | .x64 _ => false

/-- The immediate stands in IMM14. -/
def ImmS.is14 : ImmS → Bool
  | .i14 _ => true
  | .x32 _ => false

/-- The immediate stands in IMM14. -/
def ImmC.is11 : ImmC → Bool
  | .i11 _ => true
  | .x32 _ => false

/-- The source is a name. -/
def Src64.isName : Src64 → Bool
  | .name _ => true
  | .x64 _ => false

/-- Well-formedness of one op; a pair and an event are no op. -/
def wfOp : Instr → Bool
  | .nop g _ => g.wf
  | .b g _ => g.wf
  | .bl g _ _ => g.wf
  | .bx g _ _ => g.wf
  | .ret g _ => g.wf
  | .loop g cnt off => g.wf && (match cnt with | .name _ => decide (2 < off.toNat) | .x32 _ => decide (3 < off.toNat))
  | .lexit g => g.wf
  | .trap g _ => g.wf
  | .eret g => g.wf
  | .sread g _ sel => g.wf && decide (sel.toNat ≤ 0x17 ∨ sel.toNat = 0x1A ∨ sel.toNat = 0x1B)
  | .swrite g sel _ => g.wf && decide (sel.toNat = 0x09 ∨ sel.toNat = 0x0A ∨ sel.toNat = 0x1A ∨ sel.toNat = 0x1B)
  | .rgn g f c _ => g.wf && decide (f.toNat + c.toNat ≤ 256)
  | .rgnend g => g.wf
  | .ifence g => g.wf
  | .yield g => g.wf
  | .tune g _ => g.wf
  | .resize g _ _ => g.wf
  | .shape g _ _ _ => g.wf
  | .width g _ _ => g.wf
  | .fset g _ => g.wf
  | .fclr g _ => g.wf
  | .ftest g _ _ => g.wf
  | .pdrainDrain g _ _ => g.wf
  | .pdrainDrainPart g _ _ => g.wf
  | .pdrainSave g _ _ _ => g.wf
  | .pdrainResume g _ _ => g.wf
  | .preset g _ _ _ => g.wf
  | .presetKeep g _ _ => g.wf
  | .slotrd g _ _ sp sel => g.wf && slotSelOk sp sel
  | .slotwr g _ _ _ sp sel _ => g.wf && slotWrSelOk sp sel
  | .slotkill g _ _ => g.wf
  | .tlbinvPage g _ _ => g.wf
  | .tlbinvRange g _ _ _ => g.wf
  | .tlbinvCtx g _ => g.wf
  | .tlbinvAll g _ => g.wf
  | .wdset g _ _ _ => g.wf
  | .pmcfg g _ _ _ => g.wf
  | .pmrd g _ _ _ => g.wf
  | .tracerd g _ _ _ => g.wf
  | .add g _ _ _ => g.wf
  | .addi g _ _ _ => g.wf
  | .sub g _ _ _ => g.wf
  | .mul g _ _ _ => g.wf
  | .mulh g _ _ _ => g.wf
  | .madd g _ _ _ _ => g.wf
  | .div g _ _ _ _ => g.wf
  | .rem g _ _ _ _ => g.wf
  | .and g _ _ _ => g.wf
  | .or g _ _ _ => g.wf
  | .xor g _ _ _ => g.wf
  | .andn g _ _ _ => g.wf
  | .shl g _ _ _ => g.wf
  | .shr g _ _ _ => g.wf
  | .sra g _ _ _ => g.wf
  | .rot g _ _ _ => g.wf
  | .min g _ _ _ => g.wf
  | .max g _ _ _ => g.wf
  | .abs g _ _ => g.wf
  | .clz g _ _ => g.wf
  | .ctz g _ _ => g.wf
  | .popc g _ _ => g.wf
  | .cmp g _ _ _ _ => g.wf
  | .cmpi g _ _ _ _ => g.wf
  | .sel g _ _ _ _ => g.wf
  | .mov g _ _ => g.wf
  | .movi g _ _ => g.wf
  | .ext g _ _ _ pos lenm1 => g.wf && decide (pos.toNat + lenm1.toNat + 1 ≤ 64)
  | .ins g _ _ pos lenm1 => g.wf && decide (pos.toNat + lenm1.toNat + 1 ≤ 64)
  | .ldl g _ _ _ => g.wf
  | .stl g _ _ _ => g.wf
  | .ldx g _ _ _ _ => g.wf
  | .stx g _ _ _ _ => g.wf
  | .fence g _ => g.wf
  | .copy g m _ _ _ n ws => g.wf && m.wf && decide (n ≠ 0) && (!m.fmt || decide (n.toNat % 128 = 0)) && wsOk ws
  | .gather g _ _ _ ws => g.wf && wsOk ws
  | .scatter g _ _ _ ws => g.wf && wsOk ws
  | .scatadd g _ _ _ ws => g.wf && wsOk ws
  | .bankopFill g _ _ _ ws => g.wf && wsOk ws
  | .bankopAxpy g _ _ _ ws => g.wf && wsOk ws
  | .bankopCvt g _ _ _ ws => g.wf && wsOk ws
  | .bankopSum g _ _ _ ws => g.wf && wsOk ws
  | .dtload g _ _ _ ws => g.wf && wsOk ws
  | .aadd g f _ => g.wf && f.wf
  | .aand g f _ => g.wf && f.wf
  | .acas g _ _ => g.wf
  | .afadd g f _ _ => g.wf && f.wf
  | .afmax g f _ => g.wf && f.wf
  | .afmin g f _ => g.wf && f.wf
  | .amax g f _ => g.wf && f.wf
  | .amin g f _ => g.wf && f.wf
  | .aor g f _ => g.wf && f.wf
  | .aswap g f _ => g.wf && f.wf
  | .axor g f _ => g.wf && f.wf
  | .fadd g _ _ _ _ _ => g.wf
  | .fsub g _ _ _ _ _ => g.wf
  | .fmul g _ _ _ _ _ => g.wf
  | .ffma g _ _ _ _ _ _ => g.wf
  | .fdiv g _ _ _ _ _ => g.wf
  | .fsqrt g _ _ _ _ => g.wf
  | .fmin g _ _ _ => g.wf
  | .fmax g _ _ _ => g.wf
  | .fcmp g _ _ _ _ => g.wf
  | .fsgn g op _ _ b => g.wf && (decide (op ≠ .abs) || decide (b.ix = 0))
  | .cvt g _ _ _ _ => g.wf
  | .fsfu g _ _ _ _ _ => g.wf
  | .vadd h _ _ _ _ _ => h.wf
  | .vsub h _ _ _ _ _ => h.wf
  | .vmul h _ _ _ _ _ => h.wf
  | .vfma h _ _ _ _ _ => h.wf
  | .vmin h _ _ _ => h.wf
  | .vmax h _ _ _ => h.wf
  | .vand h _ _ _ => h.wf
  | .vor h _ _ _ => h.wf
  | .vxor h _ _ _ => h.wf
  | .vshl h _ _ _ => h.wf
  | .vshr h _ _ _ => h.wf
  | .vcmp h _ _ _ _ => h.wf
  | .vsel h _ _ _ => h.wf && decide (h.msk ≠ 0)
  | .vcvt h _ _ _ _ => h.wf
  | .vld h _ q rm sat _ _ _ => h.wf && (q || (decide (rm = .rne) && !sat))
  | .vst h _ _ _ _ => h.wf
  | .vldt h _ _ _ _ => h.wf
  | .vbcast h _ _ _ _ => h.wf
  | .vred h _ _ _ _ => h.wf
  | .vscan h _ _ _ _ => h.wf
  | .vperm h _ _ _ => h.wf
  | .vcomp h _ _ => h.wf && decide (h.msk ≠ 0)
  | .vexpd h _ _ => h.wf && decide (h.msk ≠ 0)
  | .viota h _ _ => h.wf
  | .vsfu h _ _ _ _ => h.wf
  | .vquant g _ _ _ _ => g.wf
  | .vdeq h _ _ _ _ _ _ => h.wf
  | .vmovs g _ _ _ => g.wf
  | .mcfg g _ => g.wf
  | .mma g _ _ _ _ _ _ ws => g.wf && wsOk ws
  | .mdrain g _ _ _ ws => g.wf && wsOk ws
  | .mmap g _ _ _ ws => g.wf && wsOk ws
  | .mclr g _ _ ws => g.wf && wsOk ws
  | .xreduce g _ _ _ _ ws => g.wf && wsOk ws
  | .xgather g _ _ _ _ ws => g.wf && wsOk ws
  | .xbcast g _ _ _ _ ws => g.wf && wsOk ws
  | .xmemberCreate g _ _ _ => g.wf
  | .xmemberShrink g _ _ _ => g.wf
  | .xmemberJoin g _ _ _ => g.wf
  | .xmemberLeave g _ _ => g.wf
  | .xlog g _ _ _ _ ws => g.wf && wsOk ws
  | .semwait g _ _ _ => g.wf
  | .semsig g _ i => g.wf && decide (i ≠ 0)
  | .semset g _ v => g.wf && (match v with | .i14 _ => true | .x32 x => decide (x.toNat ≤ 65535))
  | .semrd g _ _ => g.wf
  | .qcfg g _ _ _ => g.wf
  | .qcount g _ _ => g.wf
  | .msend g _ _ pl => g.wf && decide (pl.length ≤ 4)
  | .spawn g _ _ => g.wf
  | .sync g => g.wf
  | .done g => g.wf
  | .launch g _ _ _ _ ws => g.wf && wsOk ws
  | .genter g _ => g.wf
  | .gleave g => g.wf
  | .gbar g => g.wf
  | .gsize g _ => g.wf
  | .cmake g _ _ => g.wf
  | .csend g => g.wf
  | .cstop g _ k => g.wf && decide (k.toNat < 40)
  | .cins g _ _ => g.wf
  | .cdel g n => g.wf && decide (n ≠ 0)
  | .csetp g k _ => g.wf && decide (k ≠ 0)
  | .csplit g _ _ => g.wf
  | .cdivert g _ => g.wf
  | .vtopk g _ _ _ => g.wf
  | .instructionPair .. => false
  | .repack .. => false
  | .waitTimeout .. => false
  | .trapMessageStart .. => false
  | .messageStart .. => false
  | .messageDrop .. => false
  | .remotePush .. => false
  | .tailWriteSeen .. => false
  | .threadPlacement .. => false
  | .launchCompletion .. => false
  | .continuationStart .. => false
  | .periodicSeek .. => false
  | .seekProbe .. => false
  | .dequeTake .. => false
  | .inc .. => false
  | .incAcknowledgement .. => false
  | .hdr .. => false
  | .dec .. => false
  | .decPrime .. => false
  | .test .. => false
  | .testReply .. => false
  | .decReply .. => false
  | .genterAtBank .. => false
  | .genterReply .. => false
  | .genterWithdrawal .. => false
  | .gleaveAtBank .. => false
  | .gbarArrival .. => false
  | .gsizeAtBank .. => false
  | .atomicAtOwner .. => false
  | .readAtOwner .. => false
  | .writeAtOwner .. => false
  | .translationWalk .. => false
  | .landName .. => false
  | .sfuResult .. => false
  | .slotrdAtTarget .. => false
  | .slotwrAtTarget .. => false
  | .slotkillAtTarget .. => false
  | .clusterFifoEntry .. => false
  | .copyTransfer .. => false
  | .gatherExecute .. => false
  | .scatterExecute .. => false
  | .scataddExecute .. => false
  | .bankopExecute .. => false
  | .dtloadExecute .. => false
  | .launchAppend .. => false
  | .mmaExecute .. => false
  | .mmapExecute .. => false
  | .mdrainExecute .. => false
  | .mdrainInboxTimeout .. => false
  | .mclrExecute .. => false
  | .xreduceExecute .. => false
  | .xgatherExecute .. => false
  | .xbcastExecute .. => false
  | .collectiveDeadline .. => false
  | .xlogExecute .. => false
  | .membershipChange .. => false
  | .membershipAgreementTimeout .. => false
  | .capsuleEntry .. => false
  | .capsuleStopStart .. => false
  | .bankStop .. => false
  | .homeStop .. => false
  | .egressArrival .. => false
  | .sinkStop .. => false
  | .capsuleWaitTimeout .. => false
  | .restartEntryStart .. => false
  | .launchWatchdogExpiry .. => false
  | .queueStallWatchdog .. => false
  | .currentLimiterEngage .. => false
  | .currentLimiterRelease .. => false
  | .uncorrectableError .. => false
  | .scrub .. => false
  | .coreOffline .. => false
  | .flitReceived .. => false
  | .replayTimeout .. => false
  | .portDown .. => false
  | .hostRead .. => false
  | .hostWrite .. => false
  | .mchkstatWrite .. => false
  | .machineCheckReport .. => false
  | .getVersion .. => false
  | .getCapabilities .. => false
  | .negotiateAlgorithms .. => false
  | .getDigests .. => false
  | .getCertificate .. => false
  | .challenge .. => false
  | .getMeasurements .. => false
  | .spdmSessionRequest .. => false
  | .deviceReset .. => false
  | .messageArrival .. => false
  | .portRetrain .. => false
  | .counterWrap .. => false
  | .correctedError .. => false

/-- An op that may stand in pair slot 0 (R327): S-class, not excluded, a 64-bit word without extension. -/
def isPairS : Instr → Bool
  | .nop _ pad => !pad
  | .b .. => false
  | .bl .. => false
  | .bx .. => false
  | .ret .. => false
  | .loop .. => false
  | .lexit .. => false
  | .trap .. => false
  | .eret .. => false
  | .sread _ _ _ => true
  | .swrite _ _ _ => true
  | .rgn .. => false
  | .rgnend .. => false
  | .ifence .. => false
  | .yield .. => false
  | .tune .. => false
  | .resize .. => false
  | .shape .. => false
  | .width .. => false
  | .fset _ _ => true
  | .fclr _ _ => true
  | .ftest _ _ _ => true
  | .pdrainDrain .. => false
  | .pdrainDrainPart .. => false
  | .pdrainSave .. => false
  | .pdrainResume .. => false
  | .preset .. => false
  | .presetKeep .. => false
  | .slotrd .. => false
  | .slotwr .. => false
  | .slotkill .. => false
  | .tlbinvPage .. => false
  | .tlbinvRange .. => false
  | .tlbinvCtx .. => false
  | .tlbinvAll .. => false
  | .wdset .. => false
  | .pmcfg .. => false
  | .pmrd .. => false
  | .tracerd .. => false
  | .add _ _ _ _ => true
  | .addi _ _ _ imm => imm.is14
  | .sub _ _ _ _ => true
  | .mul _ _ _ _ => true
  | .mulh _ _ _ _ => true
  | .madd _ _ _ _ _ => true
  | .div _ _ _ _ _ => true
  | .rem _ _ _ _ _ => true
  | .and _ _ _ _ => true
  | .or _ _ _ _ => true
  | .xor _ _ _ _ => true
  | .andn _ _ _ _ => true
  | .shl _ _ _ _ => true
  | .shr _ _ _ _ => true
  | .sra _ _ _ _ => true
  | .rot _ _ _ _ => true
  | .min _ _ _ _ => true
  | .max _ _ _ _ => true
  | .abs _ _ _ => true
  | .clz _ _ _ => true
  | .ctz _ _ _ => true
  | .popc _ _ _ => true
  | .cmp _ _ _ _ _ => true
  | .cmpi _ _ _ _ imm => imm.is11
  | .sel _ _ _ _ _ => true
  | .mov _ _ _ => true
  | .movi _ _ imm => imm.is14
  | .ext _ _ _ _ _ _ => true
  | .ins _ _ _ _ _ => true
  | .ldl _ _ _ _ => true
  | .stl _ _ _ _ => true
  | .ldx _ _ _ _ _ => true
  | .stx _ _ _ _ _ => true
  | .fence _ _ => true
  | .copy .. => false
  | .gather _ _ _ _ ws => ws.isNone
  | .scatter _ _ _ _ ws => ws.isNone
  | .scatadd _ _ _ _ ws => ws.isNone
  | .bankopFill _ _ _ _ ws => ws.isNone
  | .bankopAxpy _ _ _ _ ws => ws.isNone
  | .bankopCvt _ _ _ _ ws => ws.isNone
  | .bankopSum _ _ _ _ ws => ws.isNone
  | .dtload _ _ _ _ ws => ws.isNone
  | .aadd _ _ _ => true
  | .aand _ _ _ => true
  | .acas _ _ _ => true
  | .afadd _ _ _ _ => true
  | .afmax _ _ _ => true
  | .afmin _ _ _ => true
  | .amax _ _ _ => true
  | .amin _ _ _ => true
  | .aor _ _ _ => true
  | .aswap _ _ _ => true
  | .axor _ _ _ => true
  | .fadd _ _ _ _ _ _ => true
  | .fsub _ _ _ _ _ _ => true
  | .fmul _ _ _ _ _ _ => true
  | .ffma _ _ _ _ _ _ _ => true
  | .fdiv _ _ _ _ _ _ => true
  | .fsqrt _ _ _ _ _ => true
  | .fmin _ _ _ _ => true
  | .fmax _ _ _ _ => true
  | .fcmp _ _ _ _ _ => true
  | .fsgn _ _ _ _ _ => true
  | .cvt _ _ _ _ _ => true
  | .fsfu _ _ _ _ _ _ => true
  | .vadd .. => false
  | .vsub .. => false
  | .vmul .. => false
  | .vfma .. => false
  | .vmin .. => false
  | .vmax .. => false
  | .vand .. => false
  | .vor .. => false
  | .vxor .. => false
  | .vshl .. => false
  | .vshr .. => false
  | .vcmp .. => false
  | .vsel .. => false
  | .vcvt .. => false
  | .vld .. => false
  | .vst .. => false
  | .vldt .. => false
  | .vbcast .. => false
  | .vred .. => false
  | .vscan .. => false
  | .vperm .. => false
  | .vcomp .. => false
  | .vexpd .. => false
  | .viota .. => false
  | .vsfu .. => false
  | .vquant .. => false
  | .vdeq .. => false
  | .vmovs .. => false
  | .mcfg .. => false
  | .mma .. => false
  | .mdrain .. => false
  | .mmap .. => false
  | .mclr .. => false
  | .xreduce .. => false
  | .xgather .. => false
  | .xbcast .. => false
  | .xmemberCreate .. => false
  | .xmemberShrink .. => false
  | .xmemberJoin .. => false
  | .xmemberLeave .. => false
  | .xlog .. => false
  | .semwait _ _ _ _ => true
  | .semsig _ _ _ => true
  | .semset _ _ v => v.is14
  | .semrd _ _ _ => true
  | .qcfg _ _ _ _ => true
  | .qcount _ _ _ => true
  | .msend _ _ _ pl => pl.isEmpty
  | .spawn .. => false
  | .sync .. => false
  | .done .. => false
  | .launch _ _ _ _ _ ws => ws.isNone
  | .genter _ _ => true
  | .gleave _ => true
  | .gbar _ => true
  | .gsize _ _ => true
  | .cmake _ _ _ => true
  | .csend _ => true
  | .cstop _ _ _ => true
  | .cins _ _ _ => true
  | .cdel _ _ => true
  | .csetp _ _ _ => true
  | .csplit _ _ _ => true
  | .cdivert _ _ => true
  | .vtopk .. => false
  | .instructionPair .. => false
  | .repack .. => false
  | .waitTimeout .. => false
  | .trapMessageStart .. => false
  | .messageStart .. => false
  | .messageDrop .. => false
  | .remotePush .. => false
  | .tailWriteSeen .. => false
  | .threadPlacement .. => false
  | .launchCompletion .. => false
  | .continuationStart .. => false
  | .periodicSeek .. => false
  | .seekProbe .. => false
  | .dequeTake .. => false
  | .inc .. => false
  | .incAcknowledgement .. => false
  | .hdr .. => false
  | .dec .. => false
  | .decPrime .. => false
  | .test .. => false
  | .testReply .. => false
  | .decReply .. => false
  | .genterAtBank .. => false
  | .genterReply .. => false
  | .genterWithdrawal .. => false
  | .gleaveAtBank .. => false
  | .gbarArrival .. => false
  | .gsizeAtBank .. => false
  | .atomicAtOwner .. => false
  | .readAtOwner .. => false
  | .writeAtOwner .. => false
  | .translationWalk .. => false
  | .landName .. => false
  | .sfuResult .. => false
  | .slotrdAtTarget .. => false
  | .slotwrAtTarget .. => false
  | .slotkillAtTarget .. => false
  | .clusterFifoEntry .. => false
  | .copyTransfer .. => false
  | .gatherExecute .. => false
  | .scatterExecute .. => false
  | .scataddExecute .. => false
  | .bankopExecute .. => false
  | .dtloadExecute .. => false
  | .launchAppend .. => false
  | .mmaExecute .. => false
  | .mmapExecute .. => false
  | .mdrainExecute .. => false
  | .mdrainInboxTimeout .. => false
  | .mclrExecute .. => false
  | .xreduceExecute .. => false
  | .xgatherExecute .. => false
  | .xbcastExecute .. => false
  | .collectiveDeadline .. => false
  | .xlogExecute .. => false
  | .membershipChange .. => false
  | .membershipAgreementTimeout .. => false
  | .capsuleEntry .. => false
  | .capsuleStopStart .. => false
  | .bankStop .. => false
  | .homeStop .. => false
  | .egressArrival .. => false
  | .sinkStop .. => false
  | .capsuleWaitTimeout .. => false
  | .restartEntryStart .. => false
  | .launchWatchdogExpiry .. => false
  | .queueStallWatchdog .. => false
  | .currentLimiterEngage .. => false
  | .currentLimiterRelease .. => false
  | .uncorrectableError .. => false
  | .scrub .. => false
  | .coreOffline .. => false
  | .flitReceived .. => false
  | .replayTimeout .. => false
  | .portDown .. => false
  | .hostRead .. => false
  | .hostWrite .. => false
  | .mchkstatWrite .. => false
  | .machineCheckReport .. => false
  | .getVersion .. => false
  | .getCapabilities .. => false
  | .negotiateAlgorithms .. => false
  | .getDigests .. => false
  | .getCertificate .. => false
  | .challenge .. => false
  | .getMeasurements .. => false
  | .spdmSessionRequest .. => false
  | .deviceReset .. => false
  | .messageArrival .. => false
  | .portRetrain .. => false
  | .counterWrap .. => false
  | .correctedError .. => false

/-- An op that may stand in pair slot 1 (R327): V-class, a 64-bit word without extension. -/
def isPairV : Instr → Bool
  | .nop .. => false
  | .b .. => false
  | .bl .. => false
  | .bx .. => false
  | .ret .. => false
  | .loop .. => false
  | .lexit .. => false
  | .trap .. => false
  | .eret .. => false
  | .sread .. => false
  | .swrite .. => false
  | .rgn .. => false
  | .rgnend .. => false
  | .ifence .. => false
  | .yield .. => false
  | .tune .. => false
  | .resize .. => false
  | .shape .. => false
  | .width .. => false
  | .fset .. => false
  | .fclr .. => false
  | .ftest .. => false
  | .pdrainDrain .. => false
  | .pdrainDrainPart .. => false
  | .pdrainSave .. => false
  | .pdrainResume .. => false
  | .preset .. => false
  | .presetKeep .. => false
  | .slotrd .. => false
  | .slotwr .. => false
  | .slotkill .. => false
  | .tlbinvPage .. => false
  | .tlbinvRange .. => false
  | .tlbinvCtx .. => false
  | .tlbinvAll .. => false
  | .wdset .. => false
  | .pmcfg .. => false
  | .pmrd .. => false
  | .tracerd .. => false
  | .add .. => false
  | .addi .. => false
  | .sub .. => false
  | .mul .. => false
  | .mulh .. => false
  | .madd .. => false
  | .div .. => false
  | .rem .. => false
  | .and .. => false
  | .or .. => false
  | .xor .. => false
  | .andn .. => false
  | .shl .. => false
  | .shr .. => false
  | .sra .. => false
  | .rot .. => false
  | .min .. => false
  | .max .. => false
  | .abs .. => false
  | .clz .. => false
  | .ctz .. => false
  | .popc .. => false
  | .cmp .. => false
  | .cmpi .. => false
  | .sel .. => false
  | .mov .. => false
  | .movi .. => false
  | .ext .. => false
  | .ins .. => false
  | .ldl .. => false
  | .stl .. => false
  | .ldx .. => false
  | .stx .. => false
  | .fence .. => false
  | .copy .. => false
  | .gather .. => false
  | .scatter .. => false
  | .scatadd .. => false
  | .bankopFill .. => false
  | .bankopAxpy .. => false
  | .bankopCvt .. => false
  | .bankopSum .. => false
  | .dtload .. => false
  | .aadd .. => false
  | .aand .. => false
  | .acas .. => false
  | .afadd .. => false
  | .afmax .. => false
  | .afmin .. => false
  | .amax .. => false
  | .amin .. => false
  | .aor .. => false
  | .aswap .. => false
  | .axor .. => false
  | .fadd .. => false
  | .fsub .. => false
  | .fmul .. => false
  | .ffma .. => false
  | .fdiv .. => false
  | .fsqrt .. => false
  | .fmin .. => false
  | .fmax .. => false
  | .fcmp .. => false
  | .fsgn .. => false
  | .cvt .. => false
  | .fsfu .. => false
  | .vadd _ _ _ _ _ _ => true
  | .vsub _ _ _ _ _ _ => true
  | .vmul _ _ _ _ _ _ => true
  | .vfma _ _ _ _ _ _ => true
  | .vmin _ _ _ _ => true
  | .vmax _ _ _ _ => true
  | .vand _ _ _ _ => true
  | .vor _ _ _ _ => true
  | .vxor _ _ _ _ => true
  | .vshl _ _ _ _ => true
  | .vshr _ _ _ _ => true
  | .vcmp _ _ _ _ _ => true
  | .vsel _ _ _ _ => true
  | .vcvt _ _ _ _ _ => true
  | .vld _ _ _ _ _ _ _ _ => true
  | .vst _ _ _ _ _ => true
  | .vldt _ _ _ _ _ => true
  | .vbcast _ _ _ _ _ => true
  | .vred _ _ _ _ _ => true
  | .vscan _ _ _ _ _ => true
  | .vperm _ _ _ _ => true
  | .vcomp _ _ _ => true
  | .vexpd _ _ _ => true
  | .viota _ _ _ => true
  | .vsfu _ _ _ _ _ => true
  | .vquant _ _ _ _ _ => true
  | .vdeq _ _ _ _ _ _ _ => true
  | .vmovs _ _ _ _ => true
  | .mcfg _ src => src.isName
  | .mma _ _ _ _ _ _ _ ws => ws.isNone
  | .mdrain _ _ _ _ ws => ws.isNone
  | .mmap _ _ _ _ ws => ws.isNone
  | .mclr _ _ _ ws => ws.isNone
  | .xreduce _ _ _ _ _ ws => ws.isNone
  | .xgather _ _ _ _ _ ws => ws.isNone
  | .xbcast _ _ _ _ _ ws => ws.isNone
  | .xmemberCreate _ _ _ _ => true
  | .xmemberShrink _ _ _ _ => true
  | .xmemberJoin _ _ _ _ => true
  | .xmemberLeave _ _ _ => true
  | .xlog _ _ _ _ _ ws => ws.isNone
  | .semwait .. => false
  | .semsig .. => false
  | .semset .. => false
  | .semrd .. => false
  | .qcfg .. => false
  | .qcount .. => false
  | .msend .. => false
  | .spawn .. => false
  | .sync .. => false
  | .done .. => false
  | .launch .. => false
  | .genter .. => false
  | .gleave .. => false
  | .gbar .. => false
  | .gsize .. => false
  | .cmake .. => false
  | .csend .. => false
  | .cstop .. => false
  | .cins .. => false
  | .cdel .. => false
  | .csetp .. => false
  | .csplit .. => false
  | .cdivert .. => false
  | .vtopk .. => false
  | .instructionPair .. => false
  | .repack .. => false
  | .waitTimeout .. => false
  | .trapMessageStart .. => false
  | .messageStart .. => false
  | .messageDrop .. => false
  | .remotePush .. => false
  | .tailWriteSeen .. => false
  | .threadPlacement .. => false
  | .launchCompletion .. => false
  | .continuationStart .. => false
  | .periodicSeek .. => false
  | .seekProbe .. => false
  | .dequeTake .. => false
  | .inc .. => false
  | .incAcknowledgement .. => false
  | .hdr .. => false
  | .dec .. => false
  | .decPrime .. => false
  | .test .. => false
  | .testReply .. => false
  | .decReply .. => false
  | .genterAtBank .. => false
  | .genterReply .. => false
  | .genterWithdrawal .. => false
  | .gleaveAtBank .. => false
  | .gbarArrival .. => false
  | .gsizeAtBank .. => false
  | .atomicAtOwner .. => false
  | .readAtOwner .. => false
  | .writeAtOwner .. => false
  | .translationWalk .. => false
  | .landName .. => false
  | .sfuResult .. => false
  | .slotrdAtTarget .. => false
  | .slotwrAtTarget .. => false
  | .slotkillAtTarget .. => false
  | .clusterFifoEntry .. => false
  | .copyTransfer .. => false
  | .gatherExecute .. => false
  | .scatterExecute .. => false
  | .scataddExecute .. => false
  | .bankopExecute .. => false
  | .dtloadExecute .. => false
  | .launchAppend .. => false
  | .mmaExecute .. => false
  | .mmapExecute .. => false
  | .mdrainExecute .. => false
  | .mdrainInboxTimeout .. => false
  | .mclrExecute .. => false
  | .xreduceExecute .. => false
  | .xgatherExecute .. => false
  | .xbcastExecute .. => false
  | .collectiveDeadline .. => false
  | .xlogExecute .. => false
  | .membershipChange .. => false
  | .membershipAgreementTimeout .. => false
  | .capsuleEntry .. => false
  | .capsuleStopStart .. => false
  | .bankStop .. => false
  | .homeStop .. => false
  | .egressArrival .. => false
  | .sinkStop .. => false
  | .capsuleWaitTimeout .. => false
  | .restartEntryStart .. => false
  | .launchWatchdogExpiry .. => false
  | .queueStallWatchdog .. => false
  | .currentLimiterEngage .. => false
  | .currentLimiterRelease .. => false
  | .uncorrectableError .. => false
  | .scrub .. => false
  | .coreOffline .. => false
  | .flitReceived .. => false
  | .replayTimeout .. => false
  | .portDown .. => false
  | .hostRead .. => false
  | .hostWrite .. => false
  | .mchkstatWrite .. => false
  | .machineCheckReport .. => false
  | .getVersion .. => false
  | .getCapabilities .. => false
  | .negotiateAlgorithms .. => false
  | .getDigests .. => false
  | .getCertificate .. => false
  | .challenge .. => false
  | .getMeasurements .. => false
  | .spdmSessionRequest .. => false
  | .deviceReset .. => false
  | .messageArrival .. => false
  | .portRetrain .. => false
  | .counterWrap .. => false
  | .correctedError .. => false

/-- The device events, which no instruction word encodes. -/
def isEvent : Instr → Bool
  | .nop .. => false
  | .b .. => false
  | .bl .. => false
  | .bx .. => false
  | .ret .. => false
  | .loop .. => false
  | .lexit .. => false
  | .trap .. => false
  | .eret .. => false
  | .sread .. => false
  | .swrite .. => false
  | .rgn .. => false
  | .rgnend .. => false
  | .ifence .. => false
  | .yield .. => false
  | .tune .. => false
  | .resize .. => false
  | .shape .. => false
  | .width .. => false
  | .fset .. => false
  | .fclr .. => false
  | .ftest .. => false
  | .pdrainDrain .. => false
  | .pdrainDrainPart .. => false
  | .pdrainSave .. => false
  | .pdrainResume .. => false
  | .preset .. => false
  | .presetKeep .. => false
  | .slotrd .. => false
  | .slotwr .. => false
  | .slotkill .. => false
  | .tlbinvPage .. => false
  | .tlbinvRange .. => false
  | .tlbinvCtx .. => false
  | .tlbinvAll .. => false
  | .wdset .. => false
  | .pmcfg .. => false
  | .pmrd .. => false
  | .tracerd .. => false
  | .add .. => false
  | .addi .. => false
  | .sub .. => false
  | .mul .. => false
  | .mulh .. => false
  | .madd .. => false
  | .div .. => false
  | .rem .. => false
  | .and .. => false
  | .or .. => false
  | .xor .. => false
  | .andn .. => false
  | .shl .. => false
  | .shr .. => false
  | .sra .. => false
  | .rot .. => false
  | .min .. => false
  | .max .. => false
  | .abs .. => false
  | .clz .. => false
  | .ctz .. => false
  | .popc .. => false
  | .cmp .. => false
  | .cmpi .. => false
  | .sel .. => false
  | .mov .. => false
  | .movi .. => false
  | .ext .. => false
  | .ins .. => false
  | .ldl .. => false
  | .stl .. => false
  | .ldx .. => false
  | .stx .. => false
  | .fence .. => false
  | .copy .. => false
  | .gather .. => false
  | .scatter .. => false
  | .scatadd .. => false
  | .bankopFill .. => false
  | .bankopAxpy .. => false
  | .bankopCvt .. => false
  | .bankopSum .. => false
  | .dtload .. => false
  | .aadd .. => false
  | .aand .. => false
  | .acas .. => false
  | .afadd .. => false
  | .afmax .. => false
  | .afmin .. => false
  | .amax .. => false
  | .amin .. => false
  | .aor .. => false
  | .aswap .. => false
  | .axor .. => false
  | .fadd .. => false
  | .fsub .. => false
  | .fmul .. => false
  | .ffma .. => false
  | .fdiv .. => false
  | .fsqrt .. => false
  | .fmin .. => false
  | .fmax .. => false
  | .fcmp .. => false
  | .fsgn .. => false
  | .cvt .. => false
  | .fsfu .. => false
  | .vadd .. => false
  | .vsub .. => false
  | .vmul .. => false
  | .vfma .. => false
  | .vmin .. => false
  | .vmax .. => false
  | .vand .. => false
  | .vor .. => false
  | .vxor .. => false
  | .vshl .. => false
  | .vshr .. => false
  | .vcmp .. => false
  | .vsel .. => false
  | .vcvt .. => false
  | .vld .. => false
  | .vst .. => false
  | .vldt .. => false
  | .vbcast .. => false
  | .vred .. => false
  | .vscan .. => false
  | .vperm .. => false
  | .vcomp .. => false
  | .vexpd .. => false
  | .viota .. => false
  | .vsfu .. => false
  | .vquant .. => false
  | .vdeq .. => false
  | .vmovs .. => false
  | .mcfg .. => false
  | .mma .. => false
  | .mdrain .. => false
  | .mmap .. => false
  | .mclr .. => false
  | .xreduce .. => false
  | .xgather .. => false
  | .xbcast .. => false
  | .xmemberCreate .. => false
  | .xmemberShrink .. => false
  | .xmemberJoin .. => false
  | .xmemberLeave .. => false
  | .xlog .. => false
  | .semwait .. => false
  | .semsig .. => false
  | .semset .. => false
  | .semrd .. => false
  | .qcfg .. => false
  | .qcount .. => false
  | .msend .. => false
  | .spawn .. => false
  | .sync .. => false
  | .done .. => false
  | .launch .. => false
  | .genter .. => false
  | .gleave .. => false
  | .gbar .. => false
  | .gsize .. => false
  | .cmake .. => false
  | .csend .. => false
  | .cstop .. => false
  | .cins .. => false
  | .cdel .. => false
  | .csetp .. => false
  | .csplit .. => false
  | .cdivert .. => false
  | .vtopk .. => false
  | .instructionPair .. => false
  | .repack .. => true
  | .waitTimeout .. => true
  | .trapMessageStart .. => true
  | .messageStart .. => true
  | .messageDrop .. => true
  | .remotePush .. => true
  | .tailWriteSeen .. => true
  | .threadPlacement .. => true
  | .launchCompletion .. => true
  | .continuationStart .. => true
  | .periodicSeek .. => true
  | .seekProbe .. => true
  | .dequeTake .. => true
  | .inc .. => true
  | .incAcknowledgement .. => true
  | .hdr .. => true
  | .dec .. => true
  | .decPrime .. => true
  | .test .. => true
  | .testReply .. => true
  | .decReply .. => true
  | .genterAtBank .. => true
  | .genterReply .. => true
  | .genterWithdrawal .. => true
  | .gleaveAtBank .. => true
  | .gbarArrival .. => true
  | .gsizeAtBank .. => true
  | .atomicAtOwner .. => true
  | .readAtOwner .. => true
  | .writeAtOwner .. => true
  | .translationWalk .. => true
  | .landName .. => true
  | .sfuResult .. => true
  | .slotrdAtTarget .. => true
  | .slotwrAtTarget .. => true
  | .slotkillAtTarget .. => true
  | .clusterFifoEntry .. => true
  | .copyTransfer .. => true
  | .gatherExecute .. => true
  | .scatterExecute .. => true
  | .scataddExecute .. => true
  | .bankopExecute .. => true
  | .dtloadExecute .. => true
  | .launchAppend .. => true
  | .mmaExecute .. => true
  | .mmapExecute .. => true
  | .mdrainExecute .. => true
  | .mdrainInboxTimeout .. => true
  | .mclrExecute .. => true
  | .xreduceExecute .. => true
  | .xgatherExecute .. => true
  | .xbcastExecute .. => true
  | .collectiveDeadline .. => true
  | .xlogExecute .. => true
  | .membershipChange .. => true
  | .membershipAgreementTimeout .. => true
  | .capsuleEntry .. => true
  | .capsuleStopStart .. => true
  | .bankStop .. => true
  | .homeStop .. => true
  | .egressArrival .. => true
  | .sinkStop .. => true
  | .capsuleWaitTimeout .. => true
  | .restartEntryStart .. => true
  | .launchWatchdogExpiry .. => true
  | .queueStallWatchdog .. => true
  | .currentLimiterEngage .. => true
  | .currentLimiterRelease .. => true
  | .uncorrectableError .. => true
  | .scrub .. => true
  | .coreOffline .. => true
  | .flitReceived .. => true
  | .replayTimeout .. => true
  | .portDown .. => true
  | .hostRead .. => true
  | .hostWrite .. => true
  | .mchkstatWrite .. => true
  | .machineCheckReport .. => true
  | .getVersion .. => true
  | .getCapabilities .. => true
  | .negotiateAlgorithms .. => true
  | .getDigests .. => true
  | .getCertificate .. => true
  | .challenge .. => true
  | .getMeasurements .. => true
  | .spdmSessionRequest .. => true
  | .deviceReset .. => true
  | .messageArrival .. => true
  | .portRetrain .. => true
  | .counterWrap .. => true
  | .correctedError .. => true

/-- Well-formedness: of an op, of a pair (R327), of an event. -/
def Instr.wf (i : Instr) : Bool :=
  match i with
  | .instructionPair s v => wfOp s && wfOp v && isPairS s && isPairV v
  | i => wfOp i || isEvent i

end Sys2Proof
end

