-- ==== Sys2Proof/Decode.lean ====
section
/-! DEFINITION. The decoder and the encoder of instruction words (spec/15_encoding.md and the reference chapters).
Decoding is total on any bytes and refuses by name; each refusal has the ILLEGAL_OP subcode of R331. -/

namespace Sys2Proof

/-- Why bytes are no instruction, in the order of R331. -/
inductive DecodeErr where
  /-- Length code 11, or too few bytes: subcode 2. -/
  | misframed
  /-- An illegal form for the length: subcode 1. -/
  | badForm
  /-- A pair with bits 67:64 nonzero: subcode 2. -/
  | pairLowBits
  /-- An unassigned opcode: subcode 1. -/
  | unassigned
  /-- Wrong class or excluded op in a pair slot: subcode 3. -/
  | pairClass
  /-- Length, form, extension or a field that the opcode's entry does not allow: subcode 1. -/
  | badField
  deriving DecidableEq, Repr

/-- The ILLEGAL_OP subcode of a refusal (R331). -/
def DecodeErr.subcode : DecodeErr → Nat
  | .misframed => 2
  | .badForm => 1
  | .pairLowBits => 2
  | .unassigned => 1
  | .pairClass => 3
  | .badField => 1

/-- The fields of an op slot (R322), bits 63:4 of slot 0. -/
structure RawOp where
  imm : BitVec 14
  gn  : Bool
  g   : Ix
  bm  : Bool
  b   : Ix
  am  : Bool
  a   : Ix
  dm  : Bool
  d   : Ix
  opc : BitVec 10
  deriving DecidableEq, Repr

/-- The extension of a word (R326). -/
inductive Ext where
  | none
  | x32 (v : BitVec 32)
  | x64 (v : BitVec 64)
  | ws (w : Ws)
  | wsx32 (w : Ws) (v : BitVec 32)
  deriving DecidableEq, Repr

/-- The 60 bits of an op slot (R322). -/
def RawOp.pack (r : RawOp) : BitVec 60 :=
  r.imm ++ BitVec.ofBool r.gn ++ r.g ++ BitVec.ofBool r.bm ++ r.b ++ BitVec.ofBool r.am ++ r.a ++
    BitVec.ofBool r.dm ++ r.d ++ r.opc

/-- The op slot that 60 bits hold (R322). -/
def RawOp.unpack (w : BitVec 60) : RawOp where
  imm := w.extractLsb' 46 14
  gn := w.getLsbD 45
  g := w.extractLsb' 37 8
  bm := w.getLsbD 36
  b := w.extractLsb' 28 8
  am := w.getLsbD 27
  a := w.extractLsb' 19 8
  dm := w.getLsbD 18
  d := w.extractLsb' 10 8
  opc := w.extractLsb' 0 10

/-- The 32 bits of WS32 (R326). -/
def Ws.pack (w : Ws) : BitVec 32 := w.sinc ++ w.ssem ++ w.wthr ++ w.wsem

/-- The WS32 extension that 32 bits hold (R326). -/
def Ws.unpack (v : BitVec 32) : Ws where
  wsem := v.extractLsb' 0 8
  wthr := v.extractLsb' 8 12
  ssem := v.extractLsb' 20 8
  sinc := v.extractLsb' 28 4

/-! Codes of the small fields. -/

/-- R115. -/
def Rm.code : Rm → BitVec 2
  | .rne => 0 | .rtz => 1 | .rdn => 2 | .rup => 3
/-- R115. -/
def Rm.ofCode (c : BitVec 2) : Rm :=
  match c.toNat with
  | 0 => .rne | 1 => .rtz | 2 => .rdn | _ => .rup
/-- R351. -/
def Cc.code : Cc → BitVec 3
  | .eq => 0 | .ne => 1 | .lt => 2 | .le => 3 | .gt => 4 | .ge => 5
/-- R351. -/
def Cc.ofCode (c : BitVec 3) : Option Cc :=
  match c.toNat with
  | 0 => some .eq | 1 => some .ne | 2 => some .lt | 3 => some .le | 4 => some .gt | 5 => some .ge | _ => none
/-- R366. -/
def FCc.code : FCc → BitVec 3
  | .eq => 0 | .ne => 1 | .lt => 2 | .le => 3 | .gt => 4 | .ge => 5 | .un => 6
/-- R366. -/
def FCc.ofCode (c : BitVec 3) : Option FCc :=
  match c.toNat with
  | 0 => some .eq | 1 => some .ne | 2 => some .lt | 3 => some .le | 4 => some .gt | 5 => some .ge
  | 6 => some .un | _ => none
/-- R196. -/
def Scope.code : Scope → BitVec 3
  | .slot => 0 | .core => 1 | .clu => 2 | .qtr => 3 | .dev => 4 | .sys => 5
/-- R196. -/
def Scope.ofCode (c : BitVec 3) : Option Scope :=
  match c.toNat with
  | 0 => some .slot | 1 => some .core | 2 => some .clu | 3 => some .qtr | 4 => some .dev | 5 => some .sys
  | _ => none
/-- R163. -/
def LdFe.code : LdFe → BitVec 2
  | .plain => 0 | .w => 1 | .c => 2
/-- R163. -/
def LdFe.ofCode (c : BitVec 2) : Option LdFe :=
  match c.toNat with
  | 0 => some .plain | 1 => some .w | 2 => some .c | _ => none
/-- R175. -/
def ASpace.code : ASpace → BitVec 2
  | .va => 0 | .ls => 1 | .cl => 2
/-- R175. -/
def ASpace.ofCode (c : BitVec 2) : Option ASpace :=
  match c.toNat with
  | 0 => some .va | 1 => some .ls | 2 => some .cl | _ => none
/-- R175, R334: ORDER and SCOPE. -/
def AOrder.code : AOrder → BitVec 5
  | .plain => 0
  | .acq s => 1#2 ++ s.code
  | .rel s => 2#2 ++ s.code
  | .ar s => 3#2 ++ s.code
/-- R175, R334. -/
def AOrder.ofCode (c : BitVec 5) : Option AOrder :=
  match (c.extractLsb' 3 2).toNat with
  | 0 => if c.extractLsb' 0 3 = 0 then some .plain else none
  | 1 => (Scope.ofCode (c.extractLsb' 0 3)).map .acq
  | 2 => (Scope.ofCode (c.extractLsb' 0 3)).map .rel
  | _ => (Scope.ofCode (c.extractLsb' 0 3)).map .ar
/-- R175. -/
def ITy.code : ITy → BitVec 3
  | .s64 => 0 | .u64 => 1 | .s32 => 2 | .u32 => 3
/-- R175. -/
def ITy.ofCode (c : BitVec 3) : Option ITy :=
  match c.toNat with
  | 0 => some .s64 | 1 => some .u64 | 2 => some .s32 | 3 => some .u32 | _ => none
/-- R175. -/
def FTy.code : FTy → BitVec 3
  | .f32 => 4 | .a56 => 5
/-- R175. -/
def FTy.ofCode (c : BitVec 3) : Option FTy :=
  match c.toNat with
  | 4 => some .f32 | 5 => some .a56 | _ => none
/-- R352. -/
def CopySp.code : CopySp → BitVec 2
  | .va => 0 | .loc => 1 | .clu => 2
/-- R352. -/
def CopySp.ofCode (c : BitVec 2) : Option CopySp :=
  match c.toNat with
  | 0 => some .va | 1 => some .loc | 2 => some .clu | _ => none
/-- R352. -/
def CopyCk.code : CopyCk → BitVec 3
  | .none => 0 | .f32 => 1 | .f16 => 2 | .bf16 => 3 | .e4m3 => 4 | .e5m2 => 5
/-- R352. -/
def CopyCk.ofCode (c : BitVec 3) : Option CopyCk :=
  match c.toNat with
  | 0 => some .none | 1 => some .f32 | 2 => some .f16 | 3 => some .bf16 | 4 => some .e4m3 | 5 => some .e5m2
  | _ => Option.none
/-- R407. -/
def SlotSp.code : SlotSp → BitVec 2
  | .reg => 0 | .nv => 1 | .nf => 2
/-- R407. -/
def SlotSp.ofCode (c : BitVec 2) : Option SlotSp :=
  match c.toNat with
  | 0 => some .reg | 1 => some .nv | 2 => some .nf | _ => none
/-- R368. -/
def SfuFn.code : SfuFn → BitVec 3
  | .exp2 => 0 | .log2 => 1 | .rcp => 2 | .rsq => 3 | .sin => 4 | .cos => 5 | .tanh => 6 | .sigmoid => 7
/-- R368. -/
def SfuFn.ofCode (c : BitVec 3) : SfuFn :=
  match c.toNat with
  | 0 => .exp2 | 1 => .log2 | 2 => .rcp | 3 => .rsq | 4 => .sin | 5 => .cos | 6 => .tanh | _ => .sigmoid
/-- R370. -/
def SgnOp.code : SgnOp → BitVec 2
  | .cpy => 0 | .neg => 1 | .xor => 2 | .abs => 3
/-- R370. -/
def SgnOp.ofCode (c : BitVec 2) : SgnOp :=
  match c.toNat with
  | 0 => .cpy | 1 => .neg | 2 => .xor | _ => .abs
/-- R429. -/
def RedOp.code : RedOp → BitVec 3
  | .add => 0 | .min => 1 | .max => 2 | .and => 3 | .or => 4 | .xor => 5
/-- R429. -/
def RedOp.ofCode (c : BitVec 3) : Option RedOp :=
  match c.toNat with
  | 0 => some .add | 1 => some .min | 2 => some .max | 3 => some .and | 4 => some .or | 5 => some .xor
  | _ => none
/-- R429. -/
def ScanOp.code : ScanOp → BitVec 3
  | .add => 0 | .min => 1 | .max => 2
/-- R429. -/
def ScanOp.ofCode (c : BitVec 3) : Option ScanOp :=
  match c.toNat with
  | 0 => some .add | 1 => some .min | 2 => some .max | _ => none
/-- R424. -/
def Gs.code : Gs → BitVec 2
  | .g32 => 0 | .g64 => 1 | .g128 => 2
/-- R424. -/
def Gs.ofCode (c : BitVec 2) : Option Gs :=
  match c.toNat with
  | 0 => some .g32 | 1 => some .g64 | 2 => some .g128 | _ => none

/-! ### The encoder -/

/-- No name. -/
abbrev zo : Opd := ⟨0, false⟩
/-- A name without `!`. -/
abbrev nm (x : Ix) : Opd := ⟨x, false⟩

/-- The fields of an op put together. -/
def mkOp (opc : BitVec 10) (g : Guard) (imm : BitVec 14) (d a b : Opd) : RawOp where
  imm := imm
  gn := g.neg
  g := g.name
  bm := b.sync
  b := b.ix
  am := a.sync
  a := a.ix
  dm := d.sync
  d := d.ix
  opc := opc

/-- An op together with its extension. -/
abbrev Raw := RawOp × Ext

/-- A boolean field. -/
abbrev bit (x : Bool) : BitVec 1 := BitVec.ofBool x

/-- The extension of an engine command that carries no X32. -/
def wsExt : Option Ws → Ext
  | none => .none
  | some w => .ws w

/-- An op with a 14-, 32- or 64-bit immediate (R340). -/
def encImm (opc : BitVec 10) (g : Guard) (d a : Opd) : Imm → Raw
  | .i14 v => (mkOp opc g v d a zo, .none)
  | .x32 v => (mkOp opc g 0 d a zo, .x32 v)
  | .x64 v => (mkOp opc g 0 d a zo, .x64 v)

/-- An op with a 14- or 32-bit immediate. -/
def encImmS (opc : BitVec 10) (g : Guard) (d a : Opd) : ImmS → Raw
  | .i14 v => (mkOp opc g v d a zo, .none)
  | .x32 v => (mkOp opc g 0 d a zo, .x32 v)

/-- A shift or rotation (R400). -/
def encShift (opc : BitVec 10) (g : Guard) (d a : Opd) : Cnt → Raw
  | .name b => (mkOp opc g 0 d a b, .none)
  | .imm k => (mkOp opc g (1#1 ++ 0#7 ++ k) d a zo, .none)

/-- An atomic (R334). -/
def encAtom (opc : BitVec 10) (g : Guard) (f : AtomF) (ty : BitVec 3) (rm : BitVec 2) : Raw :=
  (mkOp opc g (bit f.ret ++ f.space.code ++ f.order.code ++ 0#1 ++ ty ++ rm) (nm f.d) f.a f.b, .none)

/-- ORDER and SCOPE of LDX and STX (R173). -/
def encOrd (o : BitVec 2) : Option Scope → BitVec 5
  | none => 0
  | some s => o ++ s.code

/-- A float op of group 3 with RM and SAT (R363). -/
def encF (opc : BitVec 10) (g : Guard) (c : BitVec 8) (rm : Rm) (sat : Bool) (d a b : Opd) : Raw :=
  (mkOp opc g (0#3 ++ c ++ bit sat ++ rm.code) d a b, .none)

/-- A vector op (R420): bits 54:50 given whole. -/
def encV (opc : BitVec 10) (h : VH) (m : BitVec 5) (d a b : Opd) : Raw :=
  (mkOp opc h.g (h.msk ++ bit h.mneg ++ m) d a b, .none)

/-- RM and SAT of a vector op. -/
abbrev vrs (rm : Rm) (sat : Bool) : BitVec 5 := 0#2 ++ bit sat ++ rm.code

/-- The modifiers of COPY (R352). -/
def CopyMods.pack (m : CopyMods) : BitVec 14 :=
  bit m.try_ ++ bit m.keepf ++ m.dsp.code ++ m.ssp.code ++ m.ck.code ++ m.rm.code ++ bit m.sat ++ bit m.fmt ++ 0#1

/-- The modifiers of the Plectrum commands (R214). -/
def PlkMods.pack (m : PlkMods) : BitVec 14 := bit m.try_ ++ bit m.psn ++ bit m.keepf ++ 0#11

/-- The payload indices of MSEND in X32 (R384). -/
def packPl (pl : List Ix) : BitVec 32 :=
  pl.getD 3 0 ++ pl.getD 2 0 ++ pl.getD 1 0 ++ pl.getD 0 0

/-- The op slot and extension of an op; none for a pair and for an event. -/
def encodeRaw : Instr → Option Raw
  | .nop g pad => some (mkOp 0x000 g 0 zo zo zo, if pad then .x32 0 else .none)
  | .b g t => some (encImm 0x001 g zo zo t)
  | .bl g d t => some (encImm 0x002 g (nm d) zo t)
  | .bx g d a => some (mkOp 0x003 g 0 (nm d) a zo, .none)
  | .ret g a => some (mkOp 0x004 g 0 zo a zo, .none)
  | .loop g cnt off => some (match cnt with
      | .name a => (mkOp 0x005 g off zo a zo, .none)
      | .x32 v => (mkOp 0x005 g off zo zo zo, .x32 v))
  | .lexit g => some (mkOp 0x006 g 0 zo zo zo, .none)
  | .trap g code => some (mkOp 0x007 g (0#6 ++ code) zo zo zo, .none)
  | .eret g => some (mkOp 0x008 g 0 zo zo zo, .none)
  | .sread g d sel => some (mkOp 0x009 g sel d zo zo, .none)
  | .swrite g sel a => some (mkOp 0x00A g sel zo a zo, .none)
  | .rgn g f c live => some (mkOp 0x00B g (c ++ f) zo zo zo, match live with | none => .none | some v => .x64 v)
  | .rgnend g => some (mkOp 0x00C g 0 zo zo zo, .none)
  | .ifence g => some (mkOp 0x00D g 0 zo zo zo, .none)
  | .yield g => some (mkOp 0x00E g 0 zo zo zo, .none)
  | .tune g src => some (match src with
      | .name a => (mkOp 0x010 g 0 zo a zo, .none)
      | .x64 v => (mkOp 0x010 g 0 zo zo zo, .x64 v))
  | .resize g d wm1 => some (mkOp 0x011 g (0#8 ++ wm1) (nm d) zo zo, .none)
  | .shape g d v q => some (match q with
      | .name b => (mkOp 0x012 g 0 (nm d) (nm v) (nm b), .none)
      | .x32 x => (mkOp 0x012 g 0 (nm d) (nm v) zo, .x32 x))
  | .width g d a => some (mkOp 0x013 g 0 (nm d) a zo, .none)
  | .fset g d => some (mkOp 0x014 g 0 (nm d) zo zo, .none)
  | .fclr g d => some (mkOp 0x015 g 0 (nm d) zo zo, .none)
  | .ftest g d a => some (mkOp 0x016 g 0 (nm d) (nm a) zo, .none)
  | .pdrainDrain g d a => some (mkOp 0x040 g 0 (nm d) a zo, .none)
  | .pdrainDrainPart g d a => some (mkOp 0x040 g 4 (nm d) a zo, .none)
  | .pdrainSave g d a b => some (mkOp 0x040 g 1 (nm d) a b, .none)
  | .pdrainResume g d b => some (mkOp 0x040 g 2 (nm d) zo b, .none)
  | .preset g d a b => some (mkOp 0x041 g 0 (nm d) a b, .none)
  | .presetKeep g d a => some (mkOp 0x041 g 1 (nm d) a zo, .none)
  | .slotrd g d a sp sel => some (mkOp 0x042 g (0#4 ++ sp.code ++ sel) (nm d) a zo, .none)
  | .slotwr g d a b sp sel run => some (mkOp 0x043 g (bit run ++ 0#3 ++ sp.code ++ sel) (nm d) a b, .none)
  | .slotkill g d a => some (mkOp 0x044 g 0 (nm d) a zo, .none)
  | .tlbinvPage g d a => some (mkOp 0x045 g 0 (nm d) a zo, .none)
  | .tlbinvRange g d a b => some (mkOp 0x045 g 1 (nm d) a b, .none)
  | .tlbinvCtx g d => some (mkOp 0x045 g 2 (nm d) zo zo, .none)
  | .tlbinvAll g d => some (mkOp 0x045 g 3 (nm d) zo zo, .none)
  | .wdset g d a b => some (mkOp 0x046 g 0 (nm d) a b, .none)
  | .pmcfg g a b zero => some (mkOp 0x047 g (0#13 ++ bit zero) zo a b, .none)
  | .pmrd g d a cfg => some (mkOp 0x048 g (0#13 ++ bit cfg) (nm d) a zo, .none)
  | .tracerd g d a b => some (match b with
      | some b => (mkOp 0x049 g 0 (nm d) a b, .none)
      | none => (mkOp 0x049 g 1 (nm d) a zo, .none))
  | .add g d a b => some (mkOp 0x080 g 0 d a b, .none)
  | .addi g d a imm => some (encImm 0x081 g d a imm)
  | .sub g d a b => some (mkOp 0x082 g 0 d a b, .none)
  | .mul g d a b => some (mkOp 0x083 g 0 d a b, .none)
  | .mulh g d a b => some (mkOp 0x084 g 0 d a b, .none)
  | .madd g d a b c => some (mkOp 0x085 g (0#3 ++ c ++ 0#3) d a b, .none)
  | .div g d a b nz => some (mkOp 0x086 g (0#13 ++ bit nz) d a b, .none)
  | .rem g d a b nz => some (mkOp 0x087 g (0#13 ++ bit nz) d a b, .none)
  | .and g d a b => some (mkOp 0x088 g 0 d a b, .none)
  | .or g d a b => some (mkOp 0x089 g 0 d a b, .none)
  | .xor g d a b => some (mkOp 0x08A g 0 d a b, .none)
  | .andn g d a b => some (mkOp 0x08B g 0 d a b, .none)
  | .shl g d a k => some (encShift 0x08C g d a k)
  | .shr g d a k => some (encShift 0x08D g d a k)
  | .sra g d a k => some (encShift 0x08E g d a k)
  | .rot g d a k => some (encShift 0x08F g d a k)
  | .min g d a b => some (mkOp 0x090 g 0 d a b, .none)
  | .max g d a b => some (mkOp 0x091 g 0 d a b, .none)
  | .abs g d a => some (mkOp 0x092 g 0 d a zo, .none)
  | .clz g d a => some (mkOp 0x093 g 0 d a zo, .none)
  | .ctz g d a => some (mkOp 0x094 g 0 d a zo, .none)
  | .popc g d a => some (mkOp 0x095 g 0 d a zo, .none)
  | .cmp g cc d a b => some (mkOp 0x096 g (0#11 ++ cc.code) d a b, .none)
  | .cmpi g cc d a imm => some (match imm with
      | .i11 v => (mkOp 0x097 g (v ++ cc.code) d a zo, .none)
      | .x32 v => (mkOp 0x097 g (0#11 ++ cc.code) d a zo, .x32 v))
  | .sel g d a b c => some (mkOp 0x098 g (0#3 ++ c ++ 0#3) d a b, .none)
  | .mov g d a => some (mkOp 0x099 g 0 d a zo, .none)
  | .movi g d imm => some (encImm 0x09A g d zo imm)
  | .ext g s d a pos lenm1 => some (mkOp 0x09B g (0#1 ++ bit s ++ lenm1 ++ pos) d a zo, .none)
  | .ins g d a pos lenm1 => some (mkOp 0x09C g (0#2 ++ lenm1 ++ pos) (nm d) a zo, .none)
  | .ldl g fe d a => some (mkOp 0x100 g (0#12 ++ fe.code) (nm d) a zo, .none)
  | .stl g f a b => some (mkOp 0x101 g (0#12 ++ bit f ++ bit f) zo a b, .none)
  | .ldx g cl acq d a => some (mkOp 0x102 g (0#1 ++ bit cl ++ 0#1 ++ encOrd 1 acq ++ 0#6) (nm d) a zo, .none)
  | .stx g cl rel a b => some (mkOp 0x103 g (0#1 ++ bit cl ++ 0#1 ++ encOrd 2 rel ++ 0#6) zo a b, .none)
  | .fence g sc => some (mkOp 0x104 g (0#5 ++ sc.code ++ 0#6) zo zo zo, .none)
  | .copy g m d a b n ws => some (mkOp 0x108 g m.pack (nm d) a b, match ws with
      | none => .x32 n | some w => .wsx32 w n)
  | .gather g m d a ws => some (mkOp 0x109 g m.pack (nm d) a zo, wsExt ws)
  | .scatter g m d a ws => some (mkOp 0x10A g m.pack (nm d) a zo, wsExt ws)
  | .scatadd g m d a ws => some (mkOp 0x10B g m.pack (nm d) a zo, wsExt ws)
  | .bankopFill g tr d a ws => some (mkOp 0x10C g (bit tr ++ 0#13) (nm d) a zo, wsExt ws)
  | .bankopAxpy g tr d a ws => some (mkOp 0x10C g (bit tr ++ 1#13) (nm d) a zo, wsExt ws)
  | .bankopCvt g tr d a ws => some (mkOp 0x10C g (bit tr ++ 2#13) (nm d) a zo, wsExt ws)
  | .bankopSum g tr d a ws => some (mkOp 0x10C g (bit tr ++ 3#13) (nm d) a zo, wsExt ws)
  | .dtload g tr d a ws => some (mkOp 0x10D g (bit tr ++ 0#13) (nm d) a zo, wsExt ws)
  | .aadd g f ty => some (encAtom 0x120 g f ty.code 0)
  | .aand g f ty => some (encAtom 0x121 g f ty.code 0)
  | .acas g f ty => some (encAtom 0x122 g f ty.code 0)
  | .afadd g f ty rm => some (encAtom 0x123 g f ty.code rm.code)
  | .afmax g f ty => some (encAtom 0x124 g f ty.code 0)
  | .afmin g f ty => some (encAtom 0x125 g f ty.code 0)
  | .amax g f ty => some (encAtom 0x126 g f ty.code 0)
  | .amin g f ty => some (encAtom 0x127 g f ty.code 0)
  | .aor g f ty => some (encAtom 0x128 g f ty.code 0)
  | .aswap g f ty => some (encAtom 0x129 g f ty.code 0)
  | .axor g f ty => some (encAtom 0x12A g f ty.code 0)
  | .fadd g rm sat d a b => some (encF 0x180 g 0 rm sat d a b)
  | .fsub g rm sat d a b => some (encF 0x181 g 0 rm sat d a b)
  | .fmul g rm sat d a b => some (encF 0x182 g 0 rm sat d a b)
  | .ffma g rm sat d a b c => some (encF 0x183 g c rm sat d a b)
  | .fdiv g rm sat d a b => some (encF 0x184 g 0 rm sat d a b)
  | .fsqrt g rm sat d a => some (encF 0x185 g 0 rm sat d a zo)
  | .fmin g d a b => some (mkOp 0x186 g 0 d a b, .none)
  | .fmax g d a b => some (mkOp 0x187 g 0 d a b, .none)
  | .fcmp g cc d a b => some (mkOp 0x188 g (0#11 ++ cc.code) d a b, .none)
  | .fsgn g op d a b => some (mkOp 0x189 g (0#12 ++ op.code) d a b, .none)
  | .cvt g rm sat d a => some (encF 0x18A g 0 rm sat d a zo)
  | .fsfu g fn rm sat d a => some (mkOp 0x18B g (0#8 ++ fn.code ++ bit sat ++ rm.code) d a zo, .none)
  | .vadd h rm sat d a b => some (encV 0x200 h (vrs rm sat) d a b)
  | .vsub h rm sat d a b => some (encV 0x201 h (vrs rm sat) d a b)
  | .vmul h rm sat d a b => some (encV 0x202 h (vrs rm sat) d a b)
  | .vfma h rm sat d a b => some (encV 0x203 h (vrs rm sat) d a b)
  | .vmin h d a b => some (encV 0x204 h 0 d a b)
  | .vmax h d a b => some (encV 0x205 h 0 d a b)
  | .vand h d a b => some (encV 0x206 h 0 d a b)
  | .vor h d a b => some (encV 0x207 h 0 d a b)
  | .vxor h d a b => some (encV 0x208 h 0 d a b)
  | .vshl h d a b => some (encV 0x209 h 0 d a b)
  | .vshr h d a b => some (encV 0x20A h 0 d a b)
  | .vcmp h cc d a b => some (encV 0x20B h (0#2 ++ cc.code) d a b)
  | .vsel h d a b => some (encV 0x20C h 0 d a b)
  | .vcvt h rm sat d a => some (encV 0x20D h (vrs rm sat) d a zo)
  | .vld h w q rm sat d a b => some (encV 0x20E h (bit w ++ bit q ++ bit sat ++ rm.code) d a b)
  | .vst h setf d a b => some (encV 0x20F h (bit setf ++ 0#4) (nm d) a b)
  | .vldt h w d a b => some (encV 0x210 h (bit w ++ 0#4) d a b)
  | .vbcast h rm sat d a => some (encV 0x211 h (vrs rm sat) d a zo)
  | .vred h op rm d a => some (encV 0x212 h (op.code ++ rm.code) d a zo)
  | .vscan h op rm d a => some (encV 0x213 h (op.code ++ rm.code) d a zo)
  | .vperm h d a b => some (encV 0x214 h 0 d a b)
  | .vcomp h d a => some (encV 0x215 h 0 d a zo)
  | .vexpd h d a => some (encV 0x216 h 0 d a zo)
  | .viota h d a => some (encV 0x217 h 0 d a zo)
  | .vsfu h fn rm d a => some (encV 0x218 h (fn.code ++ rm.code) d a zo)
  | .vquant g gs d a e => some (mkOp 0x219 g (0#9 ++ gs.code ++ 0#3) d a e, .none)
  | .vdeq h gs rm sat d a e => some (encV 0x21A h (gs.code ++ bit sat ++ rm.code) d a e)
  | .vmovs g d a b => some (mkOp 0x21B g 0 d a b, .none)
  | .mcfg g src => some (match src with
      | .name a => (mkOp 0x280 g 0 zo a zo, .none)
      | .x64 v => (mkOp 0x280 g 0 zo zo zo, .x64 v))
  | .mma g tr z gg t d a ws => some (mkOp 0x281 g (bit tr ++ bit z ++ bit gg ++ bit t ++ 0#10) (nm d) a zo, wsExt ws)
  | .mdrain g tr acc d ws => some (mkOp 0x282 g (bit tr ++ bit acc ++ 0#12) (nm d) zo zo, wsExt ws)
  | .mmap g tr d a ws => some (mkOp 0x283 g (bit tr ++ 0#13) (nm d) a zo, wsExt ws)
  | .mclr g tr d ws => some (mkOp 0x284 g (bit tr ++ 0#13) (nm d) zo zo, wsExt ws)
  | .xreduce g tr cf d a ws => some (mkOp 0x290 g (bit tr ++ bit cf ++ 0#12) (nm d) a zo, wsExt ws)
  | .xgather g tr cf d a ws => some (mkOp 0x291 g (bit tr ++ bit cf ++ 0#12) (nm d) a zo, wsExt ws)
  | .xbcast g tr cf d a ws => some (mkOp 0x292 g (bit tr ++ bit cf ++ 0#12) (nm d) a zo, wsExt ws)
  | .xmemberCreate g d a b => some (mkOp 0x293 g 0 (nm d) (nm a) (nm b), .none)
  | .xmemberShrink g d a b => some (mkOp 0x293 g 1 (nm d) (nm a) (nm b), .none)
  | .xmemberJoin g d a b => some (mkOp 0x293 g 2 (nm d) (nm a) (nm b), .none)
  | .xmemberLeave g d a => some (mkOp 0x293 g 3 (nm d) (nm a) zo, .none)
  | .xlog g tr keepf d a ws => some (mkOp 0x294 g (bit tr ++ bit keepf ++ 0#12) (nm d) a zo, wsExt ws)
  | .semwait g n t take => some (mkOp 0x300 g (0#1 ++ bit take ++ t) (nm n) zo zo, .none)
  | .semsig g n i => some (mkOp 0x301 g (0#2 ++ i) (nm n) zo zo, .none)
  | .semset g n v => some (encImmS 0x302 g (nm n) zo v)
  | .semrd g d n => some (mkOp 0x303 g (0#6 ++ n) d zo zo, .none)
  | .qcfg g d a n => some (mkOp 0x304 g (0#9 ++ n) (nm d) a zo, .none)
  | .qcount g d n => some (mkOp 0x305 g (0#9 ++ n) d zo zo, .none)
  | .msend g k a pl => some (mkOp 0x306 g (0#5 ++ BitVec.ofNat 3 pl.length ++ k) zo a zo,
      if pl.isEmpty then .none else .x32 (packPl pl))
  | .spawn g a t => some (encImmS 0x308 g zo a t)
  | .sync g => some (mkOp 0x309 g 0 zo zo zo, .none)
  | .done g => some (mkOp 0x30A g 0 zo zo zo, .none)
  | .launch g tr lev d a ws => some (mkOp 0x30B g (bit tr ++ 0#11 ++ lev) (nm d) a zo, wsExt ws)
  | .genter g a => some (mkOp 0x30C g 0 zo a zo, .none)
  | .gleave g => some (mkOp 0x30D g 0 zo zo zo, .none)
  | .gbar g => some (mkOp 0x30E g 0 zo zo zo, .none)
  | .gsize g d => some (mkOp 0x30F g 0 d zo zo, .none)
  | .cmake g d a => some (mkOp 0x320 g 0 (nm d) a zo, .none)
  | .csend g => some (mkOp 0x321 g 0 zo zo zo, .none)
  | .cstop g d k => some (mkOp 0x322 g (0#8 ++ k) (nm d) zo zo, .none)
  | .cins g a b => some (mkOp 0x323 g 0 zo a b, .none)
  | .cdel g n => some (mkOp 0x324 g (0#10 ++ n) zo zo zo, .none)
  | .csetp g k a => some (mkOp 0x325 g (0#10 ++ k) zo a zo, .none)
  | .csplit g a b => some (mkOp 0x326 g 0 zo a b, .none)
  | .cdivert g a => some (mkOp 0x327 g 0 zo a zo, .none)
  | .vtopk g mn d a => some (mkOp 0x380 g (0#13 ++ bit mn) d a zo, .none)
  | .instructionPair .. => none
  | .repack .. => none
  | .waitTimeout .. => none
  | .trapMessageStart .. => none
  | .messageStart .. => none
  | .messageDrop .. => none
  | .remotePush .. => none
  | .tailWriteSeen .. => none
  | .threadPlacement .. => none
  | .launchCompletion .. => none
  | .continuationStart .. => none
  | .periodicSeek .. => none
  | .seekProbe .. => none
  | .dequeTake .. => none
  | .inc .. => none
  | .incAcknowledgement .. => none
  | .hdr .. => none
  | .dec .. => none
  | .decPrime .. => none
  | .test .. => none
  | .testReply .. => none
  | .decReply .. => none
  | .genterAtBank .. => none
  | .genterReply .. => none
  | .genterWithdrawal .. => none
  | .gleaveAtBank .. => none
  | .gbarArrival .. => none
  | .gsizeAtBank .. => none
  | .atomicAtOwner .. => none
  | .readAtOwner .. => none
  | .writeAtOwner .. => none
  | .translationWalk .. => none
  | .landName .. => none
  | .sfuResult .. => none
  | .slotrdAtTarget .. => none
  | .slotwrAtTarget .. => none
  | .slotkillAtTarget .. => none
  | .clusterFifoEntry .. => none
  | .copyTransfer .. => none
  | .gatherExecute .. => none
  | .scatterExecute .. => none
  | .scataddExecute .. => none
  | .bankopExecute .. => none
  | .dtloadExecute .. => none
  | .launchAppend .. => none
  | .mmaExecute .. => none
  | .mmapExecute .. => none
  | .mdrainExecute .. => none
  | .mdrainInboxTimeout .. => none
  | .mclrExecute .. => none
  | .xreduceExecute .. => none
  | .xgatherExecute .. => none
  | .xbcastExecute .. => none
  | .collectiveDeadline .. => none
  | .xlogExecute .. => none
  | .membershipChange .. => none
  | .membershipAgreementTimeout .. => none
  | .capsuleEntry .. => none
  | .capsuleStopStart .. => none
  | .bankStop .. => none
  | .homeStop .. => none
  | .egressArrival .. => none
  | .sinkStop .. => none
  | .capsuleWaitTimeout .. => none
  | .restartEntryStart .. => none
  | .launchWatchdogExpiry .. => none
  | .queueStallWatchdog .. => none
  | .currentLimiterEngage .. => none
  | .currentLimiterRelease .. => none
  | .uncorrectableError .. => none
  | .scrub .. => none
  | .coreOffline .. => none
  | .flitReceived .. => none
  | .replayTimeout .. => none
  | .portDown .. => none
  | .hostRead .. => none
  | .hostWrite .. => none
  | .mchkstatWrite .. => none
  | .machineCheckReport .. => none
  | .getVersion .. => none
  | .getCapabilities .. => none
  | .negotiateAlgorithms .. => none
  | .getDigests .. => none
  | .getCertificate .. => none
  | .challenge .. => none
  | .getMeasurements .. => none
  | .spdmSessionRequest .. => none
  | .deviceReset .. => none
  | .messageArrival .. => none
  | .portRetrain .. => none
  | .counterWrap .. => none
  | .correctedError .. => none

/-! ### The decoder -/

/-- The guard of a slot (R324). -/
def RawOp.gd (r : RawOp) : Guard := ⟨r.g, r.gn⟩
/-- Operand D. -/
def RawOp.od (r : RawOp) : Opd := ⟨r.d, r.dm⟩
/-- Operand A. -/
def RawOp.oa (r : RawOp) : Opd := ⟨r.a, r.am⟩
/-- Operand B. -/
def RawOp.ob (r : RawOp) : Opd := ⟨r.b, r.bm⟩
/-- D and D.M are zero. -/
def RawOp.zd (r : RawOp) : Bool := decide (r.od = zo)
/-- A and A.M are zero. -/
def RawOp.za (r : RawOp) : Bool := decide (r.oa = zo)
/-- B and B.M are zero. -/
def RawOp.zb (r : RawOp) : Bool := decide (r.ob = zo)
/-- IMM14 is zero. -/
def RawOp.zi (r : RawOp) : Bool := decide (r.imm = 0)
/-- `n` bits of IMM14 from bit `lo`. -/
abbrev RawOp.fld (r : RawOp) (lo n : Nat) : BitVec n := r.imm.extractLsb' lo n
/-- One bit of IMM14. -/
abbrev RawOp.ib (r : RawOp) (k : Nat) : Bool := r.imm.getLsbD k
/-- `n` bits of IMM14 from bit `lo` are zero. -/
abbrev RawOp.rz (r : RawOp) (lo n : Nat) : Bool := decide (r.imm.extractLsb' lo n = 0)

/-- An instruction under a condition. -/
def req (c : Bool) (i : Instr) : Option Instr := if c then some i else none

/-- No extension. -/
def Ext.isNone (x : Ext) : Bool := decide (x = .none)

/-- The extension of an engine command (R326): none, or a WS32 that keeps its rules. -/
def extWs : Ext → Option (Option Ws)
  | .none => some none
  | .ws w => if w.wf then some (some w) else none
  | .x32 _ => none
  | .x64 _ => none
  | .wsx32 _ _ => none

/-- The three lengths of an immediate (R340). -/
def decImm (r : RawOp) : Ext → Option Imm
  | .none => some (.i14 r.imm)
  | .x32 v => if r.zi then some (.x32 v) else none
  | .x64 v => if r.zi then some (.x64 v) else none
  | .ws _ => none
  | .wsx32 _ _ => none

/-- The two lengths of an immediate. -/
def decImmS (r : RawOp) : Ext → Option ImmS
  | .none => some (.i14 r.imm)
  | .x32 v => if r.zi then some (.x32 v) else none
  | .x64 _ => none
  | .ws _ => none
  | .wsx32 _ _ => none

/-- The count of a shift (R400). -/
def decCnt (r : RawOp) : Option Cnt :=
  if r.ib 13 then (if r.rz 6 7 && r.zb then some (.imm (r.fld 0 6)) else none)
  else if r.zi then some (.name r.ob) else none

/-- The fields that the atomics share (R334). -/
def decAtomF (r : RawOp) : Option AtomF :=
  match ASpace.ofCode (r.fld 11 2), AOrder.ofCode (r.fld 6 5) with
  | some sp, some o =>
    if r.rz 5 1 && !r.dm then some ⟨r.ib 13, sp, o, r.d, r.oa, r.ob⟩ else none
  | some _, none => none
  | none, _ => none

/-- An integer atomic. -/
def decAtomI (r : RawOp) (acas : Bool) (mk : Guard → AtomF → ITy → Instr) : Option Instr :=
  match decAtomF r, ITy.ofCode (r.fld 2 3) with
  | some f, some ty => req (r.rz 0 2 && (acas || f.wf)) (mk r.gd f ty)
  | some _, none => none
  | none, _ => none

/-- A float atomic. -/
def decAtomFl (r : RawOp) (rmOk : Bool) (mk : Guard → AtomF → FTy → Rm → Instr) : Option Instr :=
  match decAtomF r, FTy.ofCode (r.fld 2 3) with
  | some f, some ty => req ((rmOk || r.rz 0 2) && f.wf) (mk r.gd f ty (Rm.ofCode (r.fld 0 2)))
  | some _, none => none
  | none, _ => none

/-- ORDER and SCOPE of LDX and STX (R173): the order code must be 00 or `o`. -/
def decOrd (r : RawOp) (o : BitVec 2) : Option (Option Scope) :=
  if r.rz 9 2 then (if r.rz 6 3 then some none else none)
  else if r.fld 9 2 = o then (Scope.ofCode (r.fld 6 3)).map some else none

/-- The modifiers of COPY (R352). -/
def decCopyMods (r : RawOp) : Option CopyMods :=
  match CopySp.ofCode (r.fld 10 2), CopySp.ofCode (r.fld 8 2), CopyCk.ofCode (r.fld 5 3) with
  | some ds, some ss, some ck =>
    if r.rz 0 1 then some ⟨r.ib 13, r.ib 12, ds, ss, ck, Rm.ofCode (r.fld 3 2), r.ib 2, r.ib 1⟩ else none
  | some _, some _, none => none
  | some _, none, _ => none
  | none, _, _ => none

/-- The modifiers of the Plectrum commands (R214). -/
def decPlk (r : RawOp) : PlkMods := ⟨r.ib 13, r.ib 12, r.ib 11⟩

/-- Guard and mask of a vector op (R420). -/
def RawOp.vh (r : RawOp) : VH := ⟨r.gd, r.fld 6 8, r.ib 5⟩

/-- An engine command with a WS32 or none. -/
def decCmd (x : Ext) (c : Bool) (mk : Option Ws → Instr) : Option Instr :=
  match extWs x with
  | some w => req c (mk w)
  | none => none

/-- The payload indices of MSEND (R384). -/
def decPl (n : Nat) (v : BitVec 32) : List Ix :=
  ([v.extractLsb' 0 8, v.extractLsb' 8 8, v.extractLsb' 16 8, v.extractLsb' 24 8]).take n

/-- Group 0 (R329): the S-class control, tuning and supervisor ops. -/
def decode0 (k : Nat) (r : RawOp) (x : Ext) : Option Instr :=
  let g := r.gd
  match k with
  | 0x00 => match x with
    | .none => req (r.zi && r.zb && r.za && r.zd) (.nop g false)
    | .x32 v => req (r.zi && r.zb && r.za && r.zd && decide (v = 0)) (.nop g true)
    | .x64 _ => none
    | .ws _ => none
    | .wsx32 _ _ => none
  | 0x01 => match decImm r x with
    | some t => req (r.zb && r.za && r.zd) (.b g t)
    | none => none
  | 0x02 => match decImm r x with
    | some t => req (r.zb && r.za && !r.dm) (.bl g r.d t)
    | none => none
  | 0x03 => req (x.isNone && r.zi && r.zb && !r.dm) (.bx g r.d r.oa)
  | 0x04 => req (x.isNone && r.zi && r.zb && r.zd) (.ret g r.oa)
  | 0x05 => match x with
    | .none => req (r.zb && r.zd && decide (2 < r.imm.toNat)) (.loop g (.name r.oa) r.imm)
    | .x32 v => req (r.zb && r.zd && r.za && decide (3 < r.imm.toNat)) (.loop g (.x32 v) r.imm)
    | .x64 _ => none
    | .ws _ => none
    | .wsx32 _ _ => none
  | 0x06 => req (x.isNone && r.zi && r.zb && r.za && r.zd) (.lexit g)
  | 0x07 => req (x.isNone && r.rz 8 6 && r.zb && r.za && r.zd) (.trap g (r.fld 0 8))
  | 0x08 => req (x.isNone && r.zi && r.zb && r.za && r.zd) (.eret g)
  | 0x09 => req (x.isNone && r.zb && r.za && wfOp (.sread ⟨0, false⟩ zo r.imm)) (.sread g r.od r.imm)
  | 0x0A => req (x.isNone && r.zb && r.zd && wfOp (.swrite ⟨0, false⟩ r.imm zo)) (.swrite g r.imm r.oa)
  | 0x0B => match x with
    | .none => req (r.zb && r.za && r.zd && decide ((r.fld 0 8).toNat + (r.fld 8 6).toNat ≤ 256))
        (.rgn g (r.fld 0 8) (r.fld 8 6) none)
    | .x64 v => req (r.zb && r.za && r.zd && decide ((r.fld 0 8).toNat + (r.fld 8 6).toNat ≤ 256))
        (.rgn g (r.fld 0 8) (r.fld 8 6) (some v))
    | .x32 _ => none
    | .ws _ => none
    | .wsx32 _ _ => none
  | 0x0C => req (x.isNone && r.zi && r.zb && r.za && r.zd) (.rgnend g)
  | 0x0D => req (x.isNone && r.zi && r.zb && r.za && r.zd) (.ifence g)
  | 0x0E => req (x.isNone && r.zi && r.zb && r.za && r.zd) (.yield g)
  | 0x10 => match x with
    | .none => req (r.zi && r.zb && r.zd) (.tune g (.name r.oa))
    | .x64 v => req (r.zi && r.zb && r.zd && r.za) (.tune g (.x64 v))
    | .x32 _ => none
    | .ws _ => none
    | .wsx32 _ _ => none
  | 0x11 => req (x.isNone && r.rz 6 8 && r.zb && r.za && !r.dm) (.resize g r.d (r.fld 0 6))
  | 0x12 => match x with
    | .none => req (r.zi && !r.bm && !r.am && !r.dm) (.shape g r.d r.a (.name r.b))
    | .x32 v => req (r.zi && r.zb && !r.am && !r.dm) (.shape g r.d r.a (.x32 v))
    | .x64 _ => none
    | .ws _ => none
    | .wsx32 _ _ => none
  | 0x13 => req (x.isNone && r.zi && r.zb && !r.dm) (.width g r.d r.oa)
  | 0x14 => req (x.isNone && r.zi && r.zb && r.za && !r.dm) (.fset g r.d)
  | 0x15 => req (x.isNone && r.zi && r.zb && r.za && !r.dm) (.fclr g r.d)
  | 0x16 => req (x.isNone && r.zi && r.zb && !r.am && !r.dm) (.ftest g r.d r.a)
  | 0x40 => match r.imm.toNat with
    | 0 => req (x.isNone && r.zb && !r.dm) (.pdrainDrain g r.d r.oa)
    | 4 => req (x.isNone && r.zb && !r.dm) (.pdrainDrainPart g r.d r.oa)
    | 1 => req (x.isNone && !r.dm) (.pdrainSave g r.d r.oa r.ob)
    | 2 => req (x.isNone && r.za && !r.dm) (.pdrainResume g r.d r.ob)
    | _ => none
  | 0x41 => match r.imm.toNat with
    | 0 => req (x.isNone && !r.dm) (.preset g r.d r.oa r.ob)
    | 1 => req (x.isNone && r.zb && !r.dm) (.presetKeep g r.d r.oa)
    | _ => none
  | 0x42 => match SlotSp.ofCode (r.fld 8 2) with
    | some sp => req (x.isNone && r.rz 10 4 && r.zb && !r.dm && slotSelOk sp (r.fld 0 8))
        (.slotrd g r.d r.oa sp (r.fld 0 8))
    | none => none
  | 0x43 => match SlotSp.ofCode (r.fld 8 2) with
    | some sp => req (x.isNone && r.rz 10 3 && !r.dm && slotWrSelOk sp (r.fld 0 8))
        (.slotwr g r.d r.oa r.ob sp (r.fld 0 8) (r.ib 13))
    | none => none
  | 0x44 => req (x.isNone && r.zi && r.zb && !r.dm) (.slotkill g r.d r.oa)
  | 0x45 => match r.imm.toNat with
    | 0 => req (x.isNone && r.zb && !r.dm) (.tlbinvPage g r.d r.oa)
    | 1 => req (x.isNone && !r.dm) (.tlbinvRange g r.d r.oa r.ob)
    | 2 => req (x.isNone && r.za && r.zb && !r.dm) (.tlbinvCtx g r.d)
    | 3 => req (x.isNone && r.za && r.zb && !r.dm) (.tlbinvAll g r.d)
    | _ => none
  | 0x46 => req (x.isNone && r.zi && !r.dm) (.wdset g r.d r.oa r.ob)
  | 0x47 => req (x.isNone && r.rz 1 13 && r.zd) (.pmcfg g r.oa r.ob (r.ib 0))
  | 0x48 => req (x.isNone && r.rz 1 13 && r.zb && !r.dm) (.pmrd g r.d r.oa (r.ib 0))
  | 0x49 => if r.ib 0 then req (x.isNone && r.rz 1 13 && r.zb && !r.dm) (.tracerd g r.d r.oa none)
      else req (x.isNone && r.rz 1 13 && !r.dm) (.tracerd g r.d r.oa (some r.ob))
  | _ => none

/-- Group 1 (R329): the integer ops. -/
def decode1 (k : Nat) (r : RawOp) (x : Ext) : Option Instr :=
  let g := r.gd
  let z3 := x.isNone && r.zi
  let z2 := x.isNone && r.zi && r.zb
  match k with
  | 0x00 => req z3 (.add g r.od r.oa r.ob)
  | 0x01 => match decImm r x with
    | some i => req r.zb (.addi g r.od r.oa i)
    | none => none
  | 0x02 => req z3 (.sub g r.od r.oa r.ob)
  | 0x03 => req z3 (.mul g r.od r.oa r.ob)
  | 0x04 => req z3 (.mulh g r.od r.oa r.ob)
  | 0x05 => req (x.isNone && r.rz 11 3 && r.rz 0 3) (.madd g r.od r.oa r.ob (r.fld 3 8))
  | 0x06 => req (x.isNone && r.rz 1 13) (.div g r.od r.oa r.ob (r.ib 0))
  | 0x07 => req (x.isNone && r.rz 1 13) (.rem g r.od r.oa r.ob (r.ib 0))
  | 0x08 => req z3 (.and g r.od r.oa r.ob)
  | 0x09 => req z3 (.or g r.od r.oa r.ob)
  | 0x0A => req z3 (.xor g r.od r.oa r.ob)
  | 0x0B => req z3 (.andn g r.od r.oa r.ob)
  | 0x0C => match decCnt r with
    | some c => req x.isNone (.shl g r.od r.oa c)
    | none => none
  | 0x0D => match decCnt r with
    | some c => req x.isNone (.shr g r.od r.oa c)
    | none => none
  | 0x0E => match decCnt r with
    | some c => req x.isNone (.sra g r.od r.oa c)
    | none => none
  | 0x0F => match decCnt r with
    | some c => req x.isNone (.rot g r.od r.oa c)
    | none => none
  | 0x10 => req z3 (.min g r.od r.oa r.ob)
  | 0x11 => req z3 (.max g r.od r.oa r.ob)
  | 0x12 => req z2 (.abs g r.od r.oa)
  | 0x13 => req z2 (.clz g r.od r.oa)
  | 0x14 => req z2 (.ctz g r.od r.oa)
  | 0x15 => req z2 (.popc g r.od r.oa)
  | 0x16 => match Cc.ofCode (r.fld 0 3) with
    | some cc => req (x.isNone && r.rz 3 11) (.cmp g cc r.od r.oa r.ob)
    | none => none
  | 0x17 => match Cc.ofCode (r.fld 0 3), x with
    | some cc, .none => req r.zb (.cmpi g cc r.od r.oa (.i11 (r.fld 3 11)))
    | some cc, .x32 v => req (r.zb && r.rz 3 11) (.cmpi g cc r.od r.oa (.x32 v))
    | some _, .x64 _ => none
    | some _, .ws _ => none
    | some _, .wsx32 _ _ => none
    | none, _ => none
  | 0x18 => req (x.isNone && r.rz 11 3 && r.rz 0 3) (.sel g r.od r.oa r.ob (r.fld 3 8))
  | 0x19 => req z2 (.mov g r.od r.oa)
  | 0x1A => match decImm r x with
    | some i => req (r.zb && r.za) (.movi g r.od i)
    | none => none
  | 0x1B => req (x.isNone && r.rz 13 1 && r.zb && decide ((r.fld 0 6).toNat + (r.fld 6 6).toNat + 1 ≤ 64))
      (.ext g (r.ib 12) r.od r.oa (r.fld 0 6) (r.fld 6 6))
  | 0x1C => req (x.isNone && r.rz 12 2 && r.zb && !r.dm && decide ((r.fld 0 6).toNat + (r.fld 6 6).toNat + 1 ≤ 64))
      (.ins g r.d r.oa (r.fld 0 6) (r.fld 6 6))
  | _ => none

/-- Group 2 (R329): memory, copies, the Plectrum and the atomics. -/
def decode2 (k : Nat) (r : RawOp) (x : Ext) : Option Instr :=
  let g := r.gd
  match k with
  | 0x00 => match LdFe.ofCode (r.fld 0 2) with
    | some fe => req (x.isNone && r.rz 2 12 && r.zb && !r.dm) (.ldl g fe r.d r.oa)
    | none => none
  | 0x01 => req (x.isNone && r.rz 2 12 && r.zd && (r.ib 0 == r.ib 1)) (.stl g (r.ib 0) r.oa r.ob)
  | 0x02 => match decOrd r 1 with
    | some o => req (x.isNone && r.rz 13 1 && r.rz 11 1 && r.rz 0 6 && r.zb && !r.dm) (.ldx g (r.ib 12) o r.d r.oa)
    | none => none
  | 0x03 => match decOrd r 2 with
    | some o => req (x.isNone && r.rz 13 1 && r.rz 11 1 && r.rz 0 6 && r.zd) (.stx g (r.ib 12) o r.oa r.ob)
    | none => none
  | 0x04 => match Scope.ofCode (r.fld 6 3) with
    | some sc => req (x.isNone && r.rz 9 5 && r.rz 0 6 && r.zb && r.za && r.zd) (.fence g sc)
    | none => none
  | 0x08 => match decCopyMods r, x with
    | some m, .x32 n => req (!r.dm && m.wf && decide (n ≠ 0) && (!m.fmt || decide (n.toNat % 128 = 0)))
        (.copy g m r.d r.oa r.ob n none)
    | some m, .wsx32 w n => req (!r.dm && m.wf && decide (n ≠ 0) && (!m.fmt || decide (n.toNat % 128 = 0)) && w.wf)
        (.copy g m r.d r.oa r.ob n (some w))
    | some _, .none => none
    | some _, .x64 _ => none
    | some _, .ws _ => none
    | none, _ => none
  | 0x09 => decCmd x (r.rz 0 11 && r.zb && !r.dm) (.gather g (decPlk r) r.d r.oa)
  | 0x0A => decCmd x (r.rz 0 11 && r.zb && !r.dm) (.scatter g (decPlk r) r.d r.oa)
  | 0x0B => decCmd x (r.rz 0 11 && r.zb && !r.dm) (.scatadd g (decPlk r) r.d r.oa)
  | 0x0C => match (r.fld 0 13).toNat with
    | 0 => decCmd x (r.zb && !r.dm) (.bankopFill g (r.ib 13) r.d r.oa)
    | 1 => decCmd x (r.zb && !r.dm) (.bankopAxpy g (r.ib 13) r.d r.oa)
    | 2 => decCmd x (r.zb && !r.dm) (.bankopCvt g (r.ib 13) r.d r.oa)
    | 3 => decCmd x (r.zb && !r.dm) (.bankopSum g (r.ib 13) r.d r.oa)
    | _ => none
  | 0x0D => decCmd x (r.rz 0 13 && r.zb && !r.dm) (.dtload g (r.ib 13) r.d r.oa)
  | 0x20 => if x.isNone then decAtomI r false .aadd else none
  | 0x21 => if x.isNone then decAtomI r false .aand else none
  | 0x22 => if x.isNone then decAtomI r true .acas else none
  | 0x23 => if x.isNone then decAtomFl r true .afadd else none
  | 0x24 => if x.isNone then decAtomFl r false (fun g f ty _ => .afmax g f ty) else none
  | 0x25 => if x.isNone then decAtomFl r false (fun g f ty _ => .afmin g f ty) else none
  | 0x26 => if x.isNone then decAtomI r false .amax else none
  | 0x27 => if x.isNone then decAtomI r false .amin else none
  | 0x28 => if x.isNone then decAtomI r false .aor else none
  | 0x29 => if x.isNone then decAtomI r false .aswap else none
  | 0x2A => if x.isNone then decAtomI r false .axor else none
  | _ => none

/-- Group 3 (R329): the float ops. -/
def decode3 (k : Nat) (r : RawOp) (x : Ext) : Option Instr :=
  let g := r.gd
  let rm := Rm.ofCode (r.fld 0 2)
  let sat := r.ib 2
  let f3 := x.isNone && r.rz 3 11
  match k with
  | 0x00 => req f3 (.fadd g rm sat r.od r.oa r.ob)
  | 0x01 => req f3 (.fsub g rm sat r.od r.oa r.ob)
  | 0x02 => req f3 (.fmul g rm sat r.od r.oa r.ob)
  | 0x03 => req (x.isNone && r.rz 11 3) (.ffma g rm sat r.od r.oa r.ob (r.fld 3 8))
  | 0x04 => req f3 (.fdiv g rm sat r.od r.oa r.ob)
  | 0x05 => req (f3 && r.zb) (.fsqrt g rm sat r.od r.oa)
  | 0x06 => req (x.isNone && r.zi) (.fmin g r.od r.oa r.ob)
  | 0x07 => req (x.isNone && r.zi) (.fmax g r.od r.oa r.ob)
  | 0x08 => match FCc.ofCode (r.fld 0 3) with
    | some cc => req f3 (.fcmp g cc r.od r.oa r.ob)
    | none => none
  | 0x09 => req (x.isNone && r.rz 2 12 && (decide (SgnOp.ofCode (r.fld 0 2) ≠ .abs) || decide (r.ob.ix = 0)))
      (.fsgn g (SgnOp.ofCode (r.fld 0 2)) r.od r.oa r.ob)
  | 0x0A => req (f3 && r.zb) (.cvt g rm sat r.od r.oa)
  | 0x0B => req (x.isNone && r.rz 6 8 && r.zb) (.fsfu g (SfuFn.ofCode (r.fld 3 3)) rm sat r.od r.oa)
  | _ => none

/-- Group 4 (R329): the vector ops. -/
def decode4 (k : Nat) (r : RawOp) (x : Ext) : Option Instr :=
  let h := r.vh
  let rm := Rm.ofCode (r.fld 0 2)
  let sat := r.ib 2
  let ok := x.isNone && h.wf
  match k with
  | 0x00 => req (ok && r.rz 3 2) (.vadd h rm sat r.od r.oa r.ob)
  | 0x01 => req (ok && r.rz 3 2) (.vsub h rm sat r.od r.oa r.ob)
  | 0x02 => req (ok && r.rz 3 2) (.vmul h rm sat r.od r.oa r.ob)
  | 0x03 => req (ok && r.rz 3 2) (.vfma h rm sat r.od r.oa r.ob)
  | 0x04 => req (ok && r.rz 0 5) (.vmin h r.od r.oa r.ob)
  | 0x05 => req (ok && r.rz 0 5) (.vmax h r.od r.oa r.ob)
  | 0x06 => req (ok && r.rz 0 5) (.vand h r.od r.oa r.ob)
  | 0x07 => req (ok && r.rz 0 5) (.vor h r.od r.oa r.ob)
  | 0x08 => req (ok && r.rz 0 5) (.vxor h r.od r.oa r.ob)
  | 0x09 => req (ok && r.rz 0 5) (.vshl h r.od r.oa r.ob)
  | 0x0A => req (ok && r.rz 0 5) (.vshr h r.od r.oa r.ob)
  | 0x0B => match FCc.ofCode (r.fld 0 3) with
    | some cc => req (ok && r.rz 3 2) (.vcmp h cc r.od r.oa r.ob)
    | none => none
  | 0x0C => req (ok && r.rz 0 5 && decide (h.msk ≠ 0)) (.vsel h r.od r.oa r.ob)
  | 0x0D => req (ok && r.rz 3 2 && r.zb) (.vcvt h rm sat r.od r.oa)
  | 0x0E => req (ok && (r.ib 3 || r.rz 0 3)) (.vld h (r.ib 4) (r.ib 3) rm sat r.od r.oa r.ob)
  | 0x0F => req (ok && r.rz 0 4 && !r.dm) (.vst h (r.ib 4) r.d r.oa r.ob)
  | 0x10 => req (ok && r.rz 0 4) (.vldt h (r.ib 4) r.od r.oa r.ob)
  | 0x11 => req (ok && r.rz 3 2 && r.zb) (.vbcast h rm sat r.od r.oa)
  | 0x12 => match RedOp.ofCode (r.fld 2 3) with
    | some op => req (ok && r.zb) (.vred h op rm r.od r.oa)
    | none => none
  | 0x13 => match ScanOp.ofCode (r.fld 2 3) with
    | some op => req (ok && r.zb) (.vscan h op rm r.od r.oa)
    | none => none
  | 0x14 => req (ok && r.rz 0 5) (.vperm h r.od r.oa r.ob)
  | 0x15 => req (ok && r.rz 0 5 && r.zb && decide (h.msk ≠ 0)) (.vcomp h r.od r.oa)
  | 0x16 => req (ok && r.rz 0 5 && r.zb && decide (h.msk ≠ 0)) (.vexpd h r.od r.oa)
  | 0x17 => req (ok && r.rz 0 5 && r.zb) (.viota h r.od r.oa)
  | 0x18 => req (ok && r.zb) (.vsfu h (SfuFn.ofCode (r.fld 2 3)) rm r.od r.oa)
  | 0x19 => match Gs.ofCode (r.fld 3 2) with
    | some gs => req (x.isNone && r.rz 5 9 && r.rz 0 3) (.vquant r.gd gs r.od r.oa r.ob)
    | none => none
  | 0x1A => match Gs.ofCode (r.fld 3 2) with
    | some gs => req ok (.vdeq h gs rm sat r.od r.oa r.ob)
    | none => none
  | 0x1B => req (x.isNone && r.zi) (.vmovs r.gd r.od r.oa r.ob)
  | _ => none

/-- Group 5 (R329): matrix commands and collectives. -/
def decode5 (k : Nat) (r : RawOp) (x : Ext) : Option Instr :=
  let g := r.gd
  let tr := r.ib 13
  match k with
  | 0x00 => match x with
    | .none => req (r.zi && r.zb && r.zd) (.mcfg g (.name r.oa))
    | .x64 v => req (r.zi && r.zb && r.zd && r.za) (.mcfg g (.x64 v))
    | .x32 _ => none
    | .ws _ => none
    | .wsx32 _ _ => none
  | 0x01 => decCmd x (r.rz 0 10 && r.zb && !r.dm) (.mma g tr (r.ib 12) (r.ib 11) (r.ib 10) r.d r.oa)
  | 0x02 => decCmd x (r.rz 0 12 && r.zb && r.za && !r.dm) (.mdrain g tr (r.ib 12) r.d)
  | 0x03 => decCmd x (r.rz 0 13 && r.zb && !r.dm) (.mmap g tr r.d r.oa)
  | 0x04 => decCmd x (r.rz 0 13 && r.zb && r.za && !r.dm) (.mclr g tr r.d)
  | 0x10 => decCmd x (r.rz 0 12 && r.zb && !r.dm) (.xreduce g tr (r.ib 12) r.d r.oa)
  | 0x11 => decCmd x (r.rz 0 12 && r.zb && !r.dm) (.xgather g tr (r.ib 12) r.d r.oa)
  | 0x12 => decCmd x (r.rz 0 12 && r.zb && !r.dm) (.xbcast g tr (r.ib 12) r.d r.oa)
  | 0x13 => match r.imm.toNat with
    | 0 => req (x.isNone && !r.bm && !r.am && !r.dm) (.xmemberCreate g r.d r.a r.b)
    | 1 => req (x.isNone && !r.bm && !r.am && !r.dm) (.xmemberShrink g r.d r.a r.b)
    | 2 => req (x.isNone && !r.bm && !r.am && !r.dm) (.xmemberJoin g r.d r.a r.b)
    | 3 => req (x.isNone && r.zb && !r.am && !r.dm) (.xmemberLeave g r.d r.a)
    | _ => none
  | 0x14 => decCmd x (r.rz 0 12 && r.zb && !r.dm) (.xlog g tr (r.ib 12) r.d r.oa)
  | _ => none

/-- Group 6 (R329): semaphores, queues, messages, threads, groups and capsules. -/
def decode6 (k : Nat) (r : RawOp) (x : Ext) : Option Instr :=
  let g := r.gd
  let z0 := x.isNone && r.zi && r.zb && r.za && r.zd
  let ab := r.za && r.zb
  match k with
  | 0x00 => req (x.isNone && r.rz 13 1 && ab && !r.dm) (.semwait g r.d (r.fld 0 12) (r.ib 12))
  | 0x01 => req (x.isNone && r.rz 12 2 && ab && !r.dm && decide (r.fld 0 12 ≠ 0)) (.semsig g r.d (r.fld 0 12))
  | 0x02 => match decImmS r x with
    | some v => req (ab && !r.dm && wfOp (.semset ⟨0, false⟩ 0 v)) (.semset g r.d v)
    | none => none
  | 0x03 => req (x.isNone && r.rz 8 6 && ab) (.semrd g r.od (r.fld 0 8))
  | 0x04 => req (x.isNone && r.rz 5 9 && r.zb && !r.dm) (.qcfg g r.d r.oa (r.fld 0 5))
  | 0x05 => req (x.isNone && r.rz 5 9 && ab) (.qcount g r.od (r.fld 0 5))
  | 0x06 => match x with
    | .none => req (r.rz 6 8 && r.zb && r.zd) (.msend g (r.fld 0 6) r.oa [])
    | .x32 v =>
      let n := (r.fld 6 3).toNat
      req (r.rz 9 5 && r.zb && r.zd && decide (1 ≤ n) && decide (n ≤ 4) && decide (packPl (decPl n v) = v))
        (.msend g (r.fld 0 6) r.oa (decPl n v))
    | .x64 _ => none
    | .ws _ => none
    | .wsx32 _ _ => none
  | 0x08 => match decImmS r x with
    | some t => req (r.zb && r.zd) (.spawn g r.oa t)
    | none => none
  | 0x09 => req z0 (.sync g)
  | 0x0A => req z0 (.done g)
  | 0x0B => decCmd x (r.rz 2 11 && r.zb && !r.dm) (.launch g (r.ib 13) (r.fld 0 2) r.d r.oa)
  | 0x0C => req (x.isNone && r.zi && r.zb && r.zd) (.genter g r.oa)
  | 0x0D => req z0 (.gleave g)
  | 0x0E => req z0 (.gbar g)
  | 0x0F => req (x.isNone && r.zi && ab) (.gsize g r.od)
  | 0x20 => req (x.isNone && r.zi && r.zb && !r.dm) (.cmake g r.d r.oa)
  | 0x21 => req z0 (.csend g)
  | 0x22 => req (x.isNone && r.rz 6 8 && ab && !r.dm && decide ((r.fld 0 6 : BitVec 6).toNat < 40)) (.cstop g r.d (r.fld 0 6))
  | 0x23 => req (x.isNone && r.zi && r.zd) (.cins g r.oa r.ob)
  | 0x24 => req (x.isNone && r.rz 4 10 && ab && r.zd && decide (r.fld 0 4 ≠ (0 : BitVec 4))) (.cdel g (r.fld 0 4))
  | 0x25 => req (x.isNone && r.rz 4 10 && r.zb && r.zd && decide (r.fld 0 4 ≠ (0 : BitVec 4))) (.csetp g (r.fld 0 4) r.oa)
  | 0x26 => req (x.isNone && r.zi && r.zd) (.csplit g r.oa r.ob)
  | 0x27 => req (x.isNone && r.zi && r.zb && r.zd) (.cdivert g r.oa)
  | _ => none

/-- Group 7 (R329): the experimental op of stepping C0. -/
def decode7 (k : Nat) (r : RawOp) (x : Ext) : Option Instr :=
  match k with
  | 0x00 => req (x.isNone && r.rz 1 13 && r.zb) (.vtopk r.gd (r.ib 0) r.od r.oa)
  | _ => none

/-- The op that an op slot and its extension hold (R329): the group is OPC bits 9:7. -/
def decodeRaw (r : RawOp) (x : Ext) : Option Instr :=
  if r.gd.wf then
    let k := (r.opc.extractLsb' 0 7).toNat
    match (r.opc.extractLsb' 7 3).toNat with
    | 0 => decode0 k r x
    | 1 => decode1 k r x
    | 2 => decode2 k r x
    | 3 => decode3 k r x
    | 4 => decode4 k r x
    | 5 => decode5 k r x
    | 6 => decode6 k r x
    | _ => decode7 k r x
  else none

/-- The assigned opcodes (R329), as ranges of first and last. -/
def assignedRanges : List (Nat × Nat) :=
  [(0x000, 0x00E), (0x010, 0x016), (0x040, 0x049), (0x080, 0x09C), (0x100, 0x104), (0x108, 0x10D), (0x120, 0x12A),
   (0x180, 0x18B), (0x200, 0x21B), (0x280, 0x284), (0x290, 0x294), (0x300, 0x306), (0x308, 0x30F), (0x320, 0x327),
   (0x380, 0x380)]

/-- The opcode is assigned (R329). -/
def assigned (opc : BitVec 10) : Bool :=
  assignedRanges.any (fun p => decide (p.1 ≤ opc.toNat) && decide (opc.toNat ≤ p.2))

/-- The opcodes that may not stand in pair slot 0 though they are S-class (R327). -/
def excludedSlot0 (opc : BitVec 10) : Bool :=
  let k := opc.toNat
  decide (1 ≤ k ∧ k ≤ 8) || decide (0x0B ≤ k ∧ k ≤ 0x0E) || decide (0x10 ≤ k ∧ k ≤ 0x13) ||
    decide (0x40 ≤ k ∧ k ≤ 0x49) || decide (0x308 ≤ k ∧ k ≤ 0x30A) || decide (0x380 ≤ k)

/-- The opcode is V-class: groups 4 and 5 (R327). -/
def vClass (opc : BitVec 10) : Bool := decide (0x200 ≤ opc.toNat ∧ opc.toNat ≤ 0x2FF)

/-- A single op: rules 4 to 9 of R331. -/
def decodeOne (r : RawOp) (x : Ext) : Except DecodeErr Instr :=
  if assigned r.opc then
    match decodeRaw r x with
    | some i => .ok i
    | none => .error .badField
  else .error .unassigned

/-- A pair: rules 4 to 9 of R331, each across both slots before the next. -/
def decodePair (r0 r1 : RawOp) : Except DecodeErr Instr :=
  if assigned r0.opc && assigned r1.opc then
    if !vClass r0.opc && !excludedSlot0 r0.opc && vClass r1.opc then
      match decodeRaw r0 .none, decodeRaw r1 .none with
      | some s, some v => .ok (.instructionPair s v)
      | some _, none => .error .badField
      | none, _ => .error .badField
    else .error .pairClass
  else .error .unassigned

/-- A refusal of a word concerns the op in pair slot 1: slot 0's op keeps the rule that the word fails (R328, R331, R332). -/
def faultsV (w : BitVec 128) : Bool :=
  let r0 := RawOp.unpack (w.extractLsb' 4 60)
  let r1 := RawOp.unpack (w.extractLsb' 68 60)
  decide (w.extractLsb' 0 4 = 2 ∧ w.extractLsb' 64 4 = 0) && assigned r0.opc &&
    (!assigned r1.opc || (!vClass r0.opc && !excludedSlot0 r0.opc && (!vClass r1.opc || (decodeRaw r0 .none).isSome)))

/-- The length in bytes that bits 1:0 give (R320). -/
def wordLen (lo : BitVec 2) : Option Nat :=
  match lo.toNat with
  | 0 => some 8
  | 1 => some 12
  | 2 => some 16
  | _ => none

/-- The instruction that 128 bits hold, of which those of the word's length count (R320). -/
def decodeBits (w : BitVec 128) : Except DecodeErr Instr :=
  let r := RawOp.unpack (w.extractLsb' 4 60)
  let x32 := w.extractLsb' 64 32
  match (w.extractLsb' 0 2).toNat, (w.extractLsb' 2 2).toNat with
  | 0, 0 => decodeOne r .none
  | 1, 0 => decodeOne r (.x32 x32)
  | 1, 1 => decodeOne r (.ws (Ws.unpack x32))
  | 2, 0 => if w.extractLsb' 64 4 = 0 then decodePair r (RawOp.unpack (w.extractLsb' 68 60)) else .error .pairLowBits
  | 2, 1 => decodeOne r (.x64 (w.extractLsb' 64 64))
  | 2, 2 => decodeOne r (.wsx32 (Ws.unpack x32) (w.extractLsb' 96 32))
  | 3, _ => .error .misframed
  | _, _ => .error .badForm

/-- Bytes, the lowest address first, as one number (R4: little-endian). -/
def leBytes : List Byte → Nat
  | [] => 0
  | b :: bs => b.toNat + 256 * leBytes bs

/-- The `n` low bytes of a number, the lowest first. -/
def toBytes : Nat → Nat → List Byte
  | 0, _ => []
  | n + 1, v => BitVec.ofNat 8 v :: toBytes n (v / 256)

/-- The decoder: the instruction at the head of a list of bytes and its length, or the refusal (R320, R331). -/
def decode (bs : List Byte) : Except DecodeErr (Instr × Nat) :=
  match wordLen (BitVec.ofNat 2 (leBytes (bs.take 1))) with
  | none => .error .misframed
  | some n =>
    if bs.length < n then .error .misframed
    else match decodeBits (BitVec.ofNat 128 (leBytes (bs.take n))) with
      | .ok i => .ok (i, n)
      | .error e => .error e

/-- The form and length bits, the extension and its length in bytes (R320, R326). -/
def Ext.frame : Ext → BitVec 4 × BitVec 64 × Nat
  | .none => (0b0000, 0, 8)
  | .x32 v => (0b0001, 0#32 ++ v, 12)
  | .ws w => (0b0101, 0#32 ++ w.pack, 12)
  | .x64 v => (0b0110, v, 16)
  | .wsx32 w v => (0b1010, v ++ w.pack, 16)

/-- The 128 bits of an op with its extension, and its length in bytes. -/
def encodeOne (r : RawOp) (x : Ext) : BitVec 128 × Nat :=
  let f := x.frame
  (f.2.1 ++ r.pack ++ f.1, f.2.2)

/-- The 128 bits of an instruction word (zero above its length) and its length in bytes; none for an event, and for a
pair of things that are no ops. -/
def encodeBits (i : Instr) : Option (BitVec 128 × Nat) :=
  match i with
  | .instructionPair s v =>
    match encodeRaw s, encodeRaw v with
    | some r0, some r1 => some (r1.1.pack ++ 0#4 ++ r0.1.pack ++ 0b0010#4, 16)
    | some _, none => none
    | none, _ => none
  | i => (encodeRaw i).map (fun r => encodeOne r.1 r.2)

/-- The encoder: the bytes of an instruction as they stand in memory; no bytes for an event. -/
def encode (i : Instr) : List Byte :=
  match encodeBits i with
  | some (w, n) => toBytes n w.toNat
  | none => []

/-- The longest instruction word in bytes (R320). -/
def maxWordBytes : Nat := 16

/-- The instruction that the decoder reads from bits numbered as the opcode table numbers them; every bit above `nbits`
is zero. -/
def decodeTableWord (nbits w : Nat) : Option Instr :=
  match decode (toBytes maxWordBytes (w % 2 ^ nbits)) with
  | .ok (i, _) => some i
  | .error _ => none

end Sys2Proof
end

