-- ==== Sys2Proof/Machine/State.lean ====
section
/-! DEFINITION. The state of the W9: every piece of state that the spec gives the machine, as plain data. Sparse
things are lists of pairs of an index and a value, in rising order of the index, without entries that equal the value of
an index that is not listed. Each structure's docstring names the rules that give its fields. -/

namespace Sys2Proof.Machine

/-- A sparse map from a number to a value. -/
abbrev SMap (α : Type) := List (Nat × α)

/-- Float kinds (R45, R113). -/
inductive FK where
  | f32 | f16 | bf16 | e4m3 | e5m2 | a56
  deriving DecidableEq, Repr

/-- What an integer name does with a value it cannot hold (R42, R45). -/
inductive Mode where
  | wrap | sat | trap
  deriving DecidableEq, Repr

/-- The kind of a declared name (R45, R47): scalar integers (signed or not, width, mode), scalar floats, vectors with
their granted shape (R56), and queue names with the core and queue they are bound to (R76, R394). -/
inductive NKind where
  | int (sg : Bool) (w : Nat) (m : Mode)
  | flt (k : FK)
  | ivec (sg : Bool) (w : Nat) (m : Mode) (rg cg : Nat)
  | fvec (k : FK) (rg cg : Nat)
  | queue (core q : Nat)
  deriving DecidableEq, Repr

/-- A declared name: its kind, its values (one for a scalar, row by row for a vector; an integer as its exact value, a
float as its bit pattern), its F and P bits (R48), the ticket of its pending result (R49), and its bit position in the
register store (R53). -/
structure NameSt where
  kind : NKind
  vals : List Int
  f    : Bool
  p    : Bool
  pend : Option Nat
  pos  : Nat
  deriving DecidableEq, Repr

/-- A continuation record (R88); `ack` is false while the INC that must be acknowledged before another core may take
the record is under way (R93). -/
structure CRec where
  pc     : Word
  frame  : Word
  tuning : Word
  launch : Nat
  bits   : Nat
  prio   : Nat
  ack    : Bool
  deriving DecidableEq, Repr

/-- A restart entry (R285): as work for its core (R286), and as the restart point of a slot until its first RGN (R278). -/
structure Restart where
  cont : CRec
  expl : Bool
  sem  : Nat × Nat
  list : Word
  save : List (Word × Bool)
  deriving DecidableEq, Repr

/-- The state of a slot (R65), and held: a slot between its thread and its next work, which issues nothing and holds no
tuning (R94 to R96). -/
inductive SlotSt where
  | free | held | runnable | parked | trapped
  deriving DecidableEq, Repr

/-- What a held slot waits for: the reply of a TEST with the record of the SYNC (R94), the reply of a DEC (R95), or its
next probe of Seek (R96), by number: 0 the own deque, 1 to 7 the cluster, 8 the own quarter, 9 to 11 the others; and
whether the search is the periodic one of its core (R100). -/
inductive Held where
  | none
  | test (rec : CRec)
  | dec (launch prio : Nat)
  | seek (k : Nat) (periodic : Bool)
  deriving DecidableEq, Repr

/-- The progress of a GBAR or GENTER request of a slot (R372, R373). -/
inductive GroupReq where
  | none
  | genterSent (pa : Nat) (tr : Bool)
  | genterDone
  | gbarSent
  | gbarDone
  deriving DecidableEq, Repr

/-- ORD of a page (R168): strongly ordered, release consistent, unordered. -/
inductive POrd where
  | so | rc | uo
  deriving DecidableEq, Repr

/-- The state of one slot (R64, R65, R67, R68, R142, R261, R265, R275 to R278, R318, R332, R373); `bears` says that its
work belongs to the launch of `launch`, and keptV that the op which waits is the one in pair slot 1. `waitSince` is the cycle
since which the slot waits, of a slot that has begun a search the cycle of its first probe (R96). -/
structure Slot where
  st      : SlotSt
  held    : Held
  pc      : Word
  smode   : Bool
  tuning  : Word
  names   : List NameSt
  bits    : Nat
  ls0     : Word
  le0     : Word
  lc0     : Nat
  ls1     : Word
  le1     : Word
  lc1     : Nat
  fflags  : BitVec 5
  frame   : Word
  capbase : Nat
  launch  : Nat
  prio    : Nat
  group   : Word
  groupPa : Nat
  groupOrd : POrd
  groupTr : Bool
  marker  : Option (Word × Nat)
  greq    : GroupReq
  rgnpc   : Word
  rgntune : Word
  rgnframe : Word
  rgnlist : Word
  rgnsem  : Nat × Nat
  rgnseq  : Nat
  rcount  : Nat
  start   : Option Restart
  mconf   : Word
  epoch   : Nat
  bears   : Bool
  epc     : Word
  ecause  : Word
  eaddr   : Word
  waiton  : Word
  waitSince : Nat
  waitChecked : Bool
  trapslot : Bool
  kept    : Option (Nat × Nat)
  keptV   : Bool
  deriving DecidableEq, Repr

/-- A free slot as reset leaves it (R64, R65, R261). -/
def Slot.reset : Slot where
  st := .free
  held := .none
  pc := 0
  smode := false
  tuning := 0
  names := []
  bits := 0
  ls0 := 0
  le0 := 0
  lc0 := 0
  ls1 := 0
  le1 := 0
  lc1 := 0
  fflags := 0
  frame := 0
  capbase := 0
  launch := 0
  prio := 0
  group := 0
  groupPa := 0
  groupOrd := .so
  groupTr := false
  marker := none
  greq := .none
  rgnpc := 0
  rgntune := 0
  rgnframe := 0
  rgnlist := 0
  rgnsem := (0, 0)
  rgnseq := 0
  rcount := 0
  start := none
  mconf := 0
  epoch := 0
  bears := false
  epc := 0
  ecause := 0
  eaddr := 0
  waiton := 0
  waitSince := 0
  waitChecked := false
  trapslot := false
  kept := none
  keptV := false

/-- A trap record (R84, R262): the fields of its eight words. -/
structure TrapRec where
  cause  : Nat
  sub    : Nat
  name   : Nat
  tid    : Nat
  pc     : Word
  insn   : Word
  addr   : Word
  part   : Nat
  region : Bool
  nested : Bool
  smode  : Bool
  epoch  : Nat
  launch : Nat
  cyc    : Nat
  rgnpc  : Word
  deriving DecidableEq, Repr

/-- A message (R79, R84, R384): its partition, handler entry, payload words with their P bits, sender, target core. -/
structure Msg where
  part : Nat
  k    : Nat
  pl   : List (Word × Bool)
  src  : Tid
  dst  : Nat
  trap : Bool
  deriving DecidableEq, Repr

/-- A capsule (R228 to R230): header, the 256-byte itinerary region, tile words with their P bits; the partition of its
launch and whether it belongs to that launch; the core that sent it last, for the order of R234. -/
structure Capsule where
  hdr  : List Word
  its  : List Word
  tile : List (Word × Bool)
  part : Nat
  bears : Bool
  src  : Option Nat
  deriving DecidableEq, Repr

/-- A capsule buffer that holds a capsule (R234): the live header and itinerary, the tile length in bytes, the snapshot
as it arrived, the slot that holds it, whether it waits for a slot, when it entered, and its place in the entry order. -/
structure CapBuf where
  hdr     : List Word
  its     : List Word
  part    : Nat
  snap    : Capsule
  holder  : Option Tid
  waiting : Bool
  entered : Nat
  ord     : Nat
  deriving DecidableEq, Repr

/-- A performance counter (R308, R390, R391): its configuration fields, its count, and the cycle of the last change of its
configuration with EN, MODEF and EVT as they were before. -/
structure Ctr where
  en    : Bool
  modef : Nat
  evt   : Nat
  ovf   : Bool
  count : Nat
  old   : Option (Nat × Bool × Nat × Nat)
  deriving DecidableEq, Repr

/-- A counter at reset. -/
def Ctr.reset : Ctr := ⟨false, 0, 0, false, 0, none⟩

/-- A repack of a core (R59, R60): the slot that caused it, the cycle at which its first rotation begins, the cycle at which
it ends, the names it moves, as slot, index and new bit position, and the name that grows in it, with the bits that it has held
so far. -/
structure Repack where
  tid   : Tid
  from_ : Nat
  until_ : Nat
  moves : List (Nat × Nat × Nat)
  grown : Option (Nat × Nat × Nat)
  deriving DecidableEq, Repr

/-- The state that the slots of a core share: semaphores (R185), queues (R76), inbound port with trap messages and
ordinary messages (R80, R264), capsule buffers (R234), deque and overflow records, the oldest first, with the place of the
oldest in its ring (R98), restart work (R286), repack (R59), whether it is offline, or has failed and is to go offline
(R292), the cycle after that of the last periodic search (R100), the cycle after that of the last request which its deque
port served, and that request's rank among those of a cycle (R99), counters (R308). -/
structure Core where
  sems     : SMap Nat
  queues   : SMap (List (Word × Bool))
  inTrap   : List Msg
  inMsg    : List Msg
  msgSince : Nat
  capBufs  : SMap CapBuf
  capSince : Nat
  deque    : List CRec
  overflow : List CRec
  dqHead   : Nat
  ovHead   : Nat
  restart  : List Restart
  repack   : Option Repack
  offline  : Bool
  failing  : Bool
  lastSeek : Nat
  portAt   : Nat
  portRank : Nat
  ctrs     : SMap Ctr
  deriving DecidableEq, Repr

/-- A core at reset. -/
def Core.reset : Core where
  sems := []
  queues := []
  inTrap := []
  inMsg := []
  msgSince := 0
  capBufs := []
  capSince := 0
  deque := []
  overflow := []
  dqHead := 0
  ovHead := 0
  restart := []
  repack := none
  offline := false
  failing := false
  lastSeek := 0
  portAt := 0
  portRank := 0
  ctrs := []

/-- A leaf found by a walk (R168, R169): the page's first VA and its size, the PA it maps to, and its permission and
attribute fields. -/
structure Leaf where
  base  : Nat
  size  : Nat
  pa    : Nat
  r     : Bool
  w     : Bool
  x     : Bool
  u     : Bool
  ord   : POrd
  trace : Bool
  fdx   : Nat
  deriving DecidableEq, Repr

/-- An entry of a translation cache (R171): the partition and root it belongs to, and the leaf. -/
structure TEntry where
  part : Nat
  sysw : Bool
  leaf : Leaf
  deriving DecidableEq, Repr

/-- A Pegbox table resident in a cluster (R139): the partition and tag (the state table's VA), the 512
entries of the state table, and the chunk index. -/
structure PegTab where
  part : Nat
  tag  : Nat
  tab  : List Word
  idx  : List Word
  deriving DecidableEq, Repr

/-- An accumulator set of a matrix engine (R150): values by row × 256 + column, poison of entries, the flags it
gathered (R149), the row-to-core map loaded by MMAP (R152). -/
structure AccSet where
  vals   : SMap Int
  psn    : SMap Bool
  sflags : BitVec 5
  map    : List Word
  deriving DecidableEq, Repr

/-- An accumulator set at reset. -/
def AccSet.reset : AccSet := ⟨[], [], 0, []⟩

/-- The state that the cores of a cluster share: translation cache, the oldest first (R171), resident Pegbox tables,
the least recently used first (R139), the matrix FIFO of command ids (R140), two accumulator sets (R150), counters. -/
structure Cluster where
  tcache : List TEntry
  peg    : List PegTab
  mfifo  : List Nat
  acc0   : AccSet
  acc1   : AccSet
  ctrs   : SMap Ctr
  deriving DecidableEq, Repr

/-- A cluster at reset. -/
def Cluster.reset : Cluster := ⟨[], [], [], .reset, .reset, []⟩

/-- The state of a quarter: whether the current limiter inserts rotations from rotation `limAt` on, and whether it did
before (R21, R307), dispatcher round, the cycle after that of its last placement (R106), counters. -/
structure Quarter where
  limit : Bool
  was   : Bool
  limAt : Nat
  round : Nat
  placed : Nat
  ctrs  : SMap Ctr
  deriving DecidableEq, Repr

/-- A quarter at reset. -/
def Quarter.reset : Quarter := ⟨false, false, 0, 0, 0, []⟩

/-- The last traced write of a word (R210): PA, writer (SRC, DEV, TID), cycle. -/
structure Traced where
  pa  : Nat
  src : Nat
  dev : Nat
  tid : Nat
  cyc : Nat
  deriving DecidableEq, Repr

/-- A place of an access: a physical address, or a local-store offset of a core. -/
inductive Tgt where
  | mem (pa : Nat)
  | ls (core off : Nat)
  deriving DecidableEq, Repr

/-- A far access of a slot on its way to its owner: the slot and its epoch, the place, its length, whether it writes, the
ORD kind it was translated with, its acquire scope, its TRACE bit. -/
structure Acc where
  tid   : Tid
  ep    : Nat
  tgt   : Tgt
  n     : Nat
  wr    : Bool
  ord   : POrd
  acq   : Option Scope
  trace : Bool
  deriving DecidableEq, Repr

/-- The trace unit of a bank port (R210): writer table, the newest first, ring of entries, the newest first, LOGGED by
partition; and the GENTERs that the bank holds (R372), by record PA, in arrival order, and the members parked in a GBAR
of a record. -/
structure Bank where
  writers : List Traced
  ring    : List (Word × Word)
  logged  : SMap Nat
  held    : List (Acc × Word)
  waiters : List (Nat × Tid × Nat)
  deriving DecidableEq, Repr

/-- A bank port at reset. -/
def Bank.reset : Bank := ⟨[], [], [], [], []⟩

/-- The configuration of a partition (R270): the fields of its control block. -/
structure Pcb where
  ncm1  : Nat
  first : Nat
  trapc : Nat
  wle   : Nat
  fpe   : BitVec 5
  rsv   : Bool
  capen : Bool
  wm1   : Nat
  croot : Nat
  sroot : Nat
  fdt   : Word
  lqb   : Word
  ovf   : Word
  htab  : Word
  ptab  : Word
  dsink0 : Word
  dsink1 : Word
  svec  : Word
  raw   : List Word
  deriving DecidableEq, Repr

/-- A launch queue of a partition as the device sees it (R102, R104 to R106, R274): the PA of its header, the TAIL seen
and when, whether it is stopped (the ECODE 7 or 9, or 1 while drained), the launch of its head, and its stall watchdog. -/
structure LQueue where
  pa      : Nat
  tail    : Nat
  seen    : List (Nat × Nat)
  stop    : Nat
  cur     : Option Nat
  wdBudget : Nat
  wdSince : Nat
  wdSent  : Bool
  deriving DecidableEq, Repr

/-- A launch queue at reset. -/
def LQueue.reset : LQueue := ⟨0, 0, [], 0, none, 0, 0, false⟩

/-- A launch (R103, R105 to R108, R273, R283): its partition and level, the number of its record in its queue, the eight
words of the record, BITS, the next thread to place, the core that took the last one, whether it still holds its queue's
head, when it was seen, threads that ended without starting, its budget. -/
structure Launch where
  part    : Nat
  lev     : Nat
  recNo   : Nat
  words   : List Word
  bits    : Nat
  next    : Nat
  last    : Option Nat
  placing : Bool
  seen    : Nat
  wdStart : Nat
  wdSent  : Bool
  susp    : Bool
  susPaused : Nat
  deriving DecidableEq, Repr

/-- A pre-empted launch (R283, R286): as it was suspended, with the cores whose local stores were spilled. It outlives the
partition's PRESET, so that a resume can hold the cores against the partition and let the budget run on. -/
structure Saved where
  launch : Launch
  cores  : List Nat
  deriving DecidableEq, Repr

/-- A partition (R269, R270): configuration, the next sequence number of its launches (R88), its four queues, whether
its ports refuse messages since a drain (R282). -/
structure Part where
  cfg    : Option Pcb
  seq    : Nat
  q0     : LQueue
  q1     : LQueue
  q2     : LQueue
  q3     : LQueue
  refuse : Bool
  deriving DecidableEq, Repr

/-- A partition without a configuration. -/
def Part.reset : Part := ⟨none, 0, .reset, .reset, .reset, .reset, false⟩

/-- The name that a later result is bound for (R49, R174): slot, epoch, index, ticket. -/
structure Dst where
  tid : Tid
  ep  : Nat
  ix  : Nat
  tk  : Nat
  deriving DecidableEq, Repr

/-- A value that lands in a name: an integer, a float pattern of the name's kind, the bytes of memory of an access, or
the elements of a vector, row by row with `cols` columns, of which only those present are written (R57, R174, R430). -/
inductive LandV where
  | int (v : Int)
  | pat (v : Nat)
  | raw (n v : Nat)
  | vec (cols : Nat) (vs : List (Option Int))
  deriving DecidableEq, Repr

/-- The operation of an atomic (R175). -/
inductive AtOp where
  | add | and | cas | fadd | fmax | fmin | max | min | or | swap | xor
  deriving DecidableEq, Repr

/-- The type of an atomic's word (R175). -/
inductive AtTy where
  | int (t : ITy)
  | flt (t : FTy)
  deriving DecidableEq, Repr

/-- Which register or name a SLOTRD or SLOTWR acts on, and its target (R267, R407). -/
structure SlotOp where
  tgt : Word
  sp  : SlotSp
  sel : Nat
  deriving DecidableEq, Repr

/-- A membership change asked for by XMEMBER, with the words of its list or mask (R436). -/
inductive XmOp where
  | create (set : Nat) (auto_ : Bool) (ws : List Word)
  | shrink (set : Nat) (mask : List Word)
  | join (set sponsor last : Nat)
  | leave (set : Nat)
  deriving DecidableEq, Repr

/-- A request in flight between units of the device. -/
inductive Req where
  /-- An LDX on its way to its owner (R173, R188). -/
  | read (a : Acc) (dst : Dst)
  /-- An STX on its way (R173, R188): the value and its poison. -/
  | write (a : Acc) (v : Nat) (p : Bool)
  /-- An atomic on its way (R176): operand, compare value, poison, return name. -/
  | atomic (a : Acc) (op : AtOp) (ty : AtTy) (rm : Rm) (b c : Int) (p : Bool) (dst : Option Dst)
  /-- Frame operations (R92). -/
  | inc (a : Acc) (launch : Nat) (frame : Word)
  | hdr (a : Acc) (parent tuning : Word)
  | dec (a : Acc) (launch prio : Nat) (pc frame : Word)
  | decPrime (src : Tid) (ep : Nat) (launch : Nat) (pa : Nat) (trace : Bool) (frame : Word)
  | test (a : Acc) (resume : Word)
  /-- Replies of frame operations to a core (R92 to R95). -/
  | incAck (core : Nat) (launch : Nat) (frame : Word)
  | testReply (tid : Tid) (ep : Nat) (go : Bool)
  | decReply (tid : Tid) (ep : Nat) (rel : Option (Word × Word × Word))
  /-- Group requests to the bank of a record (R86, R372, R373), and the reply of a GENTER. -/
  | genter (a : Acc) (va : Word)
  | genterReply (tid : Tid) (ep : Nat) (va : Word) (pa : Nat) (ord : POrd) (tr : Bool)
  | genterWd (tid : Tid) (ep : Nat) (pa : Nat) (tr timeout : Bool)
  | gleave (a : Acc) (gen : Option Nat)
  | gbar (a : Acc) (pc : Word)
  | gsize (a : Acc) (dst : Dst)
  /-- A result bound for a name (R174), with the flags it carries (R368). -/
  | land (dst : Dst) (v : LandV) (p : Bool) (fl : BitVec 5)
  /-- The result of a PDRAIN or PRESET, which lands once what it discarded has no access under way (R289). -/
  | landAfter (dst : Dst) (v : Int)
  /-- The result of a TLBINV, which lands once these accesses, by number, are performed (R417). -/
  | landUses (dst : Dst) (uses : List Nat)
  /-- An operation of the special-function unit (R368, R430): the source patterns as f32; `cols` is 0 for a scalar, else
  the columns of the shape. -/
  | sfu (dst : Dst) (fn : SfuFn) (rm : Rm) (sat : Bool) (src : List (Option Nat)) (cols : Nat) (p : Bool)
  /-- Requests to another slot (R408 to R411). -/
  | slotrd (src : Tid) (part : Nat) (o : SlotOp) (dst : Dst)
  | slotwr (src : Tid) (part : Nat) (o : SlotOp) (v : Int) (run : Bool) (dst : Dst)
  | slotkill (src : Tid) (part : Nat) (tgt : Word) (dst : Dst)
  /-- A push through a remote binding (R77, R194). -/
  | push (tid : Tid) (ep : Nat) (core q : Nat) (v : Word) (p : Bool)
  /-- A message in the fabric (R80). -/
  | msg (m : Msg)
  /-- A walk of a cluster (R171): partition, root, a VA of the page. -/
  | walk (cl : Nat) (part : Nat) (sysw : Bool) (va : Nat)
  /-- A probe of Seek at a deque port (R96, R99): the seeking slot, its probe number, and the victims still to be
  looked at. -/
  | probe (tid : Tid) (ep : Nat) (k : Nat) (victims : List Nat)
  /-- A record taken from a deque on its way to the seeker (R96). -/
  | took (tid : Tid) (ep : Nat) (rec : CRec)
  /-- Capsules between places (R236): to a core since a cycle, to the banks, home, to a peer, to a sink. -/
  | capCore (core : Nat) (c : Capsule) (since : Nat)
  | capBank (c : Capsule)
  | capHome (c : Capsule)
  | capEgress (c : Capsule) (dev : Nat)
  | capSink (c : Capsule) (dflt : Bool)
  /-- A membership change (R436, R437): the issuer, its set, when it was asked for. -/
  | xmember (dst : Dst) (part : Nat) (op : XmOp) (since : Nat)
  deriving DecidableEq, Repr

/-- What an engine command does (R179). -/
inductive CmdKind where
  /-- R352 to R355: modifiers, destination, source, byte count. -/
  | copy (m : CopyMods) (a b : Nat) (n : Nat)
  /-- R214, R215: the request captured at issue. -/
  | gather (req : List Word) (psn keepf : Bool)
  | scatter (req : List Word) (psn keepf : Bool)
  | scatadd (req : List Word) (psn keepf : Bool)
  /-- R177: op and request offset. -/
  | bankop (op : Nat) (off : Nat)
  /-- R360. -/
  | dtload (va : Nat)
  /-- R109: record offset and level. -/
  | launch (off lev : Nat)
  /-- R146 to R157, with the captured MCONF. -/
  | mma (off : Nat) (z gg t : Bool) (conf : Word)
  | mmap (off : Nat) (conf : Word)
  | mdrain (acc : Bool) (conf : Word)
  | mclr (conf : Word)
  /-- R300 to R302. -/
  | xreduce (off : Nat) (confine : Bool)
  | xgather (off : Nat) (confine : Bool)
  | xbcast (off : Nat) (confine : Bool)
  /-- R435: the request read at issue. -/
  | xlog (req : List Word) (keepf : Bool)
  deriving DecidableEq, Repr

/-- An accepted engine command (R179 to R184, R275, R328): issuer, its launch and whether it belongs to it, partition and
mode, its WS32 fields, its status name, the region it was issued in, how far it has come, what it keeps meanwhile,
whether it stands in the cluster FIFO (R140), whether its engine has taken it up and when, whether it is cancelled at its
next boundary (R159), and the status of one that has ended while its core's register store is being repacked (R59). -/
structure Cmd where
  tid     : Tid
  ep      : Nat
  launch  : Nat
  bears   : Bool
  part    : Nat
  smode   : Bool
  kind    : CmdKind
  ws      : Option Ws
  dst     : Option Dst
  rgnseq  : Nat
  prog    : Nat
  aux     : List Nat
  inFifo  : Bool
  begun   : Bool
  since   : Nat
  stopping : Bool
  ended   : Option (Nat × Nat × Nat)
  deriving DecidableEq, Repr

/-- An entry of a member's collective log (R303): LSEQ, and the eight words. -/
structure XLogEnt where
  lseq : Nat
  data : List Word
  deriving DecidableEq, Repr

/-- A membership set as this device holds it (R299, R303): AUTO, generation, the devices by logical number, the next LSEQ,
the log, the newest first. -/
structure XSet where
  auto_   : Bool
  gen     : Nat
  devs    : List Nat
  lseq    : Nat
  log     : List XLogEnt
  deriving DecidableEq, Repr

/-- A piece of what the members of sets, this device among them, have brought to a collective or a change (R300, R437), or
of a capsule from a peer (R240): what it is (log entry 44), the device it comes from, the set as partition × 65,536 + SETID,
LSEQ, the number of its first word, its words, and when it arrived. -/
structure XIn where
  kind  : Nat
  dev   : Nat
  key   : Nat
  lseq  : Nat
  off   : Nat
  words : List (Word × Bool)
  at_   : Nat
  deriving DecidableEq, Repr

/-- A flit of a peer link (R296) with the fields that a receiver acts on: sequence number, type, acknowledged number,
source and destination device, virtual channel, payload words with their P bits. -/
structure Flit where
  seq   : Nat
  kind  : Nat
  ack   : Nat
  src   : Nat
  dst   : Nat
  vc    : Nat
  words : List (Word × Bool)
  deriving DecidableEq, Repr

/-- A flit that a port keeps (R297, R298): the capsule whose last flit it is, and how often it has been replayed. -/
structure KeptFlit where
  flit    : Flit
  capsule : Option Capsule
  replays : Nat
  deriving DecidableEq, Repr

/-- A peer port (R295 to R298): whether it is up, the device it reaches, the sequence number it expects and the one it
sends next, the flits sent and not acknowledged, those that wait for room behind them, since when the oldest of the former
has waited, and the flits last put on the lanes, the newest first. -/
structure Port where
  up      : Bool
  peer    : Nat
  rxSeq   : Nat
  txSeq   : Nat
  unacked : List KeptFlit
  queue   : List KeptFlit
  since   : Nat
  wire    : List Flit
  deriving DecidableEq, Repr

/-- A port at reset. -/
def Port.reset : Port := ⟨false, 0, 0, 0, [], [], 0, []⟩

/-- A request of this device to a peer's memory (R202, R294): the tag that its flits carry, the request or engine command it is
made for, the device, its words, and the answer. -/
structure PeerAsk where
  tag : Nat
  id  : Nat
  dev : Nat
  req : List (Word × Bool)
  ans : Option (List (Word × Bool))
  deriving DecidableEq, Repr

/-- The SPDM responder (R306): how far its connection has come, the digest of the firmware that boot measured, and the
last response it gave. -/
structure Spdm where
  state : Nat
  meas  : List Byte
  resp  : List Byte
  deriving DecidableEq, Repr

/-- Reasons for which the machine stops. No rule of the spec stops the machine as a whole: a trap, a status word, a fault
record or a P bit reports every fault, and each of these is a next state. -/
inductive Fault where
  deriving DecidableEq, Repr

/-- Reasons for which an instruction has no meaning. -/
inductive Refusal where
  /-- Raised by an arm of exec for an instruction that is not modelled yet; safe: the machine stops. -/
  | notModelled (mnemonic : String)
  deriving DecidableEq, Repr

/-- The state of the device. `mem` holds the bytes of the common store, the tiers, host memory and the peer windows by
physical address, `memP` the P bits of their 8-byte words; `lmem`, `lf` and `lp` the bytes, F bits and P bits of the local
stores, indexed by core × 2^18 + offset and core × 2^15 + word. `cur`, `insn` and `ilen` give the slot whose turn it is,
its instruction word and the word's length in bytes. `boot` holds the image that boot verifies (R305), `asked` the requests to
peers' memories under way. `lfsr` is the
LFSR of every quarter: the four start alike and step together (R96). -/
structure State where
  -- memory (R160 to R166)
  mem     : List Host.Cell
  memP    : SMap Bool
  lmem    : List Host.Cell
  lf      : SMap Bool
  lp      : SMap Bool
  -- agents
  slots   : SMap Slot
  cores   : SMap Core
  clus    : SMap Cluster
  qtrs    : SMap Quarter
  banks   : SMap Bank
  parts   : SMap Part
  launches : SMap Launch
  saved   : SMap Saved
  xsets   : SMap XSet
  xin     : List XIn
  ports   : SMap Port
  asked   : List PeerAsk
  -- things under way
  inflight : SMap Req
  cmds    : SMap Cmd
  nextId  : Nat
  -- host interface (R304 to R306)
  fwstat  : Nat
  boot    : Option (Option FwImage)
  mchkstat : Word
  mchkrec : List Word
  mchkq   : List (List Word)
  msix    : Nat
  spdm    : Spdm
  devNum  : Nat
  hostRd  : List (Byte × Bool)
  -- time and turns (R62)
  cycle   : Nat
  lfsr    : BitVec 16
  turnCore : Nat
  cur     : Tid
  insn    : Nat
  ilen    : Nat
  -- the model's own fields
  free    : Nat
  inputs  : List Instr
  deriving DecidableEq, Repr

/-- The device right after reset, before boot has applied a firmware image (R305): log entries 2 to 6 name the values
that the spec does not give. -/
def State.reset : State where
  mem := []
  memP := []
  lmem := []
  lf := []
  lp := []
  slots := []
  cores := []
  clus := []
  qtrs := []
  banks := []
  parts := []
  launches := []
  saved := []
  xsets := []
  xin := []
  ports := []
  asked := []
  inflight := []
  cmds := []
  nextId := 1
  fwstat := 0
  boot := none
  mchkstat := 0
  mchkrec := [0, 0, 0, 0, 0, 0, 0, 0]
  mchkq := []
  msix := 0
  spdm := ⟨0, [], []⟩
  devNum := 0
  hostRd := []
  cycle := 0
  lfsr := 1
  turnCore := 0
  cur := 0
  insn := 0
  ilen := 8
  free := 0
  inputs := []

end Sys2Proof.Machine
end

