-- ==== Sys2Proof/Machine/Flags.lean ====
section
/-! DEFINITION. Flags and float arithmetic: the exact value of a float pattern, exact operations on such values, the one
rounding to a kind with its flags, comparisons, minimum and maximum, conversions (spec/06_numbers.md R112 to R124,
R128). -/

namespace Sys2Proof.Machine

/-- FFLAGS bits (R120). -/
abbrev fNV : BitVec 5 := 16
/-- Division by zero. -/
abbrev fDZ : BitVec 5 := 8
/-- Overflow. -/
abbrev fOF : BitVec 5 := 4
/-- Underflow. -/
abbrev fUF : BitVec 5 := 2
/-- Inexact. -/
abbrev fNX : BitVec 5 := 1

/-- Bits of a kind (R47, R112). -/
def FK.width : FK → Nat
  | .f32 => 32 | .f16 => 16 | .bf16 => 16 | .e4m3 => 8 | .e5m2 => 8 | .a56 => 56
/-- Exponent bits (R112). -/
def FK.ebits : FK → Nat
  | .f32 => 8 | .f16 => 5 | .bf16 => 8 | .e4m3 => 4 | .e5m2 => 5 | .a56 => 11
/-- Fraction bits (R112). -/
def FK.fbits : FK → Nat
  | .f32 => 23 | .f16 => 10 | .bf16 => 7 | .e4m3 => 3 | .e5m2 => 2 | .a56 => 44
/-- Exponent bias (R112). -/
def FK.bias : FK → Int
  | .f32 => 127 | .f16 => 15 | .bf16 => 127 | .e4m3 => 7 | .e5m2 => 15 | .a56 => 1023
/-- The kind has infinities (R112). -/
def FK.hasInf : FK → Bool
  | .f32 => true | .f16 => true | .bf16 => true | .e4m3 => false | .e5m2 => true | .a56 => true
/-- Canonical NaN (R113). -/
def FK.cnan : FK → Nat
  | .f32 => 0x7FC00000 | .f16 => 0x7E00 | .bf16 => 0x7FC0 | .e4m3 => 0x7F | .e5m2 => 0x7E
  | .a56 => 0x7FF80000000000
/-- Pattern of the largest finite magnitude (R113). -/
def FK.maxFin : FK → Nat
  | .f32 => 0x7F7FFFFF | .f16 => 0x7BFF | .bf16 => 0x7F7F | .e4m3 => 0x7E | .e5m2 => 0x7B
  | .a56 => 0x7FEFFFFFFFFFFF
/-- Pattern of +∞, or for e4m3 the pattern that stands in its place (R118). -/
def FK.infPat : FK → Nat
  | .f32 => 0x7F800000 | .f16 => 0x7C00 | .bf16 => 0x7F80 | .e4m3 => 0x7F | .e5m2 => 0x7C
  | .a56 => 0x7FF00000000000
/-- The sign bit's weight. -/
def FK.signBit (k : FK) : Nat := 2 ^ (k.width - 1)
/-- A NaN with the most significant fraction bit 0 is signalling in these kinds (R113). -/
def FK.hasSnan : FK → Bool
  | .f32 => true | .f16 => true | .bf16 => true | .e4m3 => false | .e5m2 => false | .a56 => false
/-- The exponent of the quantum of subnormals: 1 − bias − fraction bits. -/
def FK.qmin (k : FK) : Int := 1 - k.bias - k.fbits

/-- The exact value of a float: a NaN, an infinity, or (−1)^neg × m × 2^e; a zero keeps its sign. -/
inductive FV where
  | nan (signalling : Bool)
  | inf (neg : Bool)
  | fin (neg : Bool) (m : Nat) (e : Int)
  deriving DecidableEq, Repr

/-- The value of a pattern (R112, R113). -/
def FK.decode (k : FK) (pat : Nat) : FV :=
  let p := pat % 2 ^ k.width
  let neg := decide (k.signBit ≤ p)
  let mag := p % k.signBit
  let f := mag % 2 ^ k.fbits
  let x := mag / 2 ^ k.fbits
  if k.hasInf then
    if x = 2 ^ k.ebits - 1 then
      if f = 0 then .inf neg else .nan (k.hasSnan && decide (f < 2 ^ (k.fbits - 1)))
    else if x = 0 then .fin neg f k.qmin
    else .fin neg (f + 2 ^ k.fbits) (k.qmin + x - 1)
  else if mag = k.cnan then .nan false
  else if x = 0 then .fin neg f k.qmin
  else .fin neg (f + 2 ^ k.fbits) (k.qmin + x - 1)

/-- A pattern and the flags that its making raised. -/
abbrev Rounded := Nat × BitVec 5

/-- Put a sign on a magnitude pattern. -/
def FK.signed (k : FK) (neg : Bool) (mag : Nat) : Nat := if neg then mag + k.signBit else mag

/-- Whether the remainder of a rounding adds one (R115). -/
def roundUp (rm : Rm) (neg : Bool) (n r half : Nat) : Bool :=
  match rm with
  | .rne => decide (half < r) || (decide (r = half) && decide (n % 2 = 1))
  | .rtz => false
  | .rdn => neg && decide (r ≠ 0)
  | .rup => !neg && decide (r ≠ 0)

/-- m × 2^e rounded to a multiple of 2^q: the multiple and whether it is inexact. -/
def roundQ (rm : Rm) (neg : Bool) (m : Nat) (e q : Int) : Nat × Bool :=
  if q ≤ e then (m * 2 ^ (e - q).toNat, false)
  else
    let s := (q - e).toNat
    let n := m / 2 ^ s
    let r := m % 2 ^ s
    (if roundUp rm neg n r (2 ^ (s - 1)) then n + 1 else n, decide (r ≠ 0))

/-- The result of an overflow (R118). -/
def FK.overflow (k : FK) (rm : Rm) (sat neg : Bool) : Nat :=
  let toInf := match rm with
    | .rne => true | .rtz => false | .rdn => neg | .rup => !neg
  k.signed neg (if toInf && !sat then k.infPat else k.maxFin)

/-- RoundToKind of a finite value (R116, R118): tininess is detected after rounding. -/
def FK.roundFin (k : FK) (rm : Rm) (sat neg : Bool) (m : Nat) (e : Int) : Rounded :=
  if m = 0 then (k.signed neg 0, 0)
  else
    let ex : Int := Nat.log2 m + e
    let q0 : Int := ex - k.fbits
    let q : Int := if q0 ≤ k.qmin then k.qmin else q0
    let (n, inx) := roundQ rm neg m e q
    let mag := (q - k.qmin).toNat * 2 ^ k.fbits + n
    if k.maxFin < mag then (k.overflow rm sat neg, fOF ||| fNX)
    else
      let (n0, _) := roundQ rm neg m e q0
      let tiny := decide (q0 < k.qmin) && !(decide (q0 + 1 = k.qmin) && decide (n0 = 2 ^ (k.fbits + 1)))
      (k.signed neg mag, (if inx then fNX else 0) ||| (if tiny && inx then fUF else 0))

/-- RoundToKind (R42, R116 to R118). With `dz` the infinity comes from a division by zero, whose flag is DZ alone. -/
def FK.round (k : FK) (rm : Rm) (sat : Bool) (dz : Bool) : FV → Rounded
  | .nan s => (k.cnan, if s then fNV else 0)
  | .inf neg =>
    if k.hasInf then (k.signed neg k.infPat, 0)
    else (k.signed neg (if sat then k.maxFin else k.infPat), if dz then 0 else fNV)
  | .fin neg m e => k.roundFin rm sat neg m e

/-- An exact result: its value, the flags of its forming, and whether it is the infinity of a division by zero. -/
structure FRes where
  v  : FV
  fl : BitVec 5
  dz : Bool
  deriving DecidableEq, Repr

/-- An exact result without flags. -/
def FRes.pure (v : FV) : FRes := ⟨v, 0, false⟩

/-- Round an exact result; NaN operands have raised their flag already. -/
def FRes.round (r : FRes) (k : FK) (rm : Rm) (sat : Bool) : Rounded :=
  let (p, f) := k.round rm sat r.dz r.v
  (p, f ||| r.fl)

/-- The value is a NaN. -/
def FV.isNan : FV → Bool
  | .nan _ => true | .inf _ => false | .fin _ _ _ => false
/-- The value is a signalling NaN. -/
def FV.isSnan : FV → Bool
  | .nan s => s | .inf _ => false | .fin _ _ _ => false
/-- The sign of a value; a NaN counts as positive. -/
def FV.neg : FV → Bool
  | .nan _ => false | .inf n => n | .fin n _ _ => n
/-- The value is a zero. -/
def FV.isZero : FV → Bool
  | .nan _ => false | .inf _ => false | .fin _ m _ => decide (m = 0)
/-- The value with the other sign. -/
def FV.negate : FV → FV
  | .nan s => .nan s | .inf n => .inf (!n) | .fin n m e => .fin (!n) m e

/-- The NaN result of an operation with a NaN operand (R117). -/
def nanRes (snan : Bool) : FRes := ⟨.nan false, if snan then fNV else 0, false⟩
/-- The NaN result of an invalid operation (R117). -/
def invalid : FRes := ⟨.nan false, fNV, false⟩

/-- The integer (−1)^neg × m × 2^(e − e0), for e0 ≤ e. -/
def scaled (neg : Bool) (m : Nat) (e e0 : Int) : Int :=
  let v : Int := m * 2 ^ (e - e0).toNat
  if neg then -v else v

/-- The exact sum of two finite values (R116: the sign of an exact zero). -/
def addFin (rm : Rm) (n1 : Bool) (m1 : Nat) (e1 : Int) (n2 : Bool) (m2 : Nat) (e2 : Int) : FV :=
  let e0 := min e1 e2
  let s := scaled n1 m1 e1 e0 + scaled n2 m2 e2 e0
  if s = 0 then .fin (if n1 = n2 then n1 else decide (rm = .rdn)) 0 0
  else .fin (decide (s < 0)) s.natAbs e0

/-- a + b (R116, R117). -/
def fAdd (rm : Rm) (a b : FV) : FRes :=
  match a, b with
  | .nan s, b => nanRes (s || b.isSnan)
  | .inf _, .nan s => nanRes s
  | .fin _ _ _, .nan s => nanRes s
  | .inf n1, .inf n2 => if n1 = n2 then .pure (.inf n1) else invalid
  | .inf n, .fin _ _ _ => .pure (.inf n)
  | .fin _ _ _, .inf n => .pure (.inf n)
  | .fin n1 m1 e1, .fin n2 m2 e2 => .pure (addFin rm n1 m1 e1 n2 m2 e2)

/-- a − b. -/
def fSub (rm : Rm) (a b : FV) : FRes := fAdd rm a b.negate

/-- a × b (R116, R117). -/
def fMul (a b : FV) : FRes :=
  match a, b with
  | .nan s, b => nanRes (s || b.isSnan)
  | .inf _, .nan s => nanRes s
  | .fin _ _ _, .nan s => nanRes s
  | .inf n1, .inf n2 => .pure (.inf (n1 != n2))
  | .inf n1, .fin n2 m _ => if m = 0 then invalid else .pure (.inf (n1 != n2))
  | .fin n1 m _, .inf n2 => if m = 0 then invalid else .pure (.inf (n1 != n2))
  | .fin n1 m1 e1, .fin n2 m2 e2 => .pure (.fin (n1 != n2) (m1 * m2) (e1 + e2))

/-- a × b + c, exact (R364, R365); 0 × ∞ is invalid whatever c is. -/
def fFma (rm : Rm) (a b c : FV) : FRes :=
  let p := fMul a b
  if p.v.isNan then ⟨.nan false, p.fl ||| (if c.isSnan then fNV else 0), false⟩
  else fAdd rm p.v c

/-- a / b (R117, R118, R364): a quotient that is not exact carries a one below its last bit, which no rounding of a
kind can tell from the exact quotient. -/
def fDiv (a b : FV) : FRes :=
  match a, b with
  | .nan s, b => nanRes (s || b.isSnan)
  | .inf _, .nan s => nanRes s
  | .fin _ _ _, .nan s => nanRes s
  | .inf _, .inf _ => invalid
  | .inf n1, .fin n2 _ _ => .pure (.inf (n1 != n2))
  | .fin n1 _ _, .inf n2 => .pure (.fin (n1 != n2) 0 0)
  | .fin n1 m1 e1, .fin n2 m2 e2 =>
    if m2 = 0 then (if m1 = 0 then invalid else ⟨.inf (n1 != n2), fDZ, true⟩)
    else
      let x := m1 * 2 ^ 128
      let q := x / m2
      let r := x % m2
      .pure (.fin (n1 != n2) (2 * q + (if r = 0 then 0 else 1)) (e1 - e2 - 129))

/-- The integer square root, by its binary digits from digit `k` down. -/
def isqrt (n : Nat) : Nat → Nat → Nat
  | 0, r => r
  | k + 1, r => let r' := r + 2 ^ k; isqrt n k (if r' * r' ≤ n then r' else r)

/-- √a (R117, R364). -/
def fSqrt (a : FV) : FRes :=
  match a with
  | .nan s => nanRes s
  | .inf true => invalid
  | .inf false => .pure (.inf false)
  | .fin neg m e =>
    if m = 0 then .pure (.fin neg 0 0)
    else if neg then invalid
    else
      let e' : Int := if e % 2 = 0 then e - 128 else e - 129
      let x := m * 2 ^ (e - e').toNat
      let r := isqrt x (Nat.log2 x / 2 + 1) 0
      .pure (.fin false (2 * r + (if r * r = x then 0 else 1)) (e' / 2 - 1))

/-- The order of two values that are no NaNs, by their exact values; −0 = +0. -/
def cmpFV (a b : FV) : Ordering :=
  match a, b with
  | .nan _, _ => .eq
  | _, .nan _ => .eq
  | .inf n1, .inf n2 => if n1 = n2 then .eq else if n1 then .lt else .gt
  | .inf n, .fin _ _ _ => if n then .lt else .gt
  | .fin _ _ _, .inf n => if n then .gt else .lt
  | .fin n1 m1 e1, .fin n2 m2 e2 =>
    let e0 := min e1 e2
    compare (scaled n1 m1 e1 e0) (scaled n2 m2 e2 e0)

/-- a lies below b when −0 orders below +0 (R119). -/
def belowFV (a b : FV) : Bool :=
  match cmpFV a b with
  | .lt => true
  | .gt => false
  | .eq => a.isZero && b.isZero && a.neg && !b.neg

/-- minimumNumber or maximumNumber (R119) and its flag. -/
def fMinMax (mx : Bool) (a b : FV) : FV × BitVec 5 :=
  let fl := if a.isSnan || b.isSnan then fNV else 0
  if a.isNan && b.isNan then (.nan false, fl)
  else if a.isNan then (b, fl)
  else if b.isNan then (a, fl)
  else (if belowFV a b then (if mx then b else a) else (if mx then a else b), fl)

/-- The condition and flag of a float comparison (R366). -/
def fCompare (cc : FCc) (a b : FV) : Bool × BitVec 5 :=
  let sn := if a.isSnan || b.isSnan then fNV else 0
  if a.isNan || b.isNan then
    match cc with
    | .eq => (false, sn)
    | .ne => (true, sn)
    | .un => (true, sn)
    | .lt => (false, fNV)
    | .le => (false, fNV)
    | .gt => (false, fNV)
    | .ge => (false, fNV)
  else
    let o := cmpFV a b
    match cc with
    | .eq => (o == .eq, 0)
    | .ne => (o != .eq, 0)
    | .lt => (o == .lt, 0)
    | .le => (o != .gt, 0)
    | .gt => (o == .gt, 0)
    | .ge => (o != .lt, 0)
    | .un => (false, 0)

/-- A finite value rounded to an integer, and whether it is inexact (R123). -/
def roundInt (rm : Rm) (neg : Bool) (m : Nat) (e : Int) : Int × Bool :=
  let (n, inx) := roundQ rm neg m e 0
  (if neg then -(n : Int) else n, inx)

/-- An integer as an exact value. -/
def FV.ofInt (v : Int) : FV := .fin (decide (v < 0)) v.natAbs 0

/-- An integer rounded to a float kind (R124). -/
def FK.ofInt (k : FK) (rm : Rm) (sat : Bool) (v : Int) : Rounded := k.round rm sat false (.ofInt v)

/-- A pattern of one kind rounded to another (R122). -/
def FK.convert (src dst : FK) (rm : Rm) (sat : Bool) (pat : Nat) : Rounded :=
  dst.round rm sat false (src.decode pat)

/-- A kind holds every value of another (R367). -/
def FK.holds (k src : FK) : Bool :=
  match k, src with
  | .a56, _ => true
  | .f32, .a56 => false
  | .f32, _ => true
  | .f16, .f16 => true
  | .f16, .e4m3 => true
  | .f16, .e5m2 => true
  | .f16, _ => false
  | .bf16, .bf16 => true
  | .bf16, .e4m3 => true
  | .bf16, .e5m2 => true
  | .bf16, _ => false
  | .e4m3, .e4m3 => true
  | .e4m3, _ => false
  | .e5m2, .e5m2 => true
  | .e5m2, _ => false

/-- The pattern of a NaN is the canonical one of its kind, and no payload passes through (R117). -/
def FK.canon (k : FK) (pat : Nat) : Nat := if (k.decode pat).isNan then k.cnan else pat

/-- The code of a kind (R45). -/
def FK.code : FK → Nat
  | .f32 => 0 | .f16 => 1 | .bf16 => 2 | .e4m3 => 3 | .e5m2 => 4 | .a56 => 5

/-- A value converted exactly to a kind, never rounded (R119); a free pattern where the kind does not hold it. -/
def FK.exact (k : FK) : FV → Nat
  | .nan _ => k.cnan
  | .inf n => if k.hasInf then k.signed n k.infPat else (Config.unheld k.code n false 0 0).toNat % 2 ^ k.width
  | .fin n m e =>
    let (p, fl) := k.roundFin .rne false n m e
    if fl = 0 then p else (Config.unheld k.code n true m e).toNat % 2 ^ k.width

/-- The value of a quantized code (R128): (code − ZP) × SCALE, with its flag. -/
def dequant (code zp : Int) (scale : Nat) : FRes :=
  let d := code - zp
  match FK.f16.decode scale with
  | .nan _ => invalid
  | .inf n => if d = 0 then invalid else .pure (.inf (n != decide (d < 0)))
  | .fin n m e => .pure (.fin (n != decide (d < 0)) (d.natAbs * m) e)

/-- Two's complement: the value of the low `w` bits of a number, signed. -/
def sext (w v : Nat) : Int :=
  let u := v % 2 ^ w
  if w ≠ 0 ∧ 2 ^ (w - 1) ≤ u then (u : Int) - 2 ^ w else u

/-- An integer modulo 2^w, from 0 upward. -/
def umod (w : Nat) (v : Int) : Nat := (v % (2 ^ w : Nat)).toNat

/-- The least value of an integer kind (R110). -/
def imin (sg : Bool) (w : Nat) : Int := if sg then -(2 ^ (w - 1) : Nat) else 0
/-- The greatest value of an integer kind (R110). -/
def imax (sg : Bool) (w : Nat) : Int := if sg then (2 ^ (w - 1) : Nat) - 1 else (2 ^ w : Nat) - 1

/-- An integer modulo 2^w into the range of a kind (R42 `wrap`). -/
def wrapTo (sg : Bool) (w : Nat) (v : Int) : Int := if sg then sext w (umod w v) else umod w v

/-- FitToName on an integer kind (R42); none where `trap` mode raises WIDTH subcode 1. -/
def fitInt (sg : Bool) (w : Nat) (m : Mode) (v : Int) : Option Int :=
  if imin sg w ≤ v ∧ v ≤ imax sg w then some v
  else match m with
    | .wrap => some (wrapTo sg w v)
    | .sat => some (if v < imin sg w then imin sg w else imax sg w)
    | .trap => none

/-- A float converted to an integer kind (R123): the value and its flags; none where `trap` mode raises WIDTH. -/
def floatToInt (rm : Rm) (sg : Bool) (w : Nat) (m : Mode) (v : FV) : Option (Int × BitVec 5) :=
  match v with
  | .nan _ => if m = .trap then none else some (0, fNV)
  | .inf n => if m = .trap then none else some (if n then imin sg w else imax sg w, fNV)
  | .fin neg mm e =>
    let (i, inx) := roundInt rm neg mm e
    if imin sg w ≤ i ∧ i ≤ imax sg w then some (i, if inx then fNX else 0)
    else if m = .trap then none
    else some (if i < imin sg w then imin sg w else imax sg w, fNV)

end Sys2Proof.Machine
end

