-- ==== Sys2Proof/Machine/Mem.lean ====
section
/-! DEFINITION. Sparse maps, the memories of the device with their F and P bits, the accessors of every unit of the
state, and address translation (spec/08_memory.md R160 to R171). -/

namespace Sys2Proof.Machine

/-! ### Sparse maps -/

/-- The value at an index; `d` where none is listed. -/
def mget {α : Type} (d : α) (k : Nat) : SMap α → α
  | [] => d
  | (a, v) :: m => if a = k then v else mget d k m

/-- Insert an entry before the first entry with a higher index. -/
def mins {α : Type} (k : Nat) (v : α) : SMap α → SMap α
  | [] => [(k, v)]
  | (a, w) :: m => if a < k then (a, w) :: mins k v m else (k, v) :: (a, w) :: m

/-- Remove the entries of an index. -/
def mdel {α : Type} (k : Nat) (m : SMap α) : SMap α := m.filter (fun e => decide (e.1 ≠ k))

/-- Set the value at an index; an entry equal to `d` is not listed. -/
def mput {α : Type} [DecidableEq α] (d : α) (k : Nat) (v : α) (m : SMap α) : SMap α :=
  if v = d then mdel k m else mins k v (mdel k m)

/-- The value listed at an index. -/
def mfind {α : Type} (k : Nat) : SMap α → Option α
  | [] => none
  | (a, v) :: m => if a = k then some v else mfind k m

/-- List a value at an index. -/
def mset {α : Type} (k : Nat) (v : α) (m : SMap α) : SMap α := mins k v (mdel k m)

/-- The entries stand in strictly rising order of their index, and none equals `d`. -/
def mwf {α : Type} [DecidableEq α] (d : α) : SMap α → Bool
  | [] => true
  | [(_, v)] => decide (v ≠ d)
  | (a, v) :: (b, w) :: m => decide (v ≠ d) && decide (a < b) && mwf d ((b, w) :: m)

/-! ### Memory -/

/-- What a byte of memory that nothing has written reads as (log entry 2). -/
def unwritten : Byte := 0

/-- The canonical form of a memory. -/
def Memory.wf (m : List Host.Cell) : Bool := mwf unwritten m

/-- One byte. -/
def Memory.read (m : List Host.Cell) (a : Nat) : Byte := mget unwritten a m

/-- Write one byte. -/
def Memory.write (m : List Host.Cell) (a : Nat) (v : Byte) : List Host.Cell := mput unwritten a v m

/-- Write bytes from an address upward. -/
def Memory.writes (m : List Host.Cell) (a : Nat) : List Byte → List Host.Cell
  | [] => m
  | b :: bs => Memory.writes (Memory.write m a b) (a + 1) bs

/-- The `n` bytes from an address upward. -/
def Memory.reads (m : List Host.Cell) (a : Nat) : Nat → List Byte
  | 0 => []
  | n + 1 => Memory.read m a :: Memory.reads m (a + 1) n

/-- An address that holds a byte: the common store, the tiers, host memory, the peer windows, of which R166's range reaches the
devices 0 to 63 (log entry 76). -/
def backed (pa : Nat) : Bool :=
  decide (pa < 0x20000000) || decide (0x8000000000 ≤ pa ∧ pa < 0x10000000000) ||
  decide (0x20000000000 ≤ pa ∧ pa < 0x40000000000) ||
  decide (0x10000000000000 ≤ pa ∧ pa < 0x11000000000000) ||
  decide (0x80000000000000 ≤ pa ∧ pa < 0x81000000000000 ∧ pa % 0x40000000000 < 0x40000000000)

/-- The common store (R166). -/
def isCommon (pa : Nat) : Bool := decide (pa < 0x20000000)
/-- The common store or a tier (R166). -/
def isDev (pa : Nat) : Bool :=
  decide (pa < 0x20000000) || decide (0x8000000000 ≤ pa ∧ pa < 0x10000000000) ||
  decide (0x20000000000 ≤ pa ∧ pa < 0x40000000000)
/-- Host memory (R166). -/
def isHost (pa : Nat) : Bool := decide (0x10000000000000 ≤ pa ∧ pa < 0x11000000000000)
/-- A peer window (R166). -/
def isPeer (pa : Nat) : Bool := decide (0x80000000000000 ≤ pa ∧ pa < 0x81000000000000)

/-- The owning bank of a PA of the common store or a tier (R167). -/
def bankOf (pa : Nat) : Nat := ((pa / 128) % 4096) ^^^ ((pa / 524288) % 4096)

/-! ### Accessors -/

/-- The state of a slot. -/
def State.slot (s : State) (t : Tid) : Slot := mget Slot.reset t s.slots
/-- Change a slot. -/
def State.setSlot (s : State) (t : Tid) (x : Slot) : State := { s with slots := mput Slot.reset t x s.slots }
/-- Change a slot by a function. -/
def State.modSlot (s : State) (t : Tid) (f : Slot → Slot) : State := s.setSlot t (f (s.slot t))
/-- The state of a core. -/
def State.core (s : State) (c : Nat) : Core := mget Core.reset c s.cores
/-- Change a core. -/
def State.setCore (s : State) (c : Nat) (x : Core) : State := { s with cores := mput Core.reset c x s.cores }
/-- The state of a cluster. -/
def State.clu (s : State) (c : Nat) : Cluster := mget Cluster.reset c s.clus
/-- Change a cluster. -/
def State.setClu (s : State) (c : Nat) (x : Cluster) : State := { s with clus := mput Cluster.reset c x s.clus }
/-- The state of a quarter. -/
def State.qtr (s : State) (q : Nat) : Quarter := mget Quarter.reset q s.qtrs
/-- Change a quarter. -/
def State.setQtr (s : State) (q : Nat) (x : Quarter) : State := { s with qtrs := mput Quarter.reset q x s.qtrs }
/-- The state of a bank port. -/
def State.bank (s : State) (b : Nat) : Bank := mget Bank.reset b s.banks
/-- Change a bank port. -/
def State.setBank (s : State) (b : Nat) (x : Bank) : State := { s with banks := mput Bank.reset b x s.banks }
/-- The state of a partition. -/
def State.part (s : State) (p : Nat) : Part := mget Part.reset p s.parts
/-- Change a partition. -/
def State.setPart (s : State) (p : Nat) (x : Part) : State := { s with parts := mput Part.reset p x s.parts }
/-- The state of a peer port. -/
def State.port (s : State) (p : Nat) : Port := mget Port.reset p s.ports
/-- Change a peer port. -/
def State.setPort (s : State) (p : Nat) (x : Port) : State := { s with ports := mput Port.reset p x s.ports }

/-- A queue of a partition by level. -/
def Part.q (p : Part) (lev : Nat) : LQueue :=
  match lev with
  | 0 => p.q0 | 1 => p.q1 | 2 => p.q2 | _ => p.q3
/-- Change a queue of a partition. -/
def Part.setQ (p : Part) (lev : Nat) (q : LQueue) : Part :=
  match lev with
  | 0 => { p with q0 := q } | 1 => { p with q1 := q } | 2 => { p with q2 := q } | _ => { p with q3 := q }

/-- The core of a thread id (R4). -/
def coreOf (t : Tid) : Nat := t / 16
/-- The slot within its core. -/
def slotOf (t : Tid) : Nat := t % 16
/-- The cluster of a core. -/
def cluOf (c : Nat) : Nat := c / 8
/-- The quarter of a core. -/
def qtrOf (c : Nat) : Nat := c / 1024

/-- A configuration covers a core (R270). -/
def Pcb.has (g : Pcb) (c : Nat) : Bool := decide (g.first ≤ c ∧ c ≤ g.first + g.ncm1)

/-- The partition of a core (R269). -/
def State.partOf (s : State) (c : Nat) : Option Nat :=
  (s.parts.find? (fun e => match e.2.cfg with
    | some g => g.has c
    | none => false)).map (·.1)

/-- The configuration of the partition of a core. -/
def State.cfgOf (s : State) (c : Nat) : Option Pcb :=
  match s.partOf c with
  | some p => (s.part p).cfg
  | none => none

/-- The partition number of a core as SREAD PART reads it. -/
def State.partNum (s : State) (c : Nat) : Nat := (s.partOf c).getD 0

/-- Two cores lie in one partition. -/
def State.samePart (s : State) (c d : Nat) : Bool :=
  match s.partOf c, s.partOf d with
  | some p, some q => decide (p = q)
  | some _, none => false
  | none, _ => false

/-- A new identity for a request, a command or a pending result. -/
def State.fresh (s : State) : Nat × State := (s.nextId, { s with nextId := s.nextId + 1 })

/-- Put a request in flight, behind those that are. -/
def State.send (s : State) (r : Req) : State :=
  { s with inflight := mset s.nextId r s.inflight, nextId := s.nextId + 1 }

/-- Take a request out of flight. -/
def State.unsend (s : State) (id : Nat) : State := { s with inflight := mdel id s.inflight }

/-- The current limiter of a quarter inserts an empty rotation (R21, R307): every odd one while it is engaged. A change of the
limiter holds from the rotation after it on. -/
def Quarter.inserts (q : Quarter) (rot : Nat) : Bool := decide (rot % 2 = 1) && (if rot < q.limAt then q.was else q.limit)

/-! ### Local stores and memory words -/

/-- Where a byte of a local store stands in the state. -/
def lsKey (core off : Nat) : Nat := core * 262144 + off
/-- Where a word of a local store has its F and P bits. -/
def lsWord (core off : Nat) : Nat := core * 32768 + off / 8

/-- The F bit of the word of a local-store byte (R161). -/
def State.lsF (s : State) (core off : Nat) : Bool := mget false (lsWord core off) s.lf
/-- The P bit of the word of a local-store byte (R161). -/
def State.lsP (s : State) (core off : Nat) : Bool := mget false (lsWord core off) s.lp
/-- Set the F bit of a word. -/
def State.setLsF (s : State) (core off : Nat) (f : Bool) : State :=
  { s with lf := mput false (lsWord core off) f s.lf }
/-- Set the P bit of a word. -/
def State.setLsP (s : State) (core off : Nat) (p : Bool) : State :=
  { s with lp := mput false (lsWord core off) p s.lp }

/-- Bytes of a local store. -/
def State.lsRead (s : State) (core off n : Nat) : Nat := leBytes (Memory.reads s.lmem (lsKey core off) n)

/-- Write an access of at most one word to a local store: a write of the whole word takes the poison, a narrower one ORs
it (R162). F is unchanged. -/
def State.lsWrite (s : State) (core off n v : Nat) (p : Bool) : State :=
  let old := s.lsP core off
  { s with lmem := Memory.writes s.lmem (lsKey core off) (toBytes n v),
           lp := mput false (lsWord core off) (if n = 8 then p else old || p) s.lp }

/-- The P bit of the 8-byte word of a physical address. -/
def State.memPoison (s : State) (pa : Nat) : Bool := mget false (pa / 8) s.memP

/-- Bytes of memory. -/
def State.memRead (s : State) (pa n : Nat) : Nat := leBytes (Memory.reads s.mem pa n)

/-- Write an access of at most one word to memory, with poison as R162 has it for a word. -/
def State.memWrite (s : State) (pa n v : Nat) (p : Bool) : State :=
  let old := s.memPoison pa
  { s with mem := Memory.writes s.mem pa (toBytes n v),
           memP := mput false (pa / 8) (if n = 8 then p else old || p) s.memP }

/-- Read an access at its owner: its bytes and its poison. -/
def State.tgtRead (s : State) (t : Tgt) (n : Nat) : Nat × Bool :=
  match t with
  | .mem pa => (s.memRead pa n, s.memPoison pa)
  | .ls c off => (s.lsRead c off n, s.lsP c off)

/-- Write an access at its owner. -/
def State.tgtWrite (s : State) (t : Tgt) (n v : Nat) (p : Bool) : State :=
  match t with
  | .mem pa => s.memWrite pa n v p
  | .ls c off => s.lsWrite c off n v p

/-- A word of memory as it stands. -/
def State.memWord (s : State) (pa : Nat) : Word := BitVec.ofNat 64 (s.memRead pa 8)

/-- Write one byte of memory of an engine access: the whole of its word when `whole`. -/
def State.putByte (s : State) (t : Tgt) (b : Byte) : State :=
  match t with
  | .mem pa => { s with mem := Memory.write s.mem pa b }
  | .ls c off => { s with lmem := Memory.write s.lmem (lsKey c off) b }

/-- Set the P bit of the word of a place. -/
def State.putP (s : State) (t : Tgt) (p : Bool) : State :=
  match t with
  | .mem pa => { s with memP := mput false (pa / 8) p s.memP }
  | .ls c off => s.setLsP c off p

/-- The P bit of the word of a place. -/
def State.getP (s : State) (t : Tgt) : Bool :=
  match t with
  | .mem pa => s.memPoison pa
  | .ls c off => s.lsP c off

/-- The place `k` bytes further on. -/
def Tgt.add (t : Tgt) (k : Nat) : Tgt :=
  match t with
  | .mem pa => .mem (pa + k)
  | .ls c off => .ls c (off + k)

/-- The byte number of a place within its word. -/
def Tgt.mod8 : Tgt → Nat
  | .mem pa => pa % 8
  | .ls _ off => off % 8

/-! ### Semaphores, queues and counters -/

/-- A semaphore of a core (R185). -/
def State.sem (s : State) (core n : Nat) : Nat := mget 0 n (s.core core).sems
/-- Set a semaphore. -/
def State.setSem (s : State) (core n v : Nat) : State :=
  let c := s.core core
  s.setCore core { c with sems := mput 0 n v c.sems }
/-- Signal (R185): the count saturates at 65,535. -/
def State.signal (s : State) (core n i : Nat) : State := s.setSem core n (min 65535 (s.sem core n + i))

/-- A queue of a core, the oldest entry first (R76). -/
def State.queue (s : State) (core q : Nat) : List (Word × Bool) := mget [] q (s.core core).queues
/-- Set a queue. -/
def State.setQueue (s : State) (core q : Nat) (l : List (Word × Bool)) : State :=
  let c := s.core core
  s.setCore core { c with queues := mput [] q l c.queues }

/-- The counters of a unit (R308, R390): 0 core, 1 cluster, 2 quarter. -/
def State.ctr (s : State) (unit idx k : Nat) : Ctr :=
  match unit with
  | 0 => mget Ctr.reset k (s.core idx).ctrs
  | 1 => mget Ctr.reset k (s.clu idx).ctrs
  | _ => mget Ctr.reset k (s.qtr idx).ctrs
/-- Set a counter of a unit. -/
def State.setCtr (s : State) (unit idx k : Nat) (c : Ctr) : State :=
  match unit with
  | 0 => let u := s.core idx; s.setCore idx { u with ctrs := mput Ctr.reset k c u.ctrs }
  | 1 => let u := s.clu idx; s.setClu idx { u with ctrs := mput Ctr.reset k c u.ctrs }
  | _ => let u := s.qtr idx; s.setQtr idx { u with ctrs := mput Ctr.reset k c u.ctrs }

/-- EN, MODEF and EVT for the events of a cycle (R391): in the cycle of a change, the old ones. -/
def Ctr.cfgAt (c : Ctr) (cyc : Nat) : Bool × Nat × Nat :=
  match c.old with
  | some (y, g) => if y = cyc then g else (c.en, c.modef, c.evt)
  | none => (c.en, c.modef, c.evt)

/-- The counter counts an event of a cycle in a mode (R308). -/
def Ctr.counts (c : Ctr) (cyc evt : Nat) (smode : Bool) : Bool :=
  match c.cfgAt cyc with
  | (en, m, e) => en && decide (e = evt) && (decide (m = 0) || (decide (m = 1) && !smode) || (decide (m = 2) && smode))

/-- Count `n` events on the counters of a unit (R308). COUNTER_WRAP takes a count of 2^48 or more back into range. -/
def State.count (s : State) (unit idx evt : Nat) (smode : Bool) (n : Nat) : State :=
  let ks := match unit with
    | 0 => (s.core idx).ctrs
    | 1 => (s.clu idx).ctrs
    | _ => (s.qtr idx).ctrs
  ks.foldl (fun st e => if e.2.counts s.cycle evt smode then st.setCtr unit idx e.1 { e.2 with count := e.2.count + n } else st) s

/-- Count events of a cluster that an agent of a partition causes: only those of the partition of the cluster's first core
are counted (R308, R391). -/
def State.countClu (s : State) (cl part evt : Nat) (smode : Bool) (n : Nat) : State :=
  if s.partOf (8 * cl) = some part then s.count 1 cl evt smode n else s

/-! ### Translation (R165 to R171) -/

/-- The kind of an access that is translated. -/
inductive AKind where
  | rd | wr | rw | fetch
  deriving DecidableEq, Repr

/-- The outcome of a translation: a miss, a fault with its cause and subcode, or the PA with its leaf. -/
inductive XRes where
  | miss
  | fault (cause sub : Nat)
  | ok (pa : Nat) (leaf : Leaf)
  deriving DecidableEq, Repr

/-- A canonical VA (R165). -/
def canonical (va : Nat) : Bool :=
  let top := va / 2 ^ 55 % 512
  decide (va < 2 ^ 64) && (decide (top = 0) || decide (top = 511))

/-- The VA lies in the system window (R165). -/
def inSys (va : Nat) : Bool := decide (va / 2 ^ 55 % 2 = 1)

/-- A bit of a page table entry. -/
abbrev ebit (e k : Nat) : Bool := decide (e / 2 ^ k % 2 = 1)
/-- Bits `hi` down to `lo` of a number. -/
abbrev bits (v hi lo : Nat) : Nat := v / 2 ^ lo % 2 ^ (hi + 1 - lo)

/-- A table entry at a PA: none where it cannot be read (R170: XLATE 0x07). -/
def State.pte (s : State) (pa : Nat) : Option Nat :=
  if !backed pa || s.memPoison pa then none else some (s.memRead pa 8)

/-- A table pointer that keeps R168. -/
def ptrOk (e : Nat) : Bool := !ebit e 1 && decide (bits e 63 52 = 0) && decide (bits e 9 2 = 0) && decide (bits e 11 10 = 0)
/-- The fields of a leaf that every level checks (R168). -/
def leafOk (e : Nat) : Bool := ebit e 1 && decide (bits e 7 6 ≠ 3) && decide (bits e 11 10 = 0)
/-- The PA of an entry. -/
def epa (e : Nat) : Nat := bits e 51 12 * 65536

/-- The leaf that an entry makes of a page. -/
def mkLeaf (e base size pa : Nat) : Leaf where
  base := base
  size := size
  pa := pa
  r := ebit e 2
  w := ebit e 3
  x := ebit e 4
  u := ebit e 5
  ord := match bits e 7 6 with
    | 0 => .so
    | 1 => .rc
    | _ => .uo
  trace := ebit e 9
  fdx := bits e 63 52

/-- Round down to a multiple. -/
abbrev floorTo (v m : Nat) : Nat := v / m * m

/-- The level 3 leaf of a walk (R168, R169); the error is the XLATE subcode. -/
def leaf3 (e va : Nat) : Except Nat Leaf :=
  if !ebit e 0 then .error 4
  else if !leafOk e then .error 5
  else if ebit e 8 then
    if bits (epa e) 20 16 ≠ bits va 20 16 then .error 5
    else .ok (mkLeaf e (floorTo va 0x200000) 0x200000 (floorTo (epa e) 0x200000))
  else .ok (mkLeaf e (floorTo va 0x10000) 0x10000 (epa e))

/-- The level 2 leaf of a walk. -/
def leaf2 (e va : Nat) : Except Nat Leaf :=
  if !leafOk e || decide (bits (epa e) 28 16 ≠ 0) then .error 5
  else if ebit e 8 then
    if bits (epa e) 32 29 ≠ bits va 32 29 then .error 5
    else .ok (mkLeaf e (floorTo va 0x200000000) 0x200000000 (floorTo (epa e) 0x200000000))
  else .ok (mkLeaf e (floorTo va 0x20000000) 0x20000000 (epa e))

/-- A walk of the three levels from a root (R165, R168 to R170). -/
def State.walkFrom (s : State) (root va : Nat) : Except Nat Leaf :=
  match s.pte (root + 8 * bits va 54 42) with
  | none => .error 7
  | some e1 =>
    if !ebit e1 0 then .error 2
    else if !ptrOk e1 then .error 5
    else match s.pte (epa e1 + 8 * bits va 41 29) with
      | none => .error 7
      | some e2 =>
        if !ebit e2 0 then .error 3
        else if ebit e2 1 then leaf2 e2 va
        else if !ptrOk e2 then .error 5
        else match s.pte (epa e2 + 8 * bits va 28 16) with
          | none => .error 7
          | some e3 => leaf3 e3 va

/-- The walk of a VA of a partition (R165). -/
def State.walkVa (s : State) (part va : Nat) : Except Nat Leaf :=
  match (s.part part).cfg with
  | none => .error 7
  | some g => s.walkFrom (if inSys va then g.sroot else g.croot) va

/-- Permission of an access (R170, R314): the fault in the table's order, or none. -/
def permFault (l : Leaf) (smode : Bool) (k : AKind) : Option (Nat × Nat) :=
  match k with
  | .fetch =>
    if !l.x && decide (l.fdx = 0xFFF) then some (0x10, 1)
    else if !l.x then some (9, 3) else if !smode && !l.u then some (9, 4) else none
  | .rd => if !l.r then some (9, 1) else if !smode && !l.u then some (9, 4) else none
  | .wr => if !l.w then some (9, 2) else if !smode && !l.u then some (9, 4) else none
  | .rw => if !l.r then some (9, 1) else if !l.w then some (9, 2) else if !smode && !l.u then some (9, 4) else none

/-- The PA of a VA through a leaf, checked. -/
def throughLeaf (l : Leaf) (va : Nat) (smode : Bool) (k : AKind) : XRes :=
  let pa := l.pa + (va - l.base)
  if !backed pa then .fault 8 6
  else match permFault l smode k with
    | some (c, sc) => .fault c sc
    | none => .ok pa l

/-- The cached leaf of a VA (R171). -/
def State.cached (s : State) (cl part va : Nat) : Option Leaf :=
  ((s.clu cl).tcache.find? (fun e => decide (e.part = part) && (e.sysw == inSys va) &&
    decide (e.leaf.base ≤ va ∧ va < e.leaf.base + e.leaf.size))).map (·.leaf)

/-- Translation of an op: only the cache is looked up (R172). -/
def State.xlate (s : State) (cl part : Nat) (smode : Bool) (va : Nat) (k : AKind) : XRes :=
  if !canonical va then .fault 8 1
  else match s.cached cl part va with
    | none => .miss
    | some l => throughLeaf l va smode k

/-- Fill a translation cache (R171): the oldest entry gives way. -/
def State.fillCache (s : State) (cl part : Nat) (va : Nat) (l : Leaf) : State :=
  let c := s.clu cl
  let t := c.tcache ++ [⟨part, inSys va, l⟩]
  s.setClu cl { c with tcache := if Config.tcacheEntries < t.length then t.drop (t.length - Config.tcacheEntries) else t }

/-- Translation of a fetch or of an engine, which waits for its walk: the walk is made at once and fills the cache; a miss
is counted. -/
def State.xlateNow (s : State) (cl part : Nat) (smode : Bool) (va : Nat) (k : AKind) : XRes × State :=
  if !canonical va then (.fault 8 1, s)
  else match s.cached cl part va with
    | some l => (throughLeaf l va smode k, s)
    | none =>
      let s := s.countClu cl part 0x10 smode 1
      match s.walkVa part va with
      | .error sc => (.fault 8 sc, s)
      | .ok l =>
        if !backed (l.pa + (va - l.base)) then (.fault 8 6, s)
        else (throughLeaf l va smode k, s.fillCache cl part va l)

/-- Translation that neither uses nor fills a cache, as the device itself makes it for a partition's structures. -/
def State.xlatePart (s : State) (part : Nat) (smode : Bool) (va : Nat) (k : AKind) : XRes :=
  if !canonical va then .fault 8 1
  else match s.walkVa part va with
    | .error sc => .fault 8 sc
    | .ok l => throughLeaf l va smode k

/-- A word that the device reads through a partition's tables: the word, or the fault's cause and subcode, POISON
subcode 0 for a poisoned word. -/
def State.devWord (s : State) (part : Nat) (smode : Bool) (va : Nat) : Except (Nat × Nat) Word :=
  match s.xlatePart part smode va .rd with
  | .miss => .error (8, 7)
  | .fault c sc => .error (c, sc)
  | .ok pa _ => if s.memPoison pa then .error (0x0A, 0) else .ok (s.memWord pa)

/-- Words that the device reads from a VA upward. -/
def State.devWords (s : State) (part : Nat) (smode : Bool) (va : Nat) : Nat → Except (Nat × Nat) (List Word)
  | 0 => .ok []
  | n + 1 =>
    match s.devWord part smode va with
    | .error e => .error e
    | .ok w =>
      match s.devWords part smode (va + 8) n with
      | .error e => .error e
      | .ok ws => .ok (w :: ws)

/-! ### Trace rings (R210, R211) -/

/-- A write of a word through a leaf with TRACE, by an agent of a partition. -/
def State.traceWrite (s : State) (part src dev tid pa : Nat) : State :=
  if !isDev pa then s
  else
    let b := bankOf pa
    let k := s.bank b
    let w := floorTo pa 8
    let hit := match k.writers.find? (fun t => decide (t.pa = w)) with
      | some t => decide (t.src ≠ src ∨ t.dev ≠ dev ∨ t.tid ≠ tid) && decide (s.cycle ≤ t.cyc + 4096)
      | none => false
    let e : Word × Word :=
      (BitVec.ofNat 64 (src * 2 ^ 56 + w % 2 ^ 56), BitVec.ofNat 64 (tid * 2 ^ 48 + dev * 2 ^ 38 + s.cycle % 2 ^ 38))
    let ws := (⟨w, src, dev, tid, s.cycle⟩ :: k.writers.filter (fun t => decide (t.pa ≠ w))).take 64
    s.setBank b { k with
      writers := ws
      ring := if hit then (e :: k.ring).take 256 else k.ring
      logged := if hit then mput 0 part ((mget 0 part k.logged + 1) % 2 ^ 32) k.logged else k.logged }

/-- The next free value of the run (log entry 41). -/
def State.freeVal (s : State) : Word × State := (Config.freeWord s.free, { s with free := s.free + 1 })

end Sys2Proof.Machine
end

