-- ==== Sys2Proof/Machine/Names.lean ====
section
/-! DEFINITION. Names: their widths and costs, tuning descriptors, placement in the register store, repacks, applying and
releasing a tuning, and the landing of late results (spec/03_tuning.md, spec/08_memory.md R174). -/

namespace Sys2Proof.Machine

/-- The float kind of an FK field (R45). -/
def fkOf (c : Nat) : Option FK :=
  match c with
  | 0 => some .f32 | 1 => some .f16 | 2 => some .bf16 | 3 => some .e4m3 | 4 => some .e5m2 | 5 => some .a56
  | _ => none

/-- The mode of a MODE field (R45). -/
def modeOf (c : Nat) : Option Mode :=
  match c with
  | 0 => some .wrap | 1 => some .sat | 2 => some .trap | _ => none

/-- The storage width of an integer vector element (R47). -/
def elemW (w : Nat) : Nat :=
  if w ≤ 1 then 1 else if w ≤ 2 then 2 else if w ≤ 4 then 4 else if w ≤ 8 then 8 else if w ≤ 16 then 16
  else if w ≤ 32 then 32 else 64

/-- The storage width of a float vector element (R47). -/
def FK.elemW : FK → Nat
  | .f32 => 32 | .f16 => 16 | .bf16 => 16 | .e4m3 => 8 | .e5m2 => 8 | .a56 => 64

/-- The storage width of a name or of its elements (R47). -/
def NKind.sw : NKind → Nat
  | .int _ w _ => w
  | .flt k => k.width
  | .ivec _ w _ _ _ => Machine.elemW w
  | .fvec k _ _ => k.elemW
  | .queue _ _ => 0

/-- The granted shape; 1 × 1 for a scalar. -/
def NKind.shape : NKind → Nat × Nat
  | .int _ _ _ => (1, 1)
  | .flt _ => (1, 1)
  | .ivec _ _ _ r c => (r, c)
  | .fvec _ r c => (r, c)
  | .queue _ _ => (0, 0)

/-- A vector name. -/
def NKind.isVec : NKind → Bool
  | .int _ _ _ => false
  | .flt _ => false
  | .ivec _ _ _ _ _ => true
  | .fvec _ _ _ => true
  | .queue _ _ => false

/-- Declared bits of a vector of a shape and element width (R51). -/
def vecCost (rg cg s : Nat) : Nat := 128 * ((rg * cg * s + 127) / 128)

/-- Declared bits of a name (R51). -/
def NKind.cost : NKind → Nat
  | .int _ w _ => w
  | .flt k => k.width
  | .ivec _ w _ r c => vecCost r c (Machine.elemW w)
  | .fvec k r c => vecCost r c k.elemW
  | .queue _ _ => 0

/-- The granted shape of a request (R56). -/
def grant (rq cq s : Nat) : Nat × Nat :=
  let cg := min cq (1024 / s)
  (min rq (1024 / (cg * s)), cg)

/-- The kind that a descriptor entry declares for a slot of a core; none where it fails R45. -/
def parseEntry (core : Nat) (w : Word) : Option NKind :=
  let e := w.toNat
  match bits e 63 60 with
  | 1 => if bits e 51 0 = 0 then (modeOf (bits e 53 52)).map (.int true (bits e 59 54 + 1)) else none
  | 2 => if bits e 51 0 = 0 then (modeOf (bits e 53 52)).map (.int false (bits e 59 54 + 1)) else none
  | 3 => if bits e 56 0 = 0 then (fkOf (bits e 59 57)).map .flt else none
  | 4 =>
    if bits e 29 0 ≠ 0 then none
    else
      let rq := bits e 49 40 + 1
      let cq := bits e 39 30 + 1
      match bits e 59 58 with
      | 2 =>
        if bits e 57 55 ≠ 0 ∨ bits e 51 50 ≠ 0 then none
        else (fkOf (bits e 54 52)).map (fun k => let g := grant rq cq k.elemW; .fvec k g.1 g.2)
      | 3 => none
      | c =>
        let wd := bits e 57 52 + 1
        let g := grant rq cq (elemW wd)
        (modeOf (bits e 51 50)).map (fun m => .ivec (decide (c = 0)) wd m g.1 g.2)
  | 5 => if bits e 54 0 = 0 then some (.queue core (bits e 59 55)) else none
  | _ => none

/-- COUNT of a header word; none where it fails R44. -/
def parseHeader (w : Word) : Option Nat :=
  let h := w.toNat
  if bits h 63 32 = 0 ∧ bits h 31 16 = 0x7E3A ∧ bits h 15 8 = 1 then some (bits h 7 0) else none

/-- The kinds that entry words declare; an error is the index of the first entry that fails R45. -/
def parseEntries (core : Nat) : Nat → List Word → Except Nat (List NKind)
  | _, [] => .ok []
  | k, w :: ws =>
    match parseEntry core w with
    | none => .error k
    | some n =>
      match parseEntries core (k + 1) ws with
      | .error e => .error e
      | .ok ns => .ok (n :: ns)

/-- Declared bits of kinds (R51). -/
def costOf (ks : List NKind) : Nat := (ks.map NKind.cost).foldl (· + ·) 0

/-- Declared bits of a slot's resident names. -/
def Slot.declared (x : Slot) : Nat := costOf (x.names.map (·.kind))

/-- The slots of a core with their numbers. -/
def coreTids (core : Nat) : List Tid := (List.range 16).map (core * 16 + ·)

/-- Declared bits resident on a core (R51). -/
def State.declared (s : State) (core : Nat) : Nat :=
  ((coreTids core).map (fun t => (s.slot t).declared)).foldl (· + ·) 0

/-- Declared bits on a core other than a slot's own. -/
def State.declaredOthers (s : State) (t : Tid) : Nat := s.declared (coreOf t) - (s.slot t).declared

/-! ### Placement (R52, R53) -/

/-- A run of the register store: position and length in bits. -/
abbrev Run := Nat × Nat

/-- The bits that a name takes where it stands. -/
def NameSt.run (n : NameSt) : Run := (n.pos, n.kind.cost)

/-- The bits that a name of a slot takes where it stands: until a repack ends, the name that grows in it holds its old ones. -/
def Core.runOf (c : Core) (t : Tid) (ix : Nat) (n : NameSt) : Run :=
  match c.repack.bind (·.grown) with
  | some (u, j, bits) => if u = t ∧ j = ix then (n.pos, bits) else n.run
  | none => n.run

/-- A run meets no occupied run and lies within the store. -/
def runFree (occ : List Run) (p w : Nat) : Bool :=
  decide (p + w ≤ Config.storeBits) && occ.all (fun r => decide (r.2 = 0) || decide (p + w ≤ r.1) || decide (r.1 + r.2 ≤ p))

/-- The lowest free run of a width. -/
def lowestRun (occ : List Run) (w : Nat) : Option Nat :=
  ((0 :: occ.map (fun r => r.1 + r.2)).filter (fun p => runFree occ p w)).foldl
    (fun b p => match b with
      | none => some p
      | some q => some (min p q)) none

/-- The highest free run of whole store rows. -/
def highestRun (occ : List Run) (w : Nat) : Option Nat :=
  ((Config.storeBits :: occ.map (fun r => floorTo r.1 128)).filter (fun e => decide (w ≤ e) && runFree occ (e - w) w)).foldl
    (fun b e => match b with
      | none => some (e - w)
      | some q => some (max (e - w) q)) none

/-- The run that a name of a kind takes (R53). -/
def placeOne (occ : List Run) (k : NKind) : Option Nat :=
  if k.cost = 0 then some 0 else if k.isVec then highestRun occ k.cost else lowestRun occ k.cost

/-- Positions of kinds placed one after another: first the scalars, then the vectors, each in index order; none where
one finds no free run. -/
def placeAll (occ : List Run) (ks : List NKind) : Option (List Nat) :=
  let go := fun (vec : Bool) (st : Option (List Run × List (Nat × Nat))) =>
    (ks.zipIdx).foldl (fun st e => match st with
      | none => none
      | some (oc, ps) =>
        if e.1.isVec == vec then
          match placeOne oc e.1 with
          | none => none
          | some p => some ((p, e.1.cost) :: oc, (e.2, p) :: ps)
        else some (oc, ps)) st
  match go true (go false (some (occ, []))) with
  | none => none
  | some (_, ps) => some ((List.range ks.length).map (fun i => (mfind i ps).getD 0))

/-- The names of a core, in slot order and index order: slot, index, name. -/
def State.coreNames (s : State) (core : Nat) : List (Nat × Nat × NameSt) :=
  (coreTids core).flatMap (fun t => ((s.slot t).names.zipIdx).map (fun e => (t, e.2, e.1)))

/-- The moves of a core's repack that have not been made yet. -/
def State.moves (s : State) (core : Nat) : List (Nat × Nat × Nat) :=
  match (s.core core).repack with
  | none => []
  | some r => r.moves

/-- A name of a slot is being moved. -/
def State.moving (s : State) (t : Tid) (ix : Nat) : Bool :=
  (s.moves (coreOf t)).any (fun m => decide (m.1 = t ∧ m.2.1 = ix))

/-- The runs that the moves of a repack lead to. -/
def State.bound (s : State) (core : Nat) : List Run :=
  (s.moves core).filterMap (fun m => ((s.slot m.1).names[m.2.1]?).map (fun n => (m.2.2, n.kind.cost)))

/-- The occupied runs of a core: those of its names, and those that names are being moved to. -/
def State.occupied (s : State) (core : Nat) : List Run :=
  (s.coreNames core).map (fun e => (s.core core).runOf e.1 e.2.1 e.2.2) ++ s.bound core

/-- Store rows that runs touch. -/
def rowsTouched (rs : List Run) : Nat :=
  ((List.range 2048).filter (fun row => rs.any (fun r => decide (r.2 ≠ 0) && decide (r.1 < (row + 1) * 128) &&
    decide (row * 128 < r.1 + r.2)))).length

/-- Begin a repack that moves names, of which one may grow (R59, R60): it runs in the rotations after this one. -/
def State.beginRepack (s : State) (core : Nat) (t : Tid) (moves : List (Nat × Nat × Nat)) (grown : Option (Nat × Nat × Nat))
    (rows : Nat) : State :=
  let rot := (rows + 255) / 256
  let c := s.core core
  s.setCore core { c with repack := some ⟨t, (s.cycle / 16 + 1) * 16, (s.cycle / 16 + rot + 1) * 16, moves, grown⟩ }

/-- A compaction (R53): every name of the core anew, scalars and vectors in slot order and then index order; `old` are the
runs that it reads. -/
def State.compact (s : State) (core : Nat) (t : Tid) (old : List Run) (grown : Option (Nat × Nat × Nat)) : State :=
  let ns := s.coreNames core
  match placeAll [] (ns.map (fun e => e.2.2.kind)) with
  | none => s
  | some ps =>
    let moves := (ns.zip ps).map (fun e => (e.1.1, e.1.2.1, e.2))
    let new := (ns.zip ps).map (fun e => (e.2, e.1.2.2.kind.cost))
    s.beginRepack core t moves grown (rowsTouched (old ++ new))

/-- The repack of a core has ended: its names stand at their new places (R60). -/
def State.endRepack (s : State) (core : Nat) : State :=
  match (s.core core).repack with
  | none => s
  | some r =>
    let s := r.moves.foldl (fun st m =>
      st.modSlot m.1 (fun x => { x with names := x.names.modify m.2.1 (fun n => { n with pos := m.2.2 }) })) s
    let c := s.core core
    s.setCore core { c with repack := none }

/-! ### Applying and releasing a tuning (R48, R54) -/

/-- A name as a tuning declares it: zero and full (R48). -/
def NameSt.fresh (k : NKind) : NameSt where
  kind := k
  vals := match k with
    | .int _ _ _ => [0]
    | .flt _ => [0]
    | .ivec _ _ _ r c => List.replicate (r * c) 0
    | .fvec _ r c => List.replicate (r * c) 0
    | .queue _ _ => []
  f := true
  p := false
  pend := none
  pos := 0

/-- A repack moves no name of a slot any more. -/
def Core.unmove (c : Core) (t : Tid) : Core :=
  { c with repack := c.repack.map (fun r => { r with moves := r.moves.filter (fun m => decide (m.1 ≠ t)) }) }

/-- Release the tuning of a slot: its names and its pending results go (R49). -/
def State.releaseNames (s : State) (t : Tid) : State :=
  let s := s.modSlot t (fun x => { x with names := [], tuning := 0, bits := 0 })
  s.setCore (coreOf t) ((s.core (coreOf t)).unmove t)

/-- Apply a tuning of kinds at a VA to a slot (R53, R54): it has been checked to fit. A compaction is a repack; until it ends
the new names stand beyond the register store. -/
def State.applyTuning (s : State) (t : Tid) (va : Word) (ks : List NKind) : State :=
  let s := s.releaseNames t
  let core := coreOf t
  let occ := s.occupied core
  let put := fun (s : State) (ps : List Nat) =>
    s.modSlot t (fun x => { x with
      tuning := va, bits := costOf ks
      names := (ks.zip ps).map (fun e => { NameSt.fresh e.1 with pos := e.2 }) })
  match placeAll occ ks with
  | some ps => put s ps
  | none => (put s (ks.map (fun _ => Config.storeBits))).compact core t occ none

/-- Read and check a tuning descriptor as the device does at a start (R54): the kinds, or the fault: cause, subcode and
the index of the failing entry. Every word of it is read as memory holds it then (R46; log entry 58). -/
def State.readTuning (s : State) (part : Nat) (smode : Bool) (core : Nat) (va : Word) : Except (Nat × Nat × Nat) (List NKind) :=
  if va.toNat % 8 ≠ 0 then .error (7, 0, 0)
  else match s.devWord part smode va.toNat with
    | .error (c, sc) => .error (c, sc, 0)
    | .ok h =>
      match parseHeader h with
      | none => .error (0x0C, 1, 0)
      | some n =>
        match s.devWords part smode (va.toNat + 8) n with
        | .error (c, sc) => .error (c, sc, 0)
        | .ok ws =>
          match parseEntries core 1 ws with
          | .error k => .error (0x0C, 2, k)
          | .ok ks => .ok ks

/-! ### Values and landing -/

/-- The access size of a name in bytes (R163): the smallest of 1, 2, 4, 8 that holds its storage width. -/
def accessSize (w : Nat) : Nat := if w ≤ 8 then 1 else if w ≤ 16 then 2 else if w ≤ 32 then 4 else 8

/-- A value that lands in an integer name (R174): `trap` mode wraps and poisons. -/
def landInt (sg : Bool) (w : Nat) (m : Mode) (v : Int) : Int × Bool :=
  match fitInt sg w m v with
  | some x => (x, false)
  | none => (wrapTo sg w v, true)

/-- The value of `n` bytes for a name of a kind, and whether its unused bits poison it (R163). -/
def rawValue (k : NKind) (n v : Nat) : Int × Bool :=
  match k with
  | .int sg _ _ => (if sg then sext (8 * n) v else (v : Int), false)
  | .flt .a56 => ((v % 2 ^ 56 : Nat), decide (v / 2 ^ 56 ≠ 0))
  | .flt k => ((v % 2 ^ k.width : Nat), false)
  | .ivec _ _ _ _ _ => (v, false)
  | .fvec _ _ _ => (v, false)
  | .queue _ _ => (v, false)

/-- The elements of a vector after those present have landed, each fitted; the flag says that one did not fit. -/
def landVec (k : NKind) (old : List Int) (vs : List (Option Int)) : List Int × Bool :=
  (old.zipIdx).foldr (fun e acc =>
    match (vs[e.2]?).join with
    | none => (e.1 :: acc.1, acc.2)
    | some v =>
      match k with
      | .ivec sg w m _ _ => let (x, b) := landInt sg w m v; (x :: acc.1, acc.2 || b)
      | .fvec _ _ _ => (v :: acc.1, acc.2)
      | .int _ _ _ => (e.1 :: acc.1, acc.2)
      | .flt _ => (e.1 :: acc.1, acc.2)
      | .queue _ _ => (e.1 :: acc.1, acc.2)) ([], false)

/-- A name after LandName (R174). -/
def NameSt.land (n : NameSt) (v : LandV) (p : Bool) : NameSt :=
  let one := fun (x : Int) (p : Bool) => { n with vals := [x], f := true, p := p, pend := none }
  match v with
  | .int x =>
    match n.kind with
    | .int sg w m => let (y, b) := landInt sg w m x; one y (p || b)
    | .flt k => one (umod k.width x) p
    | .ivec _ _ _ _ _ => { n with f := true, p := p, pend := none }
    | .fvec _ _ _ => { n with f := true, p := p, pend := none }
    | .queue _ _ => n
  | .pat x =>
    match n.kind with
    | .int sg w m => let (y, b) := landInt sg w m x; one y (p || b)
    | .flt _ => one x p
    | .ivec _ _ _ _ _ => { n with f := true, p := p, pend := none }
    | .fvec _ _ _ => { n with f := true, p := p, pend := none }
    | .queue _ _ => n
  | .raw b x =>
    match n.kind with
    | .int sg w m => let (y, q) := landInt sg w m (rawValue n.kind b x).1; one y (p || q)
    | .flt _ => let (y, q) := rawValue n.kind b x; one y (p || q)
    | .ivec _ _ _ _ _ => { n with f := true, p := p, pend := none }
    | .fvec _ _ _ => { n with f := true, p := p, pend := none }
    | .queue _ _ => n
  | .vec cols vs =>
    let cg := n.kind.shape.2
    let ws := (List.range n.vals.length).map (fun k =>
      if k % cg < cols then (vs[k / cg * cols + k % cg]?).join else none)
    let (ys, q) := landVec n.kind n.vals ws
    { n with vals := ys, f := true, p := p || q || (n.p && ws.any Option.isNone), pend := none }

/-- LandName (R49, R174, R268): a result that was superseded, or whose slot has ended, been discarded or moved on, is dropped
with its flags. -/
def State.landName (s : State) (d : Dst) (v : LandV) (p : Bool) (fl : BitVec 5) : State :=
  let x := s.slot d.tid
  if x.epoch ≠ d.ep ∨ x.st = .free ∨ x.st = .held then s
  else if d.ix = 0 then s.setSlot d.tid { x with fflags := x.fflags ||| fl }
  else match x.names[d.ix - 1]? with
    | none => s
    | some n =>
      if n.pend = some d.tk then
        s.setSlot d.tid { x with names := x.names.set (d.ix - 1) (n.land v p), fflags := x.fflags ||| fl }
      else s

end Sys2Proof.Machine
end

