-- ==== Sys2Proof/Machine/Access.lean ====
section
/-! DEFINITION. Far accesses of slots: when one may be performed, and what its owner does with it: reads, writes,
atomics, frame operations and group updates (spec/08_memory.md R175, R176; spec/09_ordering.md R187 to R201;
spec/05_tasks.md R92; spec/18_ref_f_l.md R372, R373). -/

namespace Sys2Proof.Machine

/-! ### Order (R192 to R198) -/

/-- The access that a request makes. -/
def Req.acc : Req → Option Acc
  | .read a _ => some a
  | .write a _ _ => some a
  | .atomic a _ _ _ _ _ _ _ => some a
  | .inc a _ _ => some a
  | .hdr a _ _ => some a
  | .dec a _ _ _ _ => some a
  | .test a _ => some a
  | .genter a _ => some a
  | .gleave a _ => some a
  | .gbar a _ => some a
  | .gsize a _ => some a
  | _ => none

/-- A frame operation (R92). -/
def Req.isFrame : Req → Bool
  | .inc _ _ _ => true
  | .hdr _ _ _ => true
  | .dec _ _ _ _ _ => true
  | .test _ _ => true
  | _ => false

/-- The place lies within a scope of a core (R196). The bank of a base die belongs to the quarter of its number / 1,024
(R9, log entry 20). -/
def inScope (sc : Scope) (core : Nat) (t : Tgt) : Bool :=
  match sc, t with
  | .slot, _ => false
  | .core, .ls c _ => decide (c = core)
  | .core, .mem _ => false
  | .clu, .ls c _ => decide (cluOf c = cluOf core)
  | .clu, .mem _ => false
  | .qtr, .ls c _ => decide (qtrOf c = qtrOf core)
  | .qtr, .mem pa => isCommon pa && decide (bankOf pa / 1024 = qtrOf core)
  | .dev, .ls _ _ => true
  | .dev, .mem pa => isDev pa
  | .sys, _ => true

/-- Two accesses touch a common byte. -/
def overlap (t u : Tgt) (n m : Nat) : Bool :=
  match t, u with
  | .mem a, .mem b => decide (a < b + m ∧ b < a + n)
  | .ls c a, .ls d b => decide (c = d ∧ a < b + m ∧ b < a + n)
  | .mem _, .ls _ _ => false
  | .ls _ _, .mem _ => false

/-- The kind in which a group update takes part in the order of its slot's accesses: that of the record's page (R201), but that
no row of R198 orders it as an SO access (R335; log entry 14). -/
def POrd.group : POrd → POrd
  | .so => .rc
  | .rc => .rc
  | .uo => .uo

/-- An access of a slot must be performed before a later one of the same slot (R192, R198). -/
def Acc.before (x y : Acc) : Bool :=
  decide (x.tid = y.tid) &&
  (overlap x.tgt y.tgt x.n y.n || (decide (x.ord = .so) && decide (y.ord = .so)) ||
   (match x.acq with
    | none => false
    | some sc => decide (y.ord ≠ .uo) && inScope sc (coreOf x.tid) y.tgt))

/-- Two frame operations of one core to one bank (R92). -/
def frameBefore (r q : Req) (x y : Acc) : Bool :=
  r.isFrame && q.isFrame && decide (coreOf x.tid = coreOf y.tid) &&
  match x.tgt, y.tgt with
  | .mem a, .mem b => decide (bankOf a = bankOf b)
  | _, _ => false

/-- A request in flight with an access may be performed now: no earlier one must come first. -/
def State.mayPerform (s : State) (id : Nat) (q : Req) : Bool :=
  match q.acc with
  | none => true
  | some y => s.inflight.all (fun e => decide (id ≤ e.1) ||
      match e.2.acc with
      | none => true
      | some x => !(x.before y || frameBefore e.2 q x y))

/-! ### Trap records on their way (R84, R262, R313) -/

/-- A record of an asynchronous cause, or one that the device makes for a partition: every field zero but those given. -/
def TrapRec.zero (cause sub part cyc : Nat) : TrapRec where
  cause := cause
  sub := sub
  name := 0
  tid := 0
  pc := 0
  insn := 0
  addr := 0
  part := part
  region := false
  nested := false
  smode := false
  epoch := 0
  launch := 0
  cyc := cyc
  rgnpc := 0

/-- A bit as a number. -/
abbrev b2n (b : Bool) : Nat := if b then 1 else 0

/-- The eight words of a trap record (R84, R262). -/
def TrapRec.words (r : TrapRec) : List Word :=
  [BitVec.ofNat 64 (r.cause + r.sub % 256 * 2 ^ 8 + r.name * 2 ^ 16), BitVec.ofNat 64 r.tid, r.pc, r.insn, r.addr,
   BitVec.ofNat 64 (r.part * 2 ^ 56 + b2n r.region * 2 ^ 50 + b2n r.nested * 2 ^ 49 + b2n r.smode * 2 ^ 48 +
     r.epoch * 2 ^ 32 + r.launch),
   BitVec.ofNat 64 r.cyc, r.rgnpc]

/-- Report a record to the host (R304): it waits for MACHINE_CHECK_REPORT. -/
def State.reportHost (s : State) (ws : List Word) : State := { s with mchkq := s.mchkq ++ [ws] }

/-- Send a trap record to the trap handler of a partition; when the partition has no configuration its replacement goes to
partition 0's, and to the host when partition 0 has none (R313). A replacement is never replaced. -/
def State.sendTrap (s : State) (part : Nat) (r : TrapRec) : State :=
  let go := fun (g : Pcb) (part : Nat) (r : TrapRec) =>
    s.send (.msg ⟨part, 0, r.words.map (fun w => (w, false)), r.tid, g.trapc, true⟩)
  match (s.part part).cfg with
  | some g => go g part r
  | none =>
    let q : TrapRec := if r.cause = 0x10 ∧ r.sub = 3 then r
      else { TrapRec.zero 0x10 3 part s.cycle with name := r.cause, tid := r.tid, addr := r.pc }
    match (s.part 0).cfg with
    | some g => if part = 0 then s.reportHost q.words else go g 0 q
    | none => s.reportHost q.words

/-- The partition of a LAUNCHID (R88). -/
def launchPart (l : Nat) : Nat := l / 2 ^ 26 % 64

/-! ### Atomics (R175, R176, R335, R337) -/

/-- Bytes of an atomic's word. -/
def AtTy.bytes : AtTy → Nat
  | .int .s64 => 8 | .int .u64 => 8 | .int .s32 => 4 | .int .u32 => 4 | .flt .f32 => 4 | .flt .a56 => 8

/-- The integer type is signed. -/
def itySigned : ITy → Bool
  | .s64 => true | .u64 => false | .s32 => true | .u32 => false
/-- Bits of an integer type. -/
def ityBits : ITy → Nat
  | .s64 => 64 | .u64 => 64 | .s32 => 32 | .u32 => 32
/-- The kind of a float type. -/
def ftyFk : FTy → FK
  | .f32 => .f32 | .a56 => .a56

/-- The value of a memory word as the type (R176). -/
def AtTy.load (ty : AtTy) (m : Nat) : Int :=
  match ty with
  | .int t => if itySigned t then sext (ityBits t) m else m % 2 ^ ityBits t
  | .flt t => m % 2 ^ (ftyFk t).width

/-- m′ of an integer atomic: bits of the type's width. -/
def intAtom (op : AtOp) (t : ITy) (m b c : Int) : Nat :=
  let w := ityBits t
  match op with
  | .add => umod w (m + b)
  | .and => umod w m &&& umod w b
  | .cas => umod w (if m = c then b else m)
  | .max => umod w (if m < b then b else m)
  | .min => umod w (if b < m then b else m)
  | .or => umod w m ||| umod w b
  | .swap => umod w b
  | .xor => umod w m ^^^ umod w b
  | .fadd => umod w m
  | .fmax => umod w m
  | .fmin => umod w m

/-- m′ of a float atomic: the pattern; a NaN result is canonical (R176). -/
def fltAtom (op : AtOp) (k : FK) (rm : Rm) (m b : Nat) : Nat :=
  let x := k.decode m
  let y := k.decode b
  match op with
  | .fadd => ((fAdd rm x y).round k rm false).1
  | .fmax => (k.round rm false false (fMinMax true x y).1).1
  | .fmin => (k.round rm false false (fMinMax false x y).1).1
  | .add => m
  | .and => m
  | .cas => m
  | .max => m
  | .min => m
  | .or => m
  | .swap => m
  | .xor => m

/-- The new memory word of an atomic. -/
def atomNew (op : AtOp) (ty : AtTy) (rm : Rm) (m : Nat) (b c : Int) : Nat :=
  match ty with
  | .int t => intAtom op t (ty.load m) b c
  | .flt t => fltAtom op (ftyFk t) rm (m % 2 ^ (ftyFk t).width) b.toNat

/-- The value that an atomic returns (R176). -/
def atomOld (ty : AtTy) (m : Nat) : LandV :=
  match ty with
  | .int _ => .int (ty.load m)
  | .flt _ => .pat (ty.load m).toNat

/-- Trace the write of an access. -/
def State.traceAcc (s : State) (a : Acc) (pa : Nat) : State :=
  if a.trace then s.traceWrite (s.partNum (coreOf a.tid)) 0 s.devNum a.tid pa else s

/-- An atomic at its owner. -/
def State.doAtomic (s : State) (a : Acc) (op : AtOp) (ty : AtTy) (rm : Rm) (b c : Int) (p : Bool) (dst : Option Dst) : State :=
  let (m, pm) := s.tgtRead a.tgt a.n
  let s := s.tgtWrite a.tgt a.n (atomNew op ty rm m b c) (pm || p)
  let s := match a.tgt with
    | .mem pa => s.traceAcc a pa
    | .ls _ _ => s
  match dst with
  | none => s
  | some d => s.send (.land d (atomOld ty m) pm 0)

/-! ### Frame operations at the bank (R92) -/

/-- Write a whole word of a header and trace it. -/
def State.frameWrite (s : State) (a : Acc) (pa : Nat) (w : Word) (p : Bool) : State :=
  (s.memWrite pa 8 w.toNat p).traceAcc a pa

/-- INC: COUNT rises; the acknowledgement goes back. -/
def State.doInc (s : State) (a : Acc) (pa launch : Nat) (frame : Word) : State :=
  let w := s.memWord pa
  let n := BitVec.ofNat 64 (w.toNat / 2 ^ 63 * 2 ^ 63 + (w.toNat + 1) % 2 ^ 63)
  (s.frameWrite a pa n (s.memPoison pa)).send (.incAck (coreOf a.tid) launch frame)

/-- HDR: the child's header in one write. -/
def State.doHdr (s : State) (a : Acc) (pa : Nat) (parent tuning : Word) : State :=
  (((s.frameWrite a pa 0 false).frameWrite a (pa + 8) 0 false).frameWrite a (pa + 16) parent false).frameWrite
    a (pa + 24) tuning false

/-- DEC: reads PARENT and forwards DEC' to its bank. A lost join is reported. It counts as an atomic of the word it reads
(R187, R210). -/
def State.doDec (s : State) (a : Acc) (pa launch : Nat) (pc frame : Word) : State :=
  let s := s.traceAcc a (pa + 16)
  let part := launchPart launch
  let lost := fun (c sc : Nat) (addr : Word) =>
    (s.sendTrap part { TrapRec.zero c sc part s.cycle with tid := a.tid, pc := pc, addr := addr, launch := launch }).send
      (.decReply a.tid a.ep none)
  if s.memPoison (pa + 16) then lost 0x0A 0 frame
  else
    let parent := s.memWord (pa + 16)
    if parent = 0 then s.send (.decReply a.tid a.ep none)
    else match s.xlatePart part false parent.toNat .wr with
      | .miss => s.send (.decReply a.tid a.ep none)
      | .fault c sc => lost c sc parent
      | .ok q l => if isDev q then s.send (.decPrime a.tid a.ep launch q l.trace parent) else lost 9 0x11 parent

/-- DEC': COUNT falls, and a suspended frame whose last child has ended is released. -/
def State.doDecPrime (s : State) (src : Tid) (ep pa : Nat) (trace : Bool) (frame : Word) : State :=
  let w := (s.memWord pa).toNat
  let cnt := w % 2 ^ 63
  let susp := decide (2 ^ 63 ≤ w)
  let a : Acc := ⟨src, ep, .mem pa, 8, true, .uo, none, trace⟩
  if cnt = 0 then (s.traceAcc a pa).send (.decReply src ep none)
  else
    let free := susp && decide (cnt = 1)
    let n := if free then 0 else cnt - 1 + (if susp then 2 ^ 63 else 0)
    let rel := if free then some (s.memWord (pa + 8), frame, s.memWord (pa + 24)) else none
    (s.frameWrite a pa (BitVec.ofNat 64 n) (s.memPoison pa)).send (.decReply src ep rel)

/-- TEST: GO with no children, else the frame is suspended. -/
def State.doTest (s : State) (a : Acc) (pa : Nat) (resume : Word) : State :=
  let w := (s.memWord pa).toNat
  if w % 2 ^ 63 = 0 then (s.traceAcc a pa).send (.testReply a.tid a.ep true)
  else
    let s := s.frameWrite a pa (BitVec.ofNat 64 (2 ^ 63 + w % 2 ^ 63)) (s.memPoison pa)
    (s.frameWrite a (pa + 8) resume (s.memPoison (pa + 8))).send (.testReply a.tid a.ep false)

/-- The address of a place in memory; 0 for a local store, where no frame or record lies. -/
def Tgt.pa : Tgt → Nat
  | .mem pa => pa
  | .ls _ _ => 0

/-! ### Group updates at the bank (R85, R86, R372, R373) -/

/-- A word of a group record. -/
def State.grpWord (s : State) (pa k : Nat) : Nat := (s.memWord (pa + 8 * k)).toNat
/-- Write a word of a group record. -/
def State.setGrp (s : State) (a : Acc) (pa k v : Nat) : State :=
  s.frameWrite a (pa + 8 * k) (BitVec.ofNat 64 v) (s.memPoison (pa + 8 * k))

/-- A slot that has arrived in a GBAR at the barrier of a GEN on the record at a PA sees the release; one that has since begun
to arrive afresh has no marker (R373). -/
def State.releaseBar (s : State) (pa gen : Nat) (t : Tid) (ep : Nat) : State :=
  let x := s.slot t
  if x.epoch = ep ∧ x.greq = .gbarSent ∧ x.group ≠ 0 ∧ x.groupPa = pa ∧ x.marker.map (·.2) = some gen then s.setSlot t { x with greq := .gbarDone } else s

/-- Apply one held GENTER (R372). -/
def State.applyGenter (s : State) (a : Acc) (va : Word) : State :=
  (s.setGrp a a.tgt.pa 0 (s.grpWord a.tgt.pa 0 + 1)).send (.genterReply a.tid a.ep va a.tgt.pa a.ord a.trace)

/-- A barrier closes (R86), its members are released, then the held GENTERs are applied in arrival order (R372). -/
def State.closeBarrier (s : State) (a : Acc) (pa : Nat) : State :=
  let gen := s.grpWord pa 3
  let s := ((s.setGrp a pa 3 (gen + 1)).setGrp a pa 1 0).setGrp a pa 2 0
  let b := s.bank (bankOf pa)
  let ws := b.waiters.filter (fun w => decide (w.1 = pa))
  let hs := b.held.filter (fun h => decide (h.1.tgt = .mem pa))
  let s := s.setBank (bankOf pa) { b with
    waiters := b.waiters.filter (fun w => decide (w.1 ≠ pa)), held := b.held.filter (fun h => decide (h.1.tgt ≠ .mem pa)) }
  let s := ws.foldl (fun st w => st.releaseBar pa gen w.2.1 w.2.2) s
  hs.foldl (fun st h => st.applyGenter h.1 h.2) s

/-- GENTER at the bank. -/
def State.doGenter (s : State) (a : Acc) (pa : Nat) (va : Word) : State :=
  if s.grpWord pa 1 = 0 then s.applyGenter a va
  else
    let b := s.bank (bankOf pa)
    s.setBank (bankOf pa) { b with held := b.held ++ [(a, va)] }

/-- Count an arrival; the last one closes the barrier. -/
def State.arrive (s : State) (a : Acc) (pa : Nat) : State :=
  let n := s.grpWord pa 2 + 1
  let s := s.setGrp a pa 2 n
  if n = s.grpWord pa 1 then s.closeBarrier a pa else s

/-- A slot waits no longer in a GBAR on the record at a PA. -/
def Bank.unwait (b : Bank) (pa : Nat) (t : Tid) (ep : Nat) : Bank :=
  { b with waiters := b.waiters.filter (fun w => decide (w ≠ (pa, t, ep))) }

/-- GLEAVE at the bank: the arrival of a slot whose marker is that of the open barrier is counted already (R373). -/
def State.doGleave (s : State) (a : Acc) (pa : Nat) (gen : Option Nat) : State :=
  let s := s.setBank (bankOf pa) ((s.bank (bankOf pa)).unwait pa a.tid a.ep)
  let s := s.setGrp a pa 0 (umod 64 ((s.grpWord pa 0 : Int) - 1))
  if gen = some (s.grpWord pa 3) then s
  else if s.grpWord pa 1 = 0 then s
  else s.arrive a pa

/-- GBAR at the bank: the slot's marker takes the record's GEN (R373), then the arrival counts. -/
def State.doGbar (s : State) (a : Acc) (pa : Nat) (pc : Word) : State :=
  let gen := s.grpWord pa 3
  let x := s.slot a.tid
  let s := if x.epoch = a.ep ∧ x.greq = .gbarSent then s.setSlot a.tid { x with marker := some (pc, gen) } else s
  let b := s.bank (bankOf pa)
  let s := s.setBank (bankOf pa) { b with waiters := b.waiters ++ [(pa, a.tid, a.ep)] }
  let s := if s.grpWord pa 1 = 0 then (s.setGrp a pa 1 (s.grpWord pa 0)).setGrp a pa 2 0 else s
  s.arrive a pa

/-- Perform the access of a request at its owner (R188); the request has left flight. -/
def State.performReq (s : State) (r : Req) : State :=
  match r with
  | .read a dst => let (v, p) := s.tgtRead a.tgt a.n; s.send (.land dst (.raw a.n v) p 0)
  | .write a v p =>
    let s := s.tgtWrite a.tgt a.n v p
    match a.tgt with
    | .mem pa => s.traceAcc a pa
    | .ls _ _ => s
  | .atomic a op ty rm b c p dst => s.doAtomic a op ty rm b c p dst
  | .inc a launch frame => s.doInc a a.tgt.pa launch frame
  | .hdr a parent tuning => s.doHdr a a.tgt.pa parent tuning
  | .dec a launch _ pc frame => s.doDec a a.tgt.pa launch pc frame
  | .test a resume => s.doTest a a.tgt.pa resume
  | .genter a va => s.doGenter a a.tgt.pa va
  | .gleave a gen => s.doGleave a a.tgt.pa gen
  | .gbar a pc => s.doGbar a a.tgt.pa pc
  | .gsize a dst => s.send (.land dst (.int (s.grpWord a.tgt.pa 0)) false 0)
  | _ => s

/-- The requests in flight that must be performed for every access of a slot to be performed: its own, and those that
come before one of these, in issue order. -/
def State.accsOf (s : State) (t : Tid) : List (Nat × Req) :=
  s.inflight.foldr (fun e acc => match e.2.acc with
    | none => acc
    | some x =>
      if x.tid = t || acc.any (fun q => match q.2.acc with
          | some y => x.before y || frameBefore e.2 q.2 x y
          | none => false)
      then e :: acc else acc) []

/-- An access of memory behind a peer window: its owner is another device (R188). -/
def Acc.far (a : Acc) : Bool :=
  match a.tgt with
  | .mem pa => isPeer pa
  | .ls _ _ => false

/-- A request must wait for one of those that are still under way. -/
def Req.waits (r : Req) (late : List (Nat × Req)) : Bool :=
  match r.acc with
  | none => false
  | some y => y.far || late.any (fun e => match e.2.acc with
    | some x => x.before y || frameBefore e.2 r x y
    | none => false)

/-- Perform requests one after another: those to a peer's memory, and those that come after one, stay under way. -/
def State.perform : State → List (Nat × Req) → List (Nat × Req) → State
  | s, _, [] => s
  | s, late, e :: es =>
    if e.2.waits late then s.perform (e :: late) es else ((s.unsend e.1).performReq e.2).perform late es

/-- Perform at once every access that a slot has sent to an owner in this device (log entry 21). -/
def State.drain (s : State) (t : Tid) : State := s.perform [] (s.accsOf t)

/-- A slot has an access under way. -/
def State.busy (s : State) (t : Tid) : Bool :=
  s.inflight.any (fun e => match e.2.acc with
    | some a => decide (a.tid = t)
    | none => false)

/-- An earlier access of a slot within a scope, or an earlier remote push, is still under way (R200). -/
def State.unperformed (s : State) (t : Tid) (sc : Scope) : Bool :=
  decide (sc ≠ .slot) && s.inflight.any (fun e => match e.2 with
    | .push u _ _ _ _ _ => decide (u = t)
    | r => match r.acc with
      | some a => decide (a.tid = t) && inScope sc (coreOf t) a.tgt
      | none => false)

/-- An earlier SO or RC access of a slot within a scope is still under way (R197): what a release waits for. -/
def State.unreleased (s : State) (t : Tid) (sc : Scope) : Bool :=
  s.inflight.any (fun e => match e.2.acc with
    | some a => decide (a.tid = t) && decide (a.ord ≠ .uo) && inScope sc (coreOf t) a.tgt
    | none => false)

end Sys2Proof.Machine
end

