-- ==== Sys2Proof/Machine/CapOps.lean ====
section
/-! DEFINITION. Capsules between places: header and stop fields, well-formedness, routing, diverting (spec/11_capsules.md
R228 to R237, R252 to R254). -/

namespace Sys2Proof.Machine

/-- Bits `hi` down to `lo` of a word. -/
abbrev wbits (w : Word) (hi lo : Nat) : Nat := bits w.toNat hi lo

/-- Replace bits `hi` down to `lo` of a word. -/
def setBits (w : Word) (hi lo v : Nat) : Word :=
  let n := w.toNat
  BitVec.ofNat 64 (n - n / 2 ^ lo % 2 ^ (hi + 1 - lo) * 2 ^ lo + v % 2 ^ (hi + 1 - lo) * 2 ^ lo)

/-- The n-th word of a list; 0 beyond its end. -/
def nthW (ws : List Word) (n : Nat) : Word := ws[n]?.getD 0

/-! ### Header fields (R229) -/

/-- NSTOP. -/
def hNstop (h : List Word) : Nat := wbits (nthW h 0) 55 51
/-- CUR. -/
def hCur (h : List Word) : Nat := wbits (nthW h 0) 50 47
/-- FSTOP. -/
def hFstop (h : List Word) : Nat := wbits (nthW h 0) 46 43
/-- HOPS. -/
def hHops (h : List Word) : Nat := wbits (nthW h 0) 42 35
/-- TBM1. -/
def hTbm1 (h : List Word) : Nat := wbits (nthW h 0) 34 28
/-- TFMT. -/
def hTfmt (h : List Word) : Nat := wbits (nthW h 0) 27 24
/-- DIVERTED. -/
def hDiverted (h : List Word) : Bool := decide (wbits (nthW h 0) 16 16 = 1)
/-- Tile bytes. -/
def hTb (h : List Word) : Nat := 64 * (hTbm1 h + 1)
/-- OTID. -/
def hOtid (h : List Word) : Nat := wbits (nthW h 1) 63 48
/-- ODEV. -/
def hOdev (h : List Word) : Nat := wbits (nthW h 1) 47 38
/-- LAUNCHID. -/
def hLaunch (h : List Word) : Nat := wbits (nthW h 1) 31 0

/-- Set a field of header word 0. -/
def setH0 (h : List Word) (hi lo v : Nat) : List Word := h.set 0 (setBits (nthW h 0) hi lo v)
/-- Set a field of header word 1. -/
def setH1 (h : List Word) (hi lo v : Nat) : List Word := h.set 1 (setBits (nthW h 1) hi lo v)

/-! ### Stops (R230, R231) -/

/-- The two words of a stop. -/
def stopAt (its : List Word) (k : Nat) : Word × Word := (nthW its (2 * k), nthW its (2 * k + 1))

/-- A stop keeps R231: reserved fields zero, alignments kept, its PK assigned. -/
def stopOk (w0 w1 : Word) : Bool :=
  decide (wbits w0 15 0 = 0) &&
  let tgt := wbits w0 59 32
  let sl := wbits w0 31 16
  match wbits w0 63 60 with
  | 0 => decide (tgt / 2 ^ 12 = 0)
  | 1 => decide (tgt / 2 ^ 6 = 0)
  | 2 => decide (tgt = 0 ∧ sl ≤ 1 ∧ w1.toNat % 64 = 0)
  | 3 => decide (tgt / 2 ^ 10 = 0 ∧ sl = 0 ∧ wbits w1 63 32 = 0)
  | 4 => decide (tgt = 0 ∧ sl = 0 ∧ wbits w1 5 0 = 0 ∧ wbits w1 63 26 = 0)
  | 5 => decide (tgt / 2 ^ 14 = 0 ∧ sl = 0 ∧ tgt % 32 ≤ 16 ∧ w1.toNat % 64 = 0)
  | _ => false

/-- A tile element kind that is not reserved (R229). -/
def tfmtOk (k : Nat) : Bool := decide (k ≤ 5) || decide (k = 8) || decide (k = 9) || decide (k = 15)

/-- The stops from `k` up to `n` keep R231. -/
def stopsOk (its : List Word) (n : Nat) : Bool :=
  (List.range n).all (fun k => stopOk (stopAt its k).1 (stopAt its k).2)

/-- A capsule image is well formed (R232); behind the stop of a diverted one stands its fault record (R252). -/
def capsuleOk (h its : List Word) : Bool :=
  decide (wbits (nthW h 0) 63 56 = 1 ∧ wbits (nthW h 0) 23 18 = 0 ∧ wbits (nthW h 0) 14 0 = 0 ∧
    wbits (nthW h 1) 37 32 = 0 ∧ nthW h 3 = 0) &&
  decide (1 ≤ hNstop h ∧ hNstop h ≤ 16 ∧ hCur h < hNstop h ∧ hFstop h < hNstop h) &&
  tfmtOk (hTfmt h) && stopsOk its (hNstop h) &&
  (its.drop (max (2 * hNstop h) (if hDiverted h then 10 else 0))).all (fun w => decide (w = 0))

/-- The RO fields of an image given to CMAKE are zero (R229, R243). -/
def capsuleFresh (h : List Word) : Bool :=
  decide (hHops h = 0 ∧ wbits (nthW h 0) 17 15 = 0 ∧ nthW h 1 = 0)

/-- The P of a capsule's header from its tile (R229). -/
def tileP (tile : List (Word × Bool)) : Bool := tile.any (·.2)

/-! ### Buffers (R233, R234) -/

/-- The local-store offset of a buffer. -/
def bufOff (b : Nat) : Nat := 0x36000 + 0x2000 * b

/-- The buffer that a capsule takes: the lowest free one of its core (R234; log entry 81). -/
def Core.freeBuf (c : Core) : Option Nat := (List.range 4).find? (fun b => (mfind b c.capBufs).isNone)

/-- Words of a local store with their P bits. -/
def State.lsWords (s : State) (core off n : Nat) : List (Word × Bool) :=
  (List.range n).map (fun k => (BitVec.ofNat 64 (s.lsRead core (off + 8 * k) 8), s.lsP core (off + 8 * k)))

/-- Write words with their P bits to a local store; with `full`, F of each becomes 1. -/
def State.lsPut (s : State) (core off : Nat) (full : Bool) : List (Word × Bool) → State
  | [] => s
  | (w, p) :: ws =>
    let s := s.lsWrite core off 8 w.toNat p
    let s := if full then s.setLsF core off true else s
    s.lsPut core (off + 8) full ws

/-- Set a buffer. -/
def State.setBuf (s : State) (core b : Nat) (x : CapBuf) : State :=
  let c := s.core core
  s.setCore core { c with capBufs := mset b x c.capBufs }

/-- A buffer becomes free (R234). -/
def State.freeBufAt (s : State) (core b : Nat) : State :=
  let c := s.core core
  s.setCore core { c with capBufs := mdel b c.capBufs }

/-- The buffer whose capsule a slot holds. -/
def State.heldBuf (s : State) (t : Tid) : Option (Nat × CapBuf) :=
  (s.core (coreOf t)).capBufs.find? (fun e => decide (e.2.holder = some t))

/-! ### Routing (R236, R237, R252 to R254) -/

/-- A fault record of a capsule whose cause is no trap (R252). -/
def capRecord (sub tid : Nat) (pc addr : Word) : List Word :=
  [BitVec.ofNat 64 (0x0F + sub * 256), BitVec.ofNat 64 tid, pc, 0, addr, 0, 0, 0]

/-- Rewrite a capsule for its fault path (R252); a capsule that is diverted already keeps its record. -/
def Capsule.diverted (c : Capsule) (rec : List Word) : Capsule :=
  if hDiverted c.hdr then c
  else
    let f := stopAt c.its (hFstop c.hdr)
    { c with
      hdr := setH0 (setH0 (setH0 (setH0 c.hdr 55 51 1) 50 47 0) 46 43 0) 16 16 1
      its := [f.1, f.2] ++ rec ++ List.replicate 22 0 }

/-- Drop a capsule and report it (R254). -/
def State.dropCapsule (s : State) (c : Capsule) : State :=
  s.sendTrap c.part { TrapRec.zero 0x0F 6 c.part s.cycle with addr := nthW c.hdr 2, launch := hLaunch c.hdr }

/-- Send a capsule to its partition's default sink, or drop and report it where there is none (R254). -/
def State.toDefaultSink (s : State) (c : Capsule) : State :=
  match (s.part c.part).cfg with
  | some g => if g.capen then s.send (.capSink c true) else s.dropCapsule c
  | none => s.dropCapsule c

/-- A core can take a capsule of a partition (R236). -/
def State.capCoreOk (s : State) (part core : Nat) : Bool :=
  match (s.part part).cfg with
  | some g => g.has core && g.capen && !(s.part part).refuse && !(s.core core).offline
  | none => false

/-- Occupied capsule buffers of a core (R237). -/
def State.bufsUsed (s : State) (core : Nat) : Nat := (s.core core).capBufs.length

/-- The members of a class that can take a capsule (R237); none when its entry cannot be read. -/
def State.classMembers (s : State) (part k : Nat) : List Nat :=
  match (s.part part).cfg with
  | none => []
  | some g =>
    if g.ptab = 0 then []
    else match s.devWords part true (g.ptab.toNat + 512 * k) 64 with
      | .error _ => []
      | .ok ws => (List.range (g.ncm1 + 1)).filterMap (fun i =>
          let c := g.first + i
          if decide ((nthW ws (c / 64)).toNat / 2 ^ (c % 64) % 2 = 1) && s.capCoreOk part c then some c else none)

/-- The member with the fewest occupied buffers, the lowest core on a tie (R237). -/
def State.classPick (s : State) (part k : Nat) : Option Nat :=
  (s.classMembers part k).foldl (fun b c => match b with
    | none => some c
    | some d => if s.bufsUsed c < s.bufsUsed d then some c else some d) none

/-- A peer device can be reached (R298). -/
def State.peerUp (s : State) (dev : Nat) : Bool := s.ports.any (fun e => e.2.up && decide (e.2.peer = dev))

/-- A capsule with a place, or the place that is unavailable. -/
def State.placeReq (s : State) (c : Capsule) : Option Req :=
  let st := stopAt c.its (hCur c.hdr)
  let tgt := wbits st.1 59 32
  match wbits st.1 63 60 with
  | 0 => if s.capCoreOk c.part tgt then some (.capCore tgt c s.cycle) else none
  | 1 => (s.classPick c.part tgt).map (fun k => .capCore k c s.cycle)
  | 2 => some (.capBank c)
  | 3 => if s.peerUp tgt then some (.capEgress c tgt) else none
  | 4 =>
    if hOdev c.hdr = s.devNum then
      (if s.capCoreOk c.part (hOtid c.hdr / 16) then some (.capHome c) else none)
    else if s.peerUp (hOdev c.hdr) then some (.capEgress c (hOdev c.hdr)) else none
  | _ => some (.capSink c false)

/-- The place word of the stop at which a capsule stands (R252). -/
def Capsule.place (c : Capsule) : Word := BitVec.ofNat 64 (wbits (stopAt c.its (hCur c.hdr)).1 63 32)

/-- Route a capsule to its stop CUR (R236): once more, for its fault stop, when it is diverted on the way. -/
def State.routeN (s : State) : Nat → Capsule → State
  | 0, c => s.toDefaultSink c
  | n + 1, c =>
    if hHops c.hdr = 255 then s.toDefaultSink (c.diverted (capRecord 0x12 0 0 0))
    else
      let c := { c with hdr := setH0 c.hdr 42 35 (hHops c.hdr + 1) }
      match s.placeReq c with
      | some r => s.send r
      | none =>
        if hDiverted c.hdr then s.toDefaultSink c
        else s.routeN n (c.diverted (capRecord 0x11 0 0 c.place))

/-- Route a capsule (R236). -/
def State.route (s : State) (c : Capsule) : State := s.routeN 2 c

/-- Divert a capsule with a record and route it (R252, R253). -/
def State.divert (s : State) (c : Capsule) (rec : List Word) : State :=
  if hDiverted c.hdr then s.toDefaultSink c else s.route (c.diverted rec)

/-- Divert a capsule straight to the default sink (R253, R257). -/
def State.sink (s : State) (c : Capsule) (rec : List Word) : State := s.toDefaultSink (c.diverted rec)

/-- The capsule in a buffer as it stands, with its tile and the P of its header (R244). -/
def State.bufCapsule (s : State) (core b : Nat) (x : CapBuf) : Capsule :=
  let tile := s.lsWords core (bufOff b) (hTb x.hdr / 8)
  ⟨setH0 x.hdr 15 15 (b2n (tileP tile)), x.its, tile, x.part, x.snap.bears, some core⟩

end Sys2Proof.Machine
end

