-- ==== Sys2Proof/Machine/Ops.lean ====
section
/-! DEFINITION. What the instructions and events share about slots: time, groups, freeing and starting a slot, taking a
trap and returning from it, discarding a slot, deques and the search for work (spec/04_slots.md, spec/05_tasks.md,
spec/12_traps.md R259 to R268, R280). -/

namespace Sys2Proof.Machine

/-! ### Time (R62, R96) -/

/-- One step of the LFSR of a quarter (R96). -/
def lfsrStep (r : BitVec 16) : BitVec 16 :=
  let b := (r ^^^ (r >>> 2) ^^^ (r >>> 3) ^^^ (r >>> 5)) &&& 1
  (r >>> 1) ||| (b <<< 15)

/-- `n` steps of the LFSR. -/
def lfsrN : Nat → BitVec 16 → BitVec 16
  | 0, r => r
  | n + 1, r => lfsrN n (lfsrStep r)

/-- Core cycles pass; the LFSR's period is 65,535. -/
def State.advance (s : State) (n : Nat) : State :=
  { s with cycle := s.cycle + n, lfsr := lfsrN (n % 65535) s.lfsr }

/-! ### Slots of a core -/

/-- Slots 14 and 15 are reserved on a core (R82). -/
def State.reserved (s : State) (core : Nat) : Bool :=
  match s.cfgOf core with
  | some g => g.rsv
  | none => false

/-- The lowest-numbered free slot of a core: any, or only an unreserved one (R79, R82, R107). -/
def State.freeSlotOf (s : State) (core : Nat) (any : Bool) : Option Tid :=
  (coreTids core).find? (fun t => decide ((s.slot t).st = .free) &&
    (any || !s.reserved core || decide (slotOf t < 14)))

/-- Declared bits more fit beside those of a core (R51). -/
def State.fits (s : State) (core bits : Nat) : Bool := decide (s.declared core + bits ≤ Config.storeBits)

/-- A core whose register store is being repacked. -/
def State.repacking (s : State) (core : Nat) : Bool := (s.core core).repack.isSome

/-! ### Groups (R86, R87, R371 to R373) -/

/-- The access of a group request of a slot. -/
def Slot.groupAcc (x : Slot) (t : Tid) : Acc := ⟨t, x.epoch, .mem x.groupPa, 32, true, x.groupOrd, none, x.groupTr⟩

/-- A slot leaves its group (R87): its earlier accesses are performed, so that its marker is known, and the GLEAVE is sent. -/
def State.leaveGroup (s : State) (t : Tid) : State :=
  if (s.slot t).group = 0 then s
  else
    let s := s.drain t
    let x := s.slot t
    (s.setSlot t { x with group := 0, marker := none }).send (.gleave (x.groupAcc t) (x.marker.map (·.2)))

/-- A slot whose thread ends leaves its group, and its GLEAVE is performed (R203; log entry 21). -/
def State.quit (s : State) (t : Tid) : State := (s.leaveGroup t).drain t

/-! ### Freeing and starting (R64, R65, R90, R261) -/

/-- A slot becomes free: its tuning and its state go, its EPOCH stays. -/
def State.freeSlot (s : State) (t : Tid) : State := s.setSlot t { Slot.reset with epoch := (s.slot t).epoch }

/-- What starts a slot: PC, mode, tuning, FRAME, CAPBASE, LAUNCHID, priority, and whether it belongs to that launch. -/
structure Start where
  pc      : Word
  smode   : Bool
  tuning  : Word
  frame   : Word
  capbase : Nat
  launch  : Nat
  prio    : Nat
  bears   : Bool
  deriving DecidableEq, Repr

/-- The restart point of a start that is no region entry (R285). -/
def Restart.plain (r : CRec) : Restart := ⟨r, false, (0, 0), 0, List.replicate 8 (0, false)⟩

/-- Start a slot with a tuning that has been read and fits (R54, R64, R90, R261, R278). -/
def State.startSlot (s : State) (t : Tid) (w : Start) (ks : List NKind) : State :=
  let x := s.slot t
  (s.setSlot t { Slot.reset with
    st := .runnable, pc := w.pc, smode := w.smode, frame := w.frame, capbase := w.capbase, launch := w.launch
    prio := w.prio, bears := w.bears, epoch := (x.epoch + 1) % 65536
    start := some (.plain ⟨w.pc, w.frame, w.tuning, w.launch, costOf ks, w.prio, true⟩) }).applyTuning t w.tuning ks

/-- The start of a continuation record (R90). -/
def CRec.startOf (r : CRec) : Start := ⟨r.pc, false, r.tuning, r.frame, 0, r.launch, r.prio, true⟩

/-! ### Traps (R261 to R265) -/

/-- A trap: cause, subcode, name index, address field. -/
structure TrapInfo where
  cause : Nat
  sub   : Nat
  name  : Nat
  addr  : Word
  deriving DecidableEq, Repr

/-- A cause and subcode without name and address. -/
def TrapInfo.of (c sc : Nat) : TrapInfo := ⟨c, sc, 0, 0⟩

/-- The record of a trap of a slot (R262). -/
def State.trapRec (s : State) (t : Tid) (pc insn : Word) (i : TrapInfo) (nested : Bool) : TrapRec :=
  let x := s.slot t
  { cause := i.cause, sub := i.sub, name := i.name, tid := t, pc := pc, insn := insn, addr := i.addr
    part := s.partNum (coreOf t), region := decide (x.rgnpc ≠ 0), nested := nested, smode := x.smode
    epoch := x.epoch, launch := x.launch, cyc := s.cycle, rgnpc := x.rgnpc }

/-- A slot parks by a trap, with all its state kept (R65, R67, R261). -/
def State.parkTrap (s : State) (t : Tid) (pc : Word) (i : TrapInfo) (inV : Bool) : State :=
  s.modSlot t (fun x => { x with
    st := .trapped, pc := pc, trapslot := inV, kept := none, waitChecked := false, waitSince := s.cycle
    waiton := BitVec.ofNat 64 (10 * 2 ^ 60 + i.sub % 256 * 256 + i.cause) })

/-- A trap of a slot that holds a capsule (R253): the slot is freed, and the capsule's snapshot goes on diverted with the
trap's record, sent by this core (R234). -/
def State.trapHolder (s : State) (t : Tid) (b : Nat) (c : Capsule) (rec : List Word) : State :=
  (((s.freeBufAt (coreOf t) b).quit t).freeSlot t).divert { c with src := some (coreOf t) } rec

/-- A trap of an S-mode slot (R265): through SVEC while ECAUSE is not busy, else the slot parks and partition 0's handler
or the host gets the record. -/
def State.trapS (s : State) (t : Tid) (pc insn : Word) (i : TrapInfo) (inV : Bool) : State :=
  let x := s.slot t
  let svec := match s.cfgOf (coreOf t) with
    | some g => g.svec
    | none => 0
  if decide (x.ecause.toNat < 2 ^ 63) && decide (svec ≠ 0) then
    s.setSlot t { x with
      st := .runnable, pc := svec, epc := pc, eaddr := i.addr, kept := none, waiton := 0, waitChecked := false
      ecause := BitVec.ofNat 64 (2 ^ 63 + i.name % 256 * 2 ^ 16 + i.sub % 256 * 2 ^ 8 + i.cause) }
  else
    let tr := s.trapRec t pc insn i true
    let s := s.parkTrap t pc i inV
    if s.partNum (coreOf t) = 0 then s.reportHost tr.words else s.sendTrap 0 tr

/-- TAKING A TRAP (R43, R261, R265, R253): the op has had no effect; the slot's earlier accesses are performed first
(R195). -/
def State.takeTrap (s : State) (t : Tid) (pc insn : Word) (i : TrapInfo) (inV : Bool) : State :=
  let s := s.drain t
  match s.heldBuf t with
  | some (b, x) => s.trapHolder t b x.snap (s.trapRec t pc insn i false).words
  | none =>
    if (s.slot t).smode then s.trapS t pc insn i inV
    else
      let tr := s.trapRec t pc insn i false
      (s.parkTrap t pc i inV).sendTrap (s.partNum (coreOf t)) tr

/-- THE RETURN FROM A TRAP (R266): ECAUSE becomes 0 and execution goes on at EPC; none where ECAUSE is not busy. -/
def State.returnTrap (s : State) (t : Tid) : Option State :=
  let x := s.slot t
  if x.ecause.toNat < 2 ^ 63 then none else some (s.setSlot t { x with ecause := 0, pc := x.epc })

/-! ### Discard (R280) -/

/-- The GENTER that a bank holds for a slot. -/
def heldGenter (t : Tid) (ep pa : Nat) (h : Acc × Word) : Bool := decide (h.1.tid = t ∧ h.1.ep = ep ∧ h.1.tgt = .mem pa)

/-- A bank removes the GENTER that it holds for a slot; whether it held one. -/
def State.removeHeld (s : State) (t : Tid) (ep pa : Nat) : Bool × State :=
  let b := s.bank (bankOf pa)
  if b.held.any (heldGenter t ep pa) then
    (true, s.setBank (bankOf pa) { b with held := b.held.filter (fun h => !heldGenter t ep pa h) })
  else (false, s)

/-- The GENTER of a discarded slot is removed, or undone by a GLEAVE where the bank has applied it (R373). -/
def State.ungenter (s : State) (t : Tid) (ep pa : Nat) (tr : Bool) : State :=
  match s.removeHeld t ep pa with
  | (true, s) => s
  | (false, s) => s.doGleave ⟨t, ep, .mem pa, 32, true, .rc, none, tr⟩ pa none

/-- The requests of a slot and epoch that withdraw its GENTER. -/
def Req.withdraws (r : Req) (t : Tid) (ep : Nat) : Bool :=
  match r with
  | .genterWd u e _ _ _ => decide (u = t ∧ e = ep)
  | _ => false

/-- The GENTER of a slot and epoch on its way to the bank. -/
def Req.genters (r : Req) (t : Tid) (ep : Nat) : Bool :=
  match r with
  | .genter a _ => decide (a.tid = t ∧ a.ep = ep)
  | _ => false

/-- Withdraw the GENTER of a slot that is being discarded (R373): the withdrawal is performed at once (log entry 21), and a
withdrawal for a wait limit that is under way has nothing left to do. -/
def State.withdraw (s : State) (t : Tid) : State :=
  let ep := (s.slot t).epoch
  match (s.slot t).greq with
  | .genterSent pa tr =>
    let onWay := s.inflight.any (fun e => e.2.genters t ep)
    let s := { s with inflight := s.inflight.filter (fun e => !(e.2.withdraws t ep || e.2.genters t ep)) }
    if onWay then s else s.ungenter t ep pa tr
  | .none | .genterDone | .gbarSent | .gbarDone => s

/-- The DEC' operations that a slot's DEC has sent on are performed (R289). -/
def State.joinAll (s : State) (t : Tid) : State :=
  s.inflight.foldl (fun st r => match r.2 with
    | .decPrime u ep _ pa tr frame => if u = t then (st.unsend r.1).doDecPrime u ep pa tr frame else st
    | _ => st) s

/-- DISCARD a slot: its earlier accesses are performed, it leaves its group, its pending results, loop state and tuning
go, and it is free. A capsule that it held has been dealt with by the caller, which has waited for a repack to end. -/
def State.discard (s : State) (t : Tid) : State :=
  if (s.slot t).st = .free then s
  else ((((s.drain t).joinAll t).quit t).withdraw t).freeSlot t

/-! ### Deques (R88, R98, R161) -/

/-- Words of a continuation record (R88). -/
def CRec.words (r : CRec) : List Word :=
  [r.pc, r.frame, r.tuning, BitVec.ofNat 64 (r.launch % 2 ^ 32 * 2 ^ 32 + r.bits % 2 ^ 19 * 2 ^ 13 + r.prio % 4)]

/-- A continuation record from its words. -/
def CRec.ofWords (ws : List Word) : CRec :=
  let w := nthW ws 3
  ⟨nthW ws 0, nthW ws 1, nthW ws 2, wbits w 63 32, wbits w 31 13, wbits w 1 0, true⟩

/-- Where the `k`-th local record of a core stands, the oldest first (log entry 55). -/
def Core.dqOff (c : Core) (k : Nat) : Nat := Config.lsSys + 32 * ((c.dqHead + k) % 256)

/-- The PA of the `k`-th overflow record of a core, the oldest first (R98, R270; log entry 55); none where the overflow area
cannot be reached there. -/
def State.ovPa (s : State) (core k : Nat) : Option Nat :=
  match s.partOf core with
  | none => none
  | some p => match (s.part p).cfg with
    | none => none
    | some g =>
      match s.xlatePart p true ((g.ovf.toNat + 65536 * (core - g.first) + 32 * (((s.core core).ovHead + k) % 2048)) % 2 ^ 64) .rw with
      | .ok pa _ => if isPeer pa then none else some pa
      | .miss => none
      | .fault _ _ => none

/-- The local store shows the `k`-th local record. -/
def State.showDq (s : State) (core k : Nat) (r : CRec) : State :=
  s.lsPut core ((s.core core).dqOff k) false (r.words.map (fun w => (w, false)))

/-- Write words to memory. -/
def State.putWords (s : State) (pa : Nat) : List Word → State
  | [] => s
  | w :: ws => (s.memWrite pa 8 w.toNat false).putWords (pa + 8) ws

/-- The overflow area shows the `k`-th overflow record. -/
def State.showOv (s : State) (core k : Nat) (r : CRec) : State :=
  match s.ovPa core k with
  | none => s
  | some pa => s.putWords pa r.words

/-- A record as its four words now stand; the unit's own copy of it where a word is poisoned or a reserved bit is set (log
entry 55). -/
def CRec.reread (r : CRec) (ws : List (Word × Bool)) : CRec :=
  if ws.any (·.2) || decide (wbits (nthW (ws.map (·.1)) 3) 12 2 ≠ 0) then r else { CRec.ofWords (ws.map (·.1)) with ack := r.ack }

/-- The `k`-th local record of a core as the local store holds it. -/
def State.readDq (s : State) (core k : Nat) (r : CRec) : CRec := r.reread (s.lsWords core ((s.core core).dqOff k) 4)

/-- The `k`-th overflow record of a core as the overflow area holds it, which has room for 2,048. -/
def State.readOv (s : State) (core k : Nat) (r : CRec) : CRec :=
  if 2048 < (s.core core).overflow.length then r
  else match s.ovPa core k with
    | none => r
    | some pa => r.reread ((List.range 4).map (fun j => (s.memWord (pa + 8 * j), s.memPoison (pa + 8 * j))))

/-- The overflow records of a core, and then its local records: the whole deque, the oldest first. -/
def State.readAll (s : State) (core : Nat) : List CRec × List CRec :=
  let c := s.core core
  (c.overflow.zipIdx.map (fun e => s.readOv core e.2 e.1), c.deque.zipIdx.map (fun e => s.readDq core e.2 e.1))

/-- Give a core these overflow and local records, each ring from its oldest place on. -/
def State.setDeque (s : State) (core : Nat) (ov dq : List CRec) : State :=
  let s := s.setCore core { s.core core with overflow := ov, deque := dq }
  let s := ov.zipIdx.foldl (fun st e => st.showOv core e.2 e.1) s
  dq.zipIdx.foldl (fun st e => st.showDq core e.2 e.1) s

/-- The deque and the overflow area of a core have no room (R98). -/
def State.dequeFull (s : State) (core : Nat) : Bool :=
  decide (256 ≤ (s.core core).deque.length ∧ 1920 < (s.core core).overflow.length)

/-- The 128 oldest local records of a core move to the newest end of its overflow area. -/
def State.spill (s : State) (core : Nat) : State :=
  let c := s.core core
  let old := (c.deque.take 128).zipIdx.map (fun e => s.readDq core e.2 e.1)
  let s := s.setCore core { c with
    overflow := c.overflow ++ old, deque := c.deque.drop 128, dqHead := (c.dqHead + 128) % 256 }
  old.zipIdx.foldl (fun st e => st.showOv core (c.overflow.length + e.2) e.1) s

/-- Push a record to the bottom of a core's deque; the 128 oldest local records spill when there are 256. A record that is
pushed back spills even beyond the area's 2,048 records, whose bytes then show the newest ones (log entry 37). -/
def State.pushRec (s : State) (core : Nat) (r : CRec) : State :=
  let s := if 256 ≤ (s.core core).deque.length then s.spill core else s
  let c := s.core core
  (s.setCore core { c with deque := c.deque ++ [r] }).showDq core c.deque.length r

/-- Push a record as the top one of a core's deque (R439). -/
def State.pushTop (s : State) (core : Nat) (r : CRec) : State :=
  let c := s.core core
  if c.overflow.isEmpty && decide (c.deque.length < 256) then
    (s.setCore core { c with deque := r :: c.deque, dqHead := (c.dqHead + 255) % 256 }).showDq core 0 r
  else
    (s.setCore core { c with overflow := r :: c.overflow, ovHead := (c.ovHead + 2047) % 2048 }).showOv core 0 r

/-- Up to 128 of the newest overflow records move back into an empty deque. -/
def State.refill (s : State) (core : Nat) : State :=
  let c := s.core core
  if c.deque.isEmpty then
    let n := c.overflow.length - 128
    let new := (c.overflow.drop n).zipIdx.map (fun e => s.readOv core (n + e.2) e.1)
    let s := s.setCore core { c with deque := new, overflow := c.overflow.take n }
    new.zipIdx.foldl (fun st e => st.showDq core e.2 e.1) s
  else s

/-- The newest record of a core, and the state without it. -/
def State.takeBottom (s : State) (core : Nat) : Option (CRec × State) :=
  let s := s.refill core
  let c := s.core core
  match c.deque.getLast? with
  | none => none
  | some r => some (s.readDq core (c.deque.length - 1) r, s.setCore core { c with deque := c.deque.dropLast })

/-- The oldest record of a core, and the state without it. -/
def State.takeTop (s : State) (core : Nat) : Option (CRec × State) :=
  let c := s.core core
  match c.overflow with
  | r :: rs => some (s.readOv core 0 r, s.setCore core { c with overflow := rs, ovHead := (c.ovHead + 1) % 2048 })
  | [] => match c.deque with
    | r :: rs => some (s.readDq core 0 r, s.setCore core { c with deque := rs, dqHead := (c.dqHead + 1) % 256 })
    | [] => none

/-- The rank of a slot's request among those that reach a core's deque port in one cycle: the own slots in their order, then
other cores by number (R99). -/
def portRank (core : Nat) (t : Tid) : Nat := if coreOf t = core then slotOf t else 16 + coreOf t

/-- The slot is in the probe `k` of its search. -/
def Slot.seeking (x : Slot) (ep k : Nat) : Bool :=
  decide (x.epoch = ep) && decide (x.st = .held) && match x.held with
    | .seek j _ => decide (j = k)
    | .none | .test _ | .dec _ _ => false

/-- A take that has reached the port of a core and comes before a request of a slot there: the probe of another slot, issued
by now. -/
def State.portFirst (s : State) (core : Nat) (t : Tid) (r : Req) : Bool :=
  match r with
  | .probe u ep k (v :: _) => decide (v = core ∧ portRank core u < portRank core t) && (s.slot u).seeking ep k &&
      decide ((s.slot u).waitSince ≤ s.cycle)
  | _ => false

/-- The port of a core serves a request of a slot now: the request has been issued, the port has served none in this cycle that
comes after it, and none that comes before it is at the port. -/
def State.portServes (s : State) (core : Nat) (t : Tid) : Bool :=
  decide ((s.slot t).waitSince ≤ s.cycle) &&
  (decide ((s.core core).portAt ≤ s.cycle) || decide ((s.core core).portRank ≤ portRank core t)) &&
  !s.inflight.any (fun e => s.portFirst core t e.2)

/-- The port of a core has served a request of a slot. -/
def State.portServed (s : State) (core : Nat) (t : Tid) : State :=
  s.setCore core { s.core core with portAt := s.cycle + 1, portRank := portRank core t }

/-! ### Seek (R96) -/

/-- The victims of a probe at its issue: 0 the own core, 1 to 7 the cluster's other cores, 8 to 11 the eight cores of a
cluster of the own and the other quarters that the LFSR names. -/
def State.victims (s : State) (core k : Nat) : List Nat :=
  let cl := cluOf core
  let q := qtrOf core
  let v := s.lfsr.toNat % 128
  if k = 0 then [core]
  else if k < 8 then [cl * 8 + (core + k) % 8]
  else if k = 8 then
    let v := if v = cl % 128 then (v + 1) % 128 else v
    (List.range 8).map (fun j => (q * 128 + v) * 8 + j)
  else (List.range 8).map (fun j => (((q + k - 8) % 4) * 128 + v) * 8 + j)

/-- The slot is in the periodic search of its core (R100). -/
def Slot.periodic (x : Slot) : Bool :=
  match x.held with
  | .seek _ p => p
  | .none | .test _ | .dec _ _ => false

/-- A held slot issues its next probe; after the last one it is free. -/
def State.issueProbe (s : State) (t : Tid) (k : Nat) : State :=
  if 12 ≤ k then s.freeSlot t
  else (s.modSlot t (fun x => { x with held := .seek k x.periodic })).send
    (.probe t (s.slot t).epoch k (s.victims (coreOf t) k))

/-- A slot begins a search, the periodic one of its core or another: it is held and bears no launch, and its first probe goes
out in the next cycle. -/
def State.search (s : State) (t : Tid) (periodic : Bool) : State :=
  (s.setSlot t { Slot.reset with
    st := .held, held := .seek 0 periodic, epoch := (s.slot t).epoch, waitSince := s.cycle + 1 }).issueProbe t 0

/-- A slot without work seeks. -/
def State.seek (s : State) (t : Tid) : State := s.search t false

/-- Change a request in flight. -/
def State.resend (s : State) (id : Nat) (r : Req) : State := { s with inflight := mset id r s.inflight }

/-- A probe is served at the port of a core: at the slot's own core the bottom record is taken, and one that does not fit ends
the search; at another the top record that it may take. -/
def State.servePort (s : State) (id : Nat) (t : Tid) (ep k v : Nat) (vs : List Nat) : State :=
  let me := coreOf t
  if k = 0 then
    match s.takeBottom v with
    | none => (s.portServed v t).resend id (.probe t ep k vs)
    | some (r, u) =>
      if s.fits me r.bits then (u.portServed v t).resend id (.took t ep r)
      else ((s.portServed v t).unsend id).freeSlot t
  else match s.takeTop v with
    | none => (s.portServed v t).resend id (.probe t ep k vs)
    | some (r, u) =>
      if s.samePart me v && !(s.core v).offline && r.ack && s.fits me r.bits then
        (u.portServed v t).resend id (.took t ep r)
      else (s.portServed v t).resend id (.probe t ep k vs)

/-- The takes that come before a push of a slot at its core's port are served, in the order of their slots (R99). -/
def State.portBefore (s : State) (t : Tid) : State :=
  let core := coreOf t
  ((List.range (slotOf t)).flatMap (fun j => s.inflight.filter (fun e => s.portFirst core t e.2 && match e.2 with
    | .probe u _ _ _ => decide (u = 16 * core + j)
    | _ => false))).foldl (fun st e => match e.2 with
      | .probe u ep k (v :: vs) => st.servePort e.1 u ep k v vs
      | _ => st) s

/-- A slot pushes a record at its core's port. -/
def State.portPush (s : State) (t : Tid) (r : CRec) : State := (s.portServed (coreOf t) t).pushRec (coreOf t) r

end Sys2Proof.Machine
end

