-- ==== Sys2Proof/Machine/Inbound.lean ====
section
/-! DEFINITION. The two inbound ports of a core: messages and trap messages on their way, starting and dropping them, and
which of the two heads takes a free slot (spec/04_slots.md R79 to R84; spec/12_traps.md R264; spec/14_objects.md R312,
R313). -/

namespace Sys2Proof.Machine

/-! ### Handler and stop entries (R312) -/

/-- The two words of a handler or stop entry at a VA: code PC and tuning; none where it is empty or cannot be read. -/
def State.entryAt (s : State) (part va : Nat) : Option (Word × Word) :=
  match s.devWords part true va 2 with
  | .error _ => none
  | .ok ws => if nthW ws 0 = 0 then none else some (nthW ws 0, nthW ws 1)

/-- A start that an entry gives: its PC, its tuning and the kinds of that; none where it cannot be used. -/
abbrev Entry := Option (Word × Word × List NKind)

/-- An entry with its tuning, read for a core. -/
def State.withTuning (s : State) (part core : Nat) : Option (Word × Word) → Entry
  | none => none
  | some (pc, tn) =>
    match s.readTuning part true core tn with
    | .error _ => none
    | .ok ks => some (pc, tn, ks)

/-- Handler entry K of a partition. -/
def State.handler (s : State) (part core k : Nat) : Entry :=
  match (s.part part).cfg with
  | none => none
  | some g => if g.htab = 0 then none else s.withTuning part core (s.entryAt part (g.htab.toNat + 16 * k))

/-- Stop entry SEL of a partition (R235, R312). -/
def State.stopEntry (s : State) (part core sel : Nat) : Entry :=
  match (s.part part).cfg with
  | none => none
  | some g =>
    if g.htab = 0 then none
    else match s.devWords part true (g.htab.toNat + 1024) 2 with
      | .error _ => none
      | .ok ws =>
        if (nthW ws 1).toNat ≤ sel then none
        else s.withTuning part core (s.entryAt part ((nthW ws 0).toNat + 16 * sel))

/-- Name `j` + 1 of a handler's tuning is a 64-bit scalar integer (R79). -/
def payloadName (ks : List NKind) (j : Nat) : Bool :=
  match ks[j]? with
  | some (.int _ 64 _) => true
  | _ => false

/-- The first of a handler's first `n` names that is no 64-bit scalar integer (R61, R79). -/
def payloadBad (ks : List NKind) (n : Nat) : Option Nat := ((List.range n).find? (fun j => !payloadName ks j)).map (· + 1)

/-- The first names of a handler's tuning are 64-bit scalar integers (R79). -/
def payloadOk (ks : List NKind) (n : Nat) : Bool := (payloadBad ks n).isNone

/-! ### The heads (R79, R83, R84, R234) -/

/-- The head of the inbound message port: trap messages go first. -/
def Core.msgHead (c : Core) : Option Msg :=
  match c.inTrap with
  | m :: _ => some m
  | [] => c.inMsg.head?

/-- The capsule that has waited longest in a buffer for a slot. -/
def Core.capHead (c : Core) : Option (Nat × CapBuf) :=
  (c.capBufs.filter (fun e => e.2.waiting)).foldl (fun b e => match b with
    | none => some e
    | some d => if e.2.ord < d.2.ord then some e else some d) none

/-- A handler entry that a trap message cannot start at (R313). -/
def trapEntryBad : Entry → Bool
  | none => true
  | some (_, _, ks) => !payloadOk ks 8

/-- The head of the message port of a core has a slot: one is free and its tuning fits, or its entry cannot be used. -/
def State.msgFits (s : State) (core : Nat) : Bool :=
  match (s.core core).msgHead with
  | none => false
  | some m =>
    (s.freeSlotOf core true).isSome &&
    match s.handler m.part core m.k with
    | none => true
    | some (_, _, ks) => s.fits core (costOf ks)

/-- The head of the message port of a core would leave it now. -/
def State.msgReady (s : State) (core : Nat) : Bool := !s.repacking core && s.msgFits core

/-- The head of the capsule port of a core would leave it now. -/
def State.capReady (s : State) (core : Nat) : Bool :=
  match (s.core core).capHead with
  | none => false
  | some (_, x) =>
    !s.capCoreOk x.part core ||
    (!s.repacking core && (s.freeSlotOf core true).isSome &&
      match s.stopEntry x.part core (wbits (stopAt x.its (hCur x.hdr)).1 31 16) with
      | none => true
      | some (_, _, ks) => s.fits core (costOf ks))

/-- A free slot of a core goes to the head of a port and not to other work (R83). -/
def State.headTakes (s : State) (core : Nat) : Bool := s.msgReady core || s.capReady core

/-- The message head goes before the capsule head (R83). -/
def State.msgFirst (s : State) (core : Nat) : Bool :=
  s.msgReady core && !(s.capReady core && decide ((s.core core).capSince < (s.core core).msgSince))

/-- The capsule head goes before the message head. -/
def State.capFirst (s : State) (core : Nat) : Bool :=
  s.capReady core && !(s.msgReady core && decide ((s.core core).msgSince ≤ (s.core core).capSince))

/-! ### Arrival (R80, R84, R282, R292) -/

/-- The inbound port of a core takes messages. -/
def State.portOpen (s : State) (core : Nat) : Bool :=
  !(s.core core).offline && match s.partOf core with
    | some p => !(s.part p).refuse
    | none => true

/-- An earlier message enters a port first: of one slot, and trap messages among themselves. -/
def Msg.before (m n : Msg) : Bool := decide (m.dst = n.dst) && (m.trap == n.trap) && (m.trap || decide (m.src = n.src))

/-- A message enters its port. -/
def State.enterMsg (s : State) (m : Msg) : State :=
  let c := s.core m.dst
  if m.trap then
    s.setCore m.dst { c with inTrap := c.inTrap ++ [m], msgSince := if c.inTrap.isEmpty then s.cycle else c.msgSince }
  else
    s.setCore m.dst { c with inMsg := c.inMsg ++ [m], msgSince := if c.msgHead.isNone then s.cycle else c.msgSince }

/-- MESSAGE_ARRIVAL (R80): a full port leaves it at its switch, and a port that refuses it drops it. -/
def execMessageArrival (id : Id) (s : State) : Host.Outcome State Fault Refusal :=
  match mfind id s.inflight with
  | some (.msg m) =>
    if s.inflight.any (fun e => decide (e.1 < id) && match e.2 with
        | .msg q => q.before m
        | _ => false) then .next s
    else if !s.portOpen m.dst then .next (s.unsend id)
    else if !m.trap && decide (4 ≤ (s.core m.dst).inMsg.length) then .next s
    else .next ((s.unsend id).enterMsg m)
  | _ => .next s

/-! ### Start (R79, R84, R312, R313) -/

/-- The head leaves the port; the next one is at the head from now on: an ordinary message that trap messages overtook has
its whole wait limit and its age (R83) anew (log entry 63). -/
def State.popMsg (s : State) (core : Nat) : State :=
  let c := s.core core
  match c.inTrap with
  | _ :: ms => s.setCore core { c with inTrap := ms, msgSince := s.cycle }
  | [] => s.setCore core { c with inMsg := c.inMsg.drop 1, msgSince := s.cycle }

/-- Payload words go into the names of a started slot (R79). -/
def State.putPayload (s : State) (t : Tid) (pl : List (Word × Bool)) : State :=
  s.modSlot t (fun x => { x with
    names := (x.names.zipIdx).map (fun e => match pl[e.2]? with
      | none => e.1
      | some (w, p) => match e.1.kind with
        | .int sg wd _ => { e.1 with vals := [wrapTo sg wd w.toNat], f := true, p := p, pend := none }
        | .flt _ => e.1
        | .ivec _ _ _ _ _ => e.1
        | .fvec _ _ _ => e.1
        | .queue _ _ => e.1) })

/-- Start a message in a free slot; payload names that break R79 make it trap at its first PC. -/
def State.startMsg (s : State) (core : Nat) (m : Msg) (e : Word × Word × List NKind) : State :=
  match s.freeSlotOf core true with
  | none => s
  | some t =>
    let s := (s.popMsg core).startSlot t ⟨e.1, decide (m.k = 0), e.2.1, 0, 0, 0, 0, false⟩ e.2.2
    match payloadBad e.2.2 m.pl.length with
    | none => s.putPayload t m.pl
    | some k => s.takeTrap t e.1 0 ⟨0x0C, 4, k, 0⟩ false

/-- MESSAGE_START (R79, R312): the ordinary message at the head starts in the lowest free slot, if its tuning fits; an
empty entry reports CODE_GONE instead. -/
def execMessageStart (core : Nat) (s : State) : Host.Outcome State Fault Refusal :=
  match (s.core core).inTrap, (s.core core).inMsg with
  | [], m :: _ =>
    if !s.msgFirst core then .next s
    else match s.handler m.part core m.k with
      | some e => .next (s.startMsg core m e)
      | none =>
        .next ((s.popMsg core).sendTrap m.part { TrapRec.zero 0x10 2 m.part s.cycle with
          tid := m.src, addr := BitVec.ofNat 64 m.k })
  | _, _ => .next s

/-- The message carries a record that replaces another (R313). -/
def Msg.isReplacement (m : Msg) : Bool := decide (((m.pl.head?).map (fun w => wbits w.1 15 0)) = some 0x0310)

/-- The record that replaces one which its partition's handler cannot take (R313). -/
def replaceRec (m : Msg) (cyc : Nat) : TrapRec :=
  let w := fun k => ((m.pl[k]?).map (·.1)).getD 0
  { TrapRec.zero 0x10 3 m.part cyc with name := (w 0).toNat % 256, tid := (w 1).toNat % 65536, addr := w 2 }

/-- TRAP_MESSAGE_START (R84, R313): the trap message at the head starts handler 0; where entry 0 is empty or bad, partition
0's handler or the host gets a record instead. -/
def execTrapMessageStart (core : Nat) (s : State) : Host.Outcome State Fault Refusal :=
  match (s.core core).inTrap with
  | [] => .next s
  | m :: _ =>
    let e := s.handler m.part core 0
    if trapEntryBad e then
      let s := s.popMsg core
      if m.part ≠ 0 then .next (s.sendTrap 0 (replaceRec m s.cycle))
      else .next (s.reportHost (if m.isReplacement then m.pl.map (·.1) else (replaceRec m s.cycle).words))
    else if !s.msgFirst core then .next s
    else match e with
      | none => .next s
      | some e => .next (s.startMsg core m e)

/-! ### Drop (R81) -/

/-- MESSAGE_DROP (R81): `id` is the core whose ordinary head message has waited the wait limit without a slot. -/
def execMessageDrop (id : Id) (s : State) : Host.Outcome State Fault Refusal :=
  let c := s.core id
  match c.inTrap, c.inMsg with
  | [], m :: _ =>
    let lim := match s.cfgOf id with
      | some g => 2 ^ g.wle
      | none => 2 ^ 20
    if s.msgFits id || decide (s.cycle < c.msgSince + 16 * lim) then .next s
    else .next ((s.popMsg id).sendTrap m.part { TrapRec.zero 0x11 5 m.part s.cycle with
      name := m.k, tid := m.src, addr := BitVec.ofNat 64 id })
  | _, _ => .next s

end Sys2Proof.Machine
end

