-- ==== Sys2Proof/Machine/Lines.lean ====
section
/-! DEFINITION. Bytes with their poison, elements of a kind in bytes, and the operations that a bank performs on the bytes of
one line as a whole (spec/08_memory.md R178; spec/10_plectrum.md R223). -/

namespace Sys2Proof.Machine

/-! ### Bytes with poison -/

/-- Bytes with the poison of the words they stand in or come from. -/
abbrev PBytes := List (Byte × Bool)

/-- Pieces of a range that lie within one aligned word each; `fuel` is at least the number of pieces. -/
def pieces : Nat → Nat → Nat → List (Nat × Nat)
  | 0, _, _ => []
  | f + 1, a, n =>
    if n = 0 then [] else
      let k := min n (8 - a % 8)
      (a, k) :: pieces f (a + k) (n - k)

/-- The pieces of a range. -/
def wordsOf (a n : Nat) : List (Nat × Nat) := pieces (n / 8 + 2) a n

/-- Bytes of one piece. -/
def State.piece (s : State) (t : Tgt) (n : Nat) : PBytes :=
  let (v, p) := s.tgtRead t n
  (toBytes n v).map (fun b => (b, p))

/-- The little-endian value of bytes. -/
def pval (bs : PBytes) : Nat := leBytes (bs.map (·.1))
/-- Some byte is poisoned. -/
def ppsn (bs : PBytes) : Bool := bs.any (·.2)

/-! ### Elements -/

/-- A rounding mode by its code (R115). -/
def rmOf (c : Nat) : Rm :=
  match c with
  | 0 => .rne | 1 => .rtz | 2 => .rdn | _ => .rup

/-- Bytes of an element of a kind. -/
def FK.bytes (k : FK) : Nat := k.elemW / 8

/-- The elements of bytes, with their poison; an a56 element whose bits 63:56 are not zero counts as poisoned. -/
def elemsOf (k : FK) : Nat → PBytes → List (Nat × Bool)
  | 0, _ => []
  | n + 1, bs =>
    let b := bs.take k.bytes
    let (v, q) := rawValue (.flt k) k.bytes (pval b)
    (v.toNat, ppsn b || q) :: elemsOf k n (bs.drop k.bytes)

/-- The bytes of elements of a kind. -/
def bytesOf (k : FK) (es : List (Nat × Bool)) : PBytes := es.flatMap (fun e => (toBytes k.bytes e.1).map (fun b => (b, e.2)))

/-- Bytes of an element kind of SCATADD (R223); none for a reserved one. -/
def ekBytes (k : Nat) : Option Nat :=
  match k with
  | 0 => some 4 | 1 => some 2 | 2 => some 2 | 3 => some 1 | 4 => some 1 | 5 => some 8 | 8 => some 4 | 9 => some 8
  | _ => none

/-- Poison the a56 elements whose bits 63:56 are not zero (R223). -/
def a56Psn : Nat → PBytes → PBytes
  | 0, _ => []
  | n + 1, bs =>
    let q := decide (pval (bs.take 8) / 2 ^ 56 ≠ 0)
    (bs.take 8).map (fun b => (b.1, b.2 || q)) ++ a56Psn n (bs.drop 8)

/-- New elements of a row (R223). -/
def addElems (ek : Nat) (rm : Rm) (sat : Bool) (z : Nat) : Nat → PBytes → PBytes → PBytes
  | 0, _, _ => []
  | n + 1, ms, ss =>
    let m := pval (ms.take z)
    let v := pval (ss.take z)
    let w : Nat := match fkOf ek with
      | some k => ((fAdd rm (k.decode m) (k.decode v)).round k rm sat).1
      | none => (m + v) % 2 ^ (8 * z)
    ((toBytes z w).zip ((ms.take z).zip (ss.take z))).map (fun (e : Byte × (Byte × Bool) × (Byte × Bool)) =>
      (e.1, e.2.1.2 || e.2.2.2)) ++
      addElems ek rm sat z n (ms.drop z) (ss.drop z)

/-! ### Operations on one line (R178, R223) -/

/-- What a bank does with source bytes at the bytes of one line: it writes them; it adds them as elements of a kind (R223); it
adds `alpha` times them (R178). -/
inductive LineOp where
  | put
  | add (ek : Nat) (rm : Rm) (sat : Bool)
  | axpy (k : FK) (rm : Rm) (sat : Bool) (alpha : Nat)
  deriving DecidableEq, Repr

/-- The new bytes of a line from those that stand there and from the source bytes. -/
def LineOp.new (op : LineOp) (ms ss : PBytes) : PBytes :=
  match op with
  | .put => ss
  | .add ek rm sat =>
    let z := (ekBytes ek).getD 1
    addElems ek rm sat z (ss.length / z) ms ss
  | .axpy k rm sat alpha =>
    let n := ss.length / k.bytes
    bytesOf k (((elemsOf k n ss).zip (elemsOf k n ms)).map (fun e =>
      (((fFma rm (FK.f32.decode alpha) (k.decode e.1.1) (k.decode e.2.1)).round k rm sat).1, e.1.2 || e.2.2)))

/-- Bytes of a place by its words: address and length, the value, the OR of the poison. -/
def byWords (pa : Nat) (bs : PBytes) : List ((Nat × Nat) × Nat × Bool) :=
  (wordsOf pa bs.length).map (fun q =>
    let part := (bs.drop (q.1 - pa)).take q.2
    (q, pval part, ppsn part))

/-- An operation on the bytes of one line, indivisible at its owner; `tr` traces the write of a word. -/
def State.lineOp (s : State) (op : LineOp) (pa : Nat) (ss : PBytes) (tr : State → Nat → State) : State :=
  let ms := (wordsOf pa ss.length).flatMap (fun q => s.piece (.mem q.1) q.2)
  (byWords pa (op.new ms ss)).foldl (fun st q => tr (st.memWrite q.1.1 q.1.2 q.2.1 q.2.2) q.1.1) s

end Sys2Proof.Machine
end

