-- ==== Sys2Proof/Machine/Links.lean ====
section
/-! DEFINITION. Peer links: the layout of a flit, sending and replaying flits, what the payload words of capsule and collective
flits say, and accesses to and from the memory of peers (spec/13_dependability.md R294 to R298; spec/09_ordering.md R202; log
entry 44 gives the payload layout, which the spec leaves open). -/

namespace Sys2Proof.Machine

/-! ### Flits (R296) -/

/-- Payload words of a flit. -/
def flitWords : Nat := 29

/-- The poison map: bit w for payload word w. -/
def pmapOf (ws : List (Word × Bool)) : Nat := (ws.zipIdx.map (fun e => b2n e.1.2 * 2 ^ e.2)).foldl (· + ·) 0

/-- The bytes of a flit before its CRC. Log entry 44 places the fields of ROUTE, of which R296 gives the widths. -/
def Flit.body (f : Flit) : List Byte :=
  toBytes 2 (f.seq % 4096 + f.kind % 16 * 4096) ++ toBytes 2 (f.ack % 4096) ++ toBytes 4 (pmapOf (f.words.take flitWords)) ++
  toBytes 8 (f.src % 1024 + f.dst % 1024 * 2 ^ 10 + f.vc % 4 * 2 ^ 20 + f.words.length % 32 * 2 ^ 22) ++
  ((f.words ++ List.replicate flitWords (0, false)).take flitWords).flatMap (fun (w : Word × Bool) => toBytes 8 w.1.toNat)

/-- The 256 bytes of a flit. -/
def Flit.bytes (f : Flit) : List Byte := f.body ++ toBytes 8 (Config.crc64 f.body).toNat

/-- The flit that 256 bytes hold; none for a bad one: its CRC is wrong, or bits that are zero in every flit are not. -/
def Flit.of (bs : List Byte) : Option Flit :=
  let fld := fun (o n : Nat) => leBytes ((bs.drop o).take n)
  let route := fld 8 8
  let pmap := fld 4 4
  let used := bits route 26 22
  if bs.length = 256 ∧ fld 248 8 = (Config.crc64 (bs.take 248)).toNat ∧ fld 2 2 < 4096 ∧ pmap < 2 ^ 29 ∧ route < 2 ^ 27 ∧
      used ≤ flitWords then
    some ⟨bits (fld 0 2) 11 0, bits (fld 0 2) 15 12, fld 2 2, bits route 9 0, bits route 19 10, bits route 21 20,
      (List.range used).map (fun k => (BitVec.ofNat 64 (fld (16 + 8 * k) 8), decide (pmap / 2 ^ k % 2 = 1)))⟩
  else none

/-! ### Sending (R297, R298) -/

/-- Flits that a sender keeps for replay. -/
def replayFlits : Nat := 512

/-- A flit goes on the lanes of a port. -/
def Port.put (p : Port) (f : Flit) : Port := { p with wire := (f :: p.wire).take replayFlits }

/-- The last sequence number that a port has received in order. -/
def Port.ackNo (p : Port) : Nat := (p.rxSeq + 4095) % 4096

/-- Send a flit with the next sequence number, and keep it. -/
def Port.transmit (p : Port) (cyc : Nat) (k : KeptFlit) : Port :=
  let f := { k.flit with seq := p.txSeq, ack := p.ackNo }
  { p.put f with
    txSeq := (p.txSeq + 1) % 4096, unacked := p.unacked ++ [{ k with flit := f }]
    since := if p.unacked.isEmpty then cyc else p.since }

/-- Send a flit, or let it wait while as many are kept as a sender keeps. -/
def Port.offer (p : Port) (cyc : Nat) (k : KeptFlit) : Port :=
  if p.up && p.queue.isEmpty && decide (p.unacked.length < replayFlits) then p.transmit cyc k
  else { p with queue := p.queue ++ [k] }

/-- Send the flits that wait and for which there is room. -/
def Port.fill (p : Port) (cyc : Nat) : Port :=
  let n := replayFlits - p.unacked.length
  (p.queue.take n).foldl (fun q k => q.transmit cyc k) { p with queue := p.queue.drop n }

/-- The port to a device: the lowest one that is up. -/
def State.portTo (s : State) (dev : Nat) : Option (Nat × Port) := s.ports.find? (fun e => e.2.up && decide (e.2.peer = dev))

/-- Send a flit to a peer. Where no port to it is up, a capsule is diverted with its last flit (R298); requests and replies
wait at a port that is down, and collective contributions are lost. -/
def State.sendKept (s : State) (k : KeptFlit) : State :=
  match s.portTo k.flit.dst with
  | some (i, p) => s.setPort i (p.offer s.cycle k)
  | none =>
    match k.capsule with
    | some c => s.divert c (capRecord 0x11 0 0 c.place)
    | none =>
      if k.flit.kind = 1 ∨ k.flit.kind = 2 then
        match s.ports.find? (fun e => decide (e.2.peer = k.flit.dst)) with
        | some (i, p) => s.setPort i (p.offer s.cycle k)
        | none => s
      else s

/-- Send one flit to a peer; `c` is the capsule that it ends. -/
def State.sendFlit (s : State) (dev kind : Nat) (c : Option Capsule) (ws : List (Word × Bool)) : State :=
  s.sendKept ⟨⟨0, kind, 0, s.devNum, dev, 0, ws⟩, c, 0⟩

/-- The first payload word of a piece: what it is, its set, and the device that sends it. -/
def xHead (part kind set dev : Nat) : Word :=
  BitVec.ofNat 64 (part % 64 + kind % 256 * 2 ^ 8 + set % 65536 * 2 ^ 16 + dev % 1024 * 2 ^ 32)

/-- Send words to a peer in pieces of up to 27: two words stand before each piece, what it is, and its number with the
number of its first word. `fuel` pieces at most; the last one ends the capsule `c`. -/
def State.sendPiecesN (s : State) (dev kind : Nat) (c : Option Capsule) (h : Word) (lseq : Nat) :
    Nat → Nat → List (Word × Bool) → State
  | 0, _, _ => s
  | f + 1, off, ws =>
    let last := decide (ws.length ≤ 27)
    let s := s.sendFlit dev kind (if last then c else none)
      ([(h, false), (BitVec.ofNat 64 (lseq % 2 ^ 32 + off * 2 ^ 32), false)] ++ ws.take 27)
    if last then s else s.sendPiecesN dev kind c h lseq f (off + 27) (ws.drop 27)

/-- Send words to a peer in pieces. -/
def State.sendPieces (s : State) (dev kind : Nat) (h : Word) (lseq off : Nat) (ws : List (Word × Bool)) : State :=
  s.sendPiecesN dev kind none h lseq (ws.length / 27 + 1) off ws

/-- Send a capsule to a peer in pieces. -/
def State.sendCapsule (s : State) (dev lseq : Nat) (c : Capsule) (ws : List (Word × Bool)) : State :=
  s.sendPiecesN dev 3 (some c) (xHead 0 10 0 s.devNum) lseq (ws.length / 27 + 1) 0 ws

/-- The piece that payload words hold. -/
def pieceOf (ws : List (Word × Bool)) (dev cyc : Nat) : XIn :=
  let w := fun k => ((ws[k]?).map (·.1)).getD 0
  ⟨wbits (w 0) 15 8, dev, wbits (w 0) 5 0 * 65536 + wbits (w 0) 31 16, wbits (w 1) 31 0, wbits (w 1) 63 32, ws.drop 2, cyc⟩

/-- Words `n` of what a device has sent, from its pieces that arrived by a cycle; none while one is missing. -/
def gatherPieces (ps : List XIn) : Nat → Nat → Option (List (Word × Bool))
  | 0, _ => some []
  | n + 1, k =>
    match ps.findSome? (fun p => if p.off ≤ k then p.words[k - p.off]? else none) with
    | none => none
    | some w => (gatherPieces ps n (k + 1)).map (w :: ·)

/-- The pieces of one sender and event. -/
def State.piecesOf (s : State) (kind dev key lseq by_ : Nat) : List XIn :=
  s.xin.filter (fun p => decide (p.kind = kind ∧ p.dev = dev ∧ p.key = key ∧ p.lseq = lseq ∧ p.at_ ≤ by_))

/-! ### Accesses to the memory of a device by its peers (R202, R294) -/

/-- The code of an atomic's operation in a request, in R175's order. -/
def atOpCode : AtOp → Nat
  | .add => 0 | .and => 1 | .cas => 2 | .fadd => 3 | .fmax => 4 | .fmin => 5 | .max => 6 | .min => 7 | .or => 8
  | .swap => 9 | .xor => 10

/-- The operation of an atomic that a request names. -/
def atOpOf (n : Nat) : AtOp :=
  match n with
  | 0 => .add | 1 => .and | 2 => .cas | 3 => .fadd | 4 => .fmax | 5 => .fmin | 6 => .max | 7 => .min | 8 => .or
  | 9 => .swap | _ => .xor

/-- The code of an atomic's type in a request. -/
def atTyCode : AtTy → Nat
  | .int .s64 => 0 | .int .u64 => 1 | .int .s32 => 2 | .int .u32 => 3 | .flt .f32 => 4 | .flt .a56 => 5

/-- The type of an atomic that a request names. -/
def atTyOf (n : Nat) : AtTy :=
  match n with
  | 0 => .int .s64 | 1 => .int .u64 | 2 => .int .s32 | 3 => .int .u32 | 4 => .flt .f32 | _ => .flt .a56

/-- A peer's write of words, each with its poison, traced where its leaf has TRACE. -/
def State.peerWrite (s : State) (dev tid : Nat) (tr : Bool) : Nat → Nat → List (Word × Bool) → State
  | _, _, [] => s
  | pa, n, w :: ws =>
    let k := min n (8 - pa % 8)
    if k = 0 ∨ !isDev pa then s
    else
      let s := s.memWrite pa k w.1.toNat w.2
      (if tr then s.traceWrite 0 3 dev tid pa else s).peerWrite dev tid tr (pa + k) (n - k) ws

/-- The words of a peer's read. -/
def State.peerRead (s : State) : Nat → Nat → Nat → List (Word × Bool)
  | 0, _, _ => []
  | f + 1, pa, n =>
    let k := min n (8 - pa % 8)
    if k = 0 ∨ !isDev pa then []
    else (BitVec.ofNat 64 (s.memRead pa k), s.memPoison pa) :: s.peerRead f (pa + k) (n - k)

/-- The kind and the fields of a request for an operation on `n` bytes of one line, and the words before its data. -/
def LineOp.head (op : LineOp) (n : Nat) : Nat × Nat × List (Word × Bool) :=
  match op with
  | .put => (16, n, [])
  | .add ek rm sat => (19, n + ek % 16 * 2 ^ 8 + rm.code.toNat * 2 ^ 12 + b2n sat * 2 ^ 14, [])
  | .axpy k rm sat alpha =>
    (20, n + k.code * 2 ^ 8 + rm.code.toNat * 2 ^ 12 + b2n sat * 2 ^ 14, [(BitVec.ofNat 64 alpha, false)])

/-- The operation on a line that a request of kind 19 or 20 names, by its first and third word. -/
def lineOpOf (w alpha : Word) : LineOp :=
  let rm : Rm := .ofCode (BitVec.ofNat 2 (wbits w 29 28))
  let sat := decide (wbits w 30 30 = 1)
  if wbits w 15 8 = 19 then .add (wbits w 27 24) rm sat
  else .axpy ((fkOf (wbits w 27 24)).getD .f32) rm sat alpha.toNat

/-- A peer's request for an operation on bytes of one line: its data words are those of the place. -/
def State.serveLine (s : State) (dev tid : Nat) (tr : Bool) (op : LineOp) (pa n : Nat) (ws : List (Word × Bool)) : State :=
  if !isDev pa then s
  else s.lineOp op pa (((wordsOf pa n).zip ws).flatMap (fun q => (toBytes q.1.2 q.2.1.toNat).map (fun b => (b, q.2.2))))
    (fun st a => if tr then st.traceWrite 0 3 dev tid a else st)

/-- A peer's request of this device's memory is performed: a write, a read, an atomic, or an operation on a line, which is
indivisible (R178, R223); with it, the words of the reply. -/
def State.serve (s : State) (dev : Nat) (ws : List (Word × Bool)) : List (Word × Bool) × State :=
  let w := fun k => ((ws[k]?).map (·.1)).getD 0
  let tr := decide (wbits (w 0) 6 6 = 1)
  let n := wbits (w 0) 31 16
  let tid := wbits (w 0) 63 48
  let pa := (w 1).toNat
  match wbits (w 0) 15 8 with
  | 16 => ([], s.peerWrite dev tid tr pa n (ws.drop 2))
  | 17 => (s.peerRead 28 pa n, s)
  | 19 => ([], s.serveLine dev tid tr (lineOpOf (w 0) 0) pa (n % 256) (ws.drop 2))
  | 20 => ([], s.serveLine dev tid tr (lineOpOf (w 0) (w 2)) pa (n % 256) (ws.drop 3))
  | _ =>
    let ty := atTyOf (wbits (w 0) 23 20)
    if !isDev pa ∨ pa % ty.bytes ≠ 0 then ([], s)
    else
      let m := s.memRead pa ty.bytes
      let pm := s.memPoison pa
      let rm : Rm := .ofCode (BitVec.ofNat 2 (wbits (w 0) 25 24))
      let v := atomNew (atOpOf (wbits (w 0) 19 16)) ty rm m (ty.load (w 2).toNat) (ty.load (w 3).toNat)
      let s := s.memWrite pa ty.bytes v (pm || (ws.drop 2).any (·.2))
      ([(BitVec.ofNat 64 m, pm)], if tr then s.traceWrite 0 3 dev tid pa else s)

/-! ### Accesses of this device to the memory of a peer (R188, R202) -/

/-- The device of a peer window, and the PA in its map (R166). -/
def peerDev (pa : Nat) : Nat := pa / 2 ^ 42 % 1024
/-- The PA in a peer's map. -/
def peerPa (pa : Nat) : Nat := pa % 2 ^ 42

/-- The words of a request: what it is, and the bits that go with it; the trace bit and the thread; the PA; data. -/
def askWords (kind fields tid pa : Nat) (tr : Bool) (ws : List (Word × Bool)) : List (Word × Bool) :=
  [(BitVec.ofNat 64 (b2n tr * 2 ^ 6 + kind * 2 ^ 8 + fields * 2 ^ 16 + tid % 65536 * 2 ^ 48), false),
   (BitVec.ofNat 64 (peerPa pa), false)] ++ ws

/-- Ask a peer, on behalf of the request or command `id`: the flit carries a tag, which the reply names. A request to this
device itself is performed at once. -/
def State.ask (s : State) (id dev : Nat) (req : List (Word × Bool)) : State :=
  let tag := s.nextId
  if dev = s.devNum then
    let (r, s) := s.serve dev req
    { s with nextId := tag + 1, asked := s.asked ++ [(⟨tag, id, dev, req, some r⟩ : PeerAsk)] }
  else
    { s with nextId := tag + 1, asked := s.asked ++ [(⟨tag, id, dev, req, none⟩ : PeerAsk)] }.sendFlit dev 1 none
      (match req with
      | [] => []
      | w :: ws => (BitVec.ofNat 64 (w.1.toNat + tag % 65536 * 2 ^ 32), false) :: ws)

/-- A request of the device's own, of which it awaits no answer: its flit carries a tag that names no one who asked. -/
def State.post (s : State) (dev : Nat) (req : List (Word × Bool)) : State :=
  if dev = s.devNum then (s.serve dev req).2
  else { s with nextId := s.nextId + 1 }.sendFlit dev 1 none
    (match req with
    | [] => []
    | w :: ws => (BitVec.ofNat 64 (w.1.toNat + s.nextId % 65536 * 2 ^ 32), false) :: ws)

/-- The device writes one word or a part of it on its own: a completion value, a queue header, a save area (R108, R188, R202).
In a peer window the owner is asked to write it (R294), and State.mem keeps what is known to stand there (log entry 15). -/
def State.sysWrite (s : State) (pa n v : Nat) (p : Bool) : State :=
  if isPeer pa then (s.memWrite pa n v p).post (peerDev pa) (askWords 16 n 0 pa false [(BitVec.ofNat 64 v, p)])
  else s.memWrite pa n v p

/-- The peer can be asked: it is this device, or some port leads to it. -/
def State.reaches (s : State) (dev : Nat) : Bool := decide (dev = s.devNum) || s.ports.any (fun e => decide (e.2.peer = dev))

/-- What has been asked on behalf of a request or command is done with. -/
def State.unask (s : State) (id : Nat) : State := { s with asked := s.asked.filter (fun a => decide (a.id ≠ id)) }

/-- A reply names its tag: the answer is kept for the one who asked. -/
def State.answer (s : State) (dev tag : Nat) (ws : List (Word × Bool)) : State :=
  { s with asked := s.asked.map (fun a =>
    if a.dev = dev ∧ a.tag % 65536 = tag ∧ a.ans.isNone then { a with ans := some ws } else a) }

/-- The first word of an answer; the spec gives none for a PA that the peer does not back (log entry 15). -/
def State.answered (s : State) (ws : List (Word × Bool)) : (Word × Bool) × State :=
  match ws with
  | w :: _ => (w, s)
  | [] =>
    let (v, s) := s.freeVal
    ((v, decide (v.toNat % 2 = 1)), s)

end Sys2Proof.Machine
end

