-- ==== Sys2Proof/Machine/Operands.lean ====
section
/-! DEFINITION. The issue step that every op passes through, and the operand forms: reading, writing and emptying names,
queue names, guards, `!` conditions, parking and replaying (spec/02_notation.md R35 to R43; spec/04_slots.md R62 to R77;
spec/15_encoding.md R323, R328). -/

namespace Sys2Proof.Machine

/-- Why an op does not take effect at a turn: it parks with a WAITON word and no effect; it parks after having sent a
request; it replays (a far access, or a fence), perhaps with a walk of its
page asked for; it traps, perhaps in a walk that its access had to wait for. -/
inductive Stop where
  | park (waiton : Word)
  | parkWith (s : State) (waiton : Word)
  | replay (far : Bool) (s : Option State)
  | trap (i : TrapInfo)
  | missTrap (i : TrapInfo)
  deriving DecidableEq, Repr

/-- An operation on the state that may stop. -/
abbrev OpM := StateT State (Except Stop)

/-- Where execution goes on: at the next word, with the loop-end check; at an address, without it; or the slot's thread
has ended, been held, or been taken elsewhere. -/
inductive Next where
  | seq
  | jump (pc : Word)
  | ended
  deriving DecidableEq, Repr

/-- What an op sees of its turn: its slot and the state as they stood at the start of the turn, the address and length
of its word, its word's low 64 bits. -/
structure Ctx where
  t   : Tid
  sl  : Slot
  s0  : State
  pc  : Word
  len : Nat
  insn : Word

/-- The core of the issuing slot. -/
abbrev Ctx.core (x : Ctx) : Nat := coreOf x.t
/-- The partition of the issuing slot. -/
abbrev Ctx.part (x : Ctx) : Nat := x.s0.partNum x.core
/-- The cluster of the issuing slot. -/
abbrev Ctx.clu (x : Ctx) : Nat := cluOf x.core

/-- A condition of an op on something other than a name (R328): a queue name is read, or written at once; an engine command
takes an entry of the command FIFO, or gives its busy code with `.try`; a fence at a scope. -/
inductive Need where
  | pop (i : Ix)
  | push (i : Ix)
  | cmd (tr : Bool)
  | fence (sc : Scope)
  deriving DecidableEq, Repr

/-- An op: its guard; the name fields it uses, in the order of the name check; the check of their kinds; its sources that
may carry `!`; its destination; its queue, FIFO and fence conditions where it stands in a pair, in the order of its
operation; its operation. -/
structure OpSpec where
  g      : Guard
  fields : List Ix
  kinds  : Slot → Bool
  m      : List Opd
  d      : Option Opd
  needs  : List Need := m.map (fun q => .pop q.ix) ++ d.toList.map (fun q => .push q.ix)
  run    : Ctx → OpM Next

/-! ### Kinds of names -/

/-- The name of an index; none for `nil` and above COUNT. -/
def Slot.nm (x : Slot) (i : Ix) : Option NameSt := if i.toNat = 0 then none else x.names[i.toNat - 1]?

/-- The kind of an index; none for `nil`. -/
def Slot.kind (x : Slot) (i : Ix) : Option NKind := (x.nm i).map (·.kind)

/-- `nil`. -/
abbrev isNil (i : Ix) : Bool := decide (i.toNat = 0)
/-- A scalar integer name. -/
def Slot.isInt (x : Slot) (i : Ix) : Bool :=
  match x.kind i with
  | some (.int _ _ _) => true
  | _ => false
/-- A scalar float name. -/
def Slot.isFlt (x : Slot) (i : Ix) : Bool :=
  match x.kind i with
  | some (.flt _) => true
  | _ => false
/-- A queue name. -/
def Slot.isQ (x : Slot) (i : Ix) : Bool :=
  match x.kind i with
  | some (.queue _ _) => true
  | _ => false
/-- A vector name. -/
def Slot.isVec (x : Slot) (i : Ix) : Bool :=
  match x.kind i with
  | some k => k.isVec
  | none => false
/-- A scalar integer name, a queue name or `nil`. -/
def Slot.intOk (x : Slot) (i : Ix) : Bool := isNil i || x.isInt i || x.isQ i
/-- A scalar integer name or `nil`. -/
def Slot.intNil (x : Slot) (i : Ix) : Bool := isNil i || x.isInt i
/-- A scalar or queue name or `nil`. -/
def Slot.scalarOk (x : Slot) (i : Ix) : Bool := !x.isVec i
/-- A status or result name: scalar integer or `nil`; a queue name is left to the operation (R77). -/
def Slot.lateOk (x : Slot) (i : Ix) : Bool := x.intOk i

/-! ### Stops -/

/-- Trap(c, sc) (R42). -/
def trap {α : Type} (c sc : Nat) : OpM α := fun _ => .error (.trap (.of c sc))
/-- A trap with a name index. -/
def trapName {α : Type} (c sc : Nat) (i : Ix) : OpM α := fun _ => .error (.trap ⟨c, sc, i.toNat, 0⟩)
/-- A trap with an address field. -/
def trapAddr {α : Type} (c sc : Nat) (a : Word) : OpM α := fun _ => .error (.trap ⟨c, sc, 0, a⟩)
/-- Park() with a WAITON word (R66, R67). -/
def parkOn {α : Type} (kind obj : Nat) : OpM α := fun _ => .error (.park (BitVec.ofNat 64 (kind * 2 ^ 60 + obj % 2 ^ 51)))
/-- Entries of a core's engine command FIFO in use (R179, R180). -/
def State.fifoUse (s : State) (core : Nat) : Nat := (s.cmds.filter (fun e => decide (coreOf e.2.tid = core))).length
/-- Replay (R172). -/
def replayOp {α : Type} (far : Bool) : OpM α := fun _ => .error (.replay far none)
/-- Raise a trap when a condition holds. -/
def trapIf (b : Bool) (c sc : Nat) : OpM Unit := if b then trap c sc else pure ()

/-! ### Reading (R42, R48, R76) -/

/-- A value: an exact integer, or the pattern of a float kind. -/
inductive Val where
  | int (v : Int)
  | flt (k : FK) (p : Nat)
  deriving DecidableEq, Repr

/-- A queue as the op finds it: local pops (R76), QUEUE subcode 1 for a remote binding (R77). -/
def popQueue (x : Ctx) (i : Ix) (core q : Nat) : OpM (Val × Bool) := do
  if core ≠ x.core then trapName 0x11 1 i
  let s ← get
  match s.queue core q with
  | [] => parkOn 3 q
  | (w, p) :: l =>
    set (s.setQueue core q l)
    pure (.int w.toNat, p)

/-- ReadName (R42): a plain read, from the state at the start of the turn. -/
def readName (x : Ctx) (i : Ix) : OpM (Val × Bool) :=
  match x.sl.nm i with
  | none => pure (.int 0, false)
  | some n =>
    match n.kind with
    | .queue c q => popQueue x i c q
    | .int _ _ _ => if n.f then pure (.int (n.vals.headD 0), n.p) else trapName 5 0 i
    | .flt k => if n.f then pure (.flt k (n.vals.headD 0).toNat, n.p) else trapName 5 0 i
    | .ivec _ _ _ _ _ => if n.f then pure (.int 0, n.p) else trapName 5 0 i
    | .fvec _ _ _ => if n.f then pure (.int 0, n.p) else trapName 5 0 i

/-- A value as an integer: a float counts as its pattern. -/
def Val.toInt : Val → Int
  | .int v => v
  | .flt _ p => p

/-- Read an integer name. -/
def readInt (x : Ctx) (i : Ix) : OpM (Int × Bool) := do
  let (v, p) ← readName x i
  pure (v.toInt, p)

/-- Read an address, offset, count or configuration operand: an effect boundary (R293). -/
def readAddr (x : Ctx) (i : Ix) : OpM Int := do
  let (v, p) ← readInt x i
  if p then trapName 0x0A 0 i
  pure v

/-- Read a float pattern. -/
def readPat (x : Ctx) (i : Ix) : OpM (Nat × Bool) := do
  let (v, p) ← readName x i
  pure (v.toInt.toNat, p)

/-- The elements of a vector name, row by row; EMPTY_READ when it is empty. -/
def readVec (x : Ctx) (i : Ix) : OpM (List Int × Bool) :=
  match x.sl.nm i with
  | none => pure ([], false)
  | some n => if n.f then pure (n.vals, n.p) else trapName 5 0 i

/-! ### Writing (R42, R48, R49, R76, R77) -/

/-- A release at a scope (R197): what must come first is performed. -/
def State.releaseAt (s : State) (t : Tid) (sc : Scope) : State := if s.unreleased t sc then s.drain t else s

/-- An op that releases at a scope; it replays while what must come first is under way to another device. -/
def release (x : Ctx) (sc : Scope) : OpM Unit := do
  modify (fun s => s.releaseAt x.t sc)
  let s ← get
  if s.unreleased x.t sc then replayOp false

/-- Every earlier access of the slot is performed first; the op replays while one is under way to another device. -/
def performAll (x : Ctx) : OpM Unit := do
  modify (fun s => s.drain x.t)
  let s ← get
  if s.busy x.t then replayOp false

/-- Entries on their way to a queue. -/
def State.pushesTo (s : State) (core q : Nat) : Nat :=
  (s.inflight.filter (fun e => match e.2 with
    | .push _ _ c k _ _ => decide (c = core ∧ k = q)
    | _ => false)).length

/-- An access under way must come before one that a slot makes at its turn (R192, R198). -/
def State.blocked (s : State) (y : Acc) : Bool :=
  s.inflight.any (fun e => match e.2.acc with
    | some x => x.before y
    | none => false)

/-- Perform what must come before an access that a slot makes at its turn. -/
def State.drainFor (s : State) (y : Acc) : State := if s.blocked y then s.drain y.tid else s

/-- An access at the slot's turn: what must come before it is performed, and the op replays while that is under way to another
device. -/
def accessNow (y : Acc) : OpM Unit := do
  modify (fun s => s.drainFor y)
  let s ← get
  if s.blocked y then replayOp false

/-- Push through a queue name (R76, R77, R194). A local push may take the room for which a remote push that is on its way was
counted: that one then waits for room (log entry 73). -/
def pushQueue (x : Ctx) (i : Ix) (core q : Nat) (w : Word) (p : Bool) : OpM Unit := do
  let s ← get
  if core = x.core then
    if 16 ≤ (s.queue core q).length then parkOn 4 (q + core * 32)
    release x .core
    modify (fun s => s.setQueue core q (s.queue core q ++ [(w, p)]))
  else
    if !s.samePart core x.core then trapName 0x11 2 i
    if 16 ≤ (s.queue core q).length + s.pushesTo core q then parkOn 4 (q + core * 32)
    release x .dev
    modify (fun s => s.send (.push x.t x.sl.epoch core q w p))

/-- Change the name of an index of the issuing slot. -/
def State.modName (s : State) (t : Tid) (i : Ix) (f : NameSt → NameSt) : State :=
  s.modSlot t (fun y => { y with names := y.names.modify (i.toNat - 1) f })

/-- Store values in a name: full, with their poison; a pending result is superseded (R48, R49). -/
def NameSt.put (n : NameSt) (vs : List Int) (p : Bool) : NameSt := { n with vals := vs, f := true, p := p, pend := none }

/-- Write an integer through FitToName (R42). -/
def writeInt (x : Ctx) (i : Ix) (v : Int) (p : Bool) : OpM Unit :=
  match x.sl.nm i with
  | none => pure ()
  | some n =>
    match n.kind with
    | .queue c q => pushQueue x i c q (BitVec.ofNat 64 (umod 64 v)) p
    | .int sg w m =>
      match fitInt sg w m v with
      | none => trapName 3 1 i
      | some y => modify (fun s => s.modName x.t i (·.put [y] p))
    | .flt k => modify (fun s => s.modName x.t i (·.put [(umod k.width v : Nat)] p))
    | .ivec _ _ _ _ _ => pure ()
    | .fvec _ _ _ => pure ()

/-- Write a float pattern of the name's own kind; a queue name gets it zero-extended. -/
def writePat (x : Ctx) (i : Ix) (v : Nat) (p : Bool) : OpM Unit :=
  match x.sl.nm i with
  | none => pure ()
  | some n =>
    match n.kind with
    | .queue c q => pushQueue x i c q (BitVec.ofNat 64 v) p
    | .flt _ => modify (fun s => s.modName x.t i (·.put [(v : Int)] p))
    | .int _ _ _ => pure ()
    | .ivec _ _ _ _ _ => pure ()
    | .fvec _ _ _ => pure ()

/-- Write the elements of a vector name. -/
def writeVec (x : Ctx) (i : Ix) (vs : List Int) (p : Bool) : OpM Unit :=
  match x.sl.nm i with
  | none => pure ()
  | some _ => modify (fun s => s.modName x.t i (·.put vs p))

/-- The name of a result that lands later becomes empty (R48, R49, R77). -/
def late (x : Ctx) (i : Ix) : OpM Dst := do
  if x.sl.isQ i then trapName 0x11 3 i
  let s ← get
  let (tk, s) := s.fresh
  set (if isNil i then s else s.modName x.t i (fun n => { n with f := false, pend := some tk }))
  pure ⟨x.t, x.sl.epoch, i.toNat, tk⟩

/-- A result that the device has at once goes on its way to its name. -/
def landLater (d : Dst) (v : Int) : OpM Unit := modify (fun s => s.send (.land d (.int v) false 0))

/-- Raise FFLAGS (R120). -/
def raiseFlags (x : Ctx) (fl : BitVec 5) : OpM Unit :=
  modify (fun s => s.modSlot x.t (fun y => { y with fflags := y.fflags ||| fl }))

/-- Change the issuing slot. -/
def modSelf (x : Ctx) (f : Slot → Slot) : OpM Unit := modify (fun s => s.modSlot x.t f)

/-- The op goes on at the next word. -/
def seqNext : OpM Next := pure .seq

/-! ### Translation of an op's access (R165 to R172) -/

/-- Ask for the walk of a page, unless it is under way (R171); each miss is counted (log entry 13). -/
def State.wantWalk (s : State) (cl part : Nat) (smode : Bool) (va : Nat) : State :=
  let s := s.countClu cl part 0x10 smode 1
  if s.inflight.any (fun e => match e.2 with
      | .walk c p w v => decide (c = cl ∧ p = part) && (w == inSys va) && decide (v / 65536 = va / 65536)
      | _ => false) then s
  else s.send (.walk cl part (inSys va) va)

/-- Translate the address of an op: a fault is precise, and a miss replays the op while its page is walked (R172); `far`
says that it is an LDX, STX or atomic, whose replays are counted (R308). -/
def opXlate (x : Ctx) (far : Bool) (va : Nat) (k : AKind) : OpM (Nat × Leaf) := fun s =>
  let w := BitVec.ofNat 64 va
  match s.xlate x.clu x.part x.sl.smode va k with
  | .ok pa l => .ok ((pa, l), s)
  | .fault c sc => .error (.trap ⟨c, sc, 0, w⟩)
  | .miss =>
    match s.walkVa x.part va with
    | .error sc => .error (.missTrap ⟨8, sc, 0, w⟩)
    | .ok l =>
      match throughLeaf l va x.sl.smode k with
      | .fault c sc => .error (.missTrap ⟨c, sc, 0, w⟩)
      | .miss => .error (.replay far (some (x.s0.wantWalk x.clu x.part x.sl.smode va)))
      | .ok _ _ => .error (.replay far (some (x.s0.wantWalk x.clu x.part x.sl.smode va)))

/-! ### The checks before the operation (R43, R323, R328) -/

/-- The name check of an op (R323, R35, R36). -/
def OpSpec.check (o : OpSpec) (x : Slot) : Option TrapInfo :=
  match (o.g.name :: o.fields).find? (fun i => decide (x.names.length < i.toNat)) with
  | some i => some ⟨0x0C, 5, i.toNat, 0⟩
  | none =>
    if (!isNil o.g.name && !x.isInt o.g.name) || !o.kinds x ||
        (o.m ++ o.d.toList).any (fun q => q.sync && x.isQ q.ix)
    then some (.of 1 1) else none

/-- The guard (R36): on, off, or a trap. -/
def OpSpec.guard (o : OpSpec) (x : Slot) : Except TrapInfo Bool :=
  match x.nm o.g.name with
  | none => .ok true
  | some n =>
    if !n.f then .error ⟨5, 0, o.g.name.toNat, 0⟩
    else if n.p then .error ⟨0x0A, 0, o.g.name.toNat, 0⟩
    else .ok ((n.vals.headD 0 != 0) != o.g.neg)

/-- A `!` operand on a name, not on `nil`, whose F is not `f`. -/
def Slot.waits (x : Slot) (q : Opd) (f : Bool) : Bool :=
  q.sync && (match x.nm q.ix with
    | none => false
    | some n => n.f != f)

/-- The first operand whose `!` condition fails (R35, R43). -/
def OpSpec.waitsOn (o : OpSpec) (x : Slot) : Option Ix :=
  match o.m.find? (fun q => x.waits q true) with
  | some q => some q.ix
  | none =>
    match o.d with
    | none => none
    | some q => if x.waits q false && !o.m.any (fun r => r.sync && decide (r.ix = q.ix)) then some q.ix else none

/-- Operate, after the `!` sources have been emptied. -/
def OpSpec.operate (o : OpSpec) (x : Ctx) : OpM Next := do
  modify (fun s => o.m.foldl (fun st q =>
    if q.sync && !isNil q.ix then st.modName x.t q.ix (fun n => { n with f := false }) else st) s)
  o.run x

/-! ### The turn (R43, R66, R71 to R73, R172, R328) -/

/-- The loop-end check at a sequential address (R73): the slot with its loop counts, and the next PC. -/
def Slot.loopEnd (x : Slot) (a : Word) : Slot :=
  let x1 := if x.lc1 ≠ 0 ∧ a = x.le1 then { x with lc1 := x.lc1 - 1 } else x
  if x.lc1 ≠ 0 ∧ a = x.le1 ∧ x1.lc1 ≠ 0 then { x1 with pc := x.ls1 }
  else
    let x2 := if x1.lc0 ≠ 0 ∧ a = x1.le0 then { x1 with lc0 := x1.lc0 - 1 } else x1
    if x1.lc0 ≠ 0 ∧ a = x1.le0 ∧ x2.lc0 ≠ 0 then { x2 with pc := x2.ls0 } else { x2 with pc := a }

/-- A slot runs on after an op has taken effect. -/
def Slot.run (x : Slot) : Slot := { x with st := .runnable, waiton := 0, kept := none, waitChecked := false }

/-- The wait limit of a slot's partition in rotations (R68); 2^20 after reset. -/
def State.waitLimit (s : State) (core : Nat) : Nat :=
  match s.cfgOf core with
  | some g => 2 ^ g.wle
  | none => 2 ^ 20

/-- A slot parks at an op whose condition does not hold (R66 to R68): it keeps the word it fetched (R318), and a failing
re-issue at the limit lets WAIT_TIMEOUT come; in a rotation whose turn is lost, the limit is seen at the slot's next turn (log
entry 71). -/
def State.parkWait (s : State) (t : Tid) (w : Word) (inV : Bool) : State :=
  let x := s.slot t
  let was := decide (x.st = .parked)
  let since := if was then x.waitSince else s.cycle
  s.setSlot t { x with
    st := .parked, waiton := w, waitSince := since, kept := some (s.insn, s.ilen), keptV := inV
    waitChecked := was && decide (s.waitLimit (coreOf t) ≤ (s.cycle - since) / 16) }

/-- A slot traps at its turn: once every access that precedes it is performed (R195); until then its op replays. -/
def State.trapAt (s : State) (t : Tid) (pc insn : Word) (i : TrapInfo) (inV : Bool) : State :=
  let st := s.drain t
  if st.busy t then st.modSlot t (fun y => y.run) else s.takeTrap t pc insn i inV

/-- An op traps at its turn. -/
def State.trapNow (s : State) (x : Ctx) (i : TrapInfo) (inV : Bool) : State := s.trapAt x.t x.pc x.insn i inV

/-- What an op's result makes of the turn that began in `s`. -/
def State.finish (s : State) (x : Ctx) (inV : Bool) : Except (Stop × Bool) (Next × State) → State
  | .ok (n, st) =>
    match n with
    | .seq => st.modSlot x.t (fun y => (y.loopEnd (x.pc + BitVec.ofNat 64 x.len)).run)
    | .jump pc => st.modSlot x.t (fun y => { y with pc := pc }.run)
    | .ended => st
  | .error (.park w, v) => (s.parkWait x.t w v).count 0 x.core 3 x.sl.smode 1
  | .error (.parkWith st w, v) => (st.parkWait x.t w v).count 0 x.core 3 x.sl.smode 1
  | .error (.replay far st, _) =>
    let s := (st.getD s).modSlot x.t (fun y => y.run)
    if far then s.count 0 x.core 6 x.sl.smode 1 else s
  | .error (.trap i, v) => s.trapNow x i (v || inV)
  | .error (.missTrap i, v) => (s.countClu x.clu x.part 0x10 x.sl.smode 1).trapNow x i (v || inV)

/-- The ops of a word that are not guarded off operate one after the other. -/
def operateAll (x : Ctx) (live : List (OpSpec × Bool)) (s : State) : Except (Stop × Bool) (Next × State) :=
  live.foldl (fun acc o => match acc with
    | .error e => .error e
    | .ok (n, st) =>
      match (o.1.operate x).run st with
      | .error e => .error (e, o.2)
      | .ok (m, st) => .ok (if n = .seq then m else n, st)) (.ok (.seq, s))

/-- The queue to which a name is bound: its core and its number. -/
def Ctx.queueOf (x : Ctx) (i : Ix) : Option (Nat × Nat) :=
  match x.sl.kind i with
  | some (.queue c q) => some (c, q)
  | _ => none

/-- Earlier reads of a queue in the same word. -/
def Ctx.popsOf (x : Ctx) (before : List Need) (cq : Nat × Nat) : Nat :=
  (before.filter (fun n => match n with
    | .pop i => decide (x.queueOf i = some cq)
    | _ => false)).length

/-- Earlier pushes to a queue in the same word. -/
def Ctx.pushesOf (x : Ctx) (before : List Need) (cq : Nat × Nat) : Nat :=
  (before.filter (fun n => match n with
    | .push i => decide (x.queueOf i = some cq)
    | _ => false)).length

/-- Earlier engine commands in the same word. -/
def cmdsOf (before : List Need) : Nat :=
  (before.filter (fun n => match n with
    | .cmd _ => true
    | _ => false)).length

/-- What a condition that does not hold at the start of the turn does, where `before` are the conditions of the same word
that come before it (R37, R76, R77, R179, R200, R328). A queue name that the op may not read, or not push to, is no
condition: it traps in the operation. -/
def Ctx.unmet (x : Ctx) (before : List Need) : Need → Option Stop
  | .pop i =>
    match x.queueOf i with
    | none => none
    | some (c, q) =>
      if c = x.core ∧ (x.s0.queue c q).length ≤ x.popsOf before (c, q) then
        some (.park (BitVec.ofNat 64 (3 * 2 ^ 60 + q % 2 ^ 51)))
      else none
  | .push i =>
    match x.queueOf i with
    | none => none
    | some (c, q) =>
      if (c = x.core ∨ x.s0.samePart c x.core = true) ∧
          16 + x.popsOf before (c, q) ≤
            (x.s0.queue c q).length + x.pushesOf before (c, q) + (if c = x.core then 0 else x.s0.pushesTo c q) then
        some (.park (BitVec.ofNat 64 (4 * 2 ^ 60 + (q + c * 32) % 2 ^ 51)))
      else none
  | .cmd tr =>
    if !tr && decide (16 ≤ x.s0.fifoUse x.core + cmdsOf before) then some (.park (BitVec.ofNat 64 (7 * 2 ^ 60))) else none
  | .fence sc => if x.s0.unperformed x.t sc then some (.replay false none) else none

/-- The first condition of a word that does not hold, with the pair slot of its op. -/
def Ctx.firstUnmet (x : Ctx) (before : List Need) : List (Need × Bool) → Option (Stop × Bool)
  | [] => none
  | (n, v) :: l =>
    match x.unmet before n with
    | some e => some (e, v)
    | none => x.firstUnmet (n :: before) l

/-- The first queue, FIFO or fence condition of the ops of a pair that fails at the start of the turn (R37, R328). -/
def pairHeld (x : Ctx) (live : List (OpSpec × Bool)) : Option (Stop × Bool) :=
  x.firstUnmet [] (live.flatMap (fun o => o.1.needs.map (fun n => (n, o.2))))

/-- The ops of a word that are not guarded off take effect: in a pair, only when the conditions of both hold. -/
def runLive (x : Ctx) (pair : Bool) (live : List (OpSpec × Bool)) (s : State) : Except (Stop × Bool) (Next × State) :=
  match (if pair then pairHeld x live else none) with
  | some e => .error e
  | none => operateAll x live s

/-- The ops of a word at a turn, each with whether it stands in pair slot 1: names, guards, conditions, operations. -/
def runOps (x : Ctx) (ops : List (OpSpec × Bool)) (s : State) : Except (Stop × Bool) (Next × State) :=
  match ops.findSome? (fun o => (o.1.check x.sl).map (fun i => (i, o.2))) with
  | some (i, v) => .error (.trap i, v)
  | none =>
    match ops.findSome? (fun o => match o.1.guard x.sl with
        | .error i => some (i, o.2)
        | .ok _ => none) with
    | some (i, v) => .error (.trap i, v)
    | none =>
      let live := ops.filter (fun o => match o.1.guard x.sl with
        | .ok b => b
        | .error _ => false)
      match live.findSome? (fun o => (o.1.waitsOn x.sl).map (fun i => (i, o.2))) with
      | some (i, v) => .error (.park (BitVec.ofNat 64 (2 ^ 60 + i.toNat)), v)
      | none => runLive x (decide (ops.length = 2)) live s

/-- What the op of the current turn sees. -/
def State.ctx (s : State) : Ctx := ⟨s.cur, s.slot s.cur, s, (s.slot s.cur).pc, s.ilen, BitVec.ofNat 64 s.insn⟩

/-- The word of the current turn counts as issued, under the configuration of the turn's start (R308, R391); a turn that
does not take effect discards this. -/
def State.counted (s : State) : State := s.count 0 (coreOf s.cur) 2 (s.slot s.cur).smode 1

/-- One op at its slot's turn. -/
def issue (o : OpSpec) (s : State) : Host.Outcome State Fault Refusal :=
  .next (s.finish s.ctx false (runOps s.ctx [(o, false)] s.counted))

/-- A pair at its slot's turn (R37, R328). -/
def issuePair (a b : OpSpec) (s : State) : Host.Outcome State Fault Refusal :=
  .next (s.finish s.ctx false (runOps s.ctx [(a, false), (b, true)] s.counted))

end Sys2Proof.Machine
end

