-- ==== Sys2Proof/Machine/Int.lean ====
section
/-! DEFINITION. The integer ops of opcode group 1 (spec/16_ref_a_b.md to spec/20_ref_s.md; spec/06_numbers.md R110,
R111). -/

namespace Sys2Proof.Machine

/-! ### Shared shapes (R338, R339) -/

/-- Every name is a scalar integer name, a queue name or `nil`. -/
def allInt (is : List Ix) (x : Slot) : Bool := is.all (fun i => x.intOk i)

/-- An op on one source. -/
def unSpec (g : Guard) (d a : Opd) (f : Ctx → Int → Int) : OpSpec where
  g := g
  fields := [d.ix, a.ix]
  kinds := allInt [d.ix, a.ix]
  m := [a]
  d := some d
  run := fun x => do
    let (v, p) ← readInt x a.ix
    writeInt x d.ix (f x v) p
    seqNext

/-- An op on two sources. -/
def binSpec (g : Guard) (d a b : Opd) (f : Ctx → Int → Int → Int) : OpSpec where
  g := g
  fields := [d.ix, a.ix, b.ix]
  kinds := allInt [d.ix, a.ix, b.ix]
  m := [a, b]
  d := some d
  run := fun x => do
    let (v, p) ← readInt x a.ix
    let (w, q) ← readInt x b.ix
    writeInt x d.ix (f x v w) (p || q)
    seqNext

/-- The width of a source: 64 for a queue name or `nil` (R350). -/
def srcW (x : Slot) (i : Ix) : Nat :=
  match x.kind i with
  | some (.int _ w _) => w
  | _ => 64

/-- The source is a signed name. -/
def srcSigned (x : Slot) (i : Ix) : Bool :=
  match x.kind i with
  | some (.int sg _ _) => sg
  | _ => false

/-- Bits∞(a)[w − 1 : 0] as a number (R341). -/
def lowBits (w : Nat) (a : Int) : Nat := umod w a

/-! ### Bitwise ops on unbounded two's complement (R341) -/

/-- ¬a. -/
def inot (a : Int) : Int := -a - 1

/-- a AND b. -/
def iand (a b : Int) : Int :=
  if 0 ≤ a then
    if 0 ≤ b then ((a.toNat &&& b.toNat : Nat) : Int)
    else ((a.toNat - (a.toNat &&& (inot b).toNat) : Nat) : Int)
  else if 0 ≤ b then ((b.toNat - (b.toNat &&& (inot a).toNat) : Nat) : Int)
  else inot (((inot a).toNat ||| (inot b).toNat : Nat) : Int)

/-- a OR b. -/
def ior (a b : Int) : Int := inot (iand (inot a) (inot b))

/-- a XOR b. -/
def ixor (a b : Int) : Int := ior (iand a (inot b)) (iand (inot a) b)

/-! ### Counts of bits -/

/-- The number of zero bits above the highest one, of `w`. -/
def clzOf (w n : Nat) : Nat := if n = 0 then w else w - 1 - Nat.log2 n

/-- The number of zero bits below the lowest one, of `w`. -/
def ctzOf (w n : Nat) : Nat := ((List.range w).find? (fun k => decide (n / 2 ^ k % 2 = 1))).getD w

/-- The number of one bits. -/
def popOf (w n : Nat) : Nat := ((List.range w).filter (fun k => decide (n / 2 ^ k % 2 = 1))).length

/-! ### Shifts (R400, R406) -/

/-- ⌊v × 2^k⌋; a count beyond ±200 gives what ±200 gives once it is fitted to a name of at most 64 bits. -/
def shiftBy (v k : Int) : Int :=
  if 0 ≤ k then v * 2 ^ (min k 200).toNat else Int.fdiv v (2 ^ (min (-k) 200).toNat)

/-- The low `w` bits of a source rotated left by `k` (R400). -/
def rotBy (w : Nat) (n : Nat) (k : Int) : Nat :=
  let r := (k % (w : Int)).toNat
  n * 2 ^ r % 2 ^ w + n / 2 ^ (w - r)

/-- An op with a count from a name or from IMM14. -/
def cntSpec (g : Guard) (d a : Opd) (k : Cnt) (f : Ctx → Int → Int → Int) : OpSpec :=
  match k with
  | .name b => binSpec g d a b f
  | .imm n => unSpec g d a (fun x v => f x v n.toNat)

/-- The value of an immediate, signed (R340, R383). -/
def Imm.sval : Imm → Int
  | .i14 v => v.toInt
  | .x32 v => v.toInt
  | .x64 v => v.toInt

/-! ### The specifications of the ops -/

/-- ADD (R338). -/
def specAdd (g : Guard) (d a b : Opd) : OpSpec := binSpec g d a b (fun _ v w => v + w)
/-- ADDI (R340). -/
def specAddi (g : Guard) (d a : Opd) (imm : Imm) : OpSpec := unSpec g d a (fun _ v => v + Imm.sval imm)
/-- SUB (R414). -/
def specSub (g : Guard) (d a b : Opd) : OpSpec := binSpec g d a b (fun _ v w => v - w)
/-- MUL (R386). -/
def specMul (g : Guard) (d a b : Opd) : OpSpec := binSpec g d a b (fun _ v w => v * w)
/-- MULH (R386): the width is that of D. -/
def specMulh (g : Guard) (d a b : Opd) : OpSpec :=
  binSpec g d a b (fun x v w => Int.fdiv (v * w) (2 ^ srcW x.sl d.ix))
/-- MADD (R377). -/
def specMadd (g : Guard) (d a b : Opd) (c : Ix) : OpSpec where
  g := g
  fields := [d.ix, a.ix, b.ix, c]
  kinds := allInt [d.ix, a.ix, b.ix, c]
  m := [a, b]
  d := some d
  needs := [.pop a.ix, .pop b.ix, .pop c, .push d.ix]
  run := fun x => do
    let (v, p) ← readInt x a.ix
    let (w, q) ← readInt x b.ix
    let (u, r) ← readInt x c
    writeInt x d.ix (v * w + u) (p || q || r)
    seqNext

/-- DIV and REM (R111, R358, R396): a divisor of zero. -/
def divSpec (g : Guard) (d a b : Opd) (nz : Bool) (f : Int → Int → Int) : OpSpec where
  g := g
  fields := [d.ix, a.ix, b.ix]
  kinds := allInt [d.ix, a.ix, b.ix]
  m := [a, b]
  d := some d
  run := fun x => do
    let (v, p) ← readInt x a.ix
    let (w, q) ← readInt x b.ix
    if w = 0 then
      if nz || q then writeInt x d.ix 0 (p || q) else trap 0x0E 0
    else writeInt x d.ix (f v w) (p || q)
    seqNext

/-- DIV (R358). -/
def specDiv (g : Guard) (d a b : Opd) (nz : Bool) : OpSpec := divSpec g d a b nz Int.tdiv
/-- REM (R396). -/
def specRem (g : Guard) (d a b : Opd) (nz : Bool) : OpSpec := divSpec g d a b nz Int.tmod
/-- AND (R341). -/
def specAnd (g : Guard) (d a b : Opd) : OpSpec := binSpec g d a b (fun _ v w => iand v w)
/-- OR (R388). -/
def specOr (g : Guard) (d a b : Opd) : OpSpec := binSpec g d a b (fun _ v w => ior v w)
/-- XOR (R438). -/
def specXor (g : Guard) (d a b : Opd) : OpSpec := binSpec g d a b (fun _ v w => ixor v w)
/-- ANDN (R342). -/
def specAndn (g : Guard) (d a b : Opd) : OpSpec := binSpec g d a b (fun _ v w => iand v (inot w))
/-- SHL (R406). -/
def specShl (g : Guard) (d a : Opd) (k : Cnt) : OpSpec := cntSpec g d a k (fun _ v n => shiftBy v n)
/-- SHR (R406). -/
def specShr (g : Guard) (d a : Opd) (k : Cnt) : OpSpec :=
  cntSpec g d a k (fun x v n => shiftBy (lowBits (srcW x.sl a.ix) v) (-n))
/-- SRA (R406). -/
def specSra (g : Guard) (d a : Opd) (k : Cnt) : OpSpec := cntSpec g d a k (fun _ v n => shiftBy v (-n))
/-- ROT (R400). -/
def specRot (g : Guard) (d a : Opd) (k : Cnt) : OpSpec :=
  cntSpec g d a k (fun x v n =>
    let w := srcW x.sl a.ix
    let r := rotBy w (lowBits w v) n
    if srcSigned x.sl a.ix then sext w r else r)
/-- MIN (R378). -/
def specMin (g : Guard) (d a b : Opd) : OpSpec := binSpec g d a b (fun _ v w => if v ≤ w then v else w)
/-- MAX (R378). -/
def specMax (g : Guard) (d a b : Opd) : OpSpec := binSpec g d a b (fun _ v w => if v ≤ w then w else v)
/-- ABS (R336). -/
def specAbs (g : Guard) (d a : Opd) : OpSpec := unSpec g d a (fun _ v => v.natAbs)
/-- CLZ (R350). -/
def specClz (g : Guard) (d a : Opd) : OpSpec :=
  unSpec g d a (fun x v => clzOf (srcW x.sl a.ix) (lowBits (srcW x.sl a.ix) v))
/-- CTZ (R350). -/
def specCtz (g : Guard) (d a : Opd) : OpSpec :=
  unSpec g d a (fun x v => ctzOf (srcW x.sl a.ix) (lowBits (srcW x.sl a.ix) v))
/-- POPC (R392). -/
def specPopc (g : Guard) (d a : Opd) : OpSpec :=
  unSpec g d a (fun x v => popOf (srcW x.sl a.ix) (lowBits (srcW x.sl a.ix) v))

/-- A condition on exact values (R351). -/
def Cc.holds (c : Cc) (a b : Int) : Bool :=
  match c with
  | .eq => decide (a = b)
  | .ne => decide (a ≠ b)
  | .lt => decide (a < b)
  | .le => decide (a ≤ b)
  | .gt => decide (b < a)
  | .ge => decide (b ≤ a)

/-- The constant of CMPI, signed (R351). -/
def ImmC.sval : ImmC → Int
  | .i11 v => v.toInt
  | .x32 v => v.toInt

/-- CMP (R351). -/
def specCmp (g : Guard) (cc : Cc) (d a b : Opd) : OpSpec := binSpec g d a b (fun _ v w => b2n (Cc.holds cc v w))
/-- CMPI (R351). -/
def specCmpi (g : Guard) (cc : Cc) (d a : Opd) (imm : ImmC) : OpSpec :=
  unSpec g d a (fun _ v => b2n (Cc.holds cc v (ImmC.sval imm)))

/-- Two float names of one kind. -/
def sameFlt (x : Slot) (i j : Ix) : Bool :=
  match x.kind i, x.kind j with
  | some (.flt k), some (.flt l) => decide (k = l)
  | _, _ => false

/-- The names of SEL (R402). -/
def selKinds (d a b c : Ix) (x : Slot) : Bool :=
  x.isInt c && (allInt [d, a, b] x || (sameFlt x a b && (isNil d || sameFlt x d a)))

/-- Write a value of either class: integers are fitted, patterns go as they are. -/
def writeVal (x : Ctx) (i : Ix) (v : Val) (p : Bool) : OpM Unit :=
  match v with
  | .int n => writeInt x i n p
  | .flt _ n => writePat x i n p

/-- SEL (R402). -/
def specSel (g : Guard) (d a b : Opd) (c : Ix) : OpSpec where
  g := g
  fields := [d.ix, a.ix, b.ix, c]
  kinds := selKinds d.ix a.ix b.ix c
  m := [a, b]
  d := some d
  needs := [.pop c, .pop a.ix, .pop b.ix, .push d.ix]
  run := fun x => do
    let (n, pc) ← readInt x c
    let (v, pa) ← readName x a.ix
    let (w, pb) ← readName x b.ix
    if n ≠ 0 then writeVal x d.ix v (pc || pa) else writeVal x d.ix w (pc || pb)
    seqNext

/-- The pairs of kinds that MOV accepts (R382). -/
def movKinds (d a : Ix) (x : Slot) : Bool :=
  if x.isQ d then x.scalarOk a
  else if x.isFlt d then sameFlt x d a
  else x.intNil d && x.intOk a

/-- MOV (R382). -/
def specMov (g : Guard) (d a : Opd) : OpSpec where
  g := g
  fields := [d.ix, a.ix]
  kinds := movKinds d.ix a.ix
  m := [a]
  d := some d
  run := fun x => do
    let (v, p) ← readName x a.ix
    writeVal x d.ix v p
    seqNext

/-- The constant of MOVI for a destination (R383): X64 is unsigned but for an `i` name. -/
def moviVal (x : Slot) (d : Ix) (imm : Imm) : Int :=
  match imm with
  | .i14 v => v.toInt
  | .x32 v => v.toInt
  | .x64 v => if srcSigned x d then v.toInt else v.toNat

/-- MOVI (R383). -/
def specMovi (g : Guard) (d : Opd) (imm : Imm) : OpSpec where
  g := g
  fields := [d.ix]
  kinds := fun x => x.scalarOk d.ix
  m := []
  d := some d
  run := fun x => do
    writeInt x d.ix (moviVal x.sl d.ix imm) false
    seqNext

/-- EXT (R362). -/
def specExt (g : Guard) (s : Bool) (d a : Opd) (pos lenm1 : BitVec 6) : OpSpec :=
  unSpec g d a (fun _ v =>
    let len := lenm1.toNat + 1
    let f := umod len (Int.fdiv v (2 ^ pos.toNat))
    if s then sext len f else f)

/-- The value of INS (R375): the low bits of `a` in a field of the `w` bits of `d`. -/
def insVal (sg : Bool) (w : Nat) (d a : Int) (pos len : Nat) : Int :=
  let u := lowBits w d
  let n := (u - u / 2 ^ pos % 2 ^ len * 2 ^ pos + umod len a * 2 ^ pos) % 2 ^ w
  if sg then sext w n else n

/-- INS (R375). -/
def specIns (g : Guard) (d : Ix) (a : Opd) (pos lenm1 : BitVec 6) : OpSpec where
  g := g
  fields := [d, a.ix]
  kinds := fun x => x.isInt d && x.intOk a.ix
  m := [a]
  d := none
  run := fun x => do
    let (v, p) ← readInt x d
    let (w, q) ← readInt x a.ix
    writeInt x d (insVal (srcSigned x.sl d) (srcW x.sl d) v w pos.toNat (lenm1.toNat + 1)) (p || q)
    seqNext

/-! ### The meanings -/

/-- ADD. -/
def execAdd (g : Guard) (d : Opd) (a : Opd) (b : Opd) (s : State) : Host.Outcome State Fault Refusal :=
  issue (specAdd g d a b) s
/-- ADDI. -/
def execAddi (g : Guard) (d : Opd) (a : Opd) (imm : Imm) (s : State) : Host.Outcome State Fault Refusal :=
  issue (specAddi g d a imm) s
/-- SUB. -/
def execSub (g : Guard) (d : Opd) (a : Opd) (b : Opd) (s : State) : Host.Outcome State Fault Refusal :=
  issue (specSub g d a b) s
/-- MUL. -/
def execMul (g : Guard) (d : Opd) (a : Opd) (b : Opd) (s : State) : Host.Outcome State Fault Refusal :=
  issue (specMul g d a b) s
/-- MULH. -/
def execMulh (g : Guard) (d : Opd) (a : Opd) (b : Opd) (s : State) : Host.Outcome State Fault Refusal :=
  issue (specMulh g d a b) s
/-- MADD. -/
def execMadd (g : Guard) (d : Opd) (a : Opd) (b : Opd) (c : Ix) (s : State) : Host.Outcome State Fault Refusal :=
  issue (specMadd g d a b c) s
/-- DIV. -/
def execDiv (g : Guard) (d : Opd) (a : Opd) (b : Opd) (nz : Bool) (s : State) : Host.Outcome State Fault Refusal :=
  issue (specDiv g d a b nz) s
/-- REM. -/
def execRem (g : Guard) (d : Opd) (a : Opd) (b : Opd) (nz : Bool) (s : State) : Host.Outcome State Fault Refusal :=
  issue (specRem g d a b nz) s
/-- AND. -/
def execAnd (g : Guard) (d : Opd) (a : Opd) (b : Opd) (s : State) : Host.Outcome State Fault Refusal :=
  issue (specAnd g d a b) s
/-- OR. -/
def execOr (g : Guard) (d : Opd) (a : Opd) (b : Opd) (s : State) : Host.Outcome State Fault Refusal :=
  issue (specOr g d a b) s
/-- XOR. -/
def execXor (g : Guard) (d : Opd) (a : Opd) (b : Opd) (s : State) : Host.Outcome State Fault Refusal :=
  issue (specXor g d a b) s
/-- ANDN. -/
def execAndn (g : Guard) (d : Opd) (a : Opd) (b : Opd) (s : State) : Host.Outcome State Fault Refusal :=
  issue (specAndn g d a b) s
/-- SHL. -/
def execShl (g : Guard) (d : Opd) (a : Opd) (k : Cnt) (s : State) : Host.Outcome State Fault Refusal :=
  issue (specShl g d a k) s
/-- SHR. -/
def execShr (g : Guard) (d : Opd) (a : Opd) (k : Cnt) (s : State) : Host.Outcome State Fault Refusal :=
  issue (specShr g d a k) s
/-- SRA. -/
def execSra (g : Guard) (d : Opd) (a : Opd) (k : Cnt) (s : State) : Host.Outcome State Fault Refusal :=
  issue (specSra g d a k) s
/-- ROT. -/
def execRot (g : Guard) (d : Opd) (a : Opd) (k : Cnt) (s : State) : Host.Outcome State Fault Refusal :=
  issue (specRot g d a k) s
/-- MIN. -/
def execMin (g : Guard) (d : Opd) (a : Opd) (b : Opd) (s : State) : Host.Outcome State Fault Refusal :=
  issue (specMin g d a b) s
/-- MAX. -/
def execMax (g : Guard) (d : Opd) (a : Opd) (b : Opd) (s : State) : Host.Outcome State Fault Refusal :=
  issue (specMax g d a b) s
/-- ABS. -/
def execAbs (g : Guard) (d : Opd) (a : Opd) (s : State) : Host.Outcome State Fault Refusal :=
  issue (specAbs g d a) s
/-- CLZ. -/
def execClz (g : Guard) (d : Opd) (a : Opd) (s : State) : Host.Outcome State Fault Refusal :=
  issue (specClz g d a) s
/-- CTZ. -/
def execCtz (g : Guard) (d : Opd) (a : Opd) (s : State) : Host.Outcome State Fault Refusal :=
  issue (specCtz g d a) s
/-- POPC. -/
def execPopc (g : Guard) (d : Opd) (a : Opd) (s : State) : Host.Outcome State Fault Refusal :=
  issue (specPopc g d a) s
/-- CMP. -/
def execCmp (g : Guard) (cc : Cc) (d : Opd) (a : Opd) (b : Opd) (s : State) : Host.Outcome State Fault Refusal :=
  issue (specCmp g cc d a b) s
/-- CMPI. -/
def execCmpi (g : Guard) (cc : Cc) (d : Opd) (a : Opd) (imm : ImmC) (s : State) : Host.Outcome State Fault Refusal :=
  issue (specCmpi g cc d a imm) s
/-- SEL. -/
def execSel (g : Guard) (d : Opd) (a : Opd) (b : Opd) (c : Ix) (s : State) : Host.Outcome State Fault Refusal :=
  issue (specSel g d a b c) s
/-- MOV. -/
def execMov (g : Guard) (d : Opd) (a : Opd) (s : State) : Host.Outcome State Fault Refusal :=
  issue (specMov g d a) s
/-- MOVI. -/
def execMovi (g : Guard) (d : Opd) (imm : Imm) (s : State) : Host.Outcome State Fault Refusal :=
  issue (specMovi g d imm) s
/-- EXT. -/
def execExt (g : Guard) (s : Bool) (d : Opd) (a : Opd) (pos : BitVec 6) (lenm1 : BitVec 6) (st : State) : Host.Outcome State Fault Refusal :=
  issue (specExt g s d a pos lenm1) st
/-- INS. -/
def execIns (g : Guard) (d : Ix) (a : Opd) (pos : BitVec 6) (lenm1 : BitVec 6) (s : State) : Host.Outcome State Fault Refusal :=
  issue (specIns g d a pos lenm1) s

end Sys2Proof.Machine
end

