-- ==== Sys2Proof/Machine/MemOps.lean ====
section
/-! DEFINITION. Single accesses: LDL, STL, LDX, STX, FENCE and the eleven atomics (spec/08_memory.md R160 to R176;
spec/16_ref_a_b.md R334, R335, R337; spec/20_ref_s.md R413; spec/09_ordering.md R192 to R200). -/

namespace Sys2Proof.Machine

/-! ### Shared parts -/

/-- The access size of a name (R163): 8 for a queue name and `nil`. -/
def Slot.accSize (x : Slot) (i : Ix) : Nat :=
  match x.kind i with
  | some (.queue _ _) => 8
  | some k => accessSize k.sw
  | none => 8

/-- Check a local-store offset (R163): the offset as a number. -/
def lsCheck (x : Ctx) (o : Int) : OpM Nat := do
  let a := BitVec.ofNat 64 (umod 64 o)
  if o < 0 ∨ Config.lsBytes ≤ o then trapAddr 9 0x14 a
  if decide (Config.lsSys ≤ o) && !x.sl.smode then trapAddr 9 0x12 a
  pure o.toNat

/-- Check a cluster-local address (R164): the core and the offset. -/
def clCheck (x : Ctx) (o : Int) : OpM (Nat × Nat) := do
  let a := BitVec.ofNat 64 (umod 64 o)
  let v := umod 64 o
  let c := x.clu * 8 + v / 2 ^ 18 % 8
  if 2 ^ 21 ≤ v ∨ x.s0.samePart c x.core = false then trapAddr 9 0x14 a
  if decide (Config.lsSys ≤ v % 2 ^ 18) && !x.sl.smode then trapAddr 9 0x12 a
  pure (c, v % 2 ^ 18)

/-- ALIGN of an access of `n` bytes. -/
def alignCheck (o : Int) (n : Nat) : OpM Unit :=
  if o % n ≠ 0 then trapAddr 7 0 (BitVec.ofNat 64 (umod 64 o)) else pure ()

/-- An access of a slot to a local store, of kind RC (R191). -/
def Ctx.lsAcc (x : Ctx) (core off n : Nat) (wr : Bool) : Acc := ⟨x.t, x.sl.epoch, .ls core off, n, wr, .rc, none, false⟩

/-- Put a loaded value of `n` bytes into a name (R163). -/
def writeLoaded (x : Ctx) (i : Ix) (n v : Nat) (p : Bool) : OpM Unit :=
  match x.sl.kind i with
  | none => pure ()
  | some k =>
    match k with
    | .flt _ => let (w, q) := rawValue k n v; writePat x i w.toNat (p || q)
    | .int _ _ _ => writeInt x i (rawValue k n v).1 p
    | .queue _ _ => writeInt x i v p
    | .ivec _ _ _ _ _ => pure ()
    | .fvec _ _ _ => pure ()

/-- The bytes of a value to be stored (R163). -/
def storeBits (n : Nat) (v : Val) : Nat := umod (8 * n) v.toInt

/-! ### LDL and STL (R163) -/

/-- The FE wait of an LDL or STL parks with KIND 1, name 0, the offset in bits 25:8 and `.f` in bit 26. -/
def feWait (x : Ctx) (o : Nat) (want f : Bool) : OpM Unit := do
  let s ← get
  if s.lsF x.core o != want then parkOn 1 (o * 256 + b2n f * 2 ^ 26)

/-- LDL (R163). -/
def specLdl (g : Guard) (fe : LdFe) (d : Ix) (a : Opd) : OpSpec where
  g := g
  fields := [d, a.ix]
  kinds := fun x => x.scalarOk d && x.intOk a.ix
  m := [a]
  d := none
  needs := [.pop a.ix, .push d]
  run := fun x => do
    let v ← readAddr x a.ix
    let o ← lsCheck x v
    let n := x.sl.accSize d
    alignCheck o n
    accessNow (x.lsAcc x.core o n false)
    match fe with
    | .plain => pure ()
    | .w => feWait x o true false
    | .c => feWait x o true false
    let s ← get
    writeLoaded x d n (s.lsRead x.core o n) (s.lsP x.core o)
    if fe = .c then modify (fun s => s.setLsF x.core o false)
    seqNext

/-- STL (R163). -/
def specStl (g : Guard) (f : Bool) (a b : Opd) : OpSpec where
  g := g
  fields := [a.ix, b.ix]
  kinds := fun x => x.intOk a.ix && x.scalarOk b.ix
  m := [a, b]
  d := none
  run := fun x => do
    let v ← readAddr x a.ix
    let o ← lsCheck x v
    let n := x.sl.accSize b.ix
    alignCheck o n
    accessNow (x.lsAcc x.core o n true)
    if f then feWait x o false true
    let (w, p) ← readName x b.ix
    modify (fun s =>
      let s := s.lsWrite x.core o n (storeBits n w) p
      if f then s.setLsF x.core o true else s)
    seqNext

/-! ### LDX and STX (R173, R413) -/

/-- The access of an address of R160 beyond the local store. -/
def farAcc (x : Ctx) (cl : Bool) (v : Int) (n : Nat) (k : AKind) (acq : Option Scope) : OpM Acc := do
  if cl then
    let (c, o) ← clCheck x v
    pure ⟨x.t, x.sl.epoch, .ls c o, n, decide (k ≠ .rd), .rc, acq, false⟩
  else
    let (pa, l) ← opXlate x true (umod 64 v) k
    pure ⟨x.t, x.sl.epoch, .mem pa, n, decide (k ≠ .rd), l.ord, acq, l.trace⟩

/-- The access goes to host memory. -/
def Tgt.isHostT : Tgt → Bool
  | .mem pa => isHost pa
  | .ls _ _ => false

/-- A release waits, replaying, until what it releases has been performed (R172, R197). -/
def relWait (x : Ctx) (rel : Option Scope) : OpM Unit := do
  let s ← get
  match rel with
  | none => pure ()
  | some sc => if s.unreleased x.t sc then replayOp true

/-- Far accesses of the cores of a cluster that are under way. -/
def State.fabricUse (s : State) (cl : Nat) : Nat :=
  (s.inflight.filter (fun e => match e.2.acc with
    | some a => decide (cluOf (coreOf a.tid) = cl)
    | none => false)).length

/-- The fabric takes no further request of a cluster (R172; log entry 70): it has room for one of each slot, and for so many
more. -/
def State.fabricFull (s : State) (cl : Nat) : Bool :=
  decide (128 ≤ s.fabricUse cl) && decide (Config.fabricSpare + 128 ≤ s.fabricUse cl)

/-- A request that cannot enter the fabric replays its op (R172). -/
def enterFabric (x : Ctx) : OpM Unit := do
  let s ← get
  if s.fabricFull x.clu then replayOp true

/-- LDX (R173). -/
def specLdx (g : Guard) (cl : Bool) (acq : Option Scope) (d : Ix) (a : Opd) : OpSpec where
  g := g
  fields := [d, a.ix]
  kinds := fun x => x.scalarOk d && x.intOk a.ix
  m := [a]
  d := none
  run := fun x => do
    let v ← readAddr x a.ix
    enterFabric x
    let n := x.sl.accSize d
    let acc ← farAcc x cl v n .rd acq
    alignCheck v n
    let dst ← late x d
    modify (fun s => s.send (.read acc dst))
    seqNext

/-- STX (R173, R413). -/
def specStx (g : Guard) (cl : Bool) (rel : Option Scope) (a b : Opd) : OpSpec where
  g := g
  fields := [a.ix, b.ix]
  kinds := fun x => x.intOk a.ix && x.scalarOk b.ix
  m := [a, b]
  d := none
  run := fun x => do
    let v ← readAddr x a.ix
    relWait x rel
    enterFabric x
    let n := x.sl.accSize b.ix
    let acc ← farAcc x cl v n .wr none
    alignCheck v n
    let (w, p) ← readName x b.ix
    if p && acc.tgt.isHostT then fun _ => .error (.trap ⟨0x0A, 2, b.ix.toNat, BitVec.ofNat 64 (umod 64 v)⟩)
    modify (fun s => s.send (.write acc (storeBits n w) p))
    seqNext

/-- FENCE (R200). -/
def specFence (g : Guard) (sc : Scope) : OpSpec where
  g := g
  fields := []
  kinds := fun _ => true
  m := []
  d := none
  needs := [.fence sc]
  run := fun x => do
    let s ← get
    if s.unperformed x.t sc then replayOp false
    seqNext

/-! ### Atomics (R175, R176, R334, R335, R337) -/

/-- The scope at which an atomic acquires. -/
def AOrder.acq : AOrder → Option Scope
  | .plain => none
  | .acq s => some s
  | .rel _ => none
  | .ar s => some s
/-- The scope at which an atomic releases. -/
def AOrder.rel : AOrder → Option Scope
  | .plain => none
  | .acq _ => none
  | .rel s => some s
  | .ar s => some s

/-- A scalar float name of a kind, or `nil`. -/
def Slot.fltKind (x : Slot) (i : Ix) (k : FK) : Bool :=
  isNil i || (match x.kind i with
    | some (.flt l) => decide (k = l)
    | _ => false)

/-- The names that an atomic accepts (R175, R337). -/
def atomKinds (f : AtomF) (op : AtOp) (ty : AtTy) (x : Slot) : Bool :=
  x.isInt f.a.ix &&
  match ty with
  | .int _ => x.intNil f.b.ix && (if op = .cas then x.isInt f.d else !f.ret || x.intNil f.d)
  | .flt t => (isNil f.b.ix || x.isFlt f.b.ix) && (!f.ret || x.fltKind f.d (ftyFk t))

/-- An operand reduced to the type (R176). -/
def atomOperand (ty : AtTy) (rm : Rm) (v : Val) : Int :=
  match ty, v with
  | .int t, v => wrapTo (itySigned t) (ityBits t) v.toInt
  | .flt t, .flt k p => (k.convert (ftyFk t) rm false p).1
  | .flt _, .int _ => 0

/-- The kind in which an atomic takes part in its slot's order (R335): a plain one only per address, whatever its place. -/
def AOrder.kind (o : AOrder) (k : POrd) : POrd :=
  match o with
  | .plain => .uo
  | .acq _ => k
  | .rel _ => k
  | .ar _ => k

/-- The access of an atomic (R176). -/
def atomAcc (x : Ctx) (f : AtomF) (v : Int) (n : Nat) : OpM Acc := do
  let acc : Acc ← match f.space with
    | .ls => do
      let o ← lsCheck x v
      pure ⟨x.t, x.sl.epoch, .ls x.core o, n, true, .rc, AOrder.acq f.order, false⟩
    | .cl => farAcc x true v n .rw (AOrder.acq f.order)
    | .va => farAcc x false v n .rw (AOrder.acq f.order)
  pure { acc with ord := AOrder.kind f.order acc.ord }

/-- An atomic. -/
def atomSpec (g : Guard) (f : AtomF) (op : AtOp) (ty : AtTy) (rm : Rm) : OpSpec where
  g := g
  fields := if f.ret || decide (op = .cas) then [f.d, f.a.ix, f.b.ix] else [f.a.ix, f.b.ix]
  kinds := atomKinds f op ty
  m := [f.a, f.b]
  d := none
  run := fun x => do
    let v ← readAddr x f.a.ix
    relWait x (AOrder.rel f.order)
    if f.space ≠ .ls then enterFabric x
    let acc ← atomAcc x f v ty.bytes
    if acc.tgt.isHostT then trapAddr 9 0x15 (BitVec.ofNat 64 (umod 64 v))
    alignCheck v ty.bytes
    let (bv, pb) ← readName x f.b.ix
    let (cv, pc) ← if op = .cas then readName x f.d else pure (.int 0, false)
    let dst ← if f.ret then (do let d ← late x f.d; pure (some d)) else pure none
    let b := atomOperand ty rm bv
    let c := atomOperand ty rm cv
    match f.space with
    | .ls =>
      accessNow acc
      modify (fun s => s.doAtomic acc op ty rm b c (pb || pc) dst)
    | .va => modify (fun s => s.send (.atomic acc op ty rm b c (pb || pc) dst))
    | .cl => modify (fun s => s.send (.atomic acc op ty rm b c (pb || pc) dst))
    seqNext

/-- AADD. -/
def specAadd (g : Guard) (f : AtomF) (ty : ITy) : OpSpec := atomSpec g f .add (.int ty) .rne
/-- AAND. -/
def specAand (g : Guard) (f : AtomF) (ty : ITy) : OpSpec := atomSpec g f .and (.int ty) .rne
/-- ACAS (R337). -/
def specAcas (g : Guard) (f : AtomF) (ty : ITy) : OpSpec := atomSpec g f .cas (.int ty) .rne
/-- AFADD. -/
def specAfadd (g : Guard) (f : AtomF) (ty : FTy) (rm : Rm) : OpSpec := atomSpec g f .fadd (.flt ty) rm
/-- AFMAX. -/
def specAfmax (g : Guard) (f : AtomF) (ty : FTy) : OpSpec := atomSpec g f .fmax (.flt ty) .rne
/-- AFMIN. -/
def specAfmin (g : Guard) (f : AtomF) (ty : FTy) : OpSpec := atomSpec g f .fmin (.flt ty) .rne
/-- AMAX. -/
def specAmax (g : Guard) (f : AtomF) (ty : ITy) : OpSpec := atomSpec g f .max (.int ty) .rne
/-- AMIN. -/
def specAmin (g : Guard) (f : AtomF) (ty : ITy) : OpSpec := atomSpec g f .min (.int ty) .rne
/-- AOR. -/
def specAor (g : Guard) (f : AtomF) (ty : ITy) : OpSpec := atomSpec g f .or (.int ty) .rne
/-- ASWAP. -/
def specAswap (g : Guard) (f : AtomF) (ty : ITy) : OpSpec := atomSpec g f .swap (.int ty) .rne
/-- AXOR. -/
def specAxor (g : Guard) (f : AtomF) (ty : ITy) : OpSpec := atomSpec g f .xor (.int ty) .rne

/-! ### The meanings -/

/-- LDL. -/
def execLdl (g : Guard) (fe : LdFe) (d : Ix) (a : Opd) (s : State) : Host.Outcome State Fault Refusal :=
  issue (specLdl g fe d a) s
/-- STL. -/
def execStl (g : Guard) (f : Bool) (a : Opd) (b : Opd) (s : State) : Host.Outcome State Fault Refusal :=
  issue (specStl g f a b) s
/-- LDX. -/
def execLdx (g : Guard) (cl : Bool) (acq : Option Scope) (d : Ix) (a : Opd) (s : State) : Host.Outcome State Fault Refusal :=
  issue (specLdx g cl acq d a) s
/-- STX. -/
def execStx (g : Guard) (cl : Bool) (rel : Option Scope) (a : Opd) (b : Opd) (s : State) : Host.Outcome State Fault Refusal :=
  issue (specStx g cl rel a b) s
/-- FENCE. -/
def execFence (g : Guard) (sc : Scope) (s : State) : Host.Outcome State Fault Refusal :=
  issue (specFence g sc) s
/-- AADD. -/
def execAadd (g : Guard) (f : AtomF) (ty : ITy) (s : State) : Host.Outcome State Fault Refusal :=
  issue (specAadd g f ty) s
/-- AAND. -/
def execAand (g : Guard) (f : AtomF) (ty : ITy) (s : State) : Host.Outcome State Fault Refusal :=
  issue (specAand g f ty) s
/-- ACAS. -/
def execAcas (g : Guard) (f : AtomF) (ty : ITy) (s : State) : Host.Outcome State Fault Refusal :=
  issue (specAcas g f ty) s
/-- AFADD. -/
def execAfadd (g : Guard) (f : AtomF) (ty : FTy) (rm : Rm) (s : State) : Host.Outcome State Fault Refusal :=
  issue (specAfadd g f ty rm) s
/-- AFMAX. -/
def execAfmax (g : Guard) (f : AtomF) (ty : FTy) (s : State) : Host.Outcome State Fault Refusal :=
  issue (specAfmax g f ty) s
/-- AFMIN. -/
def execAfmin (g : Guard) (f : AtomF) (ty : FTy) (s : State) : Host.Outcome State Fault Refusal :=
  issue (specAfmin g f ty) s
/-- AMAX. -/
def execAmax (g : Guard) (f : AtomF) (ty : ITy) (s : State) : Host.Outcome State Fault Refusal :=
  issue (specAmax g f ty) s
/-- AMIN. -/
def execAmin (g : Guard) (f : AtomF) (ty : ITy) (s : State) : Host.Outcome State Fault Refusal :=
  issue (specAmin g f ty) s
/-- AOR. -/
def execAor (g : Guard) (f : AtomF) (ty : ITy) (s : State) : Host.Outcome State Fault Refusal :=
  issue (specAor g f ty) s
/-- ASWAP. -/
def execAswap (g : Guard) (f : AtomF) (ty : ITy) (s : State) : Host.Outcome State Fault Refusal :=
  issue (specAswap g f ty) s
/-- AXOR. -/
def execAxor (g : Guard) (f : AtomF) (ty : ITy) (s : State) : Host.Outcome State Fault Refusal :=
  issue (specAxor g f ty) s

end Sys2Proof.Machine
end

