-- ==== Sys2Proof/Machine/Engine.lean ====
section
/-! DEFINITION. Engine commands: acceptance at issue, waits, completion with status word and Signal, and the accesses that
an engine makes (spec/08_memory.md R179 to R184; spec/09_ordering.md R204 to R209). -/

namespace Sys2Proof.Machine

/-! ### Acceptance (R179 to R181) -/

/-- A queue name as the status name raises QUEUE subcode 3 (R77). -/
def noQueueD (x : Ctx) (d : Ix) : OpM Unit := if x.sl.isQ d then trapName 0x11 3 d else pure ()

/-- F ← 0 for every word of a range of a local store, a word that is partly covered included (R181). -/
def State.clearF (s : State) (core off n : Nat) : State :=
  if n = 0 then s
  else (List.range ((off + n - 1) / 8 - off / 8 + 1)).foldl (fun st k => st.setLsF core ((off / 8 + k) * 8) false) s

/-- An engine command enters the FIFO (R180, R181): a full FIFO parks it, or gives the busy code with `.try`. The slot's
earlier accesses are performed first (R204; log entry 21), but for those that are under way to another device, for which the
command waits. -/
def acceptCmd (x : Ctx) (d : Ix) (tr : Bool) (ws : Option Ws) (kind : CmdKind) (clear : State → State) : OpM Next := do
  let s ← get
  if 16 ≤ s.fifoUse x.core then
    if tr then writeInt x d 1 false else parkOn 7 0
  else
    set (s.drain x.t)
    let dst ← late x d
    modify (fun s =>
      let (id, s) := s.fresh
      let c : Cmd := {
        tid := x.t, ep := x.sl.epoch, launch := x.sl.launch, bears := x.sl.bears, part := x.part, smode := x.sl.smode
        kind := kind, ws := ws, dst := some dst, rgnseq := x.sl.rgnseq, prog := 0, aux := [], inFifo := false
        begun := false, since := s.cycle, stopping := false, ended := none }
      let s := { s with cmds := mset id c s.cmds }
      let s := s.modSlot x.t (fun y => { y with rcount := y.rcount + 1 })
      clear (s.count 0 x.core 5 x.sl.smode 1))
  seqNext

/-! ### Waits (R181, R182) -/

/-- The core of a command. -/
abbrev Cmd.core (c : Cmd) : Nat := coreOf c.tid
/-- The cluster of a command. -/
abbrev Cmd.clu (c : Cmd) : Nat := cluOf c.core

/-- The wait of a command holds (R182). -/
def State.waitHolds (s : State) (c : Cmd) : Bool :=
  match c.ws with
  | none => true
  | some w => decide (w.wthr.toNat ≤ s.sem c.core w.wsem.toNat)

/-- Engines by number: commands of one engine whose waits hold start in issue order (R181). -/
def CmdKind.engine : CmdKind → Nat
  | .copy _ _ _ _ => 0
  | .gather _ _ _ => 1
  | .scatter _ _ _ => 1
  | .scatadd _ _ _ => 1
  | .bankop _ _ => 2
  | .dtload _ => 3
  | .launch _ _ => 4
  | .mma _ _ _ _ _ => 5
  | .mmap _ _ => 5
  | .mdrain _ _ => 5
  | .mclr _ => 5
  | .xreduce _ _ => 6
  | .xgather _ _ => 6
  | .xbcast _ _ => 6
  | .xlog _ _ => 7

/-- Two commands that start in issue order: of one engine and one core, or for the Plectrum of one front end, which serves
the clusters k, k + 16, … of a quarter (R181, R213). -/
def Cmd.sameUnit (c d : Cmd) : Bool :=
  decide (c.kind.engine = d.kind.engine) &&
  (decide (c.core = d.core) ||
   (decide (c.kind.engine = 1) && decide (qtrOf c.core = qtrOf d.core ∧ c.clu % 16 = d.clu % 16)))

/-- A front end has room for a command: fewer than 32 earlier ones are unfinished (R213). -/
def State.taken (s : State) (id : Nat) (c : Cmd) : Bool :=
  decide (c.kind.engine ≠ 1) || decide ((s.cmds.filter (fun e => decide (e.1 < id) && e.2.sameUnit c)).length < 32)

/-- Every access that the issuer made before a command is performed (R204). -/
def State.forked (s : State) (id : Nat) (c : Cmd) : Bool :=
  !s.inflight.any (fun e => decide (e.1 < id) && match e.2.acc with
    | some a => decide (a.tid = c.tid)
    | none => false)

/-- The current limiter of a command's quarter inserts the present rotation (R307). -/
def State.skips (s : State) (c : Cmd) : Bool := (s.qtr (qtrOf c.core)).inserts (s.cycle / 16)

/-- The engine of a command holds its progress in a rotation that the current limiter inserts (R307): matrix engines, Plectrum
front ends, and Pegboxes at a DTLOAD. -/
def State.held (s : State) (c : Cmd) : Bool :=
  s.skips c && decide (c.kind.engine = 5 ∨ c.kind.engine = 1 ∨ c.kind.engine = 3)

/-- The requests to peers that a command has made are known by the ticket of its status word. -/
def Cmd.key (c : Cmd) : Nat :=
  match c.dst with
  | some d => d.tk
  | none => 0

/-- A command waits for the answer of a peer. -/
def State.asking (s : State) (c : Cmd) : Bool := s.asked.any (fun a => decide (a.id = c.key) && a.ans.isNone)

/-- A command may go on: it has begun, or its wait holds and no earlier command waits to begin on its engine; a matrix
command stands at the head of its cluster FIFO (R140). -/
def State.canRun (s : State) (id : Nat) (c : Cmd) : Bool :=
  if !s.forked id c || s.held c || s.asking c then false
  else if c.kind.engine = 5 then decide ((s.clu c.clu).mfifo.head? = some id) && (c.begun || s.waitHolds c)
  else c.begun || (s.waitHolds c && s.taken id c && s.cmds.all (fun e =>
    decide (id ≤ e.1) || !e.2.sameUnit c || e.2.begun || !s.waitHolds e.2))

/-- Change a command. -/
def State.setCmd (s : State) (id : Nat) (c : Cmd) : State := { s with cmds := mset id c s.cmds }

/-! ### Completion (R183, R184) -/

/-- The status word (R183). -/
def statusWord (code sub detail : Nat) : Nat := code % 2 ^ 16 + detail % 2 ^ 32 * 2 ^ 16 + sub % 2 ^ 16 * 2 ^ 48

/-- A command leaves its cluster FIFO. -/
def State.leaveFifo (s : State) (id : Nat) (c : Cmd) : State :=
  let k := s.clu c.clu
  s.setClu c.clu { k with mfifo := k.mfifo.filter (fun i => decide (i ≠ id)) }

/-- The status word of a command that has ended lands, RCOUNT falls, and its one Signal follows (R184, R275). -/
def State.landCmd (s : State) (id : Nat) (c : Cmd) (code sub detail : Nat) : State :=
  let s := { s with cmds := mdel id s.cmds }
  let s := match c.dst with
    | none => s
    | some d => s.landName d (.int (statusWord code sub detail)) false 0
  let x := s.slot c.tid
  let s := if x.epoch = c.ep ∧ x.rgnseq = c.rgnseq then s.setSlot c.tid { x with rcount := x.rcount - 1 } else s
  match c.ws with
  | none => s
  | some w => if w.sinc.toNat = 0 then s else s.signal c.core w.ssem.toNat w.sinc.toNat

/-- A command ends: its writes are made. While its core's register store is being repacked, its status word is held (R59), and
of its progress nothing is kept. -/
def State.endCmd (s : State) (id : Nat) (c : Cmd) (code sub detail : Nat) : State :=
  let s := (s.leaveFifo id c).unask c.key
  if s.repacking c.core then s.setCmd id { c with prog := 0, aux := [], ended := some (code, sub, detail) }
  else s.landCmd id c code sub detail

/-! ### Accesses of an engine -/

/-- A fault of an engine: the code and subcode of its status word. -/
abbrev EFault := Nat × Nat

/-- Why an engine's unit of work does not come to its end: a fault; or an access to a peer's memory, of which the peer has
still to be asked or has still to answer. The state tells which walks were made. -/
inductive EStop where
  | fault (e : EFault) (s : State)
  | wait (dev : Nat) (req : List (Word × Bool)) (s : State)
  deriving DecidableEq, Repr

/-- An engine's work on the state. -/
abbrev EngM := StateT State (Except EStop)

/-- A fault. -/
def efail {α : Type} (code sub : Nat) : EngM α := fun s => .error (.fault (code, sub) s)

/-- The status code of a cause (R183). -/
def codeOf (cause : Nat) : Nat := if cause = 9 then 0x0102 else if cause = 0x0A then 0x0103 else if cause = 7 then 0x0104 else 0x0101

/-- Translate for an engine: its walks are waited for. -/
def engXlate (c : Cmd) (va : Nat) (k : AKind) : EngM (Nat × Leaf) := fun s =>
  match s.xlateNow c.clu c.part c.smode (va % 2 ^ 64) k with
  | (.ok pa l, s) => .ok ((pa, l), s)
  | (.fault q sc, s) => .error (.fault (codeOf q, sc) s)
  | (.miss, s) => .error (.fault (0x0101, 7) s)

/-- The answer of a peer to a request of a command. -/
def engAsk (c : Cmd) (dev : Nat) (req : List (Word × Bool)) : EngM (List (Word × Bool)) := fun s =>
  match s.asked.findSome? (fun a => if a.id = c.key ∧ a.dev = dev ∧ a.req = req then a.ans else none) with
  | some ws => .ok (ws, s)
  | none => .error (.wait dev req s)

/-- A place that an engine reads or writes: a VA, or a local store. -/
inductive EPl where
  | va (a : Nat)
  | ls (core off : Nat)
  deriving DecidableEq, Repr

/-- Read a piece of memory: from its bank or the host, or from a peer (R188, R294). -/
def engPiece (c : Cmd) (pa n : Nat) : EngM PBytes :=
  if isPeer pa then do
    let ws ← engAsk c (peerDev pa) (askWords 17 n c.tid pa false [])
    let s ← get
    let (w, s) := s.answered ws
    set s
    pure ((toBytes n w.1.toNat).map (fun b => (b, w.2)))
  else do
    let s ← get
    pure (s.piece (.mem pa) n)

/-- Read a range of a place whose pages are translated for an access of a kind. -/
def engReadK (c : Cmd) (p : EPl) (n : Nat) (k : AKind) : EngM PBytes :=
  match p with
  | .ls core off => do
    let s ← get
    pure ((wordsOf off n).flatMap (fun q => s.piece (.ls core q.1) q.2))
  | .va a => (wordsOf a n).foldlM (fun acc q => do
    let (pa, _) ← engXlate c q.1 k
    let bs ← engPiece c pa q.2
    pure (acc ++ bs)) []

/-- Read a range of a place. -/
def engRead (c : Cmd) (p : EPl) (n : Nat) : EngM PBytes := engReadK c p n .rd

/-- The first bytes of the pages of a range of VAs, and its own first byte. -/
def pagesOf (a n : Nat) : List Nat :=
  if n = 0 then [] else
    a :: ((List.range ((a + n - 1) / 65536 - a / 65536)).map (fun k => (a / 65536 + k + 1) * 65536))

/-- Check every page of a range for an access (R354). -/
def engCheck (c : Cmd) (p : EPl) (n : Nat) (k : AKind) : EngM Unit :=
  match p with
  | .ls _ _ => pure ()
  | .va a => (pagesOf a n).forM (fun v => do
    let _ ← engXlate c v k)

/-- Write bytes to a local store, word by word: P as R162 has it, F ← 1. -/
def State.lsBytes (s : State) (core off : Nat) (bs : PBytes) : State :=
  (byWords off bs).foldl (fun st q => (st.lsWrite core q.1.1 q.1.2 q.2.1 q.2.2).setLsF core q.1.1 true) s

/-- An operation on bytes of one line at its owner, as one indivisible operation (R178, R223): at its bank, or by one request
to the peer (log entry 15). -/
def engLine (c : Cmd) (pa : Nat) (trace : Bool) (op : LineOp) (ss : PBytes) : EngM Unit := do
  if isPeer pa then
    let (kind, fields, hd) := op.head ss.length
    let _ ← engAsk c (peerDev pa) (askWords kind fields c.tid pa trace (hd ++ (byWords (peerPa pa) ss).map (fun q =>
      (BitVec.ofNat 64 q.2.1, q.2.2))))
  modify (fun s => s.lineOp op pa ss (fun st a => if trace then st.traceWrite c.part 1 st.devNum c.tid a else st))

/-- Write a range of a place, word by word; in a local store each word becomes full. -/
def engWrite (c : Cmd) (p : EPl) (bs : PBytes) : EngM Unit :=
  match p with
  | .ls core off => modify (fun s => s.lsBytes core off bs)
  | .va a => (wordsOf a bs.length).forM (fun q => do
    let (pa, l) ← engXlate c q.1 .wr
    engLine c pa l.trace .put ((bs.drop (q.1 - a)).take q.2))

/-- A command asks a peer, unless it has asked or no port leads there. -/
def State.askFor (s : State) (c : Cmd) (dev : Nat) (req : List (Word × Bool)) : State :=
  if s.asking c || !s.reaches dev then s else s.ask c.key dev req

/-- Run a unit of an engine's work from a state. A fault leaves the state as it was, but for the walks made and their counts;
so does a unit that waits for a peer, which is done again once the peer has answered. -/
def runUnit {α β : Type} (c : Cmd) (m : EngM α) (s : State) (ok : α → State → β) (bad : EFault → State → β)
    (wait : State → β) : β :=
  match m.run s with
  | .ok (a, s') => ok a (s'.unask c.key)
  | .error (.fault e t) => bad e ({ s with clus := t.clus }.unask c.key)
  | .error (.wait dev req t) => wait ({ s with clus := t.clus }.askFor c dev req)

/-- Run a unit of work that makes a state. -/
def runEng {α : Type} (c : Cmd) (m : EngM α) (s : State) (ok : α → State → State) (bad : EFault → State → State) : State :=
  runUnit c m s ok bad id

/-- Zero bytes. -/
def zeros (n : Nat) : PBytes := List.replicate n (0, false)

/-- Words of a request in a local store, with the OR of their poison. -/
def State.reqWords (s : State) (core off n : Nat) : List Word × Bool :=
  let ws := s.lsWords core off n
  (ws.map (·.1), ws.any (·.2))

/-- The event of a command: nothing unless it may run; one that has ended lands its status word once a repack has ended. -/
def State.cmdEvent (s : State) (id : Nat) (f : Cmd → State → State) : State :=
  match mfind id s.cmds with
  | none => s
  | some c =>
    match c.ended with
    | some (code, sub, d) => if s.repacking c.core then s else s.landCmd id c code sub d
    | none => if s.canRun id c then f { c with begun := true } s else s

/-- How a command stands after one unit of its work: it goes on, or it ends with CODE, SUB and DETAIL. -/
inductive EStep where
  | more (c : Cmd)
  | done (code sub detail : Nat)
  deriving DecidableEq, Repr

/-- Run a unit of work of a command that takes several. -/
def stepEng {α : Type} (c : Cmd) (m : EngM α) (s : State) (ok : α → State → EStep × State)
    (bad : EFault → State → EStep × State) : EStep × State :=
  runUnit c m s ok bad (fun s => (.more c, s))

/-- An engine does up to so many units of a command; it stops at one that waits for a peer. A command that is being cancelled
ends, with status 0x0002, after the unit with which it comes to a boundary: there `stop` gives its DETAIL (R282). -/
def engLoop (f : Cmd → State → EStep × State) (stop : Cmd → State → Option (Nat × State)) (id : Nat) : Nat → Cmd → State → State
  | 0, c, s => s.setCmd id c
  | n + 1, c, s =>
    match f c s with
    | (.more c, s) =>
      if s.asking c then s.setCmd id c
      else match (if c.stopping then stop c s else none) with
        | some (d, s) => s.endCmd id c 2 0 d
        | none => engLoop f stop id n c s
    | (.done code sub d, s) => s.endCmd id c code sub d

/-- DETAIL of an offset, capped. -/
def cap32 (n : Nat) : Nat := min n (2 ^ 32 - 1)

end Sys2Proof.Machine
end

