-- ==== Sys2Proof/Machine/Sfu.lean ====
section
/-! DEFINITION. The special-function unit (spec/06_numbers.md R125; spec/18_ref_f_l.md R368, R369, R441): the special
cases of each function, and off them a free choice among the f32 values within 2 units in the last place of the exact
result. The exact result is approximated in fixed point with 320 fraction bits, and the bound is judged on that
approximation (log entry 40). -/

namespace Sys2Proof.Machine

/-- Fraction bits of the fixed-point numbers here. -/
abbrev fxBits : Nat := 320
/-- One in fixed point. -/
abbrev fxOne : Int := 2 ^ fxBits
/-- A product in fixed point. -/
def fxMul (a b : Int) : Int := a * b / fxOne

/-- The terms of the exponential series from the k-th on. -/
def expTerms (x : Int) : Nat → Int → Int → Int → Int
  | 0, _, _, acc => acc
  | n + 1, k, t, acc => expTerms x n (k + 1) (fxMul t x / k) (acc + t)

/-- e^x for a small x in fixed point. -/
def fxExp (x : Int) : Int := expTerms x 100 1 fxOne 0

/-- The series of odd powers t^(2k+1) / (2k+1), its signs alternating when `sg` is −1. -/
def oddTerms (sg t2 : Int) : Nat → Int → Int → Int → Int
  | 0, _, _, acc => acc
  | n + 1, k, p, acc => oddTerms sg t2 n (k + 2) (sg * fxMul p t2) (acc + p / k)

/-- artanh of a t of at most 1/3. -/
def fxAtanh (t : Int) : Int := oddTerms 1 (fxMul t t) 110 1 t 0
/-- arctan of a t of at most 1/5. -/
def fxAtan (t : Int) : Int := oddTerms (-1) (fxMul t t) 80 1 t 0
/-- ln 2. -/
def fxLn2 : Int := 2 * fxAtanh (fxOne / 3)
/-- π, by Machin's formula. -/
def fxPi : Int := 16 * fxAtan (fxOne / 5) - 4 * fxAtan (fxOne / 239)

/-- The alternating series of sine or cosine from the k-th term on. -/
def sinTerms (x2 : Int) : Nat → Int → Int → Int → Int
  | 0, _, _, acc => acc
  | n + 1, k, t, acc => sinTerms x2 n (k + 2) (-(fxMul t x2 / (k * (k + 1)))) (acc + t)

/-- A dyadic number in fixed point. -/
def fxOf (neg : Bool) (m : Nat) (e : Int) : Int :=
  let v : Int := if 0 ≤ e + fxBits then m * 2 ^ (e + fxBits).toNat else m / 2 ^ (-(e + fxBits)).toNat
  if neg then -v else v

/-- A fixed-point number as a value. -/
def FV.ofFx (v : Int) : FV := .fin (decide (v < 0)) v.natAbs (-(fxBits : Int))

/-- 2^x for an x in fixed point. -/
def fxExp2 (x : Int) : FV :=
  let k := x / fxOne
  .fin false (fxExp (fxMul (x - k * fxOne) fxLn2)).toNat (k - fxBits)

/-- e^(−x) for an x from 0 to 400 in fixed point. -/
def fxExpNeg (x : Int) : Int :=
  match fxExp2 (-(x * fxOne / fxLn2)) with
  | .fin _ m e => fxOf false m e
  | .nan _ => 0
  | .inf _ => 0

/-- The distance of x from its nearest multiple of 2π. -/
def fxReduce (x : Int) : Int :=
  let p := 2 * fxPi
  x - ((2 * x + p) / (2 * p)) * p

/-- A value just below one. -/
def almostOne (neg : Bool) : FV := .fin neg (2 ^ 200 - 1) (-200)

/-- The exact result of a function at a finite, nonzero source that is no special case, to within its approximation. -/
def sfuExact (fn : SfuFn) (neg : Bool) (m : Nat) (e : Int) : FV :=
  let x := fxOf neg m e
  let ax := fxOf false m e
  match fn with
  | .exp2 => if ax < 512 * fxOne then fxExp2 x else if neg then .fin false 1 (-512) else .fin false 1 512
  | .log2 =>
    let l := Nat.log2 m
    let f := fxOf false m (-(l : Int))
    FV.ofFx ((e + l) * fxOne + 2 * fxAtanh ((f - fxOne) * fxOne / (f + fxOne)) * fxOne / fxLn2)
  | .rcp => .fin neg (2 ^ 400 / m) (-400 - e)
  | .rsq =>
    let m2 := if e % 2 = 0 then m else 2 * m
    let e2 := if e % 2 = 0 then e else e - 1
    let q := 2 ^ 400 / m2
    .fin false (isqrt q (Nat.log2 q / 2 + 1) 0) (-200 - e2 / 2)
  | .sin => let r := fxReduce x; FV.ofFx (sinTerms (fxMul r r) 60 2 r 0)
  | .cos => let r := fxReduce x; FV.ofFx (sinTerms (fxMul r r) 60 1 fxOne 0)
  | .tanh =>
    if 100 * fxOne < ax then almostOne neg
    else
      let d := fxExpNeg (2 * ax)
      let v := (fxOne - d) * fxOne / (fxOne + d)
      FV.ofFx (if neg then -v else v)
  | .sigmoid =>
    if 200 * fxOne < ax then (if neg then .fin false 1 (-300) else almostOne false)
    else
      let d := fxExpNeg ax
      FV.ofFx ((if neg then d else fxOne) * fxOne / (fxOne + d))

/-- The function's code (R368). -/
def SfuFn.code : SfuFn → Nat
  | .exp2 => 0 | .log2 => 1 | .rcp => 2 | .rsq => 3 | .sin => 4 | .cos => 5 | .tanh => 6 | .sigmoid => 7

/-- A magnitude pattern of f32, with that of infinity standing for 2^128, lies within 2 units in the last place of
m × 2^e (R125). -/
def within2 (pat : Int) (m : Nat) (e : Int) : Bool :=
  decide (0 ≤ pat ∧ pat ≤ 0x7F800000) &&
  match (if pat = 0x7F800000 then FV.fin false 1 128 else FK.f32.decode pat.toNat) with
  | .fin _ n f =>
    let u : Int := max ((Nat.log2 m : Int) + e) (-126) - 23
    let e0 := min e (min f (u + 1))
    decide ((scaled false n f e0 - scaled false m e e0).natAbs ≤ (scaled false 1 (u + 1) e0).toNat)
  | .nan _ => false
  | .inf _ => false

/-- Deliver an f32 value within the bound: the free choice, or the nearest value where that lies outside it. -/
def sfuDeliver (fn : SfuFn) (src : BitVec 32) (rm : Rm) (sat : Bool) (v : FV) : Nat × BitVec 5 :=
  match v with
  | .fin neg m e =>
    let near := (FK.f32.roundFin .rne false false m e).1
    let c : Int := near + (Config.sfuPick (SfuFn.code fn) src % 9 : Nat) - 4
    let pat := if within2 c m e then c.toNat else near
    if 0x7F800000 ≤ near ∨ 0x7F800000 ≤ pat then (FK.f32.overflow rm sat neg, fOF ||| fNX)
    else (FK.f32.signed neg pat, fNX ||| (if pat < 0x00800000 then fUF else 0))
  | .nan _ => (FK.f32.cnan, 0)
  | .inf n => (FK.f32.signed n FK.f32.infPat, 0)

/-- A power of two. -/
def isPow2 (m : Nat) : Bool := decide (m = 2 ^ Nat.log2 m)

/-- The value of a function at a source pattern of f32: the f32 pattern, the flags, and whether it is the infinity of a
division by zero (R369, R441). -/
def sfuValue (fn : SfuFn) (rm : Rm) (sat : Bool) (src : Nat) : Nat × BitVec 5 × Bool :=
  let k := FK.f32
  let bits := BitVec.ofNat 32 src
  let plain := fun (r : Nat × BitVec 5) => (r.1, r.2, false)
  let one := 0x3F800000
  match k.decode src with
  | .nan s => (k.cnan, if s then fNV else 0, false)
  | .inf n =>
    match fn with
    | .exp2 => (if n then 0 else k.infPat, 0, false)
    | .log2 => if n then (k.cnan, fNV, false) else (k.infPat, 0, false)
    | .rcp => (k.signed n 0, 0, false)
    | .rsq => if n then (k.cnan, fNV, false) else (0, 0, false)
    | .sin => (k.cnan, fNV, false)
    | .cos => (k.cnan, fNV, false)
    | .tanh => (k.signed n one, 0, false)
    | .sigmoid => (if n then 0 else one, 0, false)
  | .fin n m e =>
    if m = 0 then
      match fn with
      | .exp2 => (one, 0, false)
      | .log2 => (k.signed true k.infPat, fDZ, true)
      | .rcp => (k.signed n k.infPat, fDZ, true)
      | .rsq => (k.signed n k.infPat, fDZ, true)
      | .sin => (k.signed n 0, 0, false)
      | .cos => (one, 0, false)
      | .tanh => (k.signed n 0, 0, false)
      | .sigmoid => (0x3F000000, 0, false)
    else
      let free := plain (sfuDeliver fn bits rm sat (sfuExact fn n m e))
      let lg : Int := Nat.log2 m + e
      match fn with
      | .exp2 =>
        let int := decide (0 ≤ e) || decide (m % 2 ^ (-e).toNat = 0)
        let v : Int := fxOf n m e / fxOne
        if int && decide (-149 ≤ v ∧ v ≤ 127) then plain (k.roundFin .rne false false 1 v)
        else if 128 ≤ v ∨ v < -149 then
          match sfuExact fn n m e with
          | .fin _ m' e' =>
            if int then plain (k.roundFin rm sat false m' e')
            else plain (k.roundFin rm sat false (2 * m' + 1) (e' - 1))
          | .nan _ => free
          | .inf _ => free
        else free
      | .log2 =>
        if n then (k.cnan, fNV, false)
        else if isPow2 m then plain (k.ofInt .rne false lg)
        else free
      | .rcp => if isPow2 m then plain (k.roundFin rm sat n 1 (-lg)) else free
      | .rsq =>
        if n then (k.cnan, fNV, false)
        else if isPow2 m && decide (lg % 2 = 0) then plain (k.roundFin .rne false false 1 (-(lg / 2)))
        else free
      | .sin => if decide (20 < lg) || (decide (lg = 20) && !isPow2 m) then (sfuFar bits fn, fNX, false) else free
      | .cos => if decide (20 < lg) || (decide (lg = 20) && !isPow2 m) then (sfuFar bits fn, fNX, false) else free
      | .tanh => free
      | .sigmoid => free
where
  /-- A free value in [−1, 1] (R369). -/
  sfuFar (src : BitVec 32) (fn : SfuFn) : Nat :=
    let p := Config.sfuPick (SfuFn.code fn) src
    FK.f32.signed (decide (p % 2 = 1)) (p / 2 % 0x3F800001)

/-- A source pattern of a kind of at most 32 bits as one of f32; a signalling NaN stays one. -/
def toF32 (k : FK) (pat : Nat) : Nat :=
  match k.decode pat with
  | .nan true => 0x7F800001
  | .nan false => FK.f32.cnan
  | .inf n => FK.f32.signed n FK.f32.infPat
  | .fin _ _ _ => (k.convert .f32 .rne false pat).1

/-- The unit's result in a destination kind (R368): pattern and flags. -/
def sfuResult (fn : SfuFn) (rm : Rm) (sat : Bool) (dst : FK) (src : Nat) : Nat × BitVec 5 :=
  let (v, fl, dz) := sfuValue fn rm sat src
  let (r, g) := dst.round rm sat dz (FK.f32.decode v)
  (r, fl ||| g)

end Sys2Proof.Machine
end

