-- ==== Sys2Proof/Machine/Float.lean ====
section
/-! DEFINITION. The float ops of opcode group 3 (spec/06_numbers.md R112 to R125; spec/17_ref_c_e.md R357;
spec/18_ref_f_l.md R363 to R370). -/

namespace Sys2Proof.Machine

/-! ### Shared parts -/

/-- The FPE mask of the slot's partition (R121). -/
def Ctx.fpeMask (x : Ctx) : BitVec 5 :=
  match x.s0.cfgOf x.core with
  | some g => g.fpe
  | none => 0

/-- Raise flags: an enabled one traps with FPE, else FFLAGS gathers them (R120, R121). -/
def floatFlags (x : Ctx) (fl : BitVec 5) : OpM Unit := do
  if fl &&& x.fpeMask ≠ 0 then trap 0x0D (fl &&& x.fpeMask).toNat
  raiseFlags x fl

/-- A scalar float name's kind. -/
def Slot.fk (x : Slot) (i : Ix) : Option FK :=
  match x.kind i with
  | some (.flt k) => some k
  | _ => none

/-- Read a float name as its exact value. -/
def readFV (x : Ctx) (i : Ix) : OpM (FV × Bool) := do
  let (v, p) ← readName x i
  match v with
  | .flt k n => pure (k.decode n, p)
  | .int n => pure (FV.ofInt n, p)

/-- Flags that the spec leaves open because no destination gives the rounding a kind (log entry 42): a free value among
`mask`. -/
def freeFlags (mask : BitVec 5) : OpM (BitVec 5) := do
  let (w, s) := (← get).freeVal
  set s
  pure (w.setWidth 5 &&& mask)

/-- Round an exact result to its destination and write it (R364): a queue D takes the kind of A, and for `nil` only the
flags of forming the result are known. -/
def roundTo (x : Ctx) (d a : Ix) (rm : Rm) (sat : Bool) (r : FRes) (p : Bool) : OpM Next := do
  if isNil d then
    let f ← match r.v with
      | .fin _ m _ => if m = 0 then pure 0 else freeFlags (fOF ||| fUF ||| fNX)
      | .nan _ => pure 0
      | .inf _ => pure 0
    floatFlags x (r.fl ||| f)
  else
    let k := ((x.sl.fk d).orElse (fun _ => x.sl.fk a)).getD .f32
    let (v, fl) := r.round k rm sat
    floatFlags x fl
    writePat x d v p
  seqNext

/-- A scalar float name, `nil` or a queue name. -/
def Slot.fltDst (x : Slot) (d : Ix) : Bool := isNil d || x.isFlt d || x.isQ d

/-- An op on two float sources (R363, R364). -/
def fbinSpec (g : Guard) (rm : Rm) (sat : Bool) (d a b : Opd) (f : FV → FV → FRes) : OpSpec where
  g := g
  fields := [d.ix, a.ix, b.ix]
  kinds := fun x => x.fltDst d.ix && x.isFlt a.ix && x.isFlt b.ix
  m := [a, b]
  d := some d
  run := fun x => do
    let (v, p) ← readFV x a.ix
    let (w, q) ← readFV x b.ix
    roundTo x d.ix a.ix rm sat (f v w) (p || q)

/-! ### The specifications -/

/-- FADD. -/
def specFadd (g : Guard) (rm : Rm) (sat : Bool) (d a b : Opd) : OpSpec := fbinSpec g rm sat d a b (fAdd rm)
/-- FSUB. -/
def specFsub (g : Guard) (rm : Rm) (sat : Bool) (d a b : Opd) : OpSpec := fbinSpec g rm sat d a b (fSub rm)
/-- FMUL. -/
def specFmul (g : Guard) (rm : Rm) (sat : Bool) (d a b : Opd) : OpSpec := fbinSpec g rm sat d a b fMul
/-- FDIV. -/
def specFdiv (g : Guard) (rm : Rm) (sat : Bool) (d a b : Opd) : OpSpec := fbinSpec g rm sat d a b fDiv

/-- FFMA (R363 to R365). -/
def specFfma (g : Guard) (rm : Rm) (sat : Bool) (d a b : Opd) (c : Ix) : OpSpec where
  g := g
  fields := [d.ix, a.ix, b.ix, c]
  kinds := fun x => x.fltDst d.ix && x.isFlt a.ix && x.isFlt b.ix && x.isFlt c
  m := [a, b]
  d := some d
  needs := [.pop a.ix, .pop b.ix, .pop c, .push d.ix]
  run := fun x => do
    let (v, p) ← readFV x a.ix
    let (w, q) ← readFV x b.ix
    let (u, r) ← readFV x c
    roundTo x d.ix a.ix rm sat (fFma rm v w u) (p || q || r)

/-- FSQRT. -/
def specFsqrt (g : Guard) (rm : Rm) (sat : Bool) (d a : Opd) : OpSpec where
  g := g
  fields := [d.ix, a.ix]
  kinds := fun x => x.fltDst d.ix && x.isFlt a.ix
  m := [a]
  d := some d
  run := fun x => do
    let (v, p) ← readFV x a.ix
    roundTo x d.ix a.ix rm sat (fSqrt v) p

/-- The kinds that FMAX and FMIN accept (R367). -/
def minMaxKinds (d a b : Ix) (x : Slot) : Bool :=
  match x.fk a, x.fk b with
  | some k, some l =>
    isNil d || (x.isQ d && k.holds l) || (match x.fk d with
      | some m => m.holds k && m.holds l
      | none => false)
  | _, _ => false

/-- FMAX and FMIN (R367): the result is never rounded. -/
def minMaxSpec (g : Guard) (mx : Bool) (d a b : Opd) : OpSpec where
  g := g
  fields := [d.ix, a.ix, b.ix]
  kinds := minMaxKinds d.ix a.ix b.ix
  m := [a, b]
  d := some d
  run := fun x => do
    let (v, p) ← readFV x a.ix
    let (w, q) ← readFV x b.ix
    let (r, fl) := fMinMax mx v w
    floatFlags x fl
    let k := ((x.sl.fk d.ix).orElse (fun _ => x.sl.fk a.ix)).getD .f32
    let r := match r with
      | .nan _ => k.cnan
      | .inf n => k.signed n k.infPat
      | .fin n m e => (k.roundFin .rne false n m e).1
    writePat x d.ix r (p || q)
    seqNext

/-- FMIN. -/
def specFmin (g : Guard) (d a b : Opd) : OpSpec := minMaxSpec g false d a b
/-- FMAX. -/
def specFmax (g : Guard) (d a b : Opd) : OpSpec := minMaxSpec g true d a b

/-- FCMP (R366). -/
def specFcmp (g : Guard) (cc : FCc) (d a b : Opd) : OpSpec where
  g := g
  fields := [d.ix, a.ix, b.ix]
  kinds := fun x => x.intOk d.ix && x.isFlt a.ix && x.isFlt b.ix
  m := [a, b]
  d := some d
  run := fun x => do
    let (v, p) ← readFV x a.ix
    let (w, q) ← readFV x b.ix
    let (r, fl) := fCompare cc v w
    floatFlags x fl
    writeInt x d.ix (b2n r) (p || q)
    seqNext

/-- The sign bit of a pattern of a kind. -/
def FK.signOf (k : FK) (n : Nat) : Bool := decide (k.signBit ≤ n % 2 ^ k.width)

/-- FSGN (R370). -/
def specFsgn (g : Guard) (op : SgnOp) (d a b : Opd) : OpSpec where
  g := g
  fields := if op = .abs then [d.ix, a.ix] else [d.ix, a.ix, b.ix]
  kinds := fun x => x.isFlt a.ix && (isNil d.ix || sameFlt x d.ix a.ix) && (decide (op = .abs) || x.isFlt b.ix)
  m := [a, b]
  d := some d
  run := fun x => do
    let (v, p) ← readPat x a.ix
    let (w, q) ← readPat x b.ix
    let k := (x.sl.fk a.ix).getD .f32
    let l := (x.sl.fk b.ix).getD .f32
    let s := match op with
      | .cpy => l.signOf w
      | .neg => !l.signOf w
      | .xor => k.signOf v != l.signOf w
      | .abs => false
    writePat x d.ix (k.signed s (v % k.signBit)) (p || q)
    seqNext

/-- The kinds that CVT accepts (R357): at least one of the kinds is a float kind. -/
def cvtKinds (sat : Bool) (d a : Ix) (x : Slot) : Bool :=
  x.scalarOk a && !x.isQ d && !x.isVec d && !(x.isInt d && (x.intOk a || sat))

/-- Flags of a float converted to an integer for `nil`, which no range bounds (R123, R357; log entry 42). -/
def nilIntFlags (rm : Rm) : FV → BitVec 5
  | .nan _ => fNV
  | .inf _ => fNV
  | .fin n m e => if (roundInt rm n m e).2 then fNX else 0

/-- CVT (R357). -/
def specCvt (g : Guard) (rm : Rm) (sat : Bool) (d a : Opd) : OpSpec where
  g := g
  fields := [d.ix, a.ix]
  kinds := cvtKinds sat d.ix a.ix
  m := [a]
  d := some d
  run := fun x => do
    let (v, p) ← readName x a.ix
    match x.sl.kind d.ix with
    | some (.flt k) =>
      let (r, fl) := match v with
        | .flt l n => l.convert k rm sat n
        | .int n => k.ofInt rm sat n
      floatFlags x fl
      writePat x d.ix r p
    | some (.int sg w m) =>
      match v with
      | .flt l n =>
        match floatToInt rm sg w m (l.decode n) with
        | none => trapName 3 1 d.ix
        | some (r, fl) =>
          floatFlags x fl
          writeInt x d.ix r p
      | .int n => writeInt x d.ix n p
    | _ =>
      match v with
      | .flt l n => floatFlags x (nilIntFlags rm (l.decode n))
      | .int _ => pure ()
    seqNext

/-- A scalar float name that the special-function unit accepts (R368). -/
def Slot.sfuSrc (x : Slot) (i : Ix) : Bool :=
  match x.fk i with
  | some .a56 => false
  | some _ => true
  | none => false

/-- FSFU (R368): the result lands later. -/
def specFsfu (g : Guard) (fn : SfuFn) (rm : Rm) (sat : Bool) (d a : Opd) : OpSpec where
  g := g
  fields := [d.ix, a.ix]
  kinds := fun x => x.fltDst d.ix && x.sfuSrc a.ix
  m := [a]
  d := some d
  run := fun x => do
    let dst ← late x d.ix
    let (v, p) ← readPat x a.ix
    modify (fun s => s.send (.sfu dst fn rm sat [some (toF32 ((x.sl.fk a.ix).getD .f32) v)] 0 p))
    seqNext

/-! ### The meanings -/

/-- FADD. -/
def execFadd (g : Guard) (rm : Rm) (sat : Bool) (d : Opd) (a : Opd) (b : Opd) (s : State) : Host.Outcome State Fault Refusal :=
  issue (specFadd g rm sat d a b) s
/-- FSUB. -/
def execFsub (g : Guard) (rm : Rm) (sat : Bool) (d : Opd) (a : Opd) (b : Opd) (s : State) : Host.Outcome State Fault Refusal :=
  issue (specFsub g rm sat d a b) s
/-- FMUL. -/
def execFmul (g : Guard) (rm : Rm) (sat : Bool) (d : Opd) (a : Opd) (b : Opd) (s : State) : Host.Outcome State Fault Refusal :=
  issue (specFmul g rm sat d a b) s
/-- FFMA. -/
def execFfma (g : Guard) (rm : Rm) (sat : Bool) (d : Opd) (a : Opd) (b : Opd) (c : Ix) (s : State) : Host.Outcome State Fault Refusal :=
  issue (specFfma g rm sat d a b c) s
/-- FDIV. -/
def execFdiv (g : Guard) (rm : Rm) (sat : Bool) (d : Opd) (a : Opd) (b : Opd) (s : State) : Host.Outcome State Fault Refusal :=
  issue (specFdiv g rm sat d a b) s
/-- FSQRT. -/
def execFsqrt (g : Guard) (rm : Rm) (sat : Bool) (d : Opd) (a : Opd) (s : State) : Host.Outcome State Fault Refusal :=
  issue (specFsqrt g rm sat d a) s
/-- FMIN. -/
def execFmin (g : Guard) (d : Opd) (a : Opd) (b : Opd) (s : State) : Host.Outcome State Fault Refusal :=
  issue (specFmin g d a b) s
/-- FMAX. -/
def execFmax (g : Guard) (d : Opd) (a : Opd) (b : Opd) (s : State) : Host.Outcome State Fault Refusal :=
  issue (specFmax g d a b) s
/-- FCMP. -/
def execFcmp (g : Guard) (cc : FCc) (d : Opd) (a : Opd) (b : Opd) (s : State) : Host.Outcome State Fault Refusal :=
  issue (specFcmp g cc d a b) s
/-- FSGN. -/
def execFsgn (g : Guard) (op : SgnOp) (d : Opd) (a : Opd) (b : Opd) (s : State) : Host.Outcome State Fault Refusal :=
  issue (specFsgn g op d a b) s
/-- CVT. -/
def execCvt (g : Guard) (rm : Rm) (sat : Bool) (d : Opd) (a : Opd) (s : State) : Host.Outcome State Fault Refusal :=
  issue (specCvt g rm sat d a) s
/-- FSFU. -/
def execFsfu (g : Guard) (fn : SfuFn) (rm : Rm) (sat : Bool) (d : Opd) (a : Opd) (s : State) : Host.Outcome State Fault Refusal :=
  issue (specFsfu g fn rm sat d a) s

end Sys2Proof.Machine
end

