-- ==== Sys2Proof/Machine/Vector.lean ====
section
/-! DEFINITION. The vector ops of opcode group 4 but for those that move or pack elements (spec/21_ref_t_y.md R419 to
R422, R425, R426, R429, R430). -/

namespace Sys2Proof.Machine

/-! ### The vector framework (R419 to R421) -/

/-- An operand as an op sees it: the kind of its floats, its shape (none for a scalar or `nil`), its values. -/
structure VIn where
  fk    : Option FK
  shape : Option (Nat × Nat)
  vals  : List Int
  deriving DecidableEq, Repr

/-- The value at an element; a scalar supplies its value to every element. -/
def VIn.get (v : VIn) (i j : Nat) : Int :=
  match v.shape with
  | none => v.vals.headD 0
  | some (_, c) => (v.vals[i * c + j]?).getD 0

/-- The value at an element as an exact number. -/
def VIn.fv (v : VIn) (i j : Nat) : FV :=
  match v.fk with
  | some k => k.decode (v.get i j).toNat
  | none => FV.ofInt (v.get i j)

/-- The float kind of a name or of its elements. -/
def NKind.fk : NKind → Option FK
  | .flt k => some k
  | .fvec k _ _ => some k
  | .int _ _ _ => none
  | .ivec _ _ _ _ _ => none
  | .queue _ _ => none

/-- The shape of a vector kind. -/
def NKind.vshape (k : NKind) : Option (Nat × Nat) := if k.isVec then some k.shape else none

/-- Read an operand: EMPTY_READ when it is empty. -/
def readV (x : Ctx) (i : Ix) : OpM (VIn × Bool) :=
  match x.sl.nm i with
  | none => pure (⟨none, none, [0]⟩, false)
  | some n => if n.f then pure (⟨n.kind.fk, n.kind.vshape, n.vals⟩, n.p) else trapName 5 0 i

/-- A mask: none when there is none. -/
abbrev VMask := Option VIn

/-- Read the mask (R420). -/
def readMask (x : Ctx) (h : VH) : OpM (VMask × Bool) := do
  if isNil h.msk then pure (none, false)
  else do
    let (v, p) ← readV x h.msk
    pure (some v, p)

/-- Element (i, j) is active (R421). -/
def activeAt (h : VH) (m : VMask) (i j : Nat) : Bool :=
  match m with
  | none => true
  | some v =>
    let inside := match v.shape with
      | none => true
      | some (r, c) => decide (i < r ∧ j < c)
    (inside && decide (v.get i j ≠ 0)) != h.mneg

/-- An integer vector name. -/
def Slot.isIVec (x : Slot) (i : Ix) : Bool :=
  match x.kind i with
  | some (.ivec _ _ _ _ _) => true
  | _ => false
/-- A float vector name. -/
def Slot.isFVec (x : Slot) (i : Ix) : Bool :=
  match x.kind i with
  | some (.fvec _ _ _) => true
  | _ => false
/-- The element kind of a float vector or the kind of a scalar float name. -/
def Slot.fkAny (x : Slot) (i : Ix) : Option FK := (x.kind i).bind NKind.fk
/-- The shape of a vector name. -/
def Slot.vshape (x : Slot) (i : Ix) : Option (Nat × Nat) := (x.kind i).bind NKind.vshape

/-- The mask is none or an integer vector name (R420). -/
def Slot.maskOk (x : Slot) (h : VH) : Bool := isNil h.msk || x.isIVec h.msk

/-- Kinds of the operands of a vector op; a queue name is left to the operation (R419). -/
def vkinds (is : List Ix) (k : Slot → Bool) (x : Slot) : Bool := is.any (fun i => x.isQ i) || k x

/-- A queue name in any field raises QUEUE subcode 3 (R419). -/
def noQueue (x : Ctx) (is : List Ix) : OpM Unit :=
  match is.find? (fun i => x.sl.isQ i) with
  | some i => trapName 0x11 3 i
  | none => pure ()

/-- The rows and columns of an op: the smallest of its vector operands (R419). -/
def extent (x : Ctx) (is : List Ix) : Nat × Nat :=
  let ss := is.filterMap (fun i => x.sl.vshape i)
  match ss with
  | [] => (0, 0)
  | s :: rest => rest.foldl (fun a b => (min a.1 b.1, min a.2 b.2)) s

/-- What an op makes of an element: its value, none where a `trap`-mode element cannot hold it, and its flags. -/
abbrev ERes := Option Int × BitVec 5

/-- An integer fitted to an element (R419). -/
def fitElem (k : NKind) (v : Int) : ERes :=
  match k with
  | .ivec sg w m _ _ => (fitInt sg w m v, 0)
  | .int sg w m => (fitInt sg w m v, 0)
  | .fvec _ _ _ => (some v, 0)
  | .flt _ => (some v, 0)
  | .queue _ _ => (some v, 0)

/-- An exact result rounded to an element kind. -/
def rndElem (k : FK) (rm : Rm) (sat : Bool) (r : FRes) : ERes :=
  let (p, fl) := r.round k rm sat
  (some p, fl)

/-- The elements of a shape, row by row. -/
def cells (r c : Nat) : List (Nat × Nat) := (List.range r).flatMap (fun i => (List.range c).map (fun j => (i, j)))

/-- The flags of elements. -/
def eflags (es : List (Option ERes)) : BitVec 5 := es.foldl (fun a e => match e with
  | none => a
  | some r => a ||| r.2) 0

/-- Some element could not be fitted. -/
def ewidth (es : List (Option ERes)) : Bool := es.any (fun e => match e with
  | none => false
  | some r => r.1.isNone)

/-- Write the elements of D that an op computes; `f` gives none for one that it leaves as it is. D is read when the op
uses it or leaves an element unwritten (R421). -/
def writeElems (x : Ctx) (d : Ix) (usesD : Bool) (p : Bool) (f : NameSt → Nat → Nat → Option ERes) : OpM Next := do
  match x.sl.nm d with
  | none => pure ()
  | some n =>
    let (r, c) := n.kind.shape
    let es := (cells r c).map (fun e => f n e.1 e.2)
    let reads := usesD || es.any Option.isNone
    if reads && !n.f then trapName 5 0 d
    floatFlags x (eflags es)
    if ewidth es then trapName 3 1 d
    let vs := (n.vals.zip es).map (fun e => match e.2 with
      | some (some v, _) => v
      | some (none, _) => e.1
      | none => e.1)
    writeVec x d vs (p || (reads && n.p))
  seqNext

/-- An elementwise op on D, A and B (R419, R422): `f` gives the result of an active element from the kind of D, the
operands, the element of D and the place. -/
def elemSpec (h : VH) (d a b : Opd) (kinds : Slot → Bool) (usesD : Bool)
    (f : NKind → VIn → VIn → Int → Nat → Nat → ERes) : OpSpec where
  g := h.g
  fields := [d.ix, a.ix, b.ix, h.msk]
  kinds := vkinds [d.ix, a.ix, b.ix, h.msk] (fun x => x.maskOk h && kinds x)
  m := [a, b]
  d := some d
  needs := []
  run := fun x => do
    noQueue x [d.ix, a.ix, b.ix, h.msk]
    let (va, pa) ← readV x a.ix
    let (vb, pb) ← readV x b.ix
    let (m, pm) ← readMask x h
    let (er, ec) := extent x [d.ix, a.ix, b.ix]
    writeElems x d.ix usesD (pa || pb || pm) (fun n i j =>
      if i < er ∧ j < ec ∧ activeAt h m i j = true then
        some (f n.kind va vb ((n.vals[i * n.kind.shape.2 + j]?).getD 0) i j) else none)

/-- D and A are integer vectors and B is one, or a scalar integer name or `nil`. -/
def intVecs (d a b : Ix) (x : Slot) : Bool := x.isIVec d && x.isIVec a && (x.isIVec b || x.intNil b)
/-- D and A are float vectors and B is one, or a scalar float name. -/
def fltVecs (d a b : Ix) (x : Slot) : Bool := x.isFVec d && x.isFVec a && (x.isFVec b || x.isFlt b)

/-- The element kind of a float destination. -/
def NKind.efk (k : NKind) : FK := k.fk.getD .f32

/-! ### Elementwise ops (R422) -/

/-- An op on integer or float elements. -/
def arithSpec (h : VH) (rm : Rm) (sat : Bool) (d a b : Opd) (fi : Int → Int → Int) (ff : FV → FV → FRes) : OpSpec :=
  elemSpec h d a b
    (fun x => (intVecs d.ix a.ix b.ix x && decide (rm = .rne) && !sat) || fltVecs d.ix a.ix b.ix x) false
    (fun k va vb _ i j => match k.fk with
      | none => fitElem k (fi (va.get i j) (vb.get i j))
      | some q => rndElem q rm sat (ff (va.fv i j) (vb.fv i j)))

/-- VADD. -/
def specVadd (h : VH) (rm : Rm) (sat : Bool) (d a b : Opd) : OpSpec := arithSpec h rm sat d a b (· + ·) (fAdd rm)
/-- VSUB. -/
def specVsub (h : VH) (rm : Rm) (sat : Bool) (d a b : Opd) : OpSpec := arithSpec h rm sat d a b (· - ·) (fSub rm)
/-- VMUL. -/
def specVmul (h : VH) (rm : Rm) (sat : Bool) (d a b : Opd) : OpSpec := arithSpec h rm sat d a b (· * ·) fMul

/-- VFMA: D is read. -/
def specVfma (h : VH) (rm : Rm) (sat : Bool) (d a b : Opd) : OpSpec :=
  elemSpec h d a b (fltVecs d.ix a.ix b.ix) true
    (fun k va vb v i j => rndElem k.efk rm sat (fFma rm (va.fv i j) (vb.fv i j) (k.efk.decode v.toNat)))

/-- VMIN and VMAX (R119). -/
def vminmax (h : VH) (mx : Bool) (d a b : Opd) : OpSpec :=
  elemSpec h d a b (fun x => intVecs d.ix a.ix b.ix x || fltVecs d.ix a.ix b.ix x) false
    (fun k va vb _ i j => match k.fk with
      | none =>
        let v := va.get i j
        let w := vb.get i j
        fitElem k (if mx then max v w else min v w)
      | some q =>
        let (r, fl) := fMinMax mx (va.fv i j) (vb.fv i j)
        (some (q.exact r), fl))

/-- VMIN. -/
def specVmin (h : VH) (d a b : Opd) : OpSpec := vminmax h false d a b
/-- VMAX. -/
def specVmax (h : VH) (d a b : Opd) : OpSpec := vminmax h true d a b

/-- Float operands of one kind. -/
def oneKind (d a b : Ix) (x : Slot) : Bool :=
  fltVecs d a b x && decide (x.fkAny d = x.fkAny a) && decide (x.fkAny d = x.fkAny b)

/-- VAND, VOR and VXOR: on float patterns nothing is rounded. -/
def bitSpec (h : VH) (d a b : Opd) (f : Int → Int → Int) : OpSpec :=
  elemSpec h d a b (fun x => intVecs d.ix a.ix b.ix x || oneKind d.ix a.ix b.ix x) false
    (fun k va vb _ i j => fitElem k (f (va.get i j) (vb.get i j)))

/-- VAND. -/
def specVand (h : VH) (d a b : Opd) : OpSpec := bitSpec h d a b iand
/-- VOR. -/
def specVor (h : VH) (d a b : Opd) : OpSpec := bitSpec h d a b ior
/-- VXOR. -/
def specVxor (h : VH) (d a b : Opd) : OpSpec := bitSpec h d a b ixor

/-- An op on integer elements alone. -/
def intElemSpec (h : VH) (d a b : Opd) (f : Int → Int → Int) : OpSpec :=
  elemSpec h d a b (intVecs d.ix a.ix b.ix) false (fun k va vb _ i j => fitElem k (f (va.get i j) (vb.get i j)))

/-- VSHL. -/
def specVshl (h : VH) (d a b : Opd) : OpSpec := intElemSpec h d a b shiftBy
/-- VSHR: an `n` element is not negative, so that the shift of its exact value is logical. -/
def specVshr (h : VH) (d a b : Opd) : OpSpec := intElemSpec h d a b (fun v n => shiftBy v (-n))

/-- The integer condition of a VCMP condition; `.un` is for floats. -/
def ccOf : FCc → Cc
  | .eq => .eq | .ne => .ne | .lt => .lt | .le => .le | .gt => .gt | .ge => .ge | .un => .eq

/-- VCMP. -/
def specVcmp (h : VH) (cc : FCc) (d a b : Opd) : OpSpec :=
  elemSpec h d a b
    (fun x => x.isIVec d.ix && ((x.isIVec a.ix && (x.isIVec b.ix || x.intNil b.ix) && decide (cc ≠ .un)) ||
      (x.isFVec a.ix && (x.isFVec b.ix || x.isFlt b.ix)))) false
    (fun k va vb _ i j => match va.fk with
      | none => fitElem k (b2n (Cc.holds (ccOf cc) (va.get i j) (vb.get i j)))
      | some _ =>
        let (r, fl) := fCompare cc (va.fv i j) (vb.fv i j)
        let (v, _) := fitElem k (b2n r)
        (v, fl))

/-- An element moved: within one float kind its pattern, a NaN as the canonical one (R117), between two kinds rounded (R419),
an integer fitted. -/
def moveElem (k : NKind) (v : VIn) (i j : Nat) : ERes :=
  match k.fk, v.fk with
  | some q, some l => if q = l then (some (q.canon (v.get i j).toNat), 0) else rndElem q .rne false (.pure (v.fv i j))
  | _, _ => fitElem k (v.get i j)

/-- VSEL: every element of the extent is written; only the active ones raise flags (R421; log entry 84). -/
def specVsel (h : VH) (d a b : Opd) : OpSpec where
  g := h.g
  fields := [d.ix, a.ix, b.ix, h.msk]
  kinds := vkinds [d.ix, a.ix, b.ix, h.msk] (fun x =>
    x.isIVec h.msk && (intVecs d.ix a.ix b.ix x || fltVecs d.ix a.ix b.ix x))
  m := [a, b]
  d := some d
  needs := []
  run := fun x => do
    noQueue x [d.ix, a.ix, b.ix, h.msk]
    let (va, pa) ← readV x a.ix
    let (vb, pb) ← readV x b.ix
    let (m, pm) ← readMask x h
    let (er, ec) := extent x [d.ix, a.ix, b.ix]
    writeElems x d.ix false (pa || pb || pm) (fun n i j =>
      if i < er ∧ j < ec then
        some (if activeAt h m i j then moveElem n.kind va i j else ((moveElem n.kind vb i j).1, 0))
      else none)

/-- VCVT: R357 on each element. -/
def specVcvt (h : VH) (rm : Rm) (sat : Bool) (d a : Opd) : OpSpec :=
  elemSpec h d a ⟨0, false⟩
    (fun x => (x.isFVec d.ix && (x.isFVec a.ix || x.isIVec a.ix)) || (x.isIVec d.ix && x.isFVec a.ix && !sat)) false
    (fun k va _ _ i j => match k with
      | .ivec sg w m _ _ => match floatToInt rm sg w m (va.fv i j) with
        | none => (none, 0)
        | some (r, fl) => (some r, fl)
      | k => rndElem k.efk rm sat (.pure (va.fv i j)))

/-- VBCAST: the scalar A, or row 0 of a vector A. -/
def specVbcast (h : VH) (rm : Rm) (sat : Bool) (d a : Opd) : OpSpec where
  g := h.g
  fields := [d.ix, a.ix, h.msk]
  kinds := vkinds [d.ix, a.ix, h.msk] (fun x => x.maskOk h &&
    ((x.isIVec d.ix && (x.isIVec a.ix || x.intNil a.ix) && decide (rm = .rne) && !sat) ||
     (x.isFVec d.ix && (x.isFVec a.ix || x.isFlt a.ix))))
  m := [a]
  d := some d
  needs := []
  run := fun x => do
    noQueue x [d.ix, a.ix, h.msk]
    let (va, pa) ← readV x a.ix
    let (m, pm) ← readMask x h
    let (_, ec) := extent x [d.ix, a.ix]
    writeElems x d.ix false (pa || pm) (fun n i j =>
      if j < ec ∧ activeAt h m i j = true then
        some (match n.kind.fk with
          | none => fitElem n.kind (va.get 0 j)
          | some q => rndElem q rm sat (.pure (va.fv 0 j)))
      else none)

/-! ### Reductions and prefixes (R429) -/

/-- The exact sum of floats: independent of their order. -/
def fSum (rm : Rm) (vs : List FV) : FRes :=
  let pinf := vs.any (fun v => decide (v = .inf false))
  let ninf := vs.any (fun v => decide (v = .inf true))
  let fl : BitVec 5 := if vs.any FV.isSnan || (pinf && ninf) then fNV else 0
  if vs.any FV.isNan || (pinf && ninf) then ⟨.nan false, fl, false⟩
  else if pinf then ⟨.inf false, fl, false⟩
  else if ninf then ⟨.inf true, fl, false⟩
  else match vs with
    | [] => .pure (.fin false 0 0)
    | v :: ws => .pure (ws.foldl (fun a b => (fAdd rm a b).v) v)

/-- The least or greatest of floats. -/
def fExtreme (mx : Bool) (v : FV) (ws : List FV) : FRes :=
  let r := ws.foldl (fun a b => (fMinMax mx a b).1) v
  ⟨match r with
    | .nan _ => .nan false
    | .inf n => .inf n
    | .fin n m e => .fin n m e, if (v :: ws).any FV.isSnan then fNV else 0, false⟩

/-- A reduction of integers; none leaves the target unchanged. -/
def redInt (op : RedOp) (vs : List Int) : Option Int :=
  match op, vs with
  | .add, vs => some (vs.foldl (· + ·) 0)
  | .or, vs => some (vs.foldl ior 0)
  | .xor, vs => some (vs.foldl ixor 0)
  | .and, vs => some (vs.foldl iand (-1))
  | .min, [] => none
  | .max, [] => none
  | .min, v :: ws => some (ws.foldl min v)
  | .max, v :: ws => some (ws.foldl max v)

/-- A reduction of floats as an exact result, and whether it is rounded: a minimum or maximum never is (R119). -/
def redFlt (op : RedOp) (rm : Rm) (vs : List FV) : Option (FRes × Bool) :=
  match op, vs with
  | .add, vs => some (fSum rm vs, true)
  | .min, v :: ws => some (fExtreme false v ws, false)
  | .max, v :: ws => some (fExtreme true v ws, false)
  | .min, [] => none
  | .max, [] => none
  | .and, _ => none
  | .or, _ => none
  | .xor, _ => none

/-- A reduction of elements of A for an element of a kind. -/
def redElem (op : RedOp) (rm : Rm) (k : NKind) (va : VIn) (es : List (Nat × Nat)) : Option ERes :=
  match k.fk with
  | none => (redInt op (es.map (fun e => va.get e.1 e.2))).map (fitElem k)
  | some q => (redFlt op rm (es.map (fun e => va.fv e.1 e.2))).map (fun r =>
      if r.2 then rndElem q rm false r.1 else (some (q.exact r.1.v), r.1.fl))

/-- The operations that floats have. -/
def redFltOk : RedOp → Bool
  | .add => true | .min => true | .max => true | .and => false | .or => false | .xor => false

/-- The operands of VRED: one class, and a bitwise op or a plain mode where A is an integer vector. -/
def redKinds (op : RedOp) (rm : Rm) (d a : Ix) (x : Slot) : Bool :=
  (x.isIVec a && (x.isIVec d || x.intNil d) && decide (rm = .rne)) ||
  (x.isFVec a && (x.isFVec d || x.isFlt d || isNil d) && redFltOk op)

/-- VRED. -/
def specVred (h : VH) (op : RedOp) (rm : Rm) (d a : Opd) : OpSpec where
  g := h.g
  fields := [d.ix, a.ix, h.msk]
  kinds := vkinds [d.ix, a.ix, h.msk] (fun x => x.maskOk h && redKinds op rm d.ix a.ix x)
  m := [a]
  d := some d
  needs := []
  run := fun x => do
    noQueue x [d.ix, a.ix, h.msk]
    let (va, pa) ← readV x a.ix
    let (m, pm) ← readMask x h
    let (ra, ca) := va.shape.getD (0, 0)
    let p := pa || pm
    let live := fun (es : List (Nat × Nat)) => es.filter (fun e => activeAt h m e.1 e.2)
    match x.sl.kind d.ix with
    | some (.ivec _ _ _ _ _) | some (.fvec _ _ _) =>
      writeElems x d.ix false p (fun n i j =>
        if i < ra ∧ j = 0 then redElem op rm n.kind va (live ((List.range ca).map (fun q => (i, q)))) else none)
    | _ =>
      let es := live (cells ra ca)
      match va.fk with
      | none =>
        match redInt op (es.map (fun e => va.get e.1 e.2)) with
        | none => pure ()
        | some v => writeInt x d.ix v p
        seqNext
      | some _ =>
        match redFlt op rm (es.map (fun e => va.fv e.1 e.2)) with
        | none => seqNext
        | some (r, true) => roundTo x d.ix a.ix rm false r p
        | some (r, false) =>
          floatFlags x r.fl
          writePat x d.ix (((x.sl.fk d.ix).getD .f32).exact r.v) p
          seqNext

/-- The reduction of a prefix. -/
def scanRed : ScanOp → RedOp
  | .add => .add | .min => .min | .max => .max

/-- VSCAN. -/
def specVscan (h : VH) (op : ScanOp) (rm : Rm) (d a : Opd) : OpSpec where
  g := h.g
  fields := [d.ix, a.ix, h.msk]
  kinds := vkinds [d.ix, a.ix, h.msk] (fun x => x.maskOk h &&
    ((x.isIVec a.ix && x.isIVec d.ix && decide (rm = .rne)) || (x.isFVec a.ix && x.isFVec d.ix)))
  m := [a]
  d := some d
  needs := []
  run := fun x => do
    noQueue x [d.ix, a.ix, h.msk]
    let (va, pa) ← readV x a.ix
    let (m, pm) ← readMask x h
    let (er, ec) := extent x [d.ix, a.ix]
    writeElems x d.ix false (pa || pm) (fun n i j =>
      if i < er ∧ j < ec ∧ activeAt h m i j = true then
        redElem (scanRed op) rm n.kind va
          (((List.range (j + 1)).map (fun q => (i, q))).filter (fun e => activeAt h m e.1 e.2))
      else none)

/-! ### VSFU (R430) -/

/-- VSFU: all elements land together. -/
def specVsfu (h : VH) (fn : SfuFn) (rm : Rm) (d a : Opd) : OpSpec where
  g := h.g
  fields := [d.ix, a.ix, h.msk]
  kinds := vkinds [d.ix, a.ix, h.msk] (fun x => x.maskOk h && x.isFVec d.ix && x.isFVec a.ix &&
    decide (x.fkAny a.ix ≠ some .a56))
  m := [a]
  d := some d
  needs := []
  run := fun x => do
    noQueue x [d.ix, a.ix, h.msk]
    let (va, pa) ← readV x a.ix
    let (m, pm) ← readMask x h
    let (er, ec) := extent x [d.ix, a.ix]
    let k := va.fk.getD .f32
    let src := (cells er ec).map (fun e =>
      if activeAt h m e.1 e.2 then some (toF32 k (va.get e.1 e.2).toNat) else none)
    let whole := decide (x.sl.vshape d.ix = some (er, ec)) && src.all Option.isSome
    if !whole && ((x.sl.nm d.ix).map (·.f)).getD true = false then trapName 5 0 d.ix
    let dst ← late x d.ix
    modify (fun s => s.send (.sfu dst fn rm false src ec (pa || pm)))
    seqNext

/-! ### VLD, VLDT and VST (R425) -/

/-- An active element in the local store: its byte offset, the first bit within that byte, its place. -/
structure VPlace where
  off : Int
  bit : Nat
  i   : Nat
  j   : Nat
  deriving DecidableEq, Repr

/-- Places of the active elements of a shape for element width `s`. -/
def vplaces (h : VH) (m : VMask) (r c s : Nat) (tr : Bool) (o rs : Int) : List VPlace :=
  ((cells r c).filter (fun e => activeAt h m e.1 e.2)).map (fun e =>
    let row := if tr then e.2 else e.1
    let k := if tr then e.1 else e.2
    ⟨o + row * rs + (k * s / 8 : Nat), k * s % 8, e.1, e.2⟩)

/-- Bytes of an element. -/
def elemBytes (s : Nat) : Nat := if s ≤ 8 then 1 else s / 8

/-- The range checks of R425 on offsets of `n` bytes. -/
def rangeCheck (x : Ctx) (a : Int) (os : List (Int × Nat)) : OpM Unit := do
  let w := BitVec.ofNat 64 (umod 64 a)
  if os.any (fun o => decide (o.1 < 0) || decide ((Config.lsBytes : Int) < o.1 + o.2)) then trapAddr 9 0x14 w
  if !x.sl.smode && os.any (fun o => decide ((Config.lsSys : Int) < o.1 + o.2)) then trapAddr 9 0x12 w

/-- Wait until every word that holds an active element is full: KIND 1, the first empty word's offset. -/
def wordWait (x : Ctx) (s : State) (os : List Nat) : OpM Unit :=
  match (os.filter (fun o => !s.lsF x.core o)).foldl (fun b o => match b with
      | none => some (o / 8 * 8)
      | some q => some (min q (o / 8 * 8))) none with
  | none => pure ()
  | some o => parkOn 1 (o * 256)

/-- The offset and stride of a vector access; `nil` means rows without a gap. -/
def readPlace (x : Ctx) (a b : Ix) (natural : Nat) : OpM (Int × Int) := do
  let o ← readAddr x a
  let rs ← readAddr x b
  pure (o, if isNil b then natural else rs)

/-- ALIGN of a vector access. -/
def vAlign (s : Nat) (o rs : Int) : OpM Unit :=
  if 8 ≤ s ∧ (o % (s / 8 : Nat) ≠ 0 ∨ rs % (s / 8 : Nat) ≠ 0) then trapAddr 7 0 (BitVec.ofNat 64 (umod 64 o)) else pure ()

/-- The bits of an element in a local store. -/
def State.elemBits (st : State) (core s : Nat) (q : VPlace) : Nat :=
  let o := q.off.toNat
  if 8 ≤ s then st.lsRead core o (s / 8) else st.lsRead core o 1 / 2 ^ q.bit % 2 ^ s

/-- The loaded value of an element and whether its unused bits poison it. -/
def loadElem (k : NKind) (s v : Nat) : ERes × Bool :=
  match k with
  | .ivec sg w m _ _ => ((fitInt sg w m (if sg then sext s v else (v : Int)), 0), false)
  | .fvec .a56 _ _ => ((some (v % 2 ^ 56 : Nat), 0), decide (v / 2 ^ 56 ≠ 0))
  | .fvec _ _ _ => ((some (v : Int), 0), false)
  | .int _ _ _ => ((some (v : Int), 0), false)
  | .flt _ => ((some (v : Int), 0), false)
  | .queue _ _ => ((some (v : Int), 0), false)

/-- The whole local store of a core as a place: what must come before a vector access to it is performed. -/
def drainLocal (x : Ctx) (wr : Bool) : OpM Unit := accessNow (x.lsAcc x.core 0 Config.lsBytes wr)

/-- VLD without `.q`, and VLDT. -/
def loadRun (h : VH) (w tr : Bool) (d a b : Opd) (x : Ctx) : OpM Next := do
  noQueue x [d.ix, a.ix, b.ix, h.msk]
  match x.sl.nm d.ix with
  | none => seqNext
  | some n =>
    let (r, c) := n.kind.shape
    let s := n.kind.sw
    let (o, rs) ← readPlace x a.ix b.ix (((if tr then r else c) * s + 7) / 8)
    let (m, pm) ← readMask x h
    let qs := vplaces h m r c s tr o rs
    if qs.length < r * c && !n.f then trapName 5 0 d.ix
    rangeCheck x o (qs.map (fun q => (q.off, elemBytes s)))
    vAlign s o rs
    drainLocal x false
    let st ← get
    if w then wordWait x st (qs.map (fun q => q.off.toNat))
    let vals := qs.map (fun q => ((q.i, q.j), loadElem n.kind s (st.elemBits x.core s q), st.lsP x.core q.off.toNat))
    let p := pm || vals.any (fun v => v.2.1.2 || v.2.2)
    writeElems x d.ix false p (fun _ i j => (vals.find? (fun v => decide (v.1 = (i, j)))).map (fun v => v.2.1.1))

/-- The bits that an element fills of its word, as a mask of 64 bits. -/
def coverMask (s : Nat) (q : VPlace) : Nat := (2 ^ s - 1) * 2 ^ (8 * (q.off.toNat % 8) + q.bit)

/-- Write the bits of an element. -/
def State.putElem (st : State) (core s : Nat) (q : VPlace) (v : Nat) : State :=
  let o := q.off.toNat
  if 8 ≤ s then { st with lmem := Memory.writes st.lmem (lsKey core o) (toBytes (s / 8) v) }
  else
    let old := st.lsRead core o 1
    let b := old - old / 2 ^ q.bit % 2 ^ s * 2 ^ q.bit + v % 2 ^ s * 2 ^ q.bit
    { st with lmem := Memory.writes st.lmem (lsKey core o) (toBytes 1 b) }

/-- Store elements: values, then the P and F bits of the words they touch (R162). -/
def State.storeElems (st : State) (core s : Nat) (setf p : Bool) (es : List (VPlace × Nat)) : State :=
  let st := es.foldl (fun st e => st.putElem core s e.1 e.2) st
  let cov : SMap Nat := es.foldl (fun m e =>
    let wd := e.1.off.toNat / 8
    mset wd (mget 0 wd m ||| coverMask s e.1) m) []
  cov.foldl (fun st e =>
    let o := e.1 * 8
    let st := st.setLsP core o (if e.2 = 2 ^ 64 - 1 then p else st.lsP core o || p)
    if setf then st.setLsF core o true else st) st

/-- The operands of VLD, VLDT and VST. -/
def memVecKinds (h : VH) (d a b : Ix) (x : Slot) : Bool := x.maskOk h && x.isVec d && x.intNil a && x.intNil b

/-- VST. -/
def specVst (h : VH) (setf : Bool) (d : Ix) (a b : Opd) : OpSpec where
  g := h.g
  fields := [d, a.ix, b.ix, h.msk]
  kinds := vkinds [d, a.ix, b.ix, h.msk] (memVecKinds h d a.ix b.ix)
  m := [a, b]
  d := none
  needs := []
  run := fun x => do
    noQueue x [d, a.ix, b.ix, h.msk]
    match x.sl.nm d with
    | none => seqNext
    | some n =>
      let (r, c) := n.kind.shape
      let s := n.kind.sw
      let (o, rs) ← readPlace x a.ix b.ix ((c * s + 7) / 8)
      let (m, _) ← readMask x h
      let (v, p) ← readV x d
      let qs := vplaces h m r c s false o rs
      rangeCheck x o (qs.map (fun q => (q.off, elemBytes s)))
      vAlign s o rs
      drainLocal x true
      modify (fun st => st.storeElems x.core s setf p (qs.map (fun q => (q, umod s (v.get q.i q.j)))))
      seqNext

/-- VLDT. -/
def specVldt (h : VH) (w : Bool) (d a b : Opd) : OpSpec where
  g := h.g
  fields := [d.ix, a.ix, b.ix, h.msk]
  kinds := vkinds [d.ix, a.ix, b.ix, h.msk] (memVecKinds h d.ix a.ix b.ix)
  m := [a, b]
  d := some d
  needs := []
  run := loadRun h w true d a b

/-! ### VLD with `.q` (R126 to R128, R426) -/

/-- The group size of a GS code (R424); none for the reserved one. -/
def gsOf (n : Nat) : Option Nat := if n = 0 then some 32 else if n = 1 then some 64 else if n = 2 then some 128 else none

/-- Code `k` of a packed stream, from its byte (R126). -/
def packedCode (q4 : Bool) (k byte : Nat) : Int := if q4 then sext 4 (byte / 16 ^ (k % 2)) else sext 8 byte

/-- The value of a code under a sidecar entry, and whether the entry's reserved byte poisons it (R127, R128). -/
def entryValue (code : Int) (e : Nat) : FRes × Bool :=
  (dequant code (sext 8 (e / 2 ^ 16)) (e % 2 ^ 16), decide (e / 2 ^ 24 % 256 ≠ 0))

/-- VLD with `.q` on a valid descriptor: `q4` codes or `q8`, groups of `gsz`, sidecar at `soff`. -/
def packedRun (h : VH) (w : Bool) (rm : Rm) (sat : Bool) (d : Ix) (n : NameSt) (o : Int) (q4 : Bool) (gsz soff : Nat)
    (x : Ctx) : OpM Next := do
  let (m, pm) ← readMask x h
  let (r, c) := n.kind.shape
  let es := (cells r c).filter (fun e => activeAt h m e.1 e.2)
  if es.length < r * c && !n.f then trapName 5 0 d
  let k := fun (e : Nat × Nat) => e.1 * c + e.2
  let at_ := fun (e : Nat × Nat) => o + (if q4 then k e / 2 else k e : Nat)
  let ent := fun (e : Nat × Nat) => soff + 4 * (k e / gsz)
  rangeCheck x o (es.map (fun e => (at_ e, 1)) ++ es.map (fun e => ((ent e : Int), 4)))
  if o % 128 ≠ 0 then trapAddr 7 0 (BitVec.ofNat 64 (umod 64 o))
  drainLocal x false
  let st ← get
  if w then wordWait x st (es.map (fun e => (at_ e).toNat))
  let q := n.kind.efk
  let vals := es.map (fun e =>
    let b := (at_ e).toNat
    let (f, z) := entryValue (packedCode q4 (k e) (st.lsRead x.core b 1)) (st.lsRead x.core (ent e) 4)
    (e, rndElem q rm sat f, z || st.lsP x.core b || st.lsP x.core (ent e)))
  writeElems x d false (pm || vals.any (fun v => v.2.2)) (fun _ i j =>
    (vals.find? (fun v => decide (v.1 = (i, j)))).map (fun v => v.2.1))

/-- VLD (R425, R426). -/
def specVld (h : VH) (w q : Bool) (rm : Rm) (sat : Bool) (d a b : Opd) : OpSpec where
  g := h.g
  fields := [d.ix, a.ix, b.ix, h.msk]
  kinds := vkinds [d.ix, a.ix, b.ix, h.msk] (memVecKinds h d.ix a.ix b.ix)
  m := [a, b]
  d := some d
  needs := []
  run := fun x =>
    if !q then loadRun h w false d a b x
    else do
      noQueue x [d.ix, a.ix, b.ix, h.msk]
      match x.sl.nm d.ix with
      | none => seqNext
      | some n =>
        let o ← readAddr x a.ix
        let v ← readAddr x b.ix
        if n.kind.fk.isNone then trap 1 1
        let e := umod 64 v
        let gs := gsOf (bits e 21 20)
        if v < 0 ∨ bits e 63 24 ≠ 0 ∨ (bits e 23 22 ≠ 1 ∧ bits e 23 22 ≠ 2) ∨ gs = none ∨ bits e 19 18 ≠ 0 ∨ e % 4 ≠ 0 then
          trap 1 1
        packedRun h w rm sat d.ix n o (decide (bits e 23 22 = 1)) (gs.getD 32) (bits e 17 0) x

/-! ### The meanings -/

/-- VADD. -/
def execVadd (h : VH) (rm : Rm) (sat : Bool) (d : Opd) (a : Opd) (b : Opd) (s : State) : Host.Outcome State Fault Refusal :=
  issue (specVadd h rm sat d a b) s
/-- VSUB. -/
def execVsub (h : VH) (rm : Rm) (sat : Bool) (d : Opd) (a : Opd) (b : Opd) (s : State) : Host.Outcome State Fault Refusal :=
  issue (specVsub h rm sat d a b) s
/-- VMUL. -/
def execVmul (h : VH) (rm : Rm) (sat : Bool) (d : Opd) (a : Opd) (b : Opd) (s : State) : Host.Outcome State Fault Refusal :=
  issue (specVmul h rm sat d a b) s
/-- VFMA. -/
def execVfma (h : VH) (rm : Rm) (sat : Bool) (d : Opd) (a : Opd) (b : Opd) (s : State) : Host.Outcome State Fault Refusal :=
  issue (specVfma h rm sat d a b) s
/-- VMIN. -/
def execVmin (h : VH) (d : Opd) (a : Opd) (b : Opd) (s : State) : Host.Outcome State Fault Refusal :=
  issue (specVmin h d a b) s
/-- VMAX. -/
def execVmax (h : VH) (d : Opd) (a : Opd) (b : Opd) (s : State) : Host.Outcome State Fault Refusal :=
  issue (specVmax h d a b) s
/-- VAND. -/
def execVand (h : VH) (d : Opd) (a : Opd) (b : Opd) (s : State) : Host.Outcome State Fault Refusal :=
  issue (specVand h d a b) s
/-- VOR. -/
def execVor (h : VH) (d : Opd) (a : Opd) (b : Opd) (s : State) : Host.Outcome State Fault Refusal :=
  issue (specVor h d a b) s
/-- VXOR. -/
def execVxor (h : VH) (d : Opd) (a : Opd) (b : Opd) (s : State) : Host.Outcome State Fault Refusal :=
  issue (specVxor h d a b) s
/-- VSHL. -/
def execVshl (h : VH) (d : Opd) (a : Opd) (b : Opd) (s : State) : Host.Outcome State Fault Refusal :=
  issue (specVshl h d a b) s
/-- VSHR. -/
def execVshr (h : VH) (d : Opd) (a : Opd) (b : Opd) (s : State) : Host.Outcome State Fault Refusal :=
  issue (specVshr h d a b) s
/-- VCMP. -/
def execVcmp (h : VH) (cc : FCc) (d : Opd) (a : Opd) (b : Opd) (s : State) : Host.Outcome State Fault Refusal :=
  issue (specVcmp h cc d a b) s
/-- VSEL. -/
def execVsel (h : VH) (d : Opd) (a : Opd) (b : Opd) (s : State) : Host.Outcome State Fault Refusal :=
  issue (specVsel h d a b) s
/-- VCVT. -/
def execVcvt (h : VH) (rm : Rm) (sat : Bool) (d : Opd) (a : Opd) (s : State) : Host.Outcome State Fault Refusal :=
  issue (specVcvt h rm sat d a) s
/-- VBCAST. -/
def execVbcast (h : VH) (rm : Rm) (sat : Bool) (d : Opd) (a : Opd) (s : State) : Host.Outcome State Fault Refusal :=
  issue (specVbcast h rm sat d a) s
/-- VRED. -/
def execVred (h : VH) (op : RedOp) (rm : Rm) (d : Opd) (a : Opd) (s : State) : Host.Outcome State Fault Refusal :=
  issue (specVred h op rm d a) s
/-- VSCAN. -/
def execVscan (h : VH) (op : ScanOp) (rm : Rm) (d : Opd) (a : Opd) (s : State) : Host.Outcome State Fault Refusal :=
  issue (specVscan h op rm d a) s
/-- VSFU. -/
def execVsfu (h : VH) (fn : SfuFn) (rm : Rm) (d : Opd) (a : Opd) (s : State) : Host.Outcome State Fault Refusal :=
  issue (specVsfu h fn rm d a) s
/-- VLD. -/
def execVld (h : VH) (w : Bool) (q : Bool) (rm : Rm) (sat : Bool) (d : Opd) (a : Opd) (b : Opd) (s : State) : Host.Outcome State Fault Refusal :=
  issue (specVld h w q rm sat d a b) s
/-- VLDT. -/
def execVldt (h : VH) (w : Bool) (d : Opd) (a : Opd) (b : Opd) (s : State) : Host.Outcome State Fault Refusal :=
  issue (specVldt h w d a b) s
/-- VST. -/
def execVst (h : VH) (setf : Bool) (d : Ix) (a : Opd) (b : Opd) (s : State) : Host.Outcome State Fault Refusal :=
  issue (specVst h setf d a b) s

end Sys2Proof.Machine
end

