-- ==== Sys2Proof/Machine/Formats.lean ====
section
/-! DEFINITION. Formatted pages: the Format Descriptor Table, packed lines and sidecar entries, and the Pegbox decoder
(spec/06_numbers.md R126 to R128, R132 to R139). -/

namespace Sys2Proof.Machine

/-! ### The Format Descriptor Table (R132, R133) -/

/-- An entry of the table that names a packed format: coded or not, four-bit codes or eight-bit ones, group size, bases,
and for a coded kind its table, chunks and chunk length. -/
structure Fdt where
  coded : Bool
  q4    : Bool
  gsz   : Nat
  dbase : Nat
  sbase : Nat
  ptab  : Nat
  nch   : Nat
  chlog : Nat
  deriving DecidableEq, Repr

/-- Codes per line (R126). -/
def Fdt.cpl (e : Fdt) : Nat := if e.q4 then 256 else 128
/-- Groups per line (R126). -/
def Fdt.gpl (e : Fdt) : Nat := e.cpl / e.gsz

/-- The words of an entry keep R133; none for a raw kind, an error for a faulty entry. -/
def fdtParse (ws : List Word) : Except Unit (Option Fdt) :=
  let w := (nthW ws 0).toNat
  let db := (nthW ws 1).toNat
  let sb := (nthW ws 2).toNat
  let pt := (nthW ws 3).toNat
  let kind := bits w 3 0
  let outk := bits w 11 8
  match gsOf (bits w 7 6) with
  | none => .error ()
  | some g =>
    if bits w 63 40 ≠ 0 ∨ bits w 19 12 ≠ 0 ∨ bits w 5 4 ≠ 0 ∨ 3 < kind ∨ db % 128 ≠ 0 ∨ sb % 4 ≠ 0 then .error ()
    else if kind = 3 then
      if (outk ≠ 1 ∧ outk ≠ 2) ∨ 12 < bits w 23 20 ∨ pt % 2048 ≠ 0 then .error ()
      else .ok (some ⟨true, decide (outk = 1), g, db, sb, pt, bits w 39 24 + 1, bits w 23 20⟩)
    else if bits w 39 20 ≠ 0 ∨ outk ≠ 0 ∨ pt ≠ 0 then .error ()
    else if kind = 0 then .ok none
    else .ok (some ⟨false, decide (kind = 1), g, db, sb, 0, 0, 0⟩)

/-- The entry of a page's FDX: none for a raw page; a faulty entry gives XLATE subcode 0x20. Every word of it is read as memory
holds it then (R134; log entry 60). -/
def State.fdtEntry (s : State) (part fdx : Nat) : Option (Option Fdt) :=
  if fdx = 0 then some none
  else match (s.part part).cfg with
    | none => none
    | some g =>
      match s.devWords part true (g.fdt.toNat + 32 * fdx) 4 with
      | .error _ => none
      | .ok ws =>
        match fdtParse ws with
        | .error _ => none
        | .ok e => some e

/-- An engine reads the entry of a page's FDX. -/
def engEntry (c : Cmd) (fdx : Nat) : EngM (Option Fdt) := do
  let s ← get
  match s.fdtEntry c.part fdx with
  | none => efail 0x0101 0x20
  | some e => pure e

/-- The address of a sidecar entry: `k` entries after the first one of the line at data address `a` (R127). -/
def Fdt.entryAt (e : Fdt) (a : Int) (k : Nat) : Nat :=
  umod 64 ((e.sbase : Int) + (a - e.dbase) / 128 * (4 * e.gpl : Nat) + (4 * k : Nat))

/-! ### The Pegbox (R135 to R139) -/

/-- A fault of any kind gives one outcome. -/
def orFault {α : Type} (m : EngM α) (code : Nat) : EngM α := fun s =>
  match m s with
  | .ok r => .ok r
  | .error (.fault _ s) => .error (.fault (code, 0) s)
  | .error (.wait d q s) => .error (.wait d q s)

/-- Words of 32 bits of bytes. -/
def words32 : Nat → PBytes → List Word
  | 0, _ => []
  | n + 1, bs => BitVec.ofNat 64 (pval (bs.take 4)) :: words32 n (bs.drop 4)

/-- Strictly increasing. -/
def increasing : List Word → Bool
  | a :: b :: ws => decide (a.toNat < b.toNat) && increasing (b :: ws)
  | _ => true

/-- Load a table and its chunk index (R139, R360): error 5 for a fault or a poisoned word, 6 for an index that is not
increasing. -/
def pegLoad (c : Cmd) (e : Fdt) : EngM PegTab := do
  let bs ← orFault (engRead c (.va e.ptab) (2048 + 4 * (e.nch + 1))) 0x0405
  if ppsn bs then efail 0x0405 0
  let ws := words32 (512 + e.nch + 1) bs
  if !increasing (ws.drop 512) then efail 0x0406 0
  pure ⟨c.part, e.ptab, ws.take 512, ws.drop 512⟩

/-- A table leaves the Pegbox. -/
def State.pegDrop (s : State) (cl part tag : Nat) : State :=
  let k := s.clu cl
  s.setClu cl { k with peg := k.peg.filter (fun u => decide (u.part ≠ part ∨ u.tag ≠ tag)) }

/-- Make a table resident, the most recently used one (R139): the one with its tag goes, else the least recently used. -/
def State.pegPut (s : State) (cl : Nat) (t : PegTab) : State :=
  let s := s.pegDrop cl t.part t.tag
  let k := s.clu cl
  let rest := k.peg
  s.setClu cl { k with peg := (if 4 ≤ rest.length then rest.drop (rest.length - 3) else rest) ++ [t] }

/-- The table that a coded copy decodes with: resident, or loaded first. -/
def pegTable (c : Cmd) (e : Fdt) : EngM PegTab := do
  let s ← get
  let t ← match (s.clu c.clu).peg.find? (fun t => decide (t.part = c.part ∧ t.tag = e.ptab)) with
    | some t => pure t
    | none => pegLoad c e
  modify (fun s => s.pegPut c.clu t)
  pure t

/-- A legal dispatch entry: peek width and base (R136). -/
def dispatchOf (w : Nat) : Option (Nat × Nat) :=
  let pw := bits w 30 27
  let base := bits w 26 18
  if bits w 31 31 = 0 ∧ 1 ≤ pw ∧ pw ≤ 9 ∧ base + 2 ^ pw ≤ 512 ∧ bits w 17 0 = 0 then some (pw, base) else none

/-- A legal action entry with CM1 other than 15 (R136). -/
def actionOk (q4 : Bool) (w : Nat) : Bool :=
  let cm1 := bits w 30 27
  let emit := bits w 26 25
  decide (cm1 ≤ 11 ∧ bits w 14 8 = 0) && (decide (emit = 0) || (decide (emit = 3) != q4)) &&
    (!ebit w 24 || (decide (emit = 1) && decide (3 ≤ cm1)) || (decide (emit = 3) && decide (7 ≤ cm1)))

/-- A decoder on its way through a chunk (R137): position, state, codes produced, the last first, each with the poison of
the bits read so far. -/
structure Dec where
  pos   : Nat
  state : Nat
  out   : List (Nat × Bool)
  psn   : Bool
  deriving DecidableEq, Repr

/-- A chunk: its bits, their number, and the first poisoned bit. -/
structure Chunk where
  val : Nat
  len : Nat
  bad : Option Nat
  deriving DecidableEq, Repr

/-- The codes that an action emits. -/
def emitted (w peek n : Nat) : List Nat :=
  match bits w 26 25 with
  | 0 => []
  | 1 => [if ebit w 24 then peek / 2 ^ (n - 4) % 16 else w % 16]
  | 2 => [w % 16, w / 16 % 16]
  | _ => [if ebit w 24 then peek / 2 ^ (n - 8) % 256 else w % 256]

/-- One turn of the decoder's loop; an error is its number (R137). -/
def Dec.step (d : Dec) (tab : List Word) (q4 : Bool) (ch : Chunk) : Except Nat Dec :=
  match dispatchOf (nthW tab d.state).toNat with
  | none => .error 3
  | some (pw, base) =>
    let peek := ch.val / 2 ^ d.pos % 4096
    let w := (nthW tab (base + peek % 2 ^ pw)).toNat
    if bits w 31 31 = 0 then .error 3
    else if bits w 30 27 = 15 then .error 1
    else if !actionOk q4 w then .error 2
    else
      let n := bits w 30 27 + 1
      if ch.len < d.pos + n then .error 4
      else
        let p := d.psn || (match ch.bad with
          | none => false
          | some b => decide (b < d.pos + max n pw))
        .ok ⟨d.pos + n, bits w 23 15, (emitted w peek n).reverse.map (fun v => (v, p)) ++ d.out, p⟩

/-- Decode until so many codes have been produced; `fuel` is more than the bits of the chunk. -/
def Dec.until (tab : List Word) (q4 : Bool) (ch : Chunk) (need : Nat) : Nat → Dec → Dec × Option Nat
  | 0, d => (d, some 4)
  | f + 1, d =>
    if need ≤ d.out.length then (d, none)
    else match d.step tab q4 ch with
      | .error e => (d, some e)
      | .ok d => Dec.until tab q4 ch need f d

/-- Bytes of a packed line from its codes (R126). -/
def packLine (q4 : Bool) : List (Nat × Bool) → PBytes
  | [] => []
  | [x] => [(BitVec.ofNat 8 x.1, x.2)]
  | x :: y :: cs =>
    if q4 then (BitVec.ofNat 8 (x.1 + 16 * y.1), x.2 || y.2) :: packLine q4 cs
    else (BitVec.ofNat 8 x.1, x.2) :: packLine q4 (y :: cs)

/-- Read a chunk of a coded tensor: error 6 past its last chunk, 5 for a fault (R135, R138). -/
def pegChunk (c : Cmd) (e : Fdt) (t : PegTab) (k : Nat) : EngM Chunk := do
  if t.idx.length ≤ k + 1 then efail 0x0406 0
  let i := (nthW t.idx k).toNat
  let j := (nthW t.idx (k + 1)).toNat
  let bs ← orFault (engRead c (.va (e.dbase + i)) (j - i)) 0x0405
  pure ⟨pval bs, 8 * bs.length, (bs.findIdx? (·.2)).map (8 * ·)⟩

/-- The lines of a chunk from `l0` up to `l1`, as far as they are produced, and the error of the chunk (R137): its number, and
the lines produced before it, from `l0` on. The whole chunk is decoded; an error in lines behind `l1` is left to the command's
later sectors when it has some (`more`). -/
def chunkLines (e : Fdt) (t : PegTab) (ch : Chunk) (l0 l1 : Nat) (more : Bool) : List PBytes × Option (Nat × Nat) :=
  let (d, err) := Dec.until t.tab e.q4 ch (2 ^ e.chlog * e.cpl) (ch.len + 1) ⟨0, 0, [], false⟩
  let cs := d.out.reverse
  let have_ := cs.length / e.cpl
  ((List.range (min l1 have_ - l0)).map (fun k => packLine e.q4 ((cs.drop ((l0 + k) * e.cpl)).take e.cpl)),
   if more && decide (l1 ≤ have_) then none else err.map (fun q => (q, have_ - l0)))

/-- Decoded lines from line `l` of the tensor, `n` of them, as far as they are produced, and the error that ended them with
the lines produced before it; `fuel` is at least the number of chunks they lie in. -/
def pegLines (c : Cmd) (e : Fdt) (t : PegTab) (more : Bool) : Nat → Nat → Nat → EngM (List PBytes × Option (Nat × Nat))
  | 0, _, _ => pure ([], none)
  | f + 1, l, n => fun s =>
    if n = 0 then .ok (([], none), s)
    else
      let z := 2 ^ e.chlog
      let l0 := l % z
      let l1 := min z (l0 + n)
      match (pegChunk c e t (l / z)).run s with
      | .error (.fault (q, _) s) => .ok (([], some (q - 0x0400, 0)), s)
      | .error (.wait d q s) => .error (.wait d q s)
      | .ok (ch, s) =>
        let (ls, err) := chunkLines e t ch l0 l1 (more || decide (l1 < l0 + n))
        match err with
        | some _ => .ok ((ls, err), s)
        | none =>
          match (pegLines c e t more f (l + (l1 - l0)) (n - (l1 - l0))).run s with
          | .error q => .error q
          | .ok ((ms, err), s) => .ok ((ls ++ ms, err.map (fun q => (q.1, ls.length + q.2))), s)

end Sys2Proof.Machine
end

