-- ==== Sys2Proof/Machine/Bankop.lean ====
section
/-! DEFINITION. The bank engine: the four BANKOPs and the event BANKOP_EXECUTE (spec/08_memory.md R177, R178;
spec/16_ref_a_b.md R345, R346). -/

namespace Sys2Proof.Machine

/-- Read and check a local-store offset of a request of `n` bytes, aligned to its length (R109, R345). -/
def reqOffset (x : Ctx) (a : Ix) (n : Nat) : OpM Nat := do
  let v ← readAddr x a
  let w := BitVec.ofNat 64 (umod 64 v)
  if v < 0 ∨ (Config.lsBytes : Int) ≤ v + (n - 1 : Nat) then trapAddr 9 0x14 w
  if v % n ≠ 0 then trapAddr 7 0 w
  if !x.sl.smode && decide ((Config.lsSys : Int) ≤ v + (n - 1 : Nat)) then trapAddr 9 0x12 w
  pure v.toNat

/-- A BANKOP (R345). -/
def bankopSpec (op : Nat) (g : Guard) (tr : Bool) (d : Ix) (a : Opd) (ws : Option Ws) : OpSpec where
  g := g
  fields := [d, a.ix]
  kinds := fun x => x.lateOk d && x.intOk a.ix
  m := [a]
  d := none
  needs := [.pop a.ix, .cmd tr]
  run := fun x => do
    noQueueD x d
    let o ← reqOffset x a.ix 32
    acceptCmd x d tr ws (.bankop op o) id

/-- BANKOP.fill. -/
def specBankopFill (g : Guard) (tr : Bool) (d : Ix) (a : Opd) (ws : Option Ws) : OpSpec := bankopSpec 0 g tr d a ws
/-- BANKOP.axpy. -/
def specBankopAxpy (g : Guard) (tr : Bool) (d : Ix) (a : Opd) (ws : Option Ws) : OpSpec := bankopSpec 1 g tr d a ws
/-- BANKOP.cvt. -/
def specBankopCvt (g : Guard) (tr : Bool) (d : Ix) (a : Opd) (ws : Option Ws) : OpSpec := bankopSpec 2 g tr d a ws
/-- BANKOP.sum. -/
def specBankopSum (g : Guard) (tr : Bool) (d : Ix) (a : Opd) (ws : Option Ws) : OpSpec := bankopSpec 3 g tr d a ws

/-! ### The engine (R178, R346) -/

/-- A BANKOP's request as the engine reads it. -/
structure BankReq where
  op  : Nat
  dva : Nat
  sva : Nat
  sk  : FK
  dk  : FK
  rm  : Rm
  sat : Bool
  n   : Nat
  arg : Nat
  deriving DecidableEq, Repr

/-- A request that passes the checks of R178 and R346. -/
def bankReq (op : Nat) (ws : List Word) : Option BankReq :=
  let w := (nthW ws 2).toNat
  let dva := (nthW ws 0).toNat
  let sva := (nthW ws 1).toNat
  let n := bits w 31 0
  match fkOf (bits w 47 44), fkOf (bits w 43 40) with
  | some sk, some dk =>
    let la := if op = 3 then 8 else n * dk.bytes
    let lb := n * sk.bytes
    let lap := decide (op ≠ 0) && !(decide (dva = sva) && decide (la = lb)) && decide (dva < sva + lb ∧ sva < dva + la)
    let kinds := match op with
      | 0 => decide (bits w 47 44 = 0 ∧ sva = 0)
      | 1 => decide (sk = dk ∧ bits w 43 40 ≤ 2)
      | 2 => true
      | _ => decide (dk = .a56)
    if bits w 63 48 ≠ 0 ∨ bits w 36 32 ≠ 0 ∨ n = 0 ∨ dva % 128 ≠ 0 ∨ sva % 128 ≠ 0 then none
    else if !kinds || lap then none
    else some ⟨op, dva, sva, sk, dk, rmOf (bits w 39 38), ebit w 37, n, (nthW ws 3).toNat⟩
  | _, _ => none

/-- Check the pages of a range for a BANKOP: a place in host memory has code 0x0602, any other place that is no bank, tier
or peer window too. -/
def bankCheck (c : Cmd) (a n : Nat) (k : AKind) : EngM Unit :=
  (pagesOf a n).forM (fun v => do
    let (pa, _) ← engXlate c v k
    if isHost pa then efail 0x0602 0x15
    if !isDev pa && !isPeer pa then efail 0x0602 0)

/-- Elements of a unit of work: a destination line, or for `.sum` a source line. -/
def BankReq.per (r : BankReq) : Nat := 128 / (if r.op = 3 then r.sk.bytes else r.dk.bytes)
/-- Units of a request. -/
def BankReq.units (r : BankReq) : Nat := (r.n + r.per - 1) / r.per

/-- What is done with a destination line (R178), and the bytes with which, from those of the source. -/
def BankReq.line (r : BankReq) (xs : PBytes) (n : Nat) : LineOp × PBytes :=
  match r.op with
  | 0 => (.put, bytesOf r.dk (List.replicate n (r.arg % 2 ^ (8 * r.dk.bytes), false)))
  | 1 => (.axpy r.dk r.rm r.sat (r.arg % 2 ^ 32), xs)
  | _ => (.put, bytesOf r.dk ((elemsOf r.sk n xs).map (fun e => ((r.sk.convert r.dk r.rm r.sat e.1).1, e.2))))

/-- Unit `k` of a transform (R346). -/
def BankReq.unit (r : BankReq) (c : Cmd) (k : Nat) : EngM Unit := do
  let i := k * r.per
  let n := min r.n (i + r.per) - i
  let src := r.sva + i * r.sk.bytes
  let dst := r.dva + i * r.dk.bytes
  let sn := if r.op = 0 then 0 else n * r.sk.bytes
  bankCheck c src sn .rd
  bankCheck c dst (n * r.dk.bytes) .wr
  let xs ← engRead c (.va src) sn
  let (pa, l) ← engXlate c dst .wr
  let (op, ss) := r.line xs n
  engLine c pa l.trace op ss

/-- Source line `k` of a sum: the accumulator and its poison so far; the last line is followed by the write. -/
def BankReq.sumUnit (r : BankReq) (c : Cmd) (k acc : Nat) (p : Bool) : EngM (Nat × Bool) := do
  let i := k * r.per
  let n := min r.n (i + r.per) - i
  bankCheck c (r.sva + i * r.sk.bytes) (n * r.sk.bytes) .rd
  bankCheck c r.dva 8 .wr
  let xs ← engRead c (.va (r.sva + i * r.sk.bytes)) (n * r.sk.bytes)
  let (acc, p) := (elemsOf r.sk n xs).foldl (fun a e =>
    (((fAdd .rne (FK.a56.decode a.1) (r.sk.decode e.1)).round .a56 .rne r.sat).1, a.2 || e.2)) (acc, p)
  if i + n = r.n then engWrite c (.va r.dva) (bytesOf .a56 [(acc, p)])
  pure (acc, p)

/-- The next unit of a BANKOP; `aux` keeps the request, and behind it a sum's accumulator and poison. -/
def bankStep (r : BankReq) (req : List Nat) (c : Cmd) (s : State) : EStep × State :=
  let k := c.prog
  let next := fun (aux : List Nat) (s : State) =>
    if r.units ≤ k + 1 then (EStep.done 0 0 0, s) else (EStep.more { c with prog := k + 1, aux := req ++ aux }, s)
  if r.op = 3 then
    stepEng c (r.sumUnit c k (c.aux[4]?.getD 0) (decide (c.aux[5]?.getD 0 = 1))) s
      (fun a s => next [a.1, b2n a.2] s) (fun e s => (.done e.1 e.2 0, s))
  else
    stepEng c (r.unit c k) s (fun _ s => next [] s) (fun e s => (.done e.1 e.2 (cap32 (128 * k)), s))

/-- DETAIL of a BANKOP that is cancelled at a line boundary (R346). -/
def bankCancel (op : Nat) (c : Cmd) : Nat := if op = 3 then 0 else cap32 (128 * c.prog)

/-- BANKOP_EXECUTE (R346): the request is read when the command begins. -/
def execBankopExecute (id : Id) (upTo : Option Nat) (s : State) : Host.Outcome State Fault Refusal :=
  .next (s.cmdEvent id (fun c s =>
    match c.kind with
    | .bankop op off =>
      let (ws, p) := if c.aux.isEmpty then s.reqWords c.core off 4 else (c.aux.map (BitVec.ofNat 64), false)
      if p then s.endCmd id c 0x0103 0 0
      else match bankReq op ws with
        | none => s.endCmd id c 0x0601 0 0
        | some r =>
          let req := (ws.take 4).map (·.toNat)
          engLoop (bankStep r req) (fun c s => some (bankCancel op c, s)) id (upTo.getD r.units) { c with aux := req ++ c.aux.drop 4 } s
    | _ => s))

/-! ### The meanings -/

/-- BANKOP_FILL. -/
def execBankopFill (g : Guard) (tr : Bool) (d : Ix) (a : Opd) (ws : Option Ws) (s : State) : Host.Outcome State Fault Refusal :=
  issue (specBankopFill g tr d a ws) s
/-- BANKOP_AXPY. -/
def execBankopAxpy (g : Guard) (tr : Bool) (d : Ix) (a : Opd) (ws : Option Ws) (s : State) : Host.Outcome State Fault Refusal :=
  issue (specBankopAxpy g tr d a ws) s
/-- BANKOP_CVT. -/
def execBankopCvt (g : Guard) (tr : Bool) (d : Ix) (a : Opd) (ws : Option Ws) (s : State) : Host.Outcome State Fault Refusal :=
  issue (specBankopCvt g tr d a ws) s
/-- BANKOP_SUM. -/
def execBankopSum (g : Guard) (tr : Bool) (d : Ix) (a : Opd) (ws : Option Ws) (s : State) : Host.Outcome State Fault Refusal :=
  issue (specBankopSum g tr d a ws) s

end Sys2Proof.Machine
end

