-- ==== Sys2Proof/Machine/Plectrum.lean ====
section
/-! DEFINITION. The Plectrum gather and scatter engine: GATHER, SCATTER, SCATADD and their events (spec/10_plectrum.md R213
to R226; spec/20_ref_s.md R401). -/

namespace Sys2Proof.Machine

/-! ### The request (R214 to R217) -/

/-- The three commands. -/
inductive PlkOp where
  | gather | scatter | scatadd
  deriving DecidableEq, Repr

/-- The fields of a request (R215). -/
structure PlkReq where
  base : Nat
  n : Nat
  rb : Nat
  stride : Nat
  ioff : Nat
  loff : Nat
  bmoff : Nat
  iw : Nat
  soff : Nat
  sce : Bool
  ek : Nat
  rm : Nat
  sat : Bool
  resv : Nat
  deriving DecidableEq, Repr

/-- The fields of four words. -/
def plkReq (ws : List Word) : PlkReq :=
  let w := fun k => nthW ws k
  { base := (w 0).toNat, n := wbits (w 1) 63 52 + 1, rb := 4 * (wbits (w 1) 49 40 + 1), stride := wbits (w 1) 39 0
    ioff := wbits (w 2) 63 46, loff := wbits (w 2) 45 28, bmoff := wbits (w 2) 27 10, iw := wbits (w 2) 9 9
    soff := wbits (w 3) 63 46, sce := decide (wbits (w 3) 45 45 = 1), ek := wbits (w 3) 44 41, rm := wbits (w 3) 40 39
    sat := decide (wbits (w 3) 38 38 = 1), resv := wbits (w 1) 51 50 + wbits (w 2) 8 0 + wbits (w 3) 37 0 }

/-- Bytes of an index entry. -/
def PlkReq.isz (r : PlkReq) : Nat := 4 * (1 + r.iw)
/-- Bytes of a slot of the data area. -/
def PlkReq.pitch (r : PlkReq) : Nat := (r.rb + 7) / 8 * 8
/-- Bytes of a sidecar slot. -/
def PlkReq.spe (r : PlkReq) : Nat := 8 * ((r.rb + 31) / 32)
/-- Bytes of the bitmap. -/
def PlkReq.bmBytes (r : PlkReq) : Nat := 8 * ((r.n + 63) / 64)

/-- An area of the local store: first byte and length. -/
abbrev Area := Nat × Nat

/-- The index vector. -/
def PlkReq.idx (r : PlkReq) : Area := (r.ioff, r.n * r.isz)
/-- The data area. -/
def PlkReq.data (r : PlkReq) : Area := (r.loff, r.n * r.pitch)
/-- The bitmap. -/
def PlkReq.bm (r : PlkReq) : Area := (r.bmoff, r.bmBytes)
/-- The sidecar area, where there is one. -/
def PlkReq.side (r : PlkReq) (op : PlkOp) : List Area := if op = .gather ∧ r.sce then [(r.soff, r.n * r.spe)] else []

/-- The destination areas of a command (R214). -/
def PlkReq.dests (r : PlkReq) (op : PlkOp) : List Area :=
  match op with
  | .gather => [r.data, r.bm] ++ r.side op
  | .scatter => [r.bm]
  | .scatadd => [r.bm]

/-- Every area of a command. -/
def PlkReq.areas (r : PlkReq) (op : PlkOp) : List Area := [r.idx, r.data, r.bm] ++ r.side op

/-- Two areas overlap. -/
def lapArea (a b : Area) : Bool := decide (a.1 < b.1 + b.2 ∧ b.1 < a.1 + a.2)

/-- Some two of a list overlap. -/
def anyLap : List Area → Bool
  | [] => false
  | a :: as => as.any (lapArea a) || anyLap as

/-- A field that R215 requires to be zero is not, or the element kind is not allowed. -/
def PlkReq.badFields (r : PlkReq) (op : PlkOp) : Bool :=
  decide (r.resv ≠ 0) ||
  match op with
  | .gather => decide (r.ek ≠ 0 ∨ r.rm ≠ 0) || r.sat || (!r.sce && decide (r.soff ≠ 0))
  | .scatter => decide (r.ek ≠ 0 ∨ r.rm ≠ 0 ∨ r.soff ≠ 0) || r.sat || r.sce
  | .scatadd => decide (r.soff ≠ 0) || r.sce ||
    (match ekBytes r.ek with
     | none => true
     | some z => decide (r.rb % z ≠ 0) || (decide (8 ≤ r.ek) && (decide (r.rm ≠ 0) || r.sat)))

/-- The areas break R216. -/
def PlkReq.badAreas (r : PlkReq) (op : PlkOp) : Bool :=
  (r.areas op).any (fun a => decide (0x40000 < a.1 + a.2)) ||
  match op with
  | .gather => anyLap (r.dests op) || (r.dests op).any (lapArea r.idx)
  | .scatter => lapArea r.bm r.idx || lapArea r.bm r.data
  | .scatadd => lapArea r.bm r.idx || lapArea r.bm r.data

/-- The check of a request (R216): the CODE and SUB of the first failing row. -/
def PlkReq.check (r : PlkReq) (op : PlkOp) (smode : Bool) : Option (Nat × Nat) :=
  if r.badFields op || r.badAreas op then some (0x0105, 0)
  else if r.ioff % r.isz ≠ 0 ∨ r.loff % 8 ≠ 0 ∨ r.bmoff % 8 ≠ 0 ∨ r.soff % 8 ≠ 0 ∨ r.base % 4 ≠ 0 ∨ r.stride % 4 ≠ 0 then
    some (0x0104, 0)
  else if !smode && (r.areas op).any (fun a => decide (Config.lsSys < a.1 + a.2)) then some (0x0102, 0x12)
  else none

/-- The command of an op. -/
def PlkOp.kind (op : PlkOp) (req : List Word) (psn keepf : Bool) : CmdKind :=
  match op with
  | .gather => .gather req psn keepf
  | .scatter => .scatter req psn keepf
  | .scatadd => .scatadd req psn keepf

/-- A vector name of 64-bit integer elements with at least four columns (R214). -/
def plkVec (x : Slot) (a : Ix) : Bool :=
  match x.kind a with
  | some (.ivec _ w _ _ c) => decide (elemW w = 64 ∧ 4 ≤ c)
  | _ => false

/-- GATHER, SCATTER, SCATADD at issue (R214, R401). -/
def plkSpec (op : PlkOp) (g : Guard) (m : PlkMods) (d : Ix) (a : Opd) (ws : Option Ws) : OpSpec where
  g := g
  fields := [d, a.ix]
  kinds := fun x => x.lateOk d && plkVec x a.ix
  m := [a]
  d := none
  needs := [.cmd m.try_]
  run := fun x => do
    noQueueD x d
    let (vs, p) ← readVec x a.ix
    if p then trapName 0x0A 0 a.ix
    let req := (vs.take 4).map (fun v => BitVec.ofNat 64 (umod 64 v))
    let r := plkReq req
    acceptCmd x d m.try_ ws (op.kind req m.psn m.keepf) (fun s =>
      if m.keepf || (r.check op x.sl.smode).isSome then s
      else (r.dests op).foldl (fun st q => st.clearF x.core q.1 q.2) s)

/-- GATHER. -/
def specGather (g : Guard) (m : PlkMods) (d : Ix) (a : Opd) (ws : Option Ws) : OpSpec := plkSpec .gather g m d a ws
/-- SCATTER. -/
def specScatter (g : Guard) (m : PlkMods) (d : Ix) (a : Opd) (ws : Option Ws) : OpSpec := plkSpec .scatter g m d a ws
/-- SCATADD. -/
def specScatadd (g : Guard) (m : PlkMods) (d : Ix) (a : Opd) (ws : Option Ws) : OpSpec := plkSpec .scatadd g m d a ws

/-! ### Rows (R217 to R221) -/

/-- The leaf of a VA for an engine, without a check of permissions; an error is the XLATE subcode. -/
def leafNow (c : Cmd) (va : Nat) : EngM Leaf := fun s =>
  if !canonical va then .error (.fault (1, 1) s)
  else
    let go := fun (l : Leaf) (s : State) =>
      if backed (l.pa + (va - l.base)) then Except.ok (l, s) else .error (.fault (1, 6) s)
    match s.cached c.clu c.part va with
    | some l => go l s
    | none =>
      let s := s.countClu c.clu c.part 0x10 c.smode 1
      match s.walkVa c.part va with
      | .error sc => .error (.fault (1, sc) s)
      | .ok l => go l (if backed (l.pa + (va - l.base)) then s.fillCache c.clu c.part va l else s)

/-- The address of a row, or none where it passes 2^64 or a byte is not canonical (R218). -/
def PlkReq.row (r : PlkReq) (x : Nat) : Option Nat :=
  let a := r.base + x * r.stride
  if canonical a && canonical (a + r.rb - 1) && decide (a / 2 ^ 63 = (a + r.rb - 1) / 2 ^ 63) then some a else none

/-- The leaves of the pages of a row: first every translation, then every permission (R221). A fault is FKIND and SUB. -/
def rowLeaves (c : Cmd) (a n : Nat) (k : AKind) : EngM (List Leaf) := do
  let ls ← (pagesOf a n).mapM (leafNow c)
  match ls.findSome? (fun l => permFault l c.smode k) with
  | some (_, sc) => efail 2 sc
  | none => pure ls

/-- A fault of an access as FKIND and SUB. -/
def asKind {α : Type} (m : EngM α) : EngM α := fun s =>
  match m s with
  | .ok r => .ok r
  | .error (.fault (code, sub) s) => .error (.fault (if code = 0x0102 then 2 else 1, sub) s)
  | .error (.wait d q s) => .error (.wait d q s)

/-- The sidecar entries of a row (R220). The entry of the first page's format is read, also where that is raw, and every page
of the row has its FDX; a fault on a page of the sidecar entries is reported like one on the row's (log entry 80). -/
def rowSide (c : Cmd) (r : PlkReq) (a : Nat) (ls : List Leaf) : EngM PBytes := do
  let fdx := (ls.map (·.fdx)).headD 0
  let s ← get
  match s.fdtEntry c.part fdx with
  | none => efail 1 0x20
  | some none => if ls.any (fun l => decide (l.fdx ≠ fdx)) then efail 1 0x21 else pure []
  | some (some e) =>
    if e.coded then efail 1 0x22
    let gb := if e.q4 then e.gsz / 2 else e.gsz
    let off := (a : Int) - e.dbase
    if off % gb ≠ 0 ∨ r.rb % gb ≠ 0 ∨ ls.any (fun l => decide (l.fdx ≠ fdx)) then efail 1 0x21
    asKind (engRead c (.va (umod 64 ((e.sbase : Int) + off / gb * 4))) (4 * (r.rb / gb)))

/-- The outcome of a fetch: a row with its sidecar bytes, each as a number, or a fault's FKIND and SUB. -/
structure PlkRow where
  x    : Nat
  kind : Nat
  sub  : Nat
  row  : Nat
  side : Nat
  deriving DecidableEq, Repr

/-- A row under way (R219, R401): the element it was begun for, its index value, the PAs of the row's first byte and of the
first byte of its second page, and the TRACE bits of the two pages. Of a GATHER, the number of bytes read so far, the bytes,
their poison, and the sidecar bytes; of a SCATTER or SCATADD, the number of bytes moved so far, the bytes of the slot, and in
`side` which of them are poisoned. -/
structure PlkFetch where
  elem : Nat
  x    : Nat
  pa1  : Nat
  pa2  : Nat
  pos  : Nat
  row  : Nat
  psn  : Bool
  side : Nat
  tr1  : Bool
  tr2  : Bool
  deriving DecidableEq, Repr

/-- The PA of byte `k` of a row under way, and the TRACE bit of its page. -/
def PlkFetch.at (f : PlkFetch) (r : PlkReq) (k : Nat) : Nat × Bool :=
  let first := 65536 - (r.row f.x).getD 0 % 65536
  if k < first then (f.pa1 + k, f.tr1) else (f.pa2 + (k - first), f.tr2)

/-- A row whose pages have these leaves comes under way. -/
def rowFetch (i x a n : Nat) (ls : List Leaf) (row : Nat) (psn : Bool) (side : Nat) : PlkFetch :=
  let pas := ((pagesOf a n).zip ls).map (fun e => e.2.pa + (e.1 - e.2.base))
  ⟨i, x, pas.headD 0, (pas[1]?).getD 0, 0, row, psn, side, (ls.head?.elim false (·.trace)), (ls[1]?.elim false (·.trace))⟩

/-- RowOf (R218) begins: every page of the row of an index value is translated and checked, and its sidecar bytes are read. -/
def rowBegin (c : Cmd) (r : PlkReq) (i x : Nat) : EngM PlkFetch := do
  match r.row x with
  | none => efail 1 1
  | some a =>
    let ls ← (pagesOf a r.rb).mapM (leafNow c)
    let side ← if r.sce then (match ls.findSome? (fun l => permFault l c.smode .rd) with
        | some _ => fun s =>
          match (rowSide c r a ls).run s with
          | .error (.fault (1, sub) s) => .error (.fault (1, sub) s)
          | .error (.wait d q s) => .error (.wait d q s)
          | _ => .ok ([], s)
        | none => rowSide c r a ls) else pure []
    let _ ← rowLeaves c a r.rb .rd
    pure (rowFetch i x a r.rb ls 0 (ppsn side) (pval side))

/-- RowOf reads the next word of the row, on its own (R219), in rising order (log entry 79); whether the row has been read
then. -/
def PlkFetch.next (f : PlkFetch) (c : Cmd) (r : PlkReq) : EngM (PlkFetch × Bool) := do
  let a := (r.row f.x).getD 0 + f.pos
  let k := min (r.rb - f.pos) (8 - a % 8)
  let bs ← engPiece c (f.at r f.pos).1 k
  let g := { f with pos := f.pos + k, row := f.row + pval bs * 2 ^ (8 * f.pos), psn := f.psn || ppsn bs }
  pure (g, decide (r.rb ≤ g.pos))

/-- The outcome of a fetch whose row has been read. -/
def PlkFetch.done (f : PlkFetch) : PlkRow := if f.psn then ⟨f.x, 3, 0, 0, 0⟩ else ⟨f.x, 0, 0, f.row, f.side⟩

/-! ### Progress -/

/-- How far a command has come: decided and failed elements as bit sets, the lowest failed element with its FKIND and SUB, the
fetch under way, and what was fetched for the index values met so far (R219). -/
structure PlkSt where
  decided : Nat
  failed  : Nat
  felem   : Nat
  fkind   : Nat
  fsub    : Nat
  cur     : Option PlkFetch
  rows    : List PlkRow
  deriving DecidableEq, Repr

/-- Progress as a command keeps it. -/
def PlkSt.aux (p : PlkSt) : List Nat :=
  [p.decided, p.failed, p.felem, p.fkind, p.fsub] ++
  (match p.cur with
   | none => List.replicate 11 0
   | some f => [1, f.elem, f.x, f.pa1, f.pa2, f.pos, f.row, b2n f.psn, f.side, b2n f.tr1, b2n f.tr2]) ++
  p.rows.flatMap (fun w => [w.x, w.kind, w.sub, w.row, w.side])

/-- What was fetched, as a command keeps it. -/
def plkRows : List Nat → List PlkRow
  | x :: k :: sc :: w :: v :: rest => ⟨x, k, sc, w, v⟩ :: plkRows rest
  | _ => []

/-- Progress that a command keeps. -/
def plkSt (c : Cmd) : PlkSt :=
  let k := fun n => c.aux[n]?.getD 0
  ⟨k 0, k 1, k 2, k 3, k 4,
   if k 5 = 0 then none
   else some ⟨k 6, k 7, k 8, k 9, k 10, k 11, decide (k 12 = 1), k 13, decide (k 14 = 1), decide (k 15 = 1)⟩,
   plkRows (c.aux.drop 16)⟩

/-- Members of a bit set below `n`. -/
def members (n b : Nat) : List Nat := (List.range n).filter (fun i => b.testBit i)

/-- Elements that are decided, or failed. -/
def PlkSt.mark (p : PlkSt) (is : List Nat) (f : Option (Nat × Nat)) : PlkSt :=
  let b := is.foldl (fun b i => b ||| 2 ^ i) 0
  match f with
  | none => { p with decided := p.decided ||| b }
  | some (k, sc) =>
    let i := is.headD 0
    let low := decide (p.failed = 0) || decide (i < p.felem)
    let q := { p with decided := p.decided ||| b, failed := p.failed ||| b }
    if low then { q with felem := i, fkind := k, fsub := sc } else q

/-- Index entry `i` with its P bit (R217). -/
def State.plkIndex (s : State) (c : Cmd) (r : PlkReq) (i : Nat) : Nat × Bool :=
  let o := r.ioff + i * r.isz
  (s.lsRead c.core o r.isz, s.lsP c.core o)

/-- Write whole words of a local store: the bytes, F ← 1, P ← `p`. -/
def State.lsFill (s : State) (core off : Nat) (bs : List Byte) (p : Bool) : State :=
  ((wordsOf off bs.length).foldl (fun (a : State × List Byte) q =>
    ((a.1.lsWrite core q.1 8 (leBytes (a.2.take 8)) p).setLsF core q.1 true, a.2.drop 8)) (s, bs)).1

/-- Deliver a row to the slot of an element, or zeros to the slot of a failed one (R218). -/
def State.deliver (s : State) (c : Cmd) (r : PlkReq) (psn : Bool) (row : Option (Nat × Nat)) (i : Nat) : State :=
  let (bs, side) := row.getD (0, 0)
  let p := row.isNone && psn
  let s := s.lsFill c.core (r.loff + i * r.pitch) (toBytes r.pitch bs) p
  if r.sce then s.lsFill c.core (r.soff + i * r.spe) (toBytes r.spe side) p else s

/-- Write the bitmap (R218, R226). -/
def State.bitmap (s : State) (c : Cmd) (r : PlkReq) (b : Nat) : State :=
  s.lsFill c.core r.bmoff (toBytes r.bmBytes b) false

/-- The status of a command all of whose elements are decided (R224). -/
def PlkSt.status (p : PlkSt) (n : Nat) : Nat × Nat × Nat :=
  if p.failed = 0 then (0, 0, 0)
  else (0x0501, p.fsub, (members n p.failed).length * 2 ^ 16 + p.fkind * 2 ^ 12 + p.felem)

/-- The next step of a command once an element has been decided. -/
def plkNext (c : Cmd) (r : PlkReq) (p : PlkSt) (s : State) : EStep × State :=
  if (members r.n p.decided).length = r.n then
    let (code, sub, d) := p.status r.n
    (.done code sub d, s.bitmap c r p.failed)
  else (.more { c with aux := p.aux, prog := (members r.n p.decided).length }, s)

/-- The fetch of an index value has an outcome: it is kept, and delivered to element `i` and to every other that is not
decided and bears the value (R219). -/
def plkDeliver (r : PlkReq) (psn : Bool) (c : Cmd) (p : PlkSt) (i : Nat) (w : PlkRow) (s : State) : EStep × State :=
  let is := (List.range r.n).filter (fun j => !p.decided.testBit j &&
    (decide (j = i) || decide (s.plkIndex c r j = (w.x, false))))
  let p := { p with cur := none, rows := if p.rows.any (fun v => decide (v.x = w.x)) then p.rows else w :: p.rows }
  if w.kind = 0 then plkNext c r (p.mark is none) (is.foldl (fun st j => st.deliver c r psn (some (w.row, w.side)) j) s)
  else plkNext c r (p.mark is (some (w.kind, w.sub))) (is.foldl (fun st j => st.deliver c r psn none j) s)

/-- The next step of a GATHER: a word of the row that is being fetched; or the next element, for which a fetch begins unless
its index value has been fetched (R218, R219). -/
def gatherStep (r : PlkReq) (psn : Bool) (c : Cmd) (s : State) : EStep × State :=
  let p := plkSt c
  match p.cur with
  | some f => stepEng c (f.next c r) s
      (fun g s => if g.2 then plkDeliver r psn c p f.elem g.1.done s
        else (.more { c with aux := { p with cur := some g.1 }.aux }, s))
      (fun e s => plkDeliver r psn c p f.elem ⟨f.x, e.1, e.2, 0, 0⟩ s)
  | none =>
    match (List.range r.n).find? (fun i => !p.decided.testBit i) with
    | none => plkNext c r p s
    | some i =>
      let (x, px) := s.plkIndex c r i
      if px then plkNext c r (p.mark [i] (some (4, 0))) (s.deliver c r psn none i)
      else match p.rows.find? (fun w => decide (w.x = x)) with
        | some w => plkDeliver r psn c p i w s
        | none => stepEng c (rowBegin c r i x) s
            (fun f s => (.more { c with aux := { p with cur := some f }.aux }, s))
            (fun e s => plkDeliver r psn c p i ⟨x, e.1, e.2, 0, 0⟩ s)

/-! ### SCATTER and SCATADD (R221 to R223) -/

/-- The bytes of the slot of an element, each with the P of its word. -/
def State.plkSlot (s : State) (c : Cmd) (r : PlkReq) (i : Nat) : PBytes :=
  (wordsOf (r.loff + i * r.pitch) r.rb).flatMap (fun q => s.piece (.ls c.core q.1) q.2)

/-- Which bits of a list are set, as a number. -/
def bitSet : List Bool → Nat
  | [] => 0
  | b :: bs => b2n b + 2 * bitSet bs

/-- The slot of an element begins to move to its row: every page of the row is checked, and the slot is read. -/
def moveBegin (op : PlkOp) (r : PlkReq) (psn : Bool) (c : Cmd) (i x : Nat) : EngM PlkFetch := do
  let k : AKind := if op = .scatadd then .rw else .wr
  match r.row x with
  | none => efail 1 1
  | some a =>
    let ls ← rowLeaves c a r.rb k
    let host := (pagesOf a r.rb).zip ls |>.any (fun e => isHost (e.2.pa + (e.1 - e.2.base)))
    if op = .scatadd && host then efail 2 0x15
    let s ← get
    let bs := if op = .scatadd ∧ r.ek = 5 then a56Psn (r.rb / 8) (s.plkSlot c r i) else s.plkSlot c r i
    if ppsn bs && !psn then efail 3 0
    pure (rowFetch i x a r.rb ls (pval bs) false (bitSet (bs.map (·.2))))

/-- The bytes of a slot that are still to move. -/
def PlkFetch.rest (f : PlkFetch) (r : PlkReq) : PBytes :=
  (((toBytes r.rb f.row).zipIdx).map (fun e => (e.1, f.side.testBit e.2))).drop f.pos

/-- SCATTER writes the next word of a row (R401). -/
def PlkFetch.put (f : PlkFetch) (c : Cmd) (r : PlkReq) : EngM PlkFetch := do
  let a := (r.row f.x).getD 0 + f.pos
  let k := min (r.rb - f.pos) (8 - a % 8)
  let (pa, tr) := f.at r f.pos
  engLine c pa tr .put ((f.rest r).take k)
  pure { f with pos := f.pos + k }

/-- SCATADD adds the elements that lie in the next line of a row, as one operation at its bank (R223). An element that lies in
two lines is read and written on its own (log entry 72). -/
def PlkFetch.add (f : PlkFetch) (c : Cmd) (r : PlkReq) : EngM PlkFetch := do
  let a := (r.row f.x).getD 0 + f.pos
  let z := (ekBytes r.ek).getD 1
  let k := min (r.rb - f.pos) (128 - a % 128) / z * z
  if k ≠ 0 then
    let (pa, tr) := f.at r f.pos
    engLine c pa tr (.add r.ek (rmOf r.rm) r.sat) ((f.rest r).take k)
    pure { f with pos := f.pos + k }
  else
    let ws := wordsOf a z
    let ms ← ws.mapM (fun q => engPiece c (f.at r (f.pos + (q.1 - a))).1 q.2)
    let new := addElems r.ek (rmOf r.rm) r.sat z 1 ms.flatten ((f.rest r).take z)
    ws.forM (fun q =>
      let (pa, tr) := f.at r (f.pos + (q.1 - a))
      engLine c pa tr .put ((new.drop (q.1 - a)).take q.2))
    pure { f with pos := f.pos + z }

/-- The next step of a SCATTER or SCATADD: the row of the next element begins, or a part of it moves (R222, R223, R401). -/
def scatterStep (op : PlkOp) (r : PlkReq) (psn : Bool) (c : Cmd) (s : State) : EStep × State :=
  let p := plkSt c
  let next := fun (i : Nat) (e : Option (Nat × Nat)) (s : State) => plkNext c r ({ p with cur := none }.mark [i] e) s
  match p.cur with
  | some f => stepEng c (if op = .scatadd then f.add c r else f.put c r) s
      (fun g s => if r.rb ≤ g.pos then next f.elem none s else (.more { c with aux := { p with cur := some g }.aux }, s))
      (fun e s => next f.elem (some e) s)
  | none =>
    let i := c.prog
    let (x, px) := s.plkIndex c r i
    if px then next i (some (4, 0)) s
    else stepEng c (moveBegin op r psn c i x) s (fun f s => (.more { c with aux := { p with cur := some f }.aux }, s))
      (fun e s => next i (some e) s)

/-- Steps of a command: at most one for each word of a row, and some for each element. -/
def PlkReq.steps (r : PlkReq) : Nat := r.n * (r.rb / 4 + 3)

/-- What a cancelled command leaves at an element boundary (R226): DETAIL, and the bitmap written. One that fails R216 has done
nothing (log entry 78). -/
def State.plkCancel (s : State) (op : PlkOp) (req : List Word) (c : Cmd) : Nat × State :=
  let r := plkReq req
  if (r.check op c.smode).isSome then (0, s)
  else
    let p := plkSt c
    let left := (List.range r.n).foldl (fun b i => if p.decided.testBit i then b else b ||| 2 ^ i) 0
    (cap32 ((members r.n p.decided).length * r.rb), s.bitmap c r (p.failed ||| left))

/-- A Plectrum command at its front end: one that fails R216 does no work. -/
def plkRun (op : PlkOp) (id : Nat) (upTo : Option Nat) (req : List Word) (psn : Bool) (c : Cmd) (s : State) : State :=
  let r := plkReq req
  match r.check op c.smode with
  | some (code, sub) => s.endCmd id c code sub 0
  | none => engLoop (if op = .gather then gatherStep r psn else scatterStep op r psn)
      (fun c s => if (plkSt c).cur.isNone then some (s.plkCancel op req c) else none) id (upTo.getD r.steps) c s

/-- GATHER_EXECUTE (R218). -/
def execGatherExecute (id : Id) (upTo : Option Nat) (s : State) : Host.Outcome State Fault Refusal :=
  .next (s.cmdEvent id (fun c s =>
    match c.kind with
    | .gather req psn _ => plkRun .gather id upTo req psn c s
    | _ => s))

/-- SCATTER_EXECUTE (R222). -/
def execScatterExecute (id : Id) (upTo : Option Nat) (s : State) : Host.Outcome State Fault Refusal :=
  .next (s.cmdEvent id (fun c s =>
    match c.kind with
    | .scatter req psn _ => plkRun .scatter id upTo req psn c s
    | _ => s))

/-- SCATADD_EXECUTE (R223). -/
def execScataddExecute (id : Id) (upTo : Option Nat) (s : State) : Host.Outcome State Fault Refusal :=
  .next (s.cmdEvent id (fun c s =>
    match c.kind with
    | .scatadd req psn _ => plkRun .scatadd id upTo req psn c s
    | _ => s))

/-! ### The meanings -/

/-- GATHER. -/
def execGather (g : Guard) (m : PlkMods) (d : Ix) (a : Opd) (ws : Option Ws) (s : State) : Host.Outcome State Fault Refusal :=
  issue (specGather g m d a ws) s
/-- SCATTER. -/
def execScatter (g : Guard) (m : PlkMods) (d : Ix) (a : Opd) (ws : Option Ws) (s : State) : Host.Outcome State Fault Refusal :=
  issue (specScatter g m d a ws) s
/-- SCATADD. -/
def execScatadd (g : Guard) (m : PlkMods) (d : Ix) (a : Opd) (ws : Option Ws) (s : State) : Host.Outcome State Fault Refusal :=
  issue (specScatadd g m d a ws) s

end Sys2Proof.Machine
end

