-- ==== Sys2Proof/Machine/Capsules.lean ====
section
/-! DEFINITION. Capsules: the eight capsule instructions, entry and start of code stops, bank, home and sink stops, egress
(spec/11_capsules.md; spec/17_ref_c_e.md R348, R349). -/

namespace Sys2Proof.Machine

/-! ### The held capsule (R235, R242, R349) -/

/-- The buffer whose capsule the slot holds: CAPSULE subcode 1 where there is none. -/
def heldCapsule (x : Ctx) : OpM (Nat × CapBuf) := do
  let s ← get
  match s.heldBuf x.t with
  | none => trap 0x0F 1
  | some e => pure e

/-- Change the held buffer. -/
def putHeld (x : Ctx) (b : Nat) (c : CapBuf) : OpM Unit := modify (fun s => s.setBuf x.core b c)

/-- A capsule instruction with sources A and B: the kinds of R348, and the operation on the held capsule. -/
def capSpec (g : Guard) (a b : Option Opd) (kinds : Slot → Bool) (run : Ctx → Nat → CapBuf → OpM Unit) : OpSpec where
  g := g
  fields := (a.toList ++ b.toList).map (·.ix)
  kinds := kinds
  m := a.toList ++ b.toList
  d := none
  run := fun x => do
    let (k, c) ← heldCapsule x
    run x k c
    seqNext

/-- Read A and B modulo 2^64: EMPTY_READ of either comes before POISON of either (R349). -/
def readTwo (x : Ctx) (a b : Opd) : OpM (Int × Int) := do
  let (v, p) ← readInt x a.ix
  let (w, q) ← readInt x b.ix
  if p then trapName 0x0A 0 a.ix
  if q then trapName 0x0A 0 b.ix
  pure (v, w)

/-- A value modulo 2^64. -/
def asWord (v : Int) : Word := BitVec.ofNat 64 (umod 64 v)

/-! ### CMAKE (R243) -/

/-- The capsule of an image (R243): header, itinerary and tile from an offset. -/
def madeCapsule (x : Ctx) (s : State) (o : Nat) (h its : List Word) : Capsule :=
  let tile := s.lsWords x.core (o + 320) (hTb h / 8)
  let h := setH1 (setH1 (setH1 h 63 48 x.t) 47 38 s.devNum) 31 0 x.sl.launch
  ⟨setH0 h 15 15 (b2n (tileP tile)), its, tile, x.part, x.sl.bears, some x.core⟩

/-- CMAKE. -/
def specCmake (g : Guard) (d : Ix) (a : Opd) : OpSpec where
  g := g
  fields := [d, a.ix]
  kinds := fun x => x.intNil d && x.intNil a.ix
  m := [a]
  d := none
  run := fun x => do
    let v ← readAddr x a.ix
    if v < 0 ∨ (2 ^ 18 : Int) ≤ v then trapAddr 9 0x14 (asWord v)
    if v % 64 ≠ 0 then trapAddr 7 0 (asWord v)
    let o := v.toNat
    let s ← get
    let hw := s.lsWords x.core o 8
    let h := hw.map (·.1)
    let fin := o + 320 + hTb h
    if 2 ^ 18 < fin then trapAddr 9 0x14 (asWord v)
    if !x.sl.smode && decide (0x36000 < fin) then trapAddr 9 0x12 (asWord v)
    let iw := s.lsWords x.core (o + 64) 32
    if (hw ++ iw).any (·.2) then trapAddr 0x0A 0 (asWord v)
    let its := iw.map (·.1)
    if !capsuleOk h its || !capsuleFresh h then trap 0x0F 4
    match (if s.capCoreOk x.part x.core then (s.core x.core).freeBuf else none) with
    | none => writeInt x d 1 false
    | some b =>
      let c := madeCapsule x s o h its
      modify (fun s => (s.lsPut x.core (bufOff b) false c.tile).route c)
      writeInt x d 0 false
    seqNext

/-! ### CSEND, CSPLIT, CDIVERT (R244, R249, R250) -/

/-- The slot holds no capsule any more. -/
def letGo (x : Ctx) (b : Nat) : OpM Unit :=
  modify (fun s => (s.freeBufAt x.core b).modSlot x.t (fun y => { y with capbase := 0 }))

/-- CSEND: a release at `.sys` (R258). -/
def specCsend (g : Guard) : OpSpec := capSpec g none none (fun _ => true) (fun x b _ => do
  release x .sys
  let s ← get
  match s.heldBuf x.t with
  | none => pure ()
  | some (_, h) =>
    let c := s.bufCapsule x.core b h
    letGo x b
    if hCur c.hdr + 1 < hNstop c.hdr then
      modify (fun s => s.route { c with hdr := setH0 c.hdr 50 47 (hCur c.hdr + 1) }))

/-- CSPLIT: a release at `.sys` (R258). -/
def specCsplit (g : Guard) (a b : Opd) : OpSpec :=
  capSpec g (some a) (some b) (fun x => x.isInt a.ix && x.isInt b.ix) (fun x k h => do
    let (o, w) ← readTwo x a b
    let tb := hTb h.hdr
    if o % 64 ≠ 0 ∨ o ≤ 0 ∨ (tb : Int) ≤ o then trap 0x0F 5
    if hNstop h.hdr ≤ hCur h.hdr + 1 then trap 0x0F 2
    release x .sys
    let s ← get
    let n := o.toNat
    let tile := s.lsWords x.core (bufOff k + n) ((tb - n) / 8)
    let hd := (setH0 h.hdr 34 28 ((tb - n) / 64 - 1)).set 2 (asWord w)
    let hd := setH0 (setH0 hd 15 15 (b2n (tileP tile))) 50 47 (hCur h.hdr + 1)
    putHeld x k { h with hdr := setH0 h.hdr 34 28 (n / 64 - 1) }
    modify (fun s => s.route ⟨hd, h.its, tile, h.part, h.snap.bears, some x.core⟩))

/-- CDIVERT: a poisoned A sets the header's P (R349). -/
def specCdivert (g : Guard) (a : Opd) : OpSpec :=
  capSpec g (some a) none (fun x => x.intNil a.ix) (fun x k h => do
    let (v, p) ← readInt x a.ix
    let s ← get
    let c := s.bufCapsule x.core k h
    let c := if p then { c with hdr := setH0 c.hdr 15 15 1 } else c
    letGo x k
    modify (fun s => s.divert c (capRecord 0x15 x.t x.pc (asWord v))))

/-! ### CSTOP, CINS, CDEL, CSETP (R245 to R248) -/

/-- CSTOP. -/
def specCstop (g : Guard) (d : Ix) (k : BitVec 6) : OpSpec where
  g := g
  fields := [d]
  kinds := fun x => x.intNil d
  m := []
  d := none
  run := fun x => do
    let (_, h) ← heldCapsule x
    let n := k.toNat
    if n < 32 then
      if hNstop h.hdr ≤ n / 2 && !(hDiverted h.hdr && decide (2 ≤ n ∧ n ≤ 9)) then trap 0x0F 2
      writeInt x d (nthW h.its n).toNat false
    else writeInt x d (nthW h.hdr (n - 32)).toNat false
    seqNext

/-- CINS. -/
def specCins (g : Guard) (a b : Opd) : OpSpec :=
  capSpec g (some a) (some b) (fun x => x.isInt a.ix && x.isInt b.ix) (fun x k h => do
    let (v, w) ← readTwo x a b
    let w0 := asWord v
    let w1 := asWord w
    if !stopOk w0 w1 then trap 0x0F 4
    let n := hNstop h.hdr
    let cur := hCur h.hdr
    if n = 16 then trap 0x0F 3
    let its := h.its.take (2 * cur + 2) ++ [w0, w1] ++ (h.its.take (2 * n)).drop (2 * cur + 2) ++ h.its.drop (2 * n + 2)
    let hd := setH0 h.hdr 55 51 (n + 1)
    let hd := if cur < hFstop h.hdr then setH0 hd 46 43 (hFstop h.hdr + 1) else hd
    putHeld x k { h with hdr := hd, its := its })

/-- CDEL: the later stops move down, and their former words become zero (log entry 32). -/
def specCdel (g : Guard) (n : BitVec 4) : OpSpec :=
  capSpec g none none (fun _ => true) (fun x k h => do
    let c := hCur h.hdr
    let z := n.toNat
    let f := hFstop h.hdr
    if hNstop h.hdr ≤ c + z then trap 0x0F 2
    if c + 1 ≤ f ∧ f ≤ c + z then trap 0x0F 5
    let its := h.its.take (2 * c + 2) ++ (h.its.take (2 * hNstop h.hdr)).drop (2 * (c + z) + 2) ++
      List.replicate (2 * z) 0 ++ h.its.drop (2 * hNstop h.hdr)
    let hd := setH0 h.hdr 55 51 (hNstop h.hdr - z)
    let hd := if c + z < f then setH0 hd 46 43 (f - z) else hd
    putHeld x k { h with hdr := hd, its := its })

/-- CSETP. -/
def specCsetp (g : Guard) (n : BitVec 4) (a : Opd) : OpSpec :=
  capSpec g (some a) none (fun x => x.isInt a.ix) (fun x k h => do
    let v ← readAddr x a.ix
    let i := hCur h.hdr + n.toNat
    if hNstop h.hdr ≤ i then trap 0x0F 2
    if v < 0 ∨ (2 ^ 32 : Int) ≤ v then trap 0x0F 4
    let w0 := setBits (nthW h.its (2 * i)) 63 32 v.toNat
    if !stopOk w0 (nthW h.its (2 * i + 1)) then trap 0x0F 4
    putHeld x k { h with its := h.its.set (2 * i) w0 })

/-! ### Entry and start (R234, R235, R253) -/

/-- The record of an unavailable place (R253). -/
def placeRecord (c : Capsule) : List Word := capRecord 0x11 0 0 c.place

/-- A capsule of one core comes before another in entering a core (R234). -/
def Req.capBefore (r : Req) (core : Nat) (src : Option Nat) : Bool :=
  match r with
  | .capCore k c _ => decide (k = core) && src.isSome && decide (c.src = src)
  | _ => false

/-- A capsule takes a buffer. -/
def State.enterCapsule (s : State) (core b : Nat) (c : Capsule) : State :=
  let s := s.lsPut core (bufOff b) true c.tile
  let k := s.core core
  let s := if k.capHead.isNone then s.setCore core { k with capSince := s.cycle } else s
  let (o, s) := s.fresh
  s.setBuf core b ⟨c.hdr, c.its, c.part, c, none, true, s.cycle, o⟩

/-- CAPSULE_ENTRY (R234, R253). -/
def execCapsuleEntry (id : Id) (s : State) : Host.Outcome State Fault Refusal :=
  match mfind id s.inflight with
  | some (.capCore core c _) =>
    if s.inflight.any (fun e => decide (e.1 < id) && e.2.capBefore core c.src) then .next s
    else if !s.capCoreOk c.part core then .next ((s.unsend id).divert c (placeRecord c))
    else match (s.core core).freeBuf with
      | none => .next s
      | some b => .next ((s.unsend id).enterCapsule core b c)
  | _ => .next s

/-- The head of the capsule port leaves it. -/
def State.popCap (s : State) (core : Nat) : State :=
  s.setCore core { s.core core with capSince := s.cycle }

/-- CAPSULE_STOP_START (R235, R253): the capsule that has waited longest starts its stop in the lowest free slot, if its
tuning fits; one whose entry is missing or bad, or whose core has become unavailable, is diverted. -/
def execCapsuleStopStart (core : Nat) (s : State) : Host.Outcome State Fault Refusal :=
  match (s.core core).capHead with
  | none => .next s
  | some (b, x) =>
    let sel := wbits (stopAt x.its (hCur x.hdr)).1 31 16
    let c := s.bufCapsule core b x
    if !s.capFirst core then .next s
    else if !s.capCoreOk x.part core then .next (((s.freeBufAt core b).popCap core).divert c (placeRecord c))
    else match s.stopEntry x.part core sel with
      | none => .next (((s.freeBufAt core b).popCap core).divert c (capRecord 0x16 0 0 (BitVec.ofNat 64 sel)))
      | some (pc, tn, ks) =>
        match s.freeSlotOf core true with
        | none => .next s
        | some t =>
          let s := s.startSlot t ⟨pc, false, tn, 0, bufOff b, hLaunch x.hdr, 0, x.snap.bears⟩ ks
          .next ((s.setBuf core b { x with holder := some t, waiting := false }).popCap core)

/-! ### Bank stops (R238) -/

/-- The words of a tile as bytes with their poison. -/
def tileBytes (ws : List (Word × Bool)) : PBytes := ws.flatMap (fun w => (toBytes 8 w.1.toNat).map (fun b => (b, w.2)))

/-- Bytes as words with the OR of their poison. -/
def asWords : Nat → PBytes → List (Word × Bool)
  | 0, _ => []
  | n + 1, bs => (BitVec.ofNat 64 (pval (bs.take 8)), ppsn (bs.take 8)) :: asWords n (bs.drop 8)

/-- Words of memory with their P bits. -/
def State.memWords (s : State) (pa n : Nat) : List (Word × Bool) :=
  (List.range n).map (fun k => (s.memWord (pa + 8 * k), s.memPoison (pa + 8 * k)))

/-- Write words with their P bits. -/
def State.memPut (s : State) (pa : Nat) : List (Word × Bool) → State
  | [] => s
  | w :: ws => (s.memWrite pa 8 w.1.toNat w.2).memPut (pa + 8) ws

/-- New words of a line: the tile's, or the sums as SCATADD makes them. -/
def State.lineWords (s : State) (acc : Bool) (ek pa : Nat) (ws : List (Word × Bool)) : List (Word × Bool) :=
  if !acc then ws
  else
    let n := ws.length
    let z := (ekBytes ek).getD 8
    let ss := if ek = 5 then a56Psn n (tileBytes ws) else tileBytes ws
    asWords n (addElems ek .rne false z (8 * n / z) (tileBytes (s.memWords pa n)) ss)

/-- A page of a capsule's own access: the common store or a tier, translated in U mode; else the fault. -/
def State.capPa (s : State) (part va : Nat) (k : AKind) : Option Nat :=
  match s.xlatePart part false va k with
  | .ok pa _ => if isDev pa then some pa else none
  | .miss => none
  | .fault _ _ => none

/-- Update the destination line by line; a fault gives its VA, and the lines before it stay updated. -/
def State.bankLines (s : State) (part : Nat) (acc : Bool) (ek : Nat) : Nat → Nat → List (Word × Bool) → Option Nat × State
  | 0, _, _ => (none, s)
  | f + 1, va, ws =>
    if ws.isEmpty then (none, s)
    else
      let n := (128 - va % 128) / 8
      match s.capPa part va (if acc then .rw else .wr) with
      | none => (some va, s)
      | some pa => (s.memPut pa (s.lineWords acc ek pa (ws.take n))).bankLines part acc ek f ((va + 8 * n) % 2 ^ 64) (ws.drop n)

/-- A record of a stop that faulted. -/
def stopRecord (va : Nat) : List Word := capRecord 0x14 0 0 (BitVec.ofNat 64 va)

/-- BANK_STOP (R238). -/
def execBankStop (id : Id) (s : State) : Host.Outcome State Fault Refusal :=
  match mfind id s.inflight with
  | some (.capBank c) =>
    let s := s.unsend id
    let st := stopAt c.its (hCur c.hdr)
    let acc := decide (wbits st.1 31 16 = 1)
    if acc && decide (hTfmt c.hdr = 15) then .next (s.divert c (stopRecord st.2.toNat))
    else match s.bankLines c.part acc (hTfmt c.hdr) 130 st.2.toNat c.tile with
      | (some va, s) => .next (s.divert c (stopRecord va))
      | (none, s) =>
        if hCur c.hdr + 1 < hNstop c.hdr then
          .next (s.route { c with hdr := setH0 c.hdr 50 47 (hCur c.hdr + 1), src := none })
        else .next s
  | _ => .next s

/-! ### Home stops (R239) -/

/-- HOME_STOP (R239). -/
def execHomeStop (id : Id) (s : State) : Host.Outcome State Fault Refusal :=
  match mfind id s.inflight with
  | some (.capHome c) =>
    let s := s.unsend id
    let arg := (stopAt c.its (hCur c.hdr)).2
    let off := wbits arg 17 0
    let core := hOtid c.hdr / 16
    if 0x36000 < off + hTb c.hdr then .next (s.divert c (stopRecord off))
    else .next ((s.lsPut core off true c.tile).signal core (wbits arg 25 18) 1)
  | _ => .next s

/-! ### Sink stops (R241, R254) -/

/-- Write the words of an image one after another; a fault gives its VA, and what was written stays. -/
def State.imageWords (s : State) (part : Nat) : Nat → List (Word × Bool) → Option Nat × State
  | _, [] => (none, s)
  | va, w :: ws =>
    match s.capPa part va .wr with
    | none => (some va, s)
    | some pa => (s.memWrite pa 8 w.1.toNat w.2).imageWords part ((va + 8) % 2 ^ 64) ws

/-- The image of a capsule (R241). -/
def Capsule.image (c : Capsule) : List (Word × Bool) := (c.hdr ++ c.its).map (fun w => (w, false)) ++ c.tile

/-- Count and write a capsule at a sink area: the VA of the fault, if one arises (R241). -/
def State.sinkWrite (s : State) (c : Capsule) (logs va : Nat) : Option Nat × State :=
  match s.capPa c.part va .rw with
  | none => (some va, s)
  | some pa =>
    let k := s.memRead pa 8
    let s := s.memWrite pa 8 ((k + 1) % 2 ^ 64) (s.memPoison pa)
    s.imageWords c.part ((va + 64 + k % 2 ^ logs * 8512) % 2 ^ 64) c.image

/-- A sink stop, of the capsule's own stop or of the partition's default sink (R241, R254). -/
def State.sinkStop (s : State) (c : Capsule) (dflt : Bool) : State :=
  let st := match dflt, (s.part c.part).cfg with
    | true, some g => (g.dsink0, g.dsink1)
    | _, _ => stopAt c.its (hCur c.hdr)
  let tgt := wbits st.1 59 32
  match s.sinkWrite c (tgt % 32) st.2.toNat with
  | (some va, s) => if dflt then s.dropCapsule c else s.sink c (stopRecord va)
  | (none, s) =>
    if tgt / 2 ^ 13 % 2 = 1 ∧ hOdev c.hdr = s.devNum then s.signal (hOtid c.hdr / 16) (tgt / 32 % 256) 1 else s

/-- SINK_STOP (R241, R254). -/
def execSinkStop (id : Id) (s : State) : Host.Outcome State Fault Refusal :=
  match mfind id s.inflight with
  | some (.capSink c dflt) => .next ((s.unsend id).sinkStop c dflt)
  | _ => .next s

/-! ### Egress (R240) -/

/-- A launch that is live: known, and not pre-empted (R108, R283). -/
def State.liveLaunch (s : State) (lid : Nat) : Bool :=
  match mfind lid s.launches with
  | none => false
  | some l => !l.susp

/-- A capsule from a peer adopts its launch and is routed on (R240); a capsule that comes home performs its home stop (R239),
under the partition of its origin core (log entry 82). -/
def State.adopt (s : State) (c : Capsule) : State :=
  let st := stopAt c.its (hCur c.hdr)
  if wbits st.1 63 60 = 4 then
    let core := hOtid c.hdr / 16
    let c := { c with part := s.partNum core }
    if s.capCoreOk c.part core then s.send (.capHome c) else s.divert c (placeRecord c)
  else
    let l := wbits st.2 31 0
    let rec0 := placeRecord c
    let last := decide (hNstop c.hdr ≤ hCur c.hdr + 1)
    let c := { c with hdr := setH1 c.hdr 31 0 l, part := launchPart l, bears := true, src := none }
    if last || !s.liveLaunch l then s.sink c rec0
    else s.route { c with hdr := setH0 c.hdr 50 47 (hCur c.hdr + 1) }

/-- EGRESS_ARRIVAL (R240): a capsule bound for a peer leaves over a link, and its launch is rid of it, also where it goes
to its home stop (log entry 83); one that came from a peer arrives. -/
def execEgressArrival (id : Id) (s : State) : Host.Outcome State Fault Refusal :=
  match mfind id s.inflight with
  | some (.capEgress c dev) =>
    let s := s.unsend id
    if dev = s.devNum then .next (s.adopt c)
    else if s.peerUp dev then
      let (n, s) := s.fresh
      .next (s.sendCapsule dev n c c.image)
    else .next (s.divert c (placeRecord c))
  | _ => .next s

/-! ### Waiting too long (R253) -/

/-- Cycles of the wait limit of a partition (R68). -/
def State.limitCycles (s : State) (part : Nat) : Nat :=
  match (s.part part).cfg with
  | some g => 16 * 2 ^ g.wle
  | none => 16 * 2 ^ 20

/-- CAPSULE_WAIT_TIMEOUT (R253): `id` is twice the number of a capsule that waits at a switch, or one more than twice
4 × core + buffer for one that waits in a buffer. -/
def execCapsuleWaitTimeout (id : Id) (s : State) : Host.Outcome State Fault Refusal :=
  if id % 2 = 0 then
    match mfind (id / 2) s.inflight with
    | some (.capCore _ c since) =>
      if s.cycle ≤ since + s.limitCycles c.part then .next s
      else .next ((s.unsend (id / 2)).sink c (capRecord 0x13 0 0 0))
    | _ => .next s
  else
    let core := id / 8
    let b := id / 2 % 4
    match mfind b (s.core core).capBufs with
    | none => .next s
    | some x =>
      if !x.waiting || decide (s.cycle ≤ x.entered + s.limitCycles x.part) then .next s
      else
        let c := s.bufCapsule core b x
        let head := decide ((s.core core).capHead.map (·.1) = some b)
        let s := s.freeBufAt core b
        .next ((if head then s.popCap core else s).sink c (capRecord 0x13 0 0 0))

/-! ### The meanings -/

/-- CMAKE. -/
def execCmake (g : Guard) (d : Ix) (a : Opd) (s : State) : Host.Outcome State Fault Refusal :=
  issue (specCmake g d a) s
/-- CSEND. -/
def execCsend (g : Guard) (s : State) : Host.Outcome State Fault Refusal :=
  issue (specCsend g) s
/-- CSTOP. -/
def execCstop (g : Guard) (d : Ix) (k : BitVec 6) (s : State) : Host.Outcome State Fault Refusal :=
  issue (specCstop g d k) s
/-- CINS. -/
def execCins (g : Guard) (a : Opd) (b : Opd) (s : State) : Host.Outcome State Fault Refusal :=
  issue (specCins g a b) s
/-- CDEL. -/
def execCdel (g : Guard) (n : BitVec 4) (s : State) : Host.Outcome State Fault Refusal :=
  issue (specCdel g n) s
/-- CSETP. -/
def execCsetp (g : Guard) (k : BitVec 4) (a : Opd) (s : State) : Host.Outcome State Fault Refusal :=
  issue (specCsetp g k a) s
/-- CSPLIT. -/
def execCsplit (g : Guard) (a : Opd) (b : Opd) (s : State) : Host.Outcome State Fault Refusal :=
  issue (specCsplit g a b) s
/-- CDIVERT. -/
def execCdivert (g : Guard) (a : Opd) (s : State) : Host.Outcome State Fault Refusal :=
  issue (specCdivert g a) s

end Sys2Proof.Machine
end

