-- ==== Sys2Proof/Machine/Launch.lean ====
section
/-! DEFINITION. Launch queues: LAUNCH, the launch engine, the dispatchers, completion and the two watchdogs
(spec/05_tasks.md R102 to R109; spec/18_ref_f_l.md R376; spec/12_traps.md R273, R274). -/

namespace Sys2Proof.Machine

/-! ### LAUNCH (R109, R376) -/

/-- LAUNCH. -/
def specLaunch (g : Guard) (tr : Bool) (lev : BitVec 2) (d : Ix) (a : Opd) (ws : Option Ws) : OpSpec where
  g := g
  fields := [d, a.ix]
  kinds := fun x => x.lateOk d && x.intOk a.ix
  m := [a]
  d := none
  needs := [.pop a.ix, .cmd tr]
  run := fun x => do
    noQueueD x d
    let o ← reqOffset x a.ix 64
    acceptCmd x d tr ws (.launch o lev.toNat) id

/-! ### Queue headers (R102, R105) -/

/-- A word of a header. -/
def State.hdrWord (s : State) (pa k : Nat) : Nat := s.memRead (pa + 8 * k) 8

/-- A write of one whole word by the device itself. -/
def State.putWord (s : State) (pa v : Nat) : State := s.sysWrite pa 8 (v % 2 ^ 64) false

/-- Change a queue. -/
def State.modQ (s : State) (p lev : Nat) (f : LQueue → LQueue) : State :=
  let x := s.part p
  s.setPart p (x.setQ lev (f (x.q lev)))

/-- The partition has launch queues (R102). -/
def State.hasQueues (s : State) (p : Nat) : Bool :=
  match (s.part p).cfg with
  | some g => decide (g.lqb ≠ 0)
  | none => false

/-- ESEQ and ECODE are written only while ECODE is 0 (R105). -/
def State.ecode (s : State) (pa seq code : Nat) : State :=
  if s.hdrWord pa 4 % 256 = 0 then s.putWord (pa + 32) (seq % 2 ^ 56 * 256 + code) else s

/-- HEAD moves past a record; the stall watchdog is armed again (R274). -/
def State.headOn (s : State) (p lev : Nat) : State :=
  let pa := ((s.part p).q lev).pa
  (s.putWord (pa + 16) (s.hdrWord pa 2 + 1)).modQ p lev (fun q => { q with wdSince := s.cycle, wdSent := false })

/-- A header that is valid (R105, ECODE 9). -/
def State.headerOk (s : State) (pa : Nat) : Bool :=
  decide (s.hdrWord pa 1 / 32 = 0 ∧ s.hdrWord pa 1 ≤ 16 ∧ s.hdrWord pa 5 = 0 ∧ s.hdrWord pa 6 = 0 ∧ s.hdrWord pa 7 = 0) &&
  (List.range 8).all (fun k => !s.memPoison (pa + 8 * k))

/-- The ring holds what TAIL says (R105, ECODE 7). -/
def State.ringOk (s : State) (pa tail : Nat) : Bool := decide (tail - s.hdrWord pa 2 ≤ 2 ^ (s.hdrWord pa 1 % 32))

/-- Stop or restart a queue by its header (R105); a drained queue stays stopped (R282). -/
def State.checkQueue (s : State) (p lev : Nat) : State :=
  let q := (s.part p).q lev
  if q.stop = 1 then s
  else if !s.headerOk q.pa then
    if q.stop = 9 then s else (s.ecode q.pa q.tail 9).modQ p lev (fun q => { q with stop := 9 })
  else if !s.ringOk q.pa q.tail then
    if q.stop = 7 then s else (s.ecode q.pa q.tail 7).modQ p lev (fun q => { q with stop := 7 })
  else s.modQ p lev (fun q => { q with stop := 0 })

/-! ### The launch engine (R109, R376) -/

/-- The append of a record at the header's bank. -/
def launchDo (c : Cmd) (ws : List Word) (lqb : Word) (lev : Nat) : EngM Nat := do
  let (h, _) ← engXlate c (lqb.toNat + 64 * lev) .rw
  let s ← get
  let tail := s.hdrWord h 3
  let n := 2 ^ (s.hdrWord h 1 % 32)
  if ((s.part c.part).q lev).stop ≠ 0 then pure 0x0202
  else if tail - s.hdrWord h 2 = n then pure 0x0201
  else do
    let va := s.hdrWord h 0 + 64 * (tail % n)
    engCheck c (.va va) 64 .wr
    engWrite c (.va va) (ws.flatMap (fun w => (toBytes 8 w.toNat).map (fun b => (b, false))))
    engWrite c (.va (lqb.toNat + 64 * lev + 24)) ((toBytes 8 ((tail + 1) % 2 ^ 64)).map (fun b => (b, false)))
    pure 0

/-- LAUNCH_APPEND (R109, R376). -/
def execLaunchAppend (id : Id) (s : State) : Host.Outcome State Fault Refusal :=
  .next (s.cmdEvent id (fun c s =>
    match c.kind with
    | .launch off lev =>
      let (ws, p) := s.reqWords c.core off 8
      let lqb := match (s.part c.part).cfg with
        | some g => g.lqb
        | none => 0
      if p then s.endCmd id c 0x0203 0 0
      else if lqb = 0 then s.endCmd id c 0x0105 0 0
      else runEng c (launchDo c ws lqb lev) s (fun code s => s.endCmd id c code 0 0) (fun e s => s.endCmd id c e.1 e.2 0)
    | _ => s))

/-! ### TAIL (R102) -/

/-- TAIL_WRITE_SEEN (R102): the device sees a value of TAIL that differs from the last one it saw. -/
def execTailWriteSeen (part lev : Nat) (s : State) : Host.Outcome State Fault Refusal :=
  let q := (s.part part).q lev
  let tail := s.hdrWord q.pa 3
  if !s.hasQueues part || decide (tail = q.tail) then .next s
  else
    let since := if s.hdrWord q.pa 2 = q.tail then s.cycle else q.wdSince
    let s := s.modQ part lev (fun q => { q with tail := tail, seen := q.seen ++ [(tail, s.cycle)], wdSince := since })
    .next (s.checkQueue part lev)

/-! ### Records (R103, R105) -/

/-- PRIO of a launch's record. -/
def Launch.prio (l : Launch) : Nat := wbits (nthW l.words 3) 17 16
/-- COUNT. -/
def Launch.count (l : Launch) : Nat := wbits (nthW l.words 3) 15 0 + 1
/-- WDOG. -/
def Launch.wdog (l : Launch) : Nat := wbits (nthW l.words 5) 31 0

/-- The cores of a placement set, in increasing number (R103). -/
def placeSet (g : Pcb) (w4 : Word) : List Nat :=
  let first := wbits w4 8 0
  (List.range (g.ncm1 + 1)).filterMap (fun k =>
    let c := g.first + k
    if first ≤ cluOf c ∧ cluOf c ≤ first + wbits w4 17 9 ∧ wbits w4 25 18 / 2 ^ (c % 8) % 2 = 1 then some c else none)

/-- The first check of R105 that a record fails, of ECODE 1 to 4; the checks of 5 and 6 come after them (log entry 65). -/
def recordFault (g : Pcb) (lev : Nat) (ws : List Word) : Option Nat :=
  let w := fun k => nthW ws k
  if wbits (w 3) 31 18 ≠ 0 ∨ wbits (w 4) 63 26 ≠ 0 ∨ wbits (w 5) 63 32 ≠ 0 then some 1
  else if (w 0).toNat % 4 ≠ 0 ∨ (w 1).toNat % 8 ≠ 0 ∨ (w 2).toNat % 32 ≠ 0 ∨ (w 6).toNat % 8 ≠ 0 ∨
    wbits (w 3) 17 16 ≠ lev then some 2
  else if wbits (w 3) 63 32 % 32 ≠ 0 ∨ (wbits (w 3) 15 0 ≠ 0 ∧ wbits (w 3) 63 32 < 32) then some 3
  else if 511 < wbits (w 4) 8 0 + wbits (w 4) 17 9 ∨ wbits (w 4) 25 18 = 0 ∨ (placeSet g (w 4)).isEmpty then some 4
  else none

/-- The kinds of a descriptor that a launch or a thread needs: ECODE 5 or 6 where it has none (R105). -/
def State.launchTuning (s : State) (part core : Nat) (va : Word) : Except Nat (List NKind) :=
  match s.readTuning part true core va with
  | .error (c, _, _) => .error (if c = 0x0C then 6 else 5)
  | .ok ks => if Config.storeBits < costOf ks then .error 6 else .ok ks

/-- Read and check the record at HEAD (R105): its words and declared bits, or its ECODE. -/
def State.readRecord (s : State) (g : Pcb) (part lev pa : Nat) : Except Nat (List Word × Nat) :=
  match s.devWords part true (s.hdrWord pa 0 + 64 * (s.hdrWord pa 2 % 2 ^ (s.hdrWord pa 1 % 32))) 8 with
  | .error _ => .error 5
  | .ok ws =>
    match recordFault g lev ws with
    | some e => .error e
    | none =>
      match s.launchTuning part g.first (nthW ws 1) with
      | .error e => .error e
      | .ok ks => .ok (ws, costOf ks)

/-- A new launch of a record takes the next number of its partition (R88). -/
def State.newLaunch (s : State) (part lev : Nat) (ws : List Word) (bits : Nat) : State :=
  let x := s.part part
  let q := x.q lev
  let n := s.hdrWord q.pa 2
  let lid := part * 2 ^ 26 + x.seq % 2 ^ 26
  let seen := ((q.seen.find? (fun e => decide (n < e.1))).map (·.2)).getD s.cycle
  let l : Launch := {
    part := part, lev := lev, recNo := n, words := ws, bits := bits, next := 0, last := none, placing := true
    seen := seen, wdStart := seen, wdSent := false, susp := false, susPaused := 0 }
  let s := { s with launches := mset lid l s.launches }
  (s.setPart part { x with seq := x.seq + 1 }).modQ part lev (fun q =>
    { q with cur := some lid, seen := q.seen.filter (fun e => decide (n < e.1)) })

/-- Reach a record of a queue that has no head launch: records that fail are skipped; `fuel` bounds their number. -/
def State.reachN (s : State) (g : Pcb) (part lev : Nat) : Nat → State
  | 0 => s
  | f + 1 =>
    let q := (s.part part).q lev
    if q.stop ≠ 0 ∨ q.cur.isSome ∨ q.tail ≤ s.hdrWord q.pa 2 then s
    else match s.readRecord g part lev q.pa with
      | .ok (ws, b) => s.newLaunch part lev ws b
      | .error e => ((s.ecode q.pa (s.hdrWord q.pa 2) e).headOn part lev).reachN g part lev f

/-- Every queue of every partition reaches its head record. -/
def State.reachAll (s : State) : State :=
  s.parts.foldl (fun st e =>
    match e.2.cfg with
    | none => st
    | some g =>
      if g.lqb = 0 then st
      else [0, 1, 2, 3].foldl (fun st lev =>
        let q := (st.part e.1).q lev
        let st := if q.stop = 9 then st else st.checkQueue e.1 lev
        st.reachN g e.1 lev 65537) st) s

/-! ### Placement (R106, R107) -/

/-- The core that a launch's next thread goes to (R107). -/
def State.placeCore (s : State) (l : Launch) : Option Nat :=
  match (s.part l.part).cfg with
  | none => none
  | some g =>
    let cs := placeSet g (nthW l.words 4)
    let after := match l.last with
      | none => cs
      | some c => cs.filter (fun k => decide (c < k)) ++ cs.filter (fun k => decide (k ≤ c))
    after.find? (fun c => !(s.core c).offline && (s.freeSlotOf c false).isSome && s.fits c l.bits)

/-- The effective level of a head (R106). -/
def State.effLevel (s : State) (l : Launch) : Nat := Nat.min 3 (l.prio + (s.cycle - l.seen) / 65536)

/-- A launch that is placing threads. -/
def Launch.toPlace (l : Launch) : Bool := !l.susp && decide (l.next < l.count)

/-- The launches of a partition that have a thread to place in a quarter, with its core. -/
def State.placeable (s : State) (part quarter : Nat) : List (Nat × Launch × Nat) :=
  s.launches.filterMap (fun e =>
    if e.2.part = part ∧ e.2.toPlace ∧ (e.2.placing = false ∨ ((s.part part).q e.2.lev).stop = 0) then
      match s.placeCore e.2 with
      | some c => if qtrOf c = quarter ∧ !s.repacking c ∧ !(s.part part).refuse ∧ !s.headTakes c then some (e.1, e.2, c) else none
      | none => none
    else none)

/-- The head that a dispatcher prefers: the highest effective level, then the one seen earliest, then the higher PRIO. -/
def State.chooseHead (s : State) (cs : List (Nat × Launch × Nat)) : Option (Nat × Launch × Nat) :=
  cs.foldl (fun b e => match b with
    | none => some e
    | some d =>
      let x := s.effLevel e.2.1
      let y := s.effLevel d.2.1
      if y < x ∨ (x = y ∧ (e.2.1.seen < d.2.1.seen ∨ (e.2.1.seen = d.2.1.seen ∧ d.2.1.prio < e.2.1.prio))) then some e
      else some d) none

/-- The partition that a dispatcher serves next (R106): its round keeps a partition 32 × number + placements made. -/
def State.servedPart (s : State) (quarter : Nat) : Option (Nat × Nat) :=
  let r := (s.qtr quarter).round
  let cand := (s.parts.map (·.1)).filter (fun p => !(s.placeable p quarter).isEmpty)
  let w := match (s.part (r / 32)).cfg with
    | some g => g.wm1 + 1
    | none => 1
  if cand.contains (r / 32) && decide (r % 32 < w) then some (r / 32, r + 1)
  else match cand.find? (fun p => decide (r / 32 < p)) with
    | some p => some (p, 32 * p + 1)
    | none => cand.head?.map (fun p => (p, 32 * p + 1))

/-- Write the frame header of a thread, in S mode (log entry 66); none where it faults (R107). -/
def State.rootHeader (s : State) (part : Nat) (fr tuning : Word) : Option State :=
  match s.xlatePart part true fr.toNat .wr with
  | .ok pa _ =>
    if isDev pa then some ((((s.putWord pa 0).putWord (pa + 8) 0).putWord (pa + 16) 0).putWord (pa + 24) tuning.toNat)
    else none
  | .miss => none
  | .fault _ _ => none

/-- A descriptor that has grown since the record was accepted, or a thread placed, and that does not fit the chosen core any
more (R54, R107): the thread is not placed there, and the launch goes by the new bits (log entry 67). -/
def State.regrown (s : State) (lid : Nat) (l : Launch) (core : Nat) : Option State :=
  match s.launchTuning l.part core (nthW l.words 1) with
  | .error _ => none
  | .ok ks =>
    if s.fits core (costOf ks) then none
    else some { s with launches := mset lid { l with bits := costOf ks } s.launches }

/-- Place the next thread of a launch on a core (R107): one that cannot start counts as ended (R105). -/
def State.placeThread (s : State) (lid : Nat) (l : Launch) (core : Nat) : State :=
  let q := (s.part l.part).q l.lev
  let fr := nthW l.words 2 + BitVec.ofNat 64 (l.next * wbits (nthW l.words 3) 63 32)
  let tn := nthW l.words 1
  let l2 := { l with next := l.next + 1, last := some core, placing := l.placing && decide (l.next + 1 < l.count) }
  let s := { s with launches := mset lid l2 s.launches }
  let s := match s.launchTuning l.part core tn, s.freeSlotOf core false with
    | .ok ks, some t =>
      match s.rootHeader l.part fr tn with
      | none => s.ecode q.pa l.recNo 5
      | some s => s.startSlot t ⟨nthW l.words 0, false, tn, fr, 0, lid, l.prio, true⟩ ks
    | .error e, _ => s.ecode q.pa l.recNo e
    | .ok _, none => s
  if l.placing && !l2.placing then (s.headOn l.part l.lev).modQ l.part l.lev (fun q => { q with cur := none }) else s

/-- THREAD_PLACEMENT (R105 to R107): queues reach their head records, and the dispatcher of a quarter places the next
thread of the head it chooses, one in a cycle at most. -/
def execThreadPlacement (quarter : Nat) (s : State) : Host.Outcome State Fault Refusal :=
  let s := s.reachAll
  if s.cycle < (s.qtr quarter).placed then .next s
  else match s.servedPart quarter with
  | none => .next s
  | some (p, r) =>
    match s.chooseHead (s.placeable p quarter) with
    | none => .next s
    | some (lid, l, c) => match s.regrown lid l c with
      | some s => .next s
      | none => .next ((s.setQtr quarter { s.qtr quarter with round := r, placed := s.cycle + 1 }).placeThread lid l c)

/-! ### Completion (R108) -/

/-- A queue holds a record that has been seen and is not reached yet, behind the launch at its head if there is one. -/
def State.waitingRecs (s : State) (p lev : Nat) : Bool :=
  let q := (s.part p).q lev
  decide (s.hdrWord q.pa 2 + (if q.cur.isSome then 1 else 0) < q.tail)

/-- A partition has a live launch (R108): one that is not pre-empted (R283), or a record that has been seen. -/
def State.hasLive (s : State) (p : Nat) : Bool :=
  s.launches.any (fun e => decide (e.2.part = p) && !e.2.susp) ||
  (s.hasQueues p && [0, 1, 2, 3].any (fun lev => s.waitingRecs p lev))

/-- A slot's work belongs to a launch. -/
def Slot.ofLaunch (x : Slot) (lid : Nat) : Bool :=
  (decide (x.st ≠ .free) && x.bears && decide (x.launch = lid)) ||
  (match x.held with
   | .test r => decide (r.launch = lid)
   | .dec l _ => decide (l = lid)
   | .none => false
   | .seek _ _ => false)

/-- A capsule bears a launch. -/
def Capsule.ofLaunch (c : Capsule) (part lid : Nat) : Bool := c.bears && decide (c.part = part ∧ hLaunch c.hdr = lid)

/-- The capsule of a request that carries one. -/
def Req.capsule : Req → Option Capsule
  | .capCore _ c _ => some c
  | .capBank c => some c
  | .capHome c => some c
  | .capEgress c _ => some c
  | .capSink c _ => some c
  | _ => none

/-- A request bears a launch: a record on its way, or a capsule. -/
def Req.ofLaunch (r : Req) (part lid : Nat) : Bool :=
  match r with
  | .took _ _ k => decide (k.launch = lid)
  | r => match r.capsule with
    | some c => c.ofLaunch part lid
    | none => false

/-- Something bears the launch (R108). -/
def State.borne (s : State) (part lid : Nat) : Bool :=
  s.slots.any (fun e => e.2.ofLaunch lid) ||
  s.cores.any (fun e => (e.2.deque ++ e.2.overflow ++ e.2.restart.map (·.cont)).any (fun r => decide (r.launch = lid)) ||
    e.2.capBufs.any (fun b => b.2.snap.bears && decide (b.2.part = part ∧ hLaunch b.2.hdr = lid))) ||
  s.inflight.any (fun e => e.2.ofLaunch part lid) ||
  s.cmds.any (fun e => e.2.bears && decide (e.2.launch = lid))

/-- LAUNCH_COMPLETION (R108): a launch of which nothing is left writes its completion value, in S mode (log entry 66), and
ceases to be live. -/
def execLaunchCompletion (launch : Nat) (s : State) : Host.Outcome State Fault Refusal :=
  match mfind launch s.launches with
  | none => .next s
  | some l =>
    if l.susp || decide (l.next < l.count) || s.borne l.part launch then .next s
    else
      let s := { s with launches := mdel launch s.launches }
      let ca := nthW l.words 6
      if ca = 0 then .next s
      else match s.xlatePart l.part true ca.toNat .wr with
        | .ok pa _ => .next (s.putWord pa (nthW l.words 7).toNat)
        | .miss => .next (s.ecode ((s.part l.part).q l.lev).pa l.recNo 8)
        | .fault _ _ => .next (s.ecode ((s.part l.part).q l.lev).pa l.recNo 8)

/-! ### Watchdogs (R273, R274) -/

/-- Cycles of a budget in microseconds. -/
def usCycles (n : Nat) : Nat := n * Config.cyclesPerUs

/-- LAUNCH_WATCHDOG_EXPIRY (R273): the budget runs from when the record was seen; a launch is known by its LAUNCHID, and so
once its record is accepted (log entry 68). -/
def execLaunchWatchdogExpiry (launch : Nat) (s : State) : Host.Outcome State Fault Refusal :=
  match mfind launch s.launches with
  | none => .next s
  | some l =>
    if l.wdog = 0 || l.wdSent || l.susp || decide (s.cycle < l.wdStart + usCycles l.wdog) then .next s
    else
      let s := { s with launches := mset launch { l with wdSent := true } s.launches }
      .next (s.sendTrap 0 { TrapRec.zero 0x20 0 l.part s.cycle with addr := BitVec.ofNat 64 l.wdog, launch := launch })

/-- QUEUE_STALL_WATCHDOG (R274). -/
def execQueueStallWatchdog (part lev : Nat) (s : State) : Host.Outcome State Fault Refusal :=
  let q := (s.part part).q lev
  if !s.hasQueues part || decide (q.wdBudget = 0) || q.wdSent || decide (s.hdrWord q.pa 3 = s.hdrWord q.pa 2) ||
      decide (s.cycle < q.wdSince + usCycles q.wdBudget) then .next s
  else
    let s := s.modQ part lev (fun q => { q with wdSent := true })
    .next (s.sendTrap 0 { TrapRec.zero 0x20 1 part s.cycle with name := lev, addr := BitVec.ofNat 64 q.wdBudget })

/-! ### The meanings -/

/-- LAUNCH. -/
def execLaunch (g : Guard) (tr : Bool) (lev : BitVec 2) (d : Ix) (a : Opd) (ws : Option Ws) (s : State) : Host.Outcome State Fault Refusal :=
  issue (specLaunch g tr lev d a ws) s

end Sys2Proof.Machine
end

