-- ==== Sys2Proof/Machine/Tune.lean ====
section
/-! DEFINITION. The ops that change a tuning or the bits of its names: TUNE, RESIZE, WIDTH, SHAPE, FSET, FCLR, FTEST
(spec/03_tuning.md R44 to R61; spec/20_ref_s.md R405; spec/21_ref_t_y.md R432). -/

namespace Sys2Proof.Machine

/-! ### TUNE (R55) -/

/-! ### Repacks (R59, R66, R67) -/

/-- Since when a slot has waited for a repack of its core. -/
def Slot.repackWait (x : Slot) : Option Nat :=
  if x.st = .parked ∧ x.waiton.toNat / 2 ^ 60 = 8 then some x.waitSince else none

/-- An op of a slot that needs a repack may begin one: none is under way on its core, and no other slot has waited longer
for one. -/
def State.mayRepack (s : State) (t : Tid) : Bool :=
  let mine := ((s.slot t).repackWait).getD s.cycle
  !s.repacking (coreOf t) && (coreTids (coreOf t)).all (fun u => decide (u = t) || (match (s.slot u).repackWait with
    | none => true
    | some c => decide (mine ≤ c)))

/-- An op that needs a repack parks while it may not begin one. -/
def awaitRepack (x : Ctx) (needs : Bool) : OpM Unit := if needs && !x.s0.mayRepack x.t then parkOn 8 0 else pure ()

/-- Read one word of a descriptor: a plain read. -/
def readDesc (x : Ctx) (va : Nat) : OpM Word := do
  let (pa, l) ← opXlate x false (va % 2 ^ 64) .rd
  accessNow ⟨x.t, x.sl.epoch, .mem pa, 8, false, l.ord, none, l.trace⟩
  let s ← get
  if s.memPoison pa then trapAddr 0x0A 0 (BitVec.ofNat 64 va)
  pure (s.memWord pa)

/-- Read and check the entries `k` onward of a descriptor. -/
def readDescEntries (x : Ctx) (va : Word) (k : Nat) : Nat → OpM (List NKind)
  | 0 => pure []
  | n + 1 => do
    let w ← readDesc x (va.toNat + 8 * k)
    match parseEntry x.core w with
    | none => fun _ => .error (.trap ⟨0x0C, 2, k, va⟩)
    | some e =>
      let es ← readDescEntries x va (k + 1) n
      pure (e :: es)

/-- The declared bits exceed the register store: the name index is that of the name that grows, and the address field is the
shortfall (R61). -/
def spaceTrap {α : Type} (sub : Nat) (i : Ix) (total : Nat) : OpM α :=
  fun _ => .error (.trap ⟨0x0B, sub, i.toNat, BitVec.ofNat 64 (total - Config.storeBits)⟩)

/-- A tuning of a slot can be placed only by a compaction of its core (R53). -/
def State.tuneMoves (s : State) (t : Tid) (ks : List NKind) : Bool :=
  (placeAll ((s.releaseNames t).occupied (coreOf t)) ks).isNone

/-- The operation of TUNE on a descriptor at a VA. -/
def tuneTo (x : Ctx) (va : Word) : OpM Next := do
  if va.toNat % 8 ≠ 0 then trapAddr 7 0 va
  modify (fun s => s.drain x.t)
  let h ← readDesc x va.toNat
  match parseHeader h with
  | none => trapAddr 0x0C 1 va
  | some n =>
    let ks ← readDescEntries x va 1 n
    let need := x.s0.declaredOthers x.t + costOf ks
    if Config.storeBits < need then spaceTrap 1 0 need
    awaitRepack x (x.s0.tuneMoves x.t ks)
    modify (fun s => s.applyTuning x.t va ks)
    seqNext

/-- TUNE (R55). -/
def specTune (g : Guard) (src : Src64) : OpSpec :=
  match src with
  | .name a =>
    { g := g, fields := [a.ix], kinds := fun x => x.isInt a.ix, m := [a], d := none
      run := fun x => do
        let v ← readAddr x a.ix
        tuneTo x (BitVec.ofNat 64 (umod 64 v)) }
  | .x64 v => { g := g, fields := [], kinds := fun _ => true, m := [], d := none, run := fun x => tuneTo x v }

/-! ### Growing a name (R53, R59, R60) -/

/-- How a name comes to hold a new kind: where it stands, by a move, or by a compaction. -/
inductive Growth where
  | stay
  | move (pos : Nat)
  | compact
  deriving DecidableEq, Repr

/-- The runs of a core that a name may not grow into. -/
def State.others (s : State) (t : Tid) (ix : Nat) : List Run :=
  ((s.coreNames (coreOf t)).filter (fun e => !(decide (e.1 = t) && decide (e.2.1 = ix)))).map
    (fun e => (s.core (coreOf t)).runOf e.1 e.2.1 e.2.2) ++ s.bound (coreOf t)

/-- How the name of an index grows to a new kind (R53): a name that a repack is moving waits for its end. -/
def State.growth (s : State) (t : Tid) (ix : Nat) (n : NameSt) (k : NKind) : Growth :=
  if k.cost ≤ n.kind.cost then .stay
  else if s.moving t ix then .compact
  else if n.kind.cost ≠ 0 && runFree (s.others t ix) n.pos k.cost then .stay
  else match placeOne (s.occupied (coreOf t)) k with
    | some p => .move p
    | none => .compact

/-- Give the name of an index of the issuing slot a new kind: it grows in place, moves, or the core is compacted; it shrinks
where it stands. -/
def State.regrow (s : State) (t : Tid) (ix : Nat) (n : NameSt) (k : NKind) : State :=
  let core := coreOf t
  let s' := s.modSlot t (fun y => { y with names := y.names.modify ix (fun m => { m with kind := k }) })
  match s.growth t ix n k with
  | .stay => s'
  | .move p => s'.beginRepack core t [(t, ix, p)] (some (t, ix, n.kind.cost)) (rowsTouched [n.run, (p, k.cost)])
  | .compact => s'.compact core t (s.occupied core) (some (t, ix, n.kind.cost))

/-- Growing a name takes a repack. -/
def State.growMoves (s : State) (t : Tid) (ix : Nat) (n : NameSt) (k : NKind) : Bool := decide (s.growth t ix n k ≠ .stay)

/-! ### RESIZE and WIDTH (R58, R432) -/

/-- The value of a name narrowed to `w` bits; none where `trap` mode raises WIDTH. -/
def narrow (sg : Bool) (w : Nat) (m : Mode) (v : Int) : Option Int := fitInt sg w m v

/-- The operation of RESIZE of D to `w` bits. -/
def resizeTo (x : Ctx) (d : Ix) (w : Nat) : OpM Next := do
  match x.sl.nm d with
  | none => trapName 0x0C 3 d
  | some n =>
    match n.kind with
    | .int sg w0 m =>
      let (v, _) ← readInt x d
      let total := x.s0.declared x.core - w0 + w
      if w0 < w && decide (Config.storeBits < total) then spaceTrap 2 d total
      match narrow sg w m v with
      | none => trapName 3 2 d
      | some y =>
        awaitRepack x (x.s0.growMoves x.t (d.toNat - 1) n (.int sg w m))
        modify (fun s => (s.regrow x.t (d.toNat - 1) n (.int sg w m)).modName x.t d (fun q => { q with vals := [y] }))
        seqNext
    | .flt _ => trapName 0x0C 3 d
    | .ivec _ _ _ _ _ => trapName 0x0C 3 d
    | .fvec _ _ _ => trapName 0x0C 3 d
    | .queue _ _ => trapName 0x0C 3 d

/-- RESIZE (R58). -/
def specResize (g : Guard) (d : Ix) (wm1 : BitVec 6) : OpSpec where
  g := g
  fields := [d]
  kinds := fun _ => true
  m := []
  d := none
  run := fun x => resizeTo x d (wm1.toNat + 1)

/-- An op of a deprecated opcode counts core event 0x007 when it takes effect (R330, R308). -/
def deprecated (x : Ctx) : OpM Unit := modify (fun s => s.count 0 x.core 7 x.sl.smode 1)

/-- WIDTH (R432). -/
def specWidth (g : Guard) (d : Ix) (a : Opd) : OpSpec where
  g := g
  fields := [d, a.ix]
  kinds := fun x => x.intOk a.ix
  m := [a]
  d := none
  run := fun x => do
    let v ← readAddr x a.ix
    if v < 1 ∨ 64 < v then trapName 0x0C 3 d
    deprecated x
    resizeTo x d v.toNat

/-! ### SHAPE (R57, R405) -/

/-- The granted kind of a vector for a request. -/
def NKind.granted (k : NKind) (rq cq : Nat) : NKind :=
  match k with
  | .ivec sg w m _ _ => let g := grant rq cq (Machine.elemW w); .ivec sg w m g.1 g.2
  | .fvec f _ _ => let g := grant rq cq f.elemW; .fvec f g.1 g.2
  | .int sg w m => .int sg w m
  | .flt f => .flt f
  | .queue c q => .queue c q

/-- The elements of a vector under a new shape: those of the old shape keep their values. -/
def reshape (vs : List Int) (r0 c0 r c : Nat) : List Int :=
  (List.range (r * c)).map (fun k =>
    if k / c < r0 ∧ k % c < c0 then (vs[k / c * c0 + k % c]?).getD 0 else 0)

/-- The operation of SHAPE of a vector for a request word. -/
def shapeTo (x : Ctx) (d v : Ix) (n : NameSt) (q : Int) : OpM Next := do
  if q < 0 ∨ 2 ^ 32 ≤ q then trapName 0x0C 3 v
  let rq := bits q.toNat 31 16
  let cq := bits q.toNat 15 0
  if rq = 0 ∨ cq = 0 ∨ 1024 < rq ∨ 1024 < cq then trapName 0x0C 3 v
  let k := n.kind.granted rq cq
  let (r0, c0) := n.kind.shape
  let (r, c) := k.shape
  match x.sl.kind d with
  | some (.int sg w m) => if (fitInt sg w m (r * 65536 + c : Nat)).isNone then trapName 3 1 d
  | _ => pure ()
  let total := x.s0.declared x.core - n.kind.cost + k.cost
  if Config.storeBits < total then spaceTrap 3 v total
  awaitRepack x (x.s0.growMoves x.t (v.toNat - 1) n k)
  modify (fun s => (s.regrow x.t (v.toNat - 1) n k).modName x.t v (fun y => { y with vals := reshape y.vals r0 c0 r c }))
  writeInt x d (r * 65536 + c : Nat) false
  seqNext

/-- SHAPE (R57, R405). -/
def specShape (g : Guard) (d v : Ix) (q : ShapeReq) : OpSpec where
  g := g
  fields := match q with
    | .name b => [d, v, b]
    | .x32 _ => [d, v]
  kinds := fun x => x.intNil d && (match q with
    | .name b => x.intNil b
    | .x32 _ => true)
  m := []
  d := none
  run := fun x =>
    match x.sl.nm v with
    | none => trapName 0x0C 3 v
    | some n =>
      if !n.kind.isVec then trapName 0x0C 3 v
      else match q with
        | .name b => do
          let r ← readAddr x b
          shapeTo x d v n r
        | .x32 r => shapeTo x d v n r.toNat

/-! ### FSET, FCLR, FTEST (R50) -/

/-- An op that sets F of a name and drops its pending result. -/
def setFSpec (g : Guard) (d : Ix) (f : Bool) : OpSpec where
  g := g
  fields := [d]
  kinds := fun x => !x.isQ d
  m := []
  d := none
  run := fun x => do
    if !isNil d then modify (fun s => s.modName x.t d (fun n => { n with f := f, pend := none }))
    seqNext

/-- FSET (R50). -/
def specFset (g : Guard) (d : Ix) : OpSpec := setFSpec g d true
/-- FCLR (R50). -/
def specFclr (g : Guard) (d : Ix) : OpSpec := setFSpec g d false

/-- FTEST (R50). -/
def specFtest (g : Guard) (d a : Ix) : OpSpec where
  g := g
  fields := [d, a]
  kinds := fun x => x.intOk d && !x.isQ a
  m := []
  d := none
  needs := [.push d]
  run := fun x => do
    let v : Nat := match x.sl.nm a with
      | none => 1
      | some n => b2n n.f + 2 * b2n n.p
    writeInt x d v false
    seqNext

/-! ### The meanings -/

/-- TUNE. -/
def execTune (g : Guard) (src : Src64) (s : State) : Host.Outcome State Fault Refusal :=
  issue (specTune g src) s
/-- RESIZE. -/
def execResize (g : Guard) (d : Ix) (wm1 : BitVec 6) (s : State) : Host.Outcome State Fault Refusal :=
  issue (specResize g d wm1) s
/-- SHAPE. -/
def execShape (g : Guard) (d : Ix) (v : Ix) (q : ShapeReq) (s : State) : Host.Outcome State Fault Refusal :=
  issue (specShape g d v q) s
/-- WIDTH. -/
def execWidth (g : Guard) (d : Ix) (a : Opd) (s : State) : Host.Outcome State Fault Refusal :=
  issue (specWidth g d a) s
/-- FSET. -/
def execFset (g : Guard) (d : Ix) (s : State) : Host.Outcome State Fault Refusal :=
  issue (specFset g d) s
/-- FCLR. -/
def execFclr (g : Guard) (d : Ix) (s : State) : Host.Outcome State Fault Refusal :=
  issue (specFclr g d) s
/-- FTEST. -/
def execFtest (g : Guard) (d : Ix) (a : Ix) (s : State) : Host.Outcome State Fault Refusal :=
  issue (specFtest g d a) s

end Sys2Proof.Machine
end

