-- ==== Sys2Proof/Machine/Matrix.lean ====
section
/-! DEFINITION. The matrix engine: MCFG, MMA, MDRAIN, MMAP, MCLR, the cluster FIFO and the events of the engine
(spec/07_matrix.md R140 to R159; spec/19_ref_m_r.md R379 to R381; spec/06_numbers.md R129 to R131). -/

namespace Sys2Proof.Machine

/-! ### The configuration (R142 to R145) -/

/-- The fields of MCONF (R143). -/
structure MCfg where
  m   : Nat
  n   : Nat
  k   : Nat
  af  : Nat
  ags : Nat
  bf  : Nat
  bgs : Nat
  set : Nat
  int : Bool
  ok  : Nat
  sat : Bool
  rm  : Nat
  deriving DecidableEq, Repr

/-- The fields of a word. -/
def mcfgOf (w : Word) : MCfg :=
  { m := wbits w 63 56 + 1, n := wbits w 55 48 + 1, k := 32 * (wbits w 47 41 + 1), af := wbits w 40 37
    ags := wbits w 36 35, bf := wbits w 34 31, bgs := wbits w 30 29, set := wbits w 28 28
    int := decide (wbits w 27 27 = 1), ok := wbits w 26 23, sat := decide (wbits w 22 22 = 1), rm := wbits w 21 20 }

/-- A quantized format. -/
abbrev isQfmt (f : Nat) : Bool := decide (6 ≤ f)

/-- Format and group size of an operand are allowed (R145). -/
def fmtOk (k f gs : Nat) : Bool :=
  decide (f ≤ 7) && (if isQfmt f then decide (gs ≤ 2 ∧ k % (32 * 2 ^ gs) = 0) else decide (gs = 0))

/-- A valid configuration (R145). -/
def mcfgOk (w : Word) : Bool :=
  let c := mcfgOf w
  let ints := fun (f : Nat) => decide (f = 4) || decide (f = 5)
  decide (wbits w 19 0 = 0) && fmtOk c.k c.af c.ags && fmtOk c.k c.bf c.bgs &&
  (if c.int then ints c.af && ints c.bf && (decide (c.ok = 0) || decide (6 ≤ c.ok ∧ c.ok ≤ 8)) && decide (c.rm = 0)
   else decide (c.ok ≤ 5) && (decide (c.ok ≠ 0) || (!c.sat && decide (c.rm = 0))))

/-- MCFG (R142, R379). -/
def specMcfg (g : Guard) (src : Src64) : OpSpec where
  g := g
  fields := match src with
    | .name a => [a.ix]
    | .x64 _ => []
  kinds := fun x => match src with
    | .name a => x.intOk a.ix
    | .x64 _ => true
  m := match src with
    | .name a => [a]
    | .x64 _ => []
  d := none
  run := fun x => do
    let c ← match src with
      | .x64 v => pure v
      | .name a => do
        let v ← readAddr x a.ix
        pure (BitVec.ofNat 64 (umod 64 v))
    if !mcfgOk c then trap 1 1
    modSelf x (fun y => { y with mconf := c })
    seqNext

/-! ### Issue (R140, R141, R381) -/

/-- PERM subcode 0x13: the engine takes no command of this core (R140). -/
def matrixOwn (x : Ctx) : OpM Unit :=
  if x.s0.samePart x.core (x.clu * 8) then pure () else trap 9 0x13

/-- The offset of MMA and MMAP (R381), and of a collective's descriptor (R433). -/
def matrixOffset (x : Ctx) (a : Ix) : OpM Nat := do
  let v ← readAddr x a
  let w := BitVec.ofNat 64 (umod 64 v)
  if v < 0 ∨ (Config.lsBytes : Int) ≤ v then trapAddr 9 0x14 w
  if v % 32 ≠ 0 then trapAddr 7 0 w
  if !x.sl.smode && decide ((Config.lsSys : Int) < v + 32) then trapAddr 9 0x12 w
  pure v.toNat

/-- A matrix command with an offset. -/
def matrixSpecA (g : Guard) (tr : Bool) (d : Ix) (a : Opd) (ws : Option Ws) (k : Nat → Word → CmdKind) : OpSpec where
  g := g
  fields := [d, a.ix]
  kinds := fun x => x.lateOk d && x.intOk a.ix
  m := [a]
  d := none
  needs := [.pop a.ix, .cmd tr]
  run := fun x => do
    noQueueD x d
    matrixOwn x
    let o ← matrixOffset x a.ix
    acceptCmd x d tr ws (k o x.sl.mconf) id

/-- A matrix command without an operand. -/
def matrixSpec (g : Guard) (tr : Bool) (d : Ix) (ws : Option Ws) (dep : Bool) (k : Word → CmdKind) : OpSpec where
  g := g
  fields := [d]
  kinds := fun x => x.lateOk d
  m := []
  d := none
  needs := [.cmd tr]
  run := fun x => do
    noQueueD x d
    matrixOwn x
    let r ← acceptCmd x d tr ws (k x.sl.mconf) id
    if dep then deprecated x
    pure r

/-- MMA. -/
def specMma (g : Guard) (tr z gg t : Bool) (d : Ix) (a : Opd) (ws : Option Ws) : OpSpec :=
  matrixSpecA g tr d a ws (fun o c => .mma o z gg t c)
/-- MMAP. -/
def specMmap (g : Guard) (tr : Bool) (d : Ix) (a : Opd) (ws : Option Ws) : OpSpec := matrixSpecA g tr d a ws .mmap
/-- MDRAIN. -/
def specMdrain (g : Guard) (tr acc : Bool) (d : Ix) (ws : Option Ws) : OpSpec := matrixSpec g tr d ws false (.mdrain acc)
/-- MCLR, which is deprecated (R317). -/
def specMclr (g : Guard) (tr : Bool) (d : Ix) (ws : Option Ws) : OpSpec := matrixSpec g tr d ws true .mclr

/-- CLUSTER_FIFO_ENTRY (R140): a core's next matrix command enters the cluster FIFO; of two that were ready in the same
cycle the one of the lower core first. Commands of two cores are ready in the same cycle when they were accepted in the same
cycle; once the FIFO has been full, any other order of them is possible (log entry 61). -/
def execClusterFifoEntry (id : Id) (s : State) : Host.Outcome State Fault Refusal :=
  match mfind id s.cmds with
  | none => .next s
  | some c =>
    let k := s.clu c.clu
    let first := s.cmds.all (fun e => decide (e.1 = id) || e.2.inFifo || decide (e.2.kind.engine ≠ 5) ||
      decide (e.2.clu ≠ c.clu) ||
      (if e.2.core = c.core then decide (id < e.1) else decide (e.2.since ≠ c.since ∨ c.core < e.2.core)))
    if decide (c.kind.engine ≠ 5) || c.inFifo || decide (32 ≤ k.mfifo.length) || !first then .next s
    else .next ((s.setClu c.clu { k with mfifo := k.mfifo ++ [id] }).setCmd id { c with inFifo := true })

/-! ### Accumulator sets (R150) -/

/-- An accumulator set of a cluster. -/
def Cluster.acc (k : Cluster) (n : Nat) : AccSet := if n = 0 then k.acc0 else k.acc1
/-- Change an accumulator set of a cluster. -/
def State.setAcc (s : State) (cl n : Nat) (a : AccSet) : State :=
  let k := s.clu cl
  s.setClu cl (if n = 0 then { k with acc0 := a } else { k with acc1 := a })
/-- An accumulator set. -/
def State.acc (s : State) (cl n : Nat) : AccSet := (s.clu cl).acc n

/-- Where an element stands. -/
abbrev accKey (i j : Nat) : Nat := i * 256 + j

/-- A cleared set keeps its map. -/
def AccSet.clear (a : AccSet) : AccSet := { AccSet.reset with map := a.map }

/-! ### Operands (R146, R147) -/

/-- Element bits of a format (R144). -/
def fmtBits (f : Nat) : Nat := if f = 2 ∨ f = 3 then 16 else if f = 5 ∨ f = 7 then 4 else 8

/-- The float kind of a format below 4. -/
def fmtKind (f : Nat) : FK := if f = 0 then .e4m3 else if f = 1 then .e5m2 else if f = 2 then .bf16 else .f16

/-- An operand: format, group size (0 where not quantized), cluster-local addresses of its rows, each with the poison of its
index entry, base and sidecar base, and whether its sidecar entries follow each gathered row. -/
structure MOpd where
  f    : Nat
  g    : Nat
  rows : List (Nat × Bool)
  base : Nat
  side : Nat
  gat  : Bool
  deriving DecidableEq, Repr

/-- Element bits of an operand. -/
def MOpd.bits (o : MOpd) : Nat := fmtBits o.f
/-- Bytes of a group. -/
def MOpd.gb (o : MOpd) : Nat := o.g * o.bits / 8

/-- The cluster-local address of the sidecar entry of the group that holds element `k` of the row at `a` (R127, R147). -/
def MOpd.entryAt (o : MOpd) (a k : Nat) : Nat :=
  if o.gat then a / 2 ^ 18 * 2 ^ 18 + (a + o.side) % 2 ^ 18 + 4 * (k / o.g)
  else
    let r := a - o.base + k * o.bits / 8
    o.side + r / 128 * (128 / o.gb * 4) + r % 128 / o.gb * 4

/-- A range that lies in the local store of a cluster-local address, below 0x3_E000. -/
def inStore (home a n : Nat) : Bool := decide (a / 2 ^ 18 = home / 2 ^ 18 ∧ home < 2 ^ 21 ∧ a % 2 ^ 18 + n ≤ Config.lsSys)

/-- The rows of an operand keep R147; `rb` is their bytes, `k` their elements. -/
def MOpd.ok (o : MOpd) (rb k : Nat) : Bool :=
  o.rows.all (fun r =>
    decide (r.1 % 32 = 0) && (decide (o.g = 0) || decide (r.1 % o.gb = 0)) &&
    inStore (if o.gat then r.1 else o.base) r.1 rb &&
    (decide (o.g = 0) || (List.range (k / o.g)).all (fun h =>
      inStore (if o.gat then r.1 else o.side) (o.entryAt r.1 (h * o.g)) 4)))

/-- An operand of strided rows (R146, R147): its word of the descriptor, format, group size code, row count, row bytes. -/
def stridedOpd (w : Word) (f gs rows rb : Nat) : Option MOpd :=
  let base := wbits w 20 0
  let side := wbits w 41 21
  let st := wbits w 59 42
  let g := if isQfmt f then 32 * 2 ^ gs else 0
  if wbits w 63 60 ≠ 0 ∨ st % 32 ≠ 0 ∨ st < rb ∨ (g = 0 ∧ side ≠ 0) ∨ (g ≠ 0 ∧ base % 128 ≠ 0) then none
  else some ⟨f, g, (List.range rows).map (fun i => (base + i * st, false)), base, side, false⟩

/-- A gathered operand A: the index entries that the command has read. -/
def gatheredOpd (w : Word) (f gs : Nat) (ents : List (Nat × Bool)) : Option MOpd :=
  let side := wbits w 41 21
  let g := if isQfmt f then 32 * 2 ^ gs else 0
  if wbits w 63 60 ≠ 0 ∨ wbits w 20 0 ≠ 0 ∨ 2 ^ 18 ≤ side ∨
    ents.any (fun e => decide (2 ^ 21 ≤ e.1)) then none
  else some ⟨f, g, ents, 0, side, true⟩

/-- Operands of an MMA from its descriptor and index entries; none where they fail R146 or R147. The row bytes of B under `.t`,
where a row holds N elements, are N × (element bits) / 8 rounded up (log entry 61). -/
def mmaOpds (c : MCfg) (gg t : Bool) (d : List Word) (ents : List (Nat × Bool)) : Option (MOpd × MOpd) :=
  let w2 := nthW d 2
  let rb := fun (f : Nat) => c.k * fmtBits f / 8
  let brb := if t then (c.n * fmtBits c.bf + 7) / 8 else rb c.bf
  if nthW d 3 ≠ 0 ∨ wbits w2 63 21 ≠ 0 ∨ (gg = false ∧ w2 ≠ 0) ∨ w2.toNat % 4 ≠ 0 ∨ (t ∧ isQfmt c.bf) then none
  else
    match (if gg then gatheredOpd (nthW d 0) c.af c.ags ents else stridedOpd (nthW d 0) c.af c.ags c.m (rb c.af)),
      stridedOpd (nthW d 1) c.bf c.bgs (if t then c.k else c.n) brb with
    | some a, some b => if a.ok (rb c.af) c.k && b.ok brb c.k then some (a, b) else none
    | _, _ => none

/-- Bytes at a cluster-local address as a number, with the OR of the poison of their words. -/
def State.clRead (s : State) (cl a n : Nat) : Nat × Bool :=
  let core := cl * 8 + a / 2 ^ 18 % 8
  let bs := (wordsOf (a % 2 ^ 18) n).flatMap (fun q => s.piece (.ls core q.1) q.2)
  (pval bs, ppsn bs)

/-- The subcode of PERM that an access of a command to a cluster-local address raises: a core of another partition, or the
reserved area in U mode (R98, R161, R164). -/
def State.clPerm (s : State) (c : Cmd) (a : Nat) : Option Nat :=
  if s.partOf (c.clu * 8 + a / 2 ^ 18 % 8) ≠ some c.part then some 0x14
  else if Config.lsSys ≤ a % 2 ^ 18 ∧ !c.smode then some 0x12
  else none

/-- The cluster-local addresses at which an operand's rows and sidecar entries lie; `k` are the elements of a row. -/
def MOpd.places (o : MOpd) (k : Nat) : List Nat :=
  o.rows.flatMap (fun r => r.1 :: (if o.g = 0 then [] else (List.range (k / o.g)).map (fun h => o.entryAt r.1 (h * o.g))))

/-- The cluster-local addresses of the index entries of a gathered operand. -/
def gatherPlaces (gidx m : Nat) : List Nat := (List.range m).map (fun i => (gidx + 4 * i) % 2 ^ 21)

/-- The index entries of a gathered operand (R147). -/
def State.mmaIndex (s : State) (cl gidx m : Nat) : List (Nat × Bool) :=
  (gatherPlaces gidx m).map (fun a => s.clRead cl a 4)

/-! ### Products (R129, R148) -/

/-- An element of an operand: an integer (a code without its zero point), or a float. -/
inductive MV where
  | i (v : Int)
  | f (v : FV)
  deriving DecidableEq, Repr

/-- An element as a float. -/
def MV.fv : MV → FV
  | .i v => .ofInt v
  | .f v => v

/-- Elements of a row or column over a range of k: values, the scale of each group, and poison. -/
structure MRow where
  vals   : List MV
  scales : List FV
  psn    : Bool
  deriving DecidableEq, Repr

/-- The element of a format from its bits. -/
def MOpd.elem (o : MOpd) (v : Nat) : MV :=
  if o.f < 4 then .f ((fmtKind o.f).decode v) else .i (sext o.bits v)

/-- A scale: every NaN raises NV (R128). -/
def scaleOf (e : Nat) : FV :=
  match FK.f16.decode (e % 2 ^ 16) with
  | .nan _ => .nan true
  | v => v

/-- Elements k0 to k1 − 1 of a row. -/
def State.mrow (s : State) (cl : Nat) (o : MOpd) (r : Nat × Bool) (k0 k1 : Nat) : MRow :=
  let b := o.bits
  let (v, p) := s.clRead cl (r.1 + k0 * b / 8) ((k1 - k0) * b / 8)
  let vs := (List.range (k1 - k0)).map (fun k => o.elem (v / 2 ^ (b * k) % 2 ^ b))
  if o.g = 0 then ⟨vs, [], p || r.2⟩
  else
    let es := (List.range ((k1 - k0) / o.g)).map (fun h => s.clRead cl (o.entryAt r.1 (k0 + h * o.g)) 4)
    let zp := fun (k : Nat) => sext 8 ((es.map (·.1))[k / o.g]?.getD 0 / 2 ^ 16)
    ⟨vs.zipIdx.map (fun e => match e.1 with
        | .i v => .i (v - zp e.2)
        | .f v => .f v),
      es.map (fun e => scaleOf e.1), p || r.2 || es.any (fun e => e.2 || decide (e.1 / 2 ^ 24 ≠ 0))⟩

/-- Column `j` of rows k0 to k1 − 1, read through the transposing path. -/
def State.mcol (s : State) (cl : Nat) (o : MOpd) (j k0 k1 : Nat) : MRow :=
  let b := o.bits
  let es := ((o.rows.drop k0).take (k1 - k0)).map (fun r => s.clRead cl (r.1 + j * b / 8) ((b + 7) / 8))
  ⟨es.map (fun e => o.elem (e.1 / 2 ^ (if b = 4 then 4 * (j % 2) else 0) % 2 ^ b)), [], es.any (·.2)⟩

/-- The exact sum of products of a group (R129), with flags. -/
def groupSum : List (MV × MV) → FRes
  | [] => .pure (.ofInt 0)
  | ps =>
    let ints := ps.map (fun e => match e with
      | (.i a, .i b) => some (a * b)
      | _ => none)
    if ints.all Option.isSome then .pure (.ofInt ((ints.filterMap id).foldl (· + ·) 0))
    else match ps.map (fun e => fMul e.1.fv e.2.fv) with
      | [] => .pure (.ofInt 0)
      | q :: qs => qs.foldl (fun a q =>
          let r := fAdd .rne a.v q.v
          ⟨r.v, a.fl ||| q.fl ||| r.fl, false⟩) q

/-- Round to A56, keeping flags. -/
def toA56 (r : FRes) : Rounded := r.round .a56 .rne false

/-- One group of a quantized product: the accumulator's pattern and the flags so far. -/
def quantStep (acc : Rounded) (ps : List (MV × MV)) (sa sb : FV) : Rounded :=
  let s := groupSum ps
  let p := fMul s.v sa
  let q := fMul p.v sb
  let (t, f1) := toA56 ⟨q.v, s.fl ||| p.fl ||| q.fl, false⟩
  let (u, f2) := toA56 (fAdd .rne (FK.a56.decode acc.1) (FK.a56.decode t))
  (u, acc.2 ||| f1 ||| f2)

/-- The groups of a quantized product, `h` elements each; `k` counts elements. -/
def quantSum (a b : MRow) (ga gb h : Nat) : Nat → Nat → List (MV × MV) → Rounded → Rounded
  | 0, _, _, acc => acc
  | n + 1, k, ps, acc =>
    let one : FV := .ofInt 1
    let sa := if ga = 0 then one else (a.scales[k / ga]?).getD one
    let sb := if gb = 0 then one else (b.scales[k / gb]?).getD one
    quantSum a b ga gb h n (k + h) (ps.drop h) (quantStep acc (ps.take h) sa sb)

/-- An accumulator after a range of k (R129): its new pattern and flags. -/
def dotStep (int : Bool) (ga gb : Nat) (a b : MRow) (acc : Nat) : Rounded :=
  let ps := a.vals.zip b.vals
  if int then
    let s := ps.foldl (fun t e => match e with
      | (.i x, .i y) => t + x * y
      | _ => t) (0 : Int)
    (umod 56 (sext 56 acc + s), 0)
  else if ga ≠ 0 ∨ gb ≠ 0 then
    let h := if ga = 0 then gb else if gb = 0 then ga else min ga gb
    quantSum a b ga gb h (ps.length / h) 0 ps (acc, 0)
  else ps.foldl (fun t e =>
    let (v, f) := toA56 (fFma .rne e.1.fv e.2.fv (FK.a56.decode t.1))
    (v, t.2 ||| f)) (acc, 0)

/-- The k of one k-step (R149). -/
def kStep (c : MCfg) : Nat :=
  let a := fmtBits c.af
  let b := fmtBits c.bf
  if a = 4 ∧ b = 4 then 512 else if a = 16 ∨ b = 16 then 128 else 256

/-- One element of a set after a k-step. -/
def accElem (c : MCfg) (ga gb : Nat) (a b : MRow) (i j : Nat) (t : AccSet) : AccSet :=
  let k := accKey i j
  let (v, f) := dotStep c.int ga gb a b (mget 0 k t.vals).toNat
  { t with
    vals := mput 0 k (v : Int) t.vals, psn := mput false k (mget false k t.psn || a.psn || b.psn) t.psn
    sflags := t.sflags ||| f }

/-- One k-step of an MMA (R148, R149). -/
def State.mmaStep (s : State) (cl : Nat) (c : MCfg) (t : Bool) (a b : MOpd) (k0 k1 : Nat) : State :=
  let cols := (List.range c.n).map (fun j =>
    if t then s.mcol cl b j k0 k1 else s.mrow cl b ((b.rows[j]?).getD (0, false)) k0 k1)
  let set := a.rows.zipIdx.foldl (fun st r =>
    let row := s.mrow cl a r.1 k0 k1
    cols.zipIdx.foldl (fun st q => accElem c a.g b.g row q.1 r.2 q.2 st) st) (s.acc cl c.set)
  s.setAcc cl c.set set

/-! ### Commands at the engine -/

/-- What an MMA keeps: the words of its descriptor and its index entries, a poisoned one with bit 32. -/
def mmaAux (d : List Word) (es : List (Nat × Bool)) : List Nat := d.map (·.toNat) ++ es.map (fun e => e.1 + 2 ^ 32 * b2n e.2)

/-- The next k-step. -/
def mmaNext (mc : MCfg) (t : Bool) (a b : MOpd) (c : Cmd) (s : State) : EStep × State :=
  let st := kStep mc
  let k0 := c.prog * st
  let k1 := min mc.k (k0 + st)
  let s := (s.mmaStep c.clu mc t a b k0 k1).countClu c.clu c.part 0x11 c.smode 1
  if k1 = mc.k then (.done 0 0 0, s) else (.more { c with prog := c.prog + 1 }, s)

/-- The subcode of PERM that the places which an MMA reads raise (R161, R164; log entry 61). -/
def State.mmaPerm (s : State) (c : Cmd) (ps : List Nat) : Option Nat := ps.findSome? (fun a => s.clPerm c a)

/-- MMA_EXECUTE (R148): the descriptor is read when the command begins, and `.z` clears the set then. -/
def execMmaExecute (id : Id) (upTo : Option Nat) (s : State) : Host.Outcome State Fault Refusal :=
  .next (s.cmdEvent id (fun c s =>
    match c.kind with
    | .mma off z gg t conf =>
      let mc := mcfgOf conf
      let fresh := c.aux.isEmpty
      let (d, p) := if fresh then s.reqWords c.core off 4 else ((c.aux.take 4).map (BitVec.ofNat 64), false)
      let gidx := wbits (nthW d 2) 20 0
      let es := if !gg then [] else if fresh then s.mmaIndex c.clu gidx mc.m
        else (c.aux.drop 4).map (fun e => (e % 2 ^ 32, decide (2 ^ 32 ≤ e)))
      if p then s.endCmd id c 0x0103 0 0
      else match (if gg && fresh then s.mmaPerm c (gatherPlaces gidx mc.m) else none) with
      | some sub => s.endCmd id c 0x0102 sub 0
      | none => match mmaOpds mc gg t d es with
        | none => s.endCmd id c 0x0301 0 0
        | some (a, b) => match (if fresh then s.mmaPerm c (a.places mc.k ++ b.places mc.k) else none) with
          | some sub => s.endCmd id c 0x0102 sub 0
          | none =>
            let s := if fresh && z then s.setAcc c.clu mc.set (s.acc c.clu mc.set).clear else s
            engLoop (mmaNext mc t a b) (fun _ _ => none) id (upTo.getD ((mc.k + kStep mc - 1) / kStep mc)) { c with aux := mmaAux d es } s
    | _ => s))

/-- MCLR_EXECUTE (R151). -/
def execMclrExecute (id : Id) (s : State) : Host.Outcome State Fault Refusal :=
  .next (s.cmdEvent id (fun c s =>
    match c.kind with
    | .mclr conf =>
      let n := (mcfgOf conf).set
      (s.setAcc c.clu n (s.acc c.clu n).clear).endCmd id c 0 0 0
    | _ => s))

/-! ### Maps (R152, R153) -/

/-- ROWS of a map. -/
def mapRows (m : List Word) : Nat := wbits (nthW m 1) 8 0
/-- Entry `i` of a map: core and offset. -/
def mapEntry (m : List Word) (i : Nat) : Nat × Nat := (wbits (nthW m (4 + i)) 29 18, wbits (nthW m (4 + i)) 17 0)

/-- The header of an image keeps R153. -/
def mapHeaderOk (h : List Word) : Bool :=
  let w := nthW h
  decide (wbits (w 0) 63 40 = 0 ∧ wbits (w 0) 18 8 = 0 ∧ wbits (w 1) 63 9 = 0 ∧ wbits (w 2) 63 19 = 0 ∧ w 3 = 0) &&
  decide (1 ≤ mapRows h ∧ mapRows h ≤ 256 ∧ wbits (w 0) 39 19 % 8 = 0 ∧ wbits (w 2) 17 0 % 8 = 0)

/-- MMAP_EXECUTE (R153). -/
def execMmapExecute (id : Id) (s : State) : Host.Outcome State Fault Refusal :=
  .next (s.cmdEvent id (fun c s =>
    match c.kind with
    | .mmap off conf =>
      let n := (mcfgOf conf).set
      let (h, p) := s.reqWords c.core off 4
      let rows := mapRows h
      let top := off + 32 + 4 * rows
      if p then s.endCmd id c 0x0103 0 0
      else if !mapHeaderOk h || decide (Config.lsBytes < top) || (!c.smode && decide (Config.lsSys < top)) then
        s.endCmd id c 0x0302 0 0
      else
        let es := (List.range rows).map (fun i => (s.lsRead c.core (off + 32 + 4 * i) 4, s.lsP c.core (off + 32 + 4 * i)))
        if es.any (·.2) then s.endCmd id c 0x0103 0 0
        else if es.any (fun e => decide (2 ^ 30 ≤ e.1 ∨ e.1 % 8 ≠ 0)) then s.endCmd id c 0x0302 0 0
        else
          (s.setAcc c.clu n { s.acc c.clu n with map := h ++ es.map (fun e => BitVec.ofNat 64 e.1) }).endCmd id c 0 0 0
    | _ => s))

/-! ### Drains (R154 to R156) -/

/-- Output bytes of an output kind (R144). -/
def outBytes (k : Nat) : Nat :=
  match k with
  | 0 => 8 | 1 => 4 | 2 => 2 | 3 => 2 | 4 => 1 | 5 => 1 | 6 => 4 | 7 => 2 | _ => 1

/-- The float kind of an output kind 1 to 5. -/
def outKind (k : Nat) : FK := if k = 1 then .f32 else if k = 2 then .f16 else if k = 3 then .bf16 else if k = 4 then .e4m3 else .e5m2

/-- Convert (R155). -/
def outConvert (c : MCfg) (v : Nat) : Rounded :=
  if c.ok = 0 then (v % 2 ^ 56, 0)
  else if c.ok ≤ 5 then FK.a56.convert (outKind c.ok) (rmOf c.rm) c.sat v
  else
    let w := 8 * outBytes c.ok
    (umod w (if c.sat then max (imin true w) (min (imax true w) (sext 56 v)) else sext 56 v), 0)

/-- What a drain keeps: flags, whether a value was poisoned, since when it waits for an inbox word (0 where it does not,
else the cycle plus one), and the inbox words of the row that it has taken, a poisoned one with bit 64. -/
structure MDrain where
  fl   : Nat
  anyp : Bool
  since : Nat
  got  : List Nat
  deriving DecidableEq, Repr

/-- Progress as a command keeps it. -/
def MDrain.aux (d : MDrain) : List Nat := [d.fl, b2n d.anyp, d.since] ++ d.got
/-- Progress that a command keeps. -/
def mdrainSt (c : Cmd) : MDrain := ⟨c.aux[0]?.getD 0, decide (c.aux[1]?.getD 0 = 1), c.aux[2]?.getD 0, c.aux.drop 3⟩

/-- The end of a drain (R154, finish) with CODE, SUB and FROW: the flag word is written where FEN asks for it. In the reserved
area a command of U mode writes none, and raises PERM where nothing else was raised (R161; log entry 61). -/
def mdrainFinish (c : Cmd) (map : List Word) (d : MDrain) (code sub frow : Nat) (s : State) : EStep × State :=
  let off := wbits (nthW map 2) 17 0
  if wbits (nthW map 2) 18 18 = 0 then (.done code sub frow, s)
  else if Config.lsSys ≤ off ∧ !c.smode then (if code = 0 then .done 0x0102 0x12 0 else .done code sub frow, s)
  else (.done code sub frow, (s.lsWrite c.core off 8 (d.fl % 32 + 32 * b2n d.anyp) false).setLsF c.core off true)

/-- Take inbox words of a row while they are full (R154); `fuel` is at least their number. -/
def takeInbox (core : Nat) (n : Nat) : Nat → Nat → List Nat → State → List Nat × State
  | 0, _, got, s => (got, s)
  | f + 1, a, got, s =>
    if n ≤ got.length then (got, s)
    else
      let o := a + 8 * got.length
      if !s.lsF core o then (got, s)
      else takeInbox core n f a (got ++ [s.lsRead core o 8 + 2 ^ 64 * b2n (s.lsP core o)]) (s.setLsF core o false)

/-- The value of an element with the inbox word that goes before it (R130, R154). -/
def chainAdd (int : Bool) (w v : Nat) : Nat :=
  if int then (w + v) % 2 ^ 56
  else (toA56 (fAdd .rne (FK.a56.decode (w % 2 ^ 56)) (FK.a56.decode v))).1

/-- The elements of a row as they leave: bytes with poison, and flags. -/
def drainRow (c : MCfg) (t : AccSet) (i : Nat) (got : List Nat) : PBytes × BitVec 5 :=
  (List.range c.n).foldl (fun (a : PBytes × BitVec 5) j =>
    let v := (mget 0 (accKey i j) t.vals).toNat
    let p := mget false (accKey i j) t.psn
    let (v, p) := match got[j]? with
      | none => (v, p)
      | some w => (chainAdd c.int (w % 2 ^ 64) v, p || decide (2 ^ 64 ≤ w) || decide (w % 2 ^ 64 / 2 ^ 56 ≠ 0))
    let (o, f) := outConvert c v
    (a.1 ++ (toBytes (outBytes c.ok) o).map (fun b => (b, p)), a.2 ||| f)) ([], 0)

/-- A drain has taken inbox words of a row that it has not written: one that is cancelled then stops after that row (R159). -/
def Cmd.midRow (c : Cmd) : Bool :=
  match c.kind with
  | .mdrain _ _ => !(mdrainSt c).got.isEmpty
  | _ => false

/-- The next row of a drain; it may wait for its inbox words. A drain that is being cancelled ends after its row (R157, R159;
log entry 61), and writes no flag word (log entry 75). -/
def mdrainStep (mc : MCfg) (acc : Bool) (map : List Word) (c : Cmd) (s : State) : EStep × State :=
  let d := mdrainSt c
  let i := c.prog
  let (core, off) := mapEntry map i
  let rb := mc.n * outBytes mc.ok
  let inbox := wbits (nthW map 0) 39 19
  let first := inbox % 2 ^ 18 + 8 * mc.n * i
  if s.partOf core ≠ some c.part ∨ Config.lsSys < off + rb ∨ (acc ∧ Config.lsSys < first + 8 * mc.n) then
    mdrainFinish c map d 0x0303 0 i s
  else match (if acc then s.clPerm c inbox else none) with
  | some sub => mdrainFinish c map d 0x0102 sub i s
  | none =>
    let (got, s) := if acc then takeInbox (c.clu * 8 + inbox / 2 ^ 18) mc.n mc.n first d.got s else ([], s)
    if acc && decide (got.length < mc.n) then
      let since := if d.since ≠ 0 ∧ got.length = d.got.length then d.since else s.cycle + 1
      (.more { c with aux := { d with since := since, got := got }.aux }, s)
    else
      let (bs, f) := drainRow mc (s.acc c.clu mc.set) i got
      let d := { d with fl := d.fl ||| f.toNat, anyp := d.anyp || ppsn bs, since := 0, got := [] }
      let bs := bs ++ zeros ((8 - bs.length % 8) % 8)
      let s := s.lsBytes core off bs
      let s := s.signal core (wbits (nthW map 0) 7 0) 1
      if i + 1 = mc.m then mdrainFinish c map d 0 0 0 s
      else if c.stopping then (.done 2 0 (i + 1), s)
      else (.more { c with prog := i + 1, aux := d.aux }, s)

/-- MDRAIN_EXECUTE (R154). -/
def execMdrainExecute (id : Id) (upTo : Option Nat) (s : State) : Host.Outcome State Fault Refusal :=
  .next (s.cmdEvent id (fun c s =>
    match c.kind with
    | .mdrain acc conf =>
      let mc := mcfgOf conf
      let t := s.acc c.clu mc.set
      if t.map.isEmpty || decide (mapRows t.map < mc.m) then s.endCmd id c 0x0304 0 0
      else
        let c := if c.aux.isEmpty then { c with aux := (MDrain.mk t.sflags.toNat false 0 []).aux } else c
        engLoop (mdrainStep mc acc t.map) (fun _ _ => none) id (upTo.getD mc.m) c s
    | _ => s))

/-- MDRAIN_INBOX_TIMEOUT (R154): an inbox word has not become full within the wait limit. The flag word tells of the elements
of the row that were converted before it. -/
def execMdrainInboxTimeout (id : Id) (s : State) : Host.Outcome State Fault Refusal :=
  .next (s.cmdEvent id (fun c s0 =>
    match c.kind with
    | .mdrain _ conf =>
      let d := mdrainSt c
      let t := s0.acc c.clu (mcfgOf conf).set
      if d.since = 0 ∨ s0.cycle ≤ d.since - 1 + 16 * s0.waitLimit c.core then s0
      else
        let mc := mcfgOf conf
        let inbox := wbits (nthW t.map 0) 39 19
        let o := inbox % 2 ^ 18 + 8 * mc.n * c.prog + 8 * d.got.length
        if s0.lsF (c.clu * 8 + inbox / 2 ^ 18) o then s0
        else
          let (bs, f) := drainRow { mc with n := d.got.length } t c.prog d.got
          (mdrainFinish c t.map { d with fl := d.fl ||| f.toNat, anyp := d.anyp || ppsn bs } 0x0305 0 c.prog s0).2.endCmd id c
            0x0305 0 c.prog
    | _ => s0))

/-! ### The meanings -/

/-- MCFG. -/
def execMcfg (g : Guard) (src : Src64) (s : State) : Host.Outcome State Fault Refusal :=
  issue (specMcfg g src) s
/-- MMA. -/
def execMma (g : Guard) (tr : Bool) (z : Bool) (gg : Bool) (t : Bool) (d : Ix) (a : Opd) (ws : Option Ws) (s : State) : Host.Outcome State Fault Refusal :=
  issue (specMma g tr z gg t d a ws) s
/-- MDRAIN. -/
def execMdrain (g : Guard) (tr : Bool) (acc : Bool) (d : Ix) (ws : Option Ws) (s : State) : Host.Outcome State Fault Refusal :=
  issue (specMdrain g tr acc d ws) s
/-- MMAP. -/
def execMmap (g : Guard) (tr : Bool) (d : Ix) (a : Opd) (ws : Option Ws) (s : State) : Host.Outcome State Fault Refusal :=
  issue (specMmap g tr d a ws) s
/-- MCLR. -/
def execMclr (g : Guard) (tr : Bool) (d : Ix) (ws : Option Ws) (s : State) : Host.Outcome State Fault Refusal :=
  issue (specMclr g tr d ws) s

end Sys2Proof.Machine
end

