-- ==== Sys2Proof/Machine/Collect.lean ====
section
/-! DEFINITION. Collectives and membership sets: XREDUCE, XGATHER, XBCAST, XMEMBER, XLOG and their events
(spec/13_dependability.md R299 to R303; spec/21_ref_t_y.md R433 to R437). What other members bring arrives over the peer links
as pieces (log entry 44). -/

namespace Sys2Proof.Machine

/-! ### Issue (R433, R435) -/

/-- A collective at its turn (R433): the checks are those of R381. -/
def collSpec (mk : Nat → Bool → CmdKind) (g : Guard) (tr confine : Bool) (d : Ix) (a : Opd) (ws : Option Ws) : OpSpec where
  g := g
  fields := [d, a.ix]
  kinds := fun x => x.lateOk d && x.intOk a.ix
  m := [a]
  d := none
  needs := [.pop a.ix, .cmd tr]
  run := fun x => do
    noQueueD x d
    let o ← matrixOffset x a.ix
    acceptCmd x d tr ws (mk o confine) id

/-- XREDUCE. -/
def specXreduce := collSpec CmdKind.xreduce
/-- XGATHER. -/
def specXgather := collSpec CmdKind.xgather
/-- XBCAST. -/
def specXbcast := collSpec CmdKind.xbcast

/-- Words that `n` bytes from an offset touch are poisoned, of those that the local store has. -/
def State.lsBad (s : State) (core off n : Nat) : Bool :=
  (List.range ((off + n + 7) / 8 - off / 8)).any (fun k =>
    decide ((off / 8 + k) * 8 < Config.lsBytes) && s.lsP core ((off / 8 + k) * 8))

/-- Plain reads of `n` bytes of the local store at a slot's turn: earlier writes of the slot to them come first, and poison is
reported before their place is judged (R435, R437). -/
def readOwn (x : Ctx) (v : Int) (n : Nat) : OpM Unit := do
  accessNow (x.lsAcc x.core v.toNat n false)
  let s ← get
  if 0 ≤ v ∧ s.lsBad x.core v.toNat n then trapAddr 0x0A 0 (asWord v)

/-- PERM for bytes of the local store from an offset (R163). -/
def ownRange (x : Ctx) (v : Int) (n : Nat) : OpM Unit := do
  if v < 0 ∨ (Config.lsBytes : Int) < v + n then trapAddr 9 0x14 (asWord v)
  if !x.sl.smode && decide ((Config.lsSys : Int) < v + n) then trapAddr 9 0x12 (asWord v)

/-- The fields of an XLOG request (R435). -/
structure XlogReq where
  set  : Nat
  dev  : Nat
  fst  : Nat
  n    : Nat
  loff : Nat
  bad  : Bool
  deriving DecidableEq, Repr

/-- Read a request. -/
def XlogReq.of (ws : List Word) : XlogReq :=
  let a := nthW ws 0
  let b := nthW ws 1
  let n := wbits b 44 32
  let loff := wbits b 17 0
  ⟨wbits a 63 48, wbits a 41 32, wbits a 31 0, n, loff,
   decide (wbits a 47 42 ≠ 0 ∨ wbits b 63 45 ≠ 0 ∨ wbits b 31 18 ≠ 0 ∨ n = 0 ∨ 4096 < n ∨ loff % 64 ≠ 0)⟩

/-- XLOG (R435). -/
def specXlog (g : Guard) (tr keepf : Bool) (d : Ix) (a : Opd) (ws : Option Ws) : OpSpec where
  g := g
  fields := [d, a.ix]
  kinds := fun x => x.lateOk d && x.intOk a.ix
  m := [a]
  d := none
  needs := [.pop a.ix, .cmd tr]
  run := fun x => do
    noQueueD x d
    let v ← readAddr x a.ix
    readOwn x v 16
    if v % 16 ≠ 0 then trapAddr 7 0 (asWord v)
    ownRange x v 16
    let s ← get
    let req := (s.reqWords x.core v.toNat 2).1
    let r := XlogReq.of req
    if !r.bad then ownRange x r.loff (64 * r.n)
    acceptCmd x d tr ws (.xlog req keepf)
      (fun s => if r.bad || keepf then s else s.clearF x.core r.loff (64 * r.n))

/-! ### Sets and their logs (R299, R303) -/

/-- The key of a set of a partition. -/
def setKey (part set : Nat) : Nat := part * 65536 + set

/-- The logical number of a device. -/
def XSet.num (x : XSet) (dev : Nat) : Option Nat := x.devs.findIdx? (fun d => decide (d = dev))

/-- Record an event; the log keeps the last 4,096. -/
def XSet.event (x : XSet) (kind : Nat) (body : List Word) : XSet :=
  let e : XLogEnt := ⟨x.lseq, [BitVec.ofNat 64 (x.lseq * 2 ^ 32 + x.gen % 2 ^ 32), BitVec.ofNat 64 kind] ++ body ++ [0, 0]⟩
  { x with lseq := x.lseq + 1, log := (e :: x.log).take 4096 }

/-- The entry of a collective that has ended: its generation and exclusion mask. -/
def XSet.close (x : XSet) (lseq mask : Nat) : XSet :=
  { x with log := x.log.map (fun e => if e.lseq = lseq then
      { e with data := (e.data.set 0 (BitVec.ofNat 64 (lseq * 2 ^ 32 + x.gen % 2 ^ 32))).set 6 (BitVec.ofNat 64 mask) } else e) }

/-- The words 2 to 5 of the entry of a change: the device, its old and new logical numbers, a digest. The spec leaves open
a number that does not exist, and the digest (log entry 45). -/
def State.changeBody (s : State) (dev : Nat) (old new : Option Nat) : List Word × State :=
  let (a, s) := s.freeVal
  let (b, s) := s.freeVal
  let (c, s) := s.freeVal
  ([BitVec.ofNat 64 dev, match old with
      | some n => BitVec.ofNat 64 n
      | none => a, match new with
      | some n => BitVec.ofNat 64 n
      | none => b, c], s)

/-- Set a membership set. -/
def State.setX (s : State) (key : Nat) (x : XSet) : State := { s with xsets := mset key x s.xsets }

/-- Members without those that a test names, in their order (R299). -/
def dropMembers (ds : List Nat) (out : Nat → Bool) : List Nat :=
  ds.zipIdx.filterMap (fun e => if out e.2 then none else some e.1)

/-- A shrink: the members of a mask go, and GEN rises. -/
def State.shrinkSet (s : State) (key : Nat) (x : XSet) (out : Nat → Bool) : State :=
  let y := { x with devs := dropMembers x.devs out, gen := (x.gen + 1) % 2 ^ 32 }
  let (b, s) := s.changeBody s.devNum (x.num s.devNum) (y.num s.devNum)
  s.setX key (y.event 5 b)

/-! ### Descriptors (R300, R301) -/

/-- The fields of a collective descriptor (R300). -/
structure XDesc where
  sva : Nat
  dva : Nat
  set : Nat
  gen : Nat
  n   : Nat
  root : Nat
  sk  : Nat
  dk  : Nat
  rm  : Rm
  sat : Bool
  resv : Nat
  dline : Nat
  deriving DecidableEq, Repr

/-- Read a descriptor. -/
def XDesc.of (ws : List Word) : XDesc :=
  let a := nthW ws 2
  let b := nthW ws 3
  ⟨(nthW ws 0).toNat, (nthW ws 1).toNat, wbits a 63 48, wbits a 47 32, wbits a 31 0, wbits b 63 54, wbits b 53 50,
   wbits b 49 46, rmOf (wbits b 45 44), decide (wbits b 43 43 = 1), wbits b 42 32, wbits b 31 0⟩

/-- A descriptor fails R300 or R301; `kind` is 1 for XREDUCE, 2 for XGATHER, 3 for XBCAST. -/
def XDesc.bad (d : XDesc) (kind : Nat) : Bool :=
  decide (d.n = 0 ∨ d.resv ≠ 0) || (ekBytes d.sk).isNone || (ekBytes d.dk).isNone ||
  (decide (kind ≠ 3) && decide (d.root ≠ 0)) ||
  (if kind = 1 then (decide (8 ≤ d.sk) || decide (8 ≤ d.dk)) && decide (d.sk ≠ d.dk) else decide (d.sk ≠ d.dk))

/-- Bytes of an element. -/
def XDesc.sz (d : XDesc) : Nat := (ekBytes d.sk).getD 8
/-- Words of a contribution. -/
def XDesc.words (d : XDesc) : Nat := (d.n * d.sz + 7) / 8

/-- A collective of a set is under way on this device. -/
def State.xBusy (s : State) (key : Nat) : Bool :=
  s.cmds.any (fun e => decide (e.2.kind.engine = 6) && decide (e.2.aux.head? = some key))

/-- Logical numbers whose contribution a collective needs. -/
def needed (kind : Nat) (x : XSet) (d : XDesc) : List Nat := if kind = 3 then [d.root] else List.range x.devs.length

/-- Cycles after which a contribution counts as missing (R301). -/
def State.dlineOf (s : State) (part : Nat) (d : XDesc) : Nat :=
  if d.dline = 0 then s.limitCycles part else usCycles d.dline

/-- Tell other devices something about a set and one of its events (log entry 44). -/
def State.tell (s : State) (key kind lseq : Nat) (devs : List Nat) (ws : List (Word × Bool)) : State :=
  devs.foldl (fun st dv => if dv = st.devNum then st
    else st.sendPieces dv 4 (xHead (key / 65536) kind (key % 65536) st.devNum) lseq 0 ws) s

/-- Tell every member, this device among them. -/
def State.tellAll (s : State) (key kind lseq : Nat) (devs : List Nat) (ws : List (Word × Bool)) : State :=
  { s with xin := s.xin ++ [(⟨kind, s.devNum, key, lseq, 0, ws, s.cycle⟩ : XIn)] }.tell key kind lseq devs ws

/-- Words without poison. -/
def clean (ws : List Word) : List (Word × Bool) := ws.map (fun w => (w, false))

/-- The pieces of collectives up to an LSEQ are done with. -/
def State.forgetColl (s : State) (key lseq : Nat) : State :=
  { s with xin := s.xin.filter (fun p => !(decide (p.key = key ∧ p.lseq ≤ lseq) &&
    (decide (p.kind ≤ 3) || decide (13 ≤ p.kind ∧ p.kind ≤ 15)))) }

/-- Word `k` of a piece. -/
def XIn.num (p : XIn) (k : Nat) : Nat := ((p.words[k]?).map (·.1.toNat)).getD 0

/-- Some member has given notice of the event of a set. -/
def State.noticed (s : State) (key lseq : Nat) : Bool := s.xin.any (fun p => decide (p.kind = 13 ∧ p.key = key ∧ p.lseq = lseq))

/-- What a collective command keeps: its set, its LSEQ, when the set's first descriptor was seen, whether its contribution is
given, and its descriptor. -/
def xKept (key lseq first : Nat) (given : Bool) (ws : List Nat) : List Nat := [key, lseq, first, b2n given] ++ ws

/-! ### Which contributions are missing (R301, R302)

The members must agree, and the spec gives no protocol. The device of logical number 0 decides, whether or not it takes part,
and tells the others; a member that hears nothing, or lacks a contribution that is not missing, gives up at twice the deadline
and writes nothing (log entry 69). -/

/-- A member has withdrawn from a collective. -/
def State.withdrawn (s : State) (key lseq dev : Nat) : Bool := !(s.piecesOf 15 dev key lseq s.cycle).isEmpty

/-- The member that decides. -/
def XSet.decider (x : XSet) : Option Nat := x.devs.head?

/-- Bits of a mask as 16 words. -/
def maskWords (ls : List Nat) : List Word :=
  (List.range 16).map (fun k => BitVec.ofNat 64 (ls.foldl (fun m l => if l / 64 = k then m + 2 ^ (l % 64) else m) 0))

/-- A bit of a mask of words. -/
def maskBit (mask : List Word) (l : Nat) : Bool := decide (wbits (nthW mask (l / 64)) (l % 64) (l % 64) = 1)

/-- The mask of missing members, once the member that decides has told it. -/
def State.verdict (s : State) (key lseq : Nat) (x : XSet) : Option (List Word) :=
  match x.decider with
  | none => none
  | some dv => (gatherPieces (s.piecesOf 14 dv key lseq s.cycle) 16 0).map (fun ws => ws.map (·.1))

/-- The contribution of a member that has arrived by a cycle, as bytes. -/
def State.given (s : State) (kind : Nat) (x : XSet) (key lseq by_ : Nat) (d : XDesc) (l : Nat) : Option PBytes :=
  (gatherPieces (s.piecesOf kind (x.devs.getD l 1024) key lseq by_) d.words 0).map (fun ws => (tileBytes ws).take (d.n * d.sz))

/-- The member that decides about a collective does so once, when every contribution is there, or at the deadline when
`dead`. -/
def State.xDecide (s : State) (dead : Bool) (key lseq : Nat) (x : XSet) (kind : Nat) (d : XDesc) (by_ : Nat) : State :=
  let miss := (needed kind x d).filter (fun l =>
    (s.given kind x key lseq by_ d l).isNone || s.withdrawn key lseq (x.devs.getD l 1024))
  if x.decider ≠ some s.devNum ∨ (s.verdict key lseq x).isSome then s
  else if miss.isEmpty || (dead && decide (by_ ≤ s.cycle)) then s.tellAll key 14 lseq x.devs (clean (maskWords miss))
  else s

/-- A collective ends: its pieces go; with AUTO its missing members leave the set. -/
def State.xClose (s : State) (key lseq : Nat) (out miss : List Nat) : State :=
  let s := s.forgetColl key lseq
  match mfind key s.xsets with
  | none => s
  | some x =>
    let x := x.close lseq (out.foldl (fun m l => m + 2 ^ l) 0 % 2 ^ 64)
    let s := s.setX key x
    if x.auto_ && !miss.isEmpty then s.shrinkSet key x (fun l => miss.contains l) else s

/-- The first notice of a collective that this device has. -/
def State.firstNotice (s : State) (key lseq : Nat) : Option XIn :=
  s.xin.foldl (fun b p => if p.kind = 13 ∧ p.key = key ∧ p.lseq = lseq then
    match b with
    | none => some p
    | some q => if p.at_ < q.at_ then some p else some q
    else b) none

/-- The LSEQ of a collective from which this device has withdrawn, and whose end it does not know yet (R434). -/
def State.left (s : State) (key : Nat) : Option Nat :=
  (s.xin.find? (fun p => decide (p.kind = 15 ∧ p.key = key ∧ p.dev = s.devNum))).map (·.lseq)

/-- The device sees to a collective of a set in which no command of its own takes part: one from which it has withdrawn, or the
next one, of which it has notice only. It decides if that is its part; and of one that is decided it learns who was missing:
it closes one from which it has withdrawn, and where AUTO removes this device itself from the set, it is no member any more
(R301). -/
def State.xSettle (s : State) (key : Nat) : State :=
  match mfind key s.xsets with
  | none => s
  | some x =>
    let lseq := (s.left key).getD x.lseq
    let s := match s.firstNotice key lseq with
      | none => s
      | some p =>
        let d := XDesc.of ((p.words.drop 1).map (·.1))
        s.xDecide true key lseq x (p.num 0) d (p.at_ + s.dlineOf (key / 65536) d)
    match s.verdict key lseq x with
    | none => s
    | some mask =>
      let miss := (List.range x.devs.length).filter (maskBit mask)
      if lseq < x.lseq then s.xClose key lseq miss miss
      else if x.auto_ && (match x.num s.devNum with
          | some me => maskBit mask me
          | none => false) then (s.setX key { x with lseq := lseq + 1 }).xClose key lseq miss miss
      else s

/-- A collective from which this device has withdrawn holds up the set's next one, until its end is known or could have been
(log entry 69). -/
def State.leaving (s : State) (key : Nat) : Bool :=
  s.xin.any (fun p => decide (p.kind = 15 ∧ p.key = key ∧ p.dev = s.devNum ∧ s.cycle < p.num 0))

/-- This device has voted for a join of the set, and awaits the sponsor's word (R303; log entry 74). -/
def State.pledged (s : State) (key : Nat) : Bool :=
  s.xin.any (fun p => decide (p.kind = 16 ∧ p.key = key ∧ p.dev = s.devNum ∧
    s.cycle < p.at_ + 2 * s.limitCycles (key / 65536)))

/-! ### Members at work (R300, R301, R303, R434) -/

/-- A descriptor reaches the set (R301, R303, R434): it is refused, or waits for an earlier collective or a join, or is recorded
with the next LSEQ, and the members get notice of it. -/
def xAccept (kind : Nat) (off : Nat) (id : Nat) (c : Cmd) (s : State) : State :=
  let (ws, p) := s.reqWords c.core off 4
  let d := XDesc.of ws
  let key := setKey c.part d.set
  if p then s.endCmd id c 0x0103 0 0
  else if d.bad kind then s.endCmd id c 0x0105 0 0
  else if d.sva % 8 ≠ 0 ∨ d.dva % 8 ≠ 0 then s.endCmd id c 0x0104 0 0
  else
    let s := if s.xBusy key then s else s.xSettle key
    match mfind key s.xsets with
    | none => s.endCmd id c 0x0703 0 0
    | some x =>
      if (x.num s.devNum).isNone then s.endCmd id c 0x0703 0 0
      else if d.gen ≠ x.gen % 65536 then s.endCmd id c 0x0701 0 (x.gen % 65536)
      else if kind = 3 ∧ x.devs.length ≤ d.root then s.endCmd id c 0x0105 0 0
      else if s.xBusy key || s.leaving key || s.pledged key then s
      else
        let first := ((s.firstNotice key x.lseq).map (·.at_)).getD s.cycle
        let s := s.setX key (x.event kind ws)
        let s := s.tellAll key 13 x.lseq x.devs (clean (BitVec.ofNat 64 kind :: ws))
        s.setCmd id { c with aux := xKept key x.lseq first false (ws.map (·.toNat)), prog := kind }

/-- The key of the set of a collective that has been accepted. -/
def Cmd.xKey (c : Cmd) : Nat := c.aux.headD 0
/-- Its LSEQ. -/
def Cmd.xLseq (c : Cmd) : Nat := c.aux.getD 1 0
/-- Its contribution has been given. -/
def Cmd.xGiven (c : Cmd) : Bool := decide (c.aux.getD 3 0 = 1)
/-- Its descriptor. -/
def Cmd.xDesc (c : Cmd) : XDesc := XDesc.of ((c.aux.drop 4).map (BitVec.ofNat 64))

/-- The cycle of a collective's deadline (R301), and the one at which a member that cannot end it gives up (log entry 69). -/
def State.xDue (s : State) (c : Cmd) : Nat := c.aux.getD 2 0 + s.dlineOf c.part c.xDesc
/-- The cycle at which a member gives up. -/
def State.xLast (s : State) (c : Cmd) : Nat := c.aux.getD 2 0 + 2 * s.dlineOf c.part c.xDesc

/-- A member withdraws from a collective that it has accepted: its contribution is missing for the others (R434). -/
def State.xWithdraw (s : State) (c : Cmd) : State :=
  match mfind c.xKey s.xsets with
  | none => s
  | some x =>
    if c.aux.isEmpty then s else s.tellAll c.xKey 15 c.xLseq x.devs (clean [BitVec.ofNat 64 (s.xLast c)])

/-- This member's contribution is read and goes to every member, itself among them; one of XBCAST only from its root. -/
def xGive (id : Nat) (c : Cmd) (x : XSet) (s : State) : State :=
  let d := c.xDesc
  let given := { c with aux := c.aux.set 3 1 }
  if c.prog = 3 ∧ x.num s.devNum ≠ some d.root then s.setCmd id given
  else runEng c (engRead c (.va d.sva) (d.n * d.sz)) s
    (fun bs s => (s.tellAll c.xKey c.prog c.xLseq x.devs (asWords d.words bs)).setCmd id given)
    (fun e s => (s.xWithdraw c).endCmd id c e.1 e.2 0)

/-! ### Results (R300 to R302) -/

/-- Element i of bytes, with its poison; an a56 element whose top byte is not zero counts as poisoned. -/
def xElem (d : XDesc) (bs : PBytes) (i : Nat) : Nat × Bool :=
  let e := (bs.drop (i * d.sz)).take d.sz
  (pval e, ppsn e || (decide (d.sk = 5) && decide (pval e / 2 ^ 56 ≠ 0)))

/-- One step of the chain of R130. -/
def xChain (d : XDesc) (acc : Option Nat × Bool) (e : Nat × Bool) : Option Nat × Bool :=
  let v : Nat := match fkOf d.sk with
    | some k => (toA56 ⟨k.decode (e.1 % 2 ^ k.width), 0, false⟩).1
    | none => e.1
  (some (match acc.1 with
    | none => v
    | some a => match fkOf d.sk with
      | some _ => chainAdd false a v
      | none => (a + v) % 2 ^ (8 * d.sz)), acc.2 || e.2)

/-- The result element of a chain, as bytes. -/
def xOut (d : XDesc) (acc : Option Nat × Bool) : PBytes :=
  let z := (ekBytes d.dk).getD 8
  let a := acc.1.getD 0
  let v : Nat := match fkOf d.dk with
    | some k => (FRes.round ⟨FK.a56.decode a, 0, false⟩ k d.rm d.sat).1
    | none => a
  (toBytes z v).map (fun b => (b, acc.2))

/-- The bytes of a reduction over contributions in logical order. -/
def xReduce (d : XDesc) (cs : List PBytes) : PBytes :=
  (List.range d.n).flatMap (fun i => xOut d (cs.foldl (fun a bs => xChain d a (xElem d bs i)) (none, false)))

/-- Where a result goes: offsets from DVA with their bytes; `live` holds the contributions taken, by logical number. -/
def xPlaces (kind : Nat) (d : XDesc) (live : List (Nat × PBytes)) : List (Nat × PBytes) :=
  match kind with
  | 1 => [(0, xReduce d (live.map (·.2)))]
  | 2 => live.map (fun e => (e.1 * d.n * d.sz, e.2))
  | _ => live.map (fun e => (0, e.2))

/-- Bytes of the destination region. -/
def xRegion (kind : Nat) (d : XDesc) (members : Nat) : Nat :=
  match kind with
  | 1 => d.n * (ekBytes d.dk).getD 8
  | 2 => members * d.n * d.sz
  | _ => d.n * d.sz

/-- Write a result, all its pages having been checked first. -/
def xWrite (c : Cmd) (dva : Nat) (ps : List (Nat × PBytes)) : EngM Unit := do
  ps.forM (fun e => engCheck c (.va (dva + e.1)) e.2.length .wr)
  ps.forM (fun e => engWrite c (.va (dva + e.1)) e.2)

/-- The exclusion mask as bytes. -/
def maskBytes (out : List Nat) : PBytes :=
  (toBytes 128 (out.foldl (fun m l => m + 2 ^ l) 0)).map (fun b => (b, false))

/-- A member that cannot end a collective gives up: it writes nothing, and names the lowest member whose contribution is not
here, or the one that should have decided (log entry 69). -/
def xGiveUp (id : Nat) (c : Cmd) (x : XSet) (s : State) : State :=
  if s.cycle < s.xLast c then s
  else
    let l := ((needed c.prog x c.xDesc).find? (fun l =>
      (s.given c.prog x c.xKey c.xLseq s.cycle c.xDesc l).isNone)).getD 0
    (s.xWithdraw c).endCmd id c 0x0702 0 l

/-- The end of a collective whose missing members are decided: once the others' contributions are here. -/
def xConclude (confine dead : Bool) (id : Nat) (c : Cmd) (x : XSet) (mask : List Word) (s : State) : State :=
  let key := c.xKey
  let lseq := c.xLseq
  let kind := c.prog
  let d := c.xDesc
  let miss := (needed kind x d).filter (maskBit mask)
  let got := ((needed kind x d).filter (fun l => !maskBit mask l)).map (fun l => (l, s.given kind x key lseq s.cycle d l))
  if got.any (fun e => e.2.isNone) then (if dead then xGiveUp id c x s else s)
  else if !miss.isEmpty && !confine then (s.xClose key lseq [] []).endCmd id c 0x0702 0 (miss.headD 0)
  else
    let have_ := got.map (fun e => (e.1, e.2.getD []))
    let bad := have_.filterMap (fun e => if confine && (List.range d.n).any (fun i => (xElem d e.2 i).2) then some e.1 else none)
    let out := miss ++ bad
    let live := have_.filter (fun e => !bad.contains e.1)
    if live.isEmpty then (s.xClose key lseq out miss).endCmd id c 0x0704 0 0
    else
      let reg := (xRegion kind d x.devs.length + 7) / 8 * 8
      let ps := xPlaces kind d live ++ (if confine then [(reg, maskBytes out)] else [])
      runEng c (xWrite c d.dva ps) s
        (fun _ s => (s.xClose key lseq out miss).endCmd id c (if out.isEmpty then 0 else 0x0710) 0 out.length)
        (fun e s => (s.xClose key lseq out miss).endCmd id c e.1 e.2 0)

/-- A collective goes on: the missing members are decided, and it ends. -/
def xFinish (confine dead : Bool) (id : Nat) (c : Cmd) (s : State) : State :=
  match mfind c.xKey s.xsets with
  | none => s.endCmd id c 0x0703 0 0
  | some x =>
    let s := s.xDecide dead c.xKey c.xLseq x c.prog c.xDesc (s.xDue c)
    match s.verdict c.xKey c.xLseq x with
    | none => if dead then xGiveUp id c x s else s
    | some mask => xConclude confine dead id c x mask s

/-- A collective at its engine: its descriptor, its contribution, or its end. -/
def xRun (kind off : Nat) (confine : Bool) (id : Nat) (c : Cmd) (s : State) : State :=
  if c.aux.isEmpty then xAccept kind off id c s
  else if c.xGiven then xFinish confine false id c s
  else match mfind c.xKey s.xsets with
    | none => s.endCmd id c 0x0703 0 0
    | some x => xGive id c x s

/-- XREDUCE_EXECUTE (R300). -/
def execXreduceExecute (id : Id) (s : State) : Host.Outcome State Fault Refusal :=
  .next (s.cmdEvent id (fun c s => match c.kind with
    | .xreduce off confine => xRun 1 off confine id c s
    | _ => s))

/-- XGATHER_EXECUTE (R300). -/
def execXgatherExecute (id : Id) (s : State) : Host.Outcome State Fault Refusal :=
  .next (s.cmdEvent id (fun c s => match c.kind with
    | .xgather off confine => xRun 2 off confine id c s
    | _ => s))

/-- XBCAST_EXECUTE (R300). -/
def execXbcastExecute (id : Id) (s : State) : Host.Outcome State Fault Refusal :=
  .next (s.cmdEvent id (fun c s => match c.kind with
    | .xbcast off confine => xRun 3 off confine id c s
    | _ => s))

/-- COLLECTIVE_DEADLINE (R301): the contributions that have not arrived by the deadline count as missing; a member that cannot
end its collective gives up later. -/
def execCollectiveDeadline (id : Id) (s : State) : Host.Outcome State Fault Refusal :=
  .next (s.cmdEvent id (fun c s =>
    if c.aux.isEmpty then s
    else match c.kind with
      | .xreduce _ confine => xFinish confine true id c s
      | .xgather _ confine => xFinish confine true id c s
      | .xbcast _ confine => xFinish confine true id c s
      | _ => s))

/-! ### XLOG (R303, R435) -/

/-- Entry LSEQ of a log: zero words where it is not held. -/
def XSet.entry (x : XSet) (lseq : Nat) : List Word :=
  match x.log.find? (fun e => decide (e.lseq = lseq)) with
  | some e => e.data
  | none => List.replicate 8 0

/-- Copy the next entry: of this device's log, or of another member's once it has arrived. -/
def xlogStep (r : XlogReq) (key : Nat) (c : Cmd) (s : State) : EStep × State :=
  let l := r.fst + c.prog
  let e := if r.dev = s.devNum then (mfind key s.xsets).map (fun x => x.entry l)
    else (gatherPieces (s.piecesOf 8 r.dev key (l % 2 ^ 32) s.cycle) 8 0).map (fun ws => ws.map (·.1))
  match e with
  | none => (.more c, s)
  | some ws =>
    let s := s.lsPut c.core (r.loff + 64 * c.prog) true (ws.map (fun w => (w, false)))
    if r.n ≤ c.prog + 1 then (.done 0 0 0, s) else (.more { c with prog := c.prog + 1 }, s)

/-- Answers of a member to an earlier request are done with. -/
def State.forgetLog (s : State) (dev key : Nat) : State :=
  { s with xin := s.xin.filter (fun p => !(decide (p.dev = dev ∧ p.key = key) && (decide (p.kind = 8) || decide (p.kind = 11)))) }

/-- XLOG_EXECUTE (R435): another member is asked for its entries once. -/
def execXlogExecute (id : Id) (upTo : Option Nat) (s : State) : Host.Outcome State Fault Refusal :=
  .next (s.cmdEvent id (fun c s => match c.kind with
    | .xlog req _ =>
      let r := XlogReq.of req
      let key := setKey c.part r.set
      let local_ := decide (r.dev = s.devNum)
      if r.bad then s.endCmd id c 0x0105 0 0
      else if (match mfind key s.xsets with
          | some x => (x.num r.dev).isNone
          | none => local_) || !(s.piecesOf 11 r.dev key 0 s.cycle).isEmpty then s.endCmd id c 0x0703 0 0
      else if !local_ && c.aux.isEmpty then
        ((s.forgetLog r.dev key).sendPieces r.dev 1 (xHead c.part 9 r.set s.devNum) 0 0
          [(BitVec.ofNat 64 r.fst, false), (BitVec.ofNat 64 r.n, false)]).setCmd id { c with aux := [1] }
      else engLoop (xlogStep r key) (fun _ _ => none) id (upTo.getD r.n) c s
    | _ => s))

/-! ### XMEMBER (R436, R437) -/

/-- Read words of the local store for XMEMBER (R437): poison, PERM and ALIGN, in this order. -/
def memberWords (x : Ctx) (v : Int) (n : Nat) : OpM (List Word) := do
  readOwn x v (8 * n)
  ownRange x v (8 * n)
  if v % 8 ≠ 0 then trapAddr 7 0 (asWord v)
  let s ← get
  pure (s.reqWords x.core v.toNat n).1

/-- The words of a device list at an offset, as its first word counts them. -/
def listWords (x : Ctx) (v : Int) : OpM Nat := do
  readOwn x v 8
  let s ← get
  let n := if 0 ≤ v ∧ v % 8 = 0 ∧ v + 8 ≤ (Config.lsBytes : Int) then wbits (nthW (s.reqWords x.core v.toNat 1).1 0) 10 0 else 0
  pure (1 + (min n 1024 + 3) / 4)

/-- The entries of a device list. -/
def listDevs (ws : List Word) : List Nat :=
  (List.range (wbits (nthW ws 0) 10 0)).map (fun l => wbits (nthW ws (1 + l / 4)) (16 * (l % 4) + 15) (16 * (l % 4)))

/-- A device list that R436 allows, with this device in it. -/
def listOk (ws : List Word) (me : Nat) : Bool :=
  let n := wbits (nthW ws 0) 10 0
  let ds := listDevs ws
  decide (1 ≤ n ∧ n ≤ 1024) && decide (wbits (nthW ws 0) 63 11 = 0) && ds.all (fun d => decide (d < 1024)) &&
  decide ds.Nodup && ds.contains me &&
  (List.range (4 * ((n + 3) / 4) - n)).all (fun k =>
    decide (wbits (nthW ws (1 + (n + k) / 4)) (16 * ((n + k) % 4) + 15) (16 * ((n + k) % 4)) = 0))

/-- What a request tells other devices when it is made: the same create to every listed device, the same mask to every
remaining member, a join to its sponsor (log entry 44). -/
def State.announce (s : State) (part : Nat) : XmOp → State
  | .create set au ws =>
    if listOk ws s.devNum then s.tell (setKey part set) 4 0 (listDevs ws) (clean (BitVec.ofNat 64 (b2n au) :: ws)) else s
  | .shrink set mask =>
    match mfind (setKey part set) s.xsets with
    | none => s
    | some x => s.tell (setKey part set) 5 0 (dropMembers x.devs (maskBit mask)) (clean mask)
  | .join set sponsor last =>
    s.tell (setKey part set) 6 0 [sponsor] (clean [BitVec.ofNat 64 last, BitVec.ofNat 64 sponsor, BitVec.ofNat 64 s.devNum])
  | .leave _ => s

/-- An XMEMBER: reads A and B, makes its request, and sends it (R437). -/
def memberSpec (g : Guard) (d a : Ix) (b : Option Ix) (abits : Nat) (mk : Ctx → Nat → Int → OpM XmOp) : OpSpec where
  g := g
  fields := [d, a] ++ b.toList
  kinds := fun x => x.lateOk d && x.isInt a && b.toList.all x.isInt
  m := []
  d := none
  run := fun x => do
    let (v, p) ← readInt x a
    let (w, q) ← match b with
      | none => pure ((0 : Int), false)
      | some i => readInt x i
    if p then trapName 0x0A 0 a
    if q then trapName 0x0A 0 (b.getD 0)
    let op ← mk x v.toNat w
    if v < 0 ∨ (2 ^ abits : Int) ≤ v then trap 1 1
    let dst ← late x d
    modify (fun s => (s.send (.xmember dst x.part op s.cycle)).announce x.part op)
    seqNext

/-- XMEMBER.create. -/
def specXmemberCreate (g : Guard) (d a b : Ix) : OpSpec := memberSpec g d a (some b) 17 (fun x v w => do
  let n ← listWords x w
  let ws ← memberWords x w n
  pure (.create (v % 65536) (decide (v / 65536 = 1)) ws))

/-- XMEMBER.shrink. -/
def specXmemberShrink (g : Guard) (d a b : Ix) : OpSpec := memberSpec g d a (some b) 16 (fun x v w => do
  let ws ← memberWords x w 16
  pure (.shrink v ws))

/-- XMEMBER.join. -/
def specXmemberJoin (g : Guard) (d a b : Ix) : OpSpec := memberSpec g d a (some b) 26 (fun _ v w => do
  if w < 0 ∨ (2 ^ 32 : Int) ≤ w then trap 1 1
  pure (.join (v % 65536) (v / 65536) w.toNat))

/-- XMEMBER.leave. -/
def specXmemberLeave (g : Guard) (d a : Ix) : OpSpec := memberSpec g d a none 16 (fun _ v _ => pure (.leave v))

/-! ### Membership changes (R299, R437) -/

/-- The result of an XMEMBER (R437). -/
def xmResult (gen num code : Nat) : Int := (gen % 2 ^ 32 * 2 ^ 32 + num % 1024 * 2 ^ 16 + code : Nat)

/-- A request of this device ends with a code. -/
def State.xmEnd (s : State) (id : Nat) (d : Dst) (key code : Nat) : State :=
  let r := match mfind key s.xsets with
    | some x => xmResult x.gen ((x.num s.devNum).getD 0) code
    | none => xmResult 0 0 code
  (s.unsend id).send (.land d (.int r) false 0)

/-- Another device has asked for the same change with the same words. -/
def State.agreed (s : State) (kind key dev : Nat) (ws : List Word) : Bool :=
  gatherPieces (s.piecesOf kind dev key 0 s.cycle) ws.length 0 == some (ws.map (fun w => (w, false)))

/-- The pieces of a change are done with. -/
def State.forget (s : State) (kind key : Nat) : State :=
  { s with xin := s.xin.filter (fun p => !decide (p.kind = kind ∧ p.key = key)) }

/-- A create: in use, invalid, or made once every listed device has asked for the same. -/
def State.tryCreate (s : State) (id : Nat) (d : Dst) (part set : Nat) (au : Bool) (ws : List Word) : Option State :=
  let key := setKey part set
  let say := BitVec.ofNat 64 (b2n au) :: ws
  if (mfind key s.xsets).isSome then some (s.xmEnd id d key 1)
  else if !listOk ws s.devNum then some (s.xmEnd id d key 2)
  else
    let ds := listDevs ws
    if ds.all (fun dv => decide (dv = s.devNum) || s.agreed 4 key dv say) then
      let x : XSet := ⟨au, 0, ds, 0, []⟩
      let (b, s) := s.changeBody s.devNum none (x.num s.devNum)
      some (((s.setX key (x.event 4 b)).forget 4 key).xmEnd id d key 0)
    else none

/-- A shrink: unknown, invalid, or made once every remaining member has asked for the same. -/
def State.tryShrink (s : State) (id : Nat) (d : Dst) (part set : Nat) (mask : List Word) : Option State :=
  let key := setKey part set
  match mfind key s.xsets with
  | none => some (s.xmEnd id d key 1)
  | some x =>
    match x.num s.devNum with
    | none => some (s.xmEnd id d key 2)
    | some me =>
      if maskBit mask me || (List.range 1024).any (fun l => maskBit mask l && decide (x.devs.length ≤ l)) then
        some (s.xmEnd id d key 2)
      else if (dropMembers x.devs (maskBit mask)).all (fun dv => decide (dv = s.devNum) || s.agreed 5 key dv mask) then
        some (((s.shrinkSet key x (maskBit mask)).forget 5 key).xmEnd id d key 0)
      else none

/-- A leave: at the boundary this device forgets the set, and GEN is that after the change. -/
def State.tryLeave (s : State) (id : Nat) (d : Dst) (part set : Nat) : Option State :=
  let key := setKey part set
  match mfind key s.xsets with
  | none => some (s.xmEnd id d key 1)
  | some x =>
    if (x.num s.devNum).isNone then some (s.xmEnd id d key 2)
    else
      let s := s.tell key 7 0 x.devs (clean [BitVec.ofNat 64 x.lseq])
      some (({ s with xsets := mdel key s.xsets }.unsend id).send (.land d (.int (xmResult (x.gen + 1) 0 0)) false 0))

/-- A join of this device: its sponsor's answer holds the code, AUTO, GEN, the next LSEQ, the members, and the entry of the
join itself. -/
def State.tryJoin (s : State) (id : Nat) (d : Dst) (part set sponsor : Nat) : Option State :=
  let key := setKey part set
  if (mfind key s.xsets).isSome || decide (sponsor = s.devNum) then some (s.xmEnd id d key 1)
  else
    let ps := s.piecesOf 12 sponsor key 0 s.cycle
    match gatherPieces ps 5 0 with
    | none => none
    | some h =>
      let w := fun k => ((h[k]?).map (·.1.toNat)).getD 0
      if w 0 ≠ 0 then some ((s.forget 12 key).xmEnd id d key (w 0 % 65536))
      else match gatherPieces ps (w 4) 5, gatherPieces ps 8 (5 + w 4) with
        | some ds, some e =>
          let x : XSet := ⟨decide (w 1 = 1), w 2, ds.map (fun e => e.1.toNat % 1024), w 3, [⟨w 3 - 1, e.map (·.1)⟩]⟩
          some (((s.setX key x).forget 12 key).xmEnd id d key 0)
        | _, _ => none

/-- What a request in flight makes of a set: none while it has to wait. -/
def State.tryMember (s : State) (id : Nat) (d : Dst) (part : Nat) : XmOp → Option State
  | .create set au ws => s.tryCreate id d part set au ws
  | .shrink set mask => s.tryShrink id d part set mask
  | .join set sponsor _ => s.tryJoin id d part set sponsor
  | .leave set => s.tryLeave id d part set

/-- The set of a request. -/
def XmOp.set : XmOp → Nat
  | .create set _ _ => set
  | .shrink set _ => set
  | .join set _ _ => set
  | .leave set => set

/-- The sponsor's answer to a joiner. -/
def State.answerJoin (s : State) (key dev : Nat) (ws : List Word) : State := s.tell key 12 0 [dev] (clean ws)

/-- A joiner is new, and its LSEQ is the set's latest, as this member knows them (R303). -/
def XSet.fits (x : XSet) (last dv : Nat) : Bool := decide (last + 1 = x.lseq) && !x.devs.contains dv

/-- A member's vote on a joiner. -/
def State.voteOf (s : State) (key dev last dv : Nat) : Option XIn :=
  s.xin.find? (fun p => decide (p.kind = 16 ∧ p.key = key ∧ p.dev = dev ∧ p.num 0 = last ∧ p.num 1 = dv))

/-- A member votes on a joiner, and tells the sponsor; having voted for it, it begins no collective of the set before the
sponsor's word (log entry 74). -/
def State.vote (s : State) (key sponsor last dv : Nat) (ok : Bool) : State :=
  let ws := clean [BitVec.ofNat 64 last, BitVec.ofNat 64 dv, BitVec.ofNat 64 (b2n ok)]
  let s := s.tell key 16 0 [sponsor] ws
  if ok then { s with xin := s.xin ++ [(⟨16, s.devNum, key, 0, 0, ws, s.cycle⟩ : XIn)] } else s

/-- A piece is done with. -/
def State.unpiece (s : State) (p : XIn) : State := { s with xin := s.xin.filter (fun q => decide (q ≠ p)) }

/-- A joiner enters the set with the next number (R299): the set after it, and the state. -/
def State.addJoiner (s : State) (key : Nat) (x : XSet) (dv : Nat) : XSet × State :=
  let y := { x with devs := x.devs ++ [dv], gen := (x.gen + 1) % 2 ^ 32 }
  let (b, s) := s.changeBody dv none (y.num dv)
  let y := y.event 6 b
  (y, s.setX key y)

/-- The sponsor's word on a joiner goes to the other members, and its answer to the joiner. -/
def State.ruleJoin (s : State) (key : Nat) (x : XSet) (p : XIn) (ok : Bool) : State :=
  let dv := p.num 2 % 1024
  let s := ((s.unpiece p).forget 16 key).tell key 17 0 x.devs
    (clean [BitVec.ofNat 64 (p.num 0), BitVec.ofNat 64 s.devNum, BitVec.ofNat 64 dv, BitVec.ofNat 64 (b2n ok)])
  if !ok then s.answerJoin key dv [4, 0, 0, 0, 0]
  else
    let (y, s) := s.addJoiner key x dv
    s.answerJoin key dv ([0, BitVec.ofNat 64 (b2n y.auto_), BitVec.ofNat 64 y.gen, BitVec.ofNat 64 y.lseq,
      BitVec.ofNat 64 y.devs.length] ++ y.devs.map (BitVec.ofNat 64) ++ y.entry x.lseq)

/-- The sponsor of a joiner (R303, R437): it refuses one that does not fit; at a boundary it asks every member for its vote, and
admits the joiner when all have voted for it, so that every member admits it at the same LSEQ. -/
def State.sponsorJoin (s : State) (key : Nat) (x : XSet) (p : XIn) : Option State :=
  let last := p.num 0
  let dv := p.num 2 % 1024
  match s.voteOf key s.devNum last dv with
  | none =>
    if !x.fits last dv then some ((s.unpiece p).answerJoin key dv [4, 0, 0, 0, 0])
    else if s.noticed key x.lseq || s.pledged key then none
    else some ((s.tell key 6 0 x.devs p.words).vote key s.devNum last dv true)
  | some mine =>
    let vs := x.devs.map (fun m => (s.voteOf key m last dv).map (fun v => decide (v.num 2 = 1)))
    if vs.all (fun v => decide (v = some true)) then some (s.ruleJoin key x p true)
    else if vs.any (fun v => decide (v = some false)) || decide (mine.at_ + s.limitCycles (key / 65536) ≤ s.cycle) then
      some (s.ruleJoin key x p false)
    else none

/-- A joiner's request, at its sponsor or at a member that votes (R303); none while it has to wait. -/
def State.enrol (s : State) (key : Nat) (x : XSet) (p : XIn) : Option State :=
  if p.num 1 = s.devNum then s.sponsorJoin key x p
  else
    let dv := p.num 2 % 1024
    some ((s.unpiece p).vote key (p.num 1) (p.num 0) dv (x.fits (p.num 0) dv && !s.noticed key x.lseq && !s.pledged key))

/-- The sponsor's word on a joiner: it is admitted, or nothing comes of it. A member that has gone on since, so that the joiner
cannot be admitted at its LSEQ, holds the set no more (log entry 74). -/
def State.joinRuled (s : State) (key : Nat) (x : XSet) (p : XIn) : State :=
  let s := (s.unpiece p).forget 16 key
  if p.num 3 ≠ 1 then s
  else if x.fits (p.num 0) (p.num 2 % 1024) then (s.addJoiner key x (p.num 2 % 1024)).2
  else { s with xsets := mdel key s.xsets }

/-- A request to join a set that this device does not hold: an asked sponsor says that it is unknown. -/
def State.unknownSet (s : State) (key : Nat) (p : XIn) : State :=
  let s := { s with xin := s.xin.filter (fun q => decide (q ≠ p)) }
  if p.num 1 = s.devNum then s.answerJoin key (p.num 2 % 1024) [1, 0, 0, 0, 0] else s

/-- A member leaves: its notice names the LSEQ of the boundary. -/
def State.depart (s : State) (key : Nat) (x : XSet) (p : XIn) : State :=
  let s := { s with xin := s.xin.filter (fun q => decide (q ≠ p)) }
  match x.num p.dev with
  | none => s
  | some l =>
    let y := { x with devs := dropMembers x.devs (fun k => decide (k = l)), gen := (x.gen + 1) % 2 ^ 32 }
    let (b, s) := s.changeBody p.dev (some l) none
    s.setX key (y.event 7 b)

/-- What another device has said about the membership of a set takes effect: none where it says nothing of it, or has to
wait. -/
def State.heard (s : State) (key : Nat) (x : XSet) (p : XIn) : Option State :=
  if p.key ≠ key then none
  else match p.kind with
    | 6 => s.enrol key x p
    | 7 => if p.num 0 ≤ x.lseq then some (s.depart key x p) else none
    | 17 => some (s.joinRuled key x p)
    | _ => none

/-- MEMBERSHIP_CHANGE (R437): between two collectives of a set, the first request that can be decided, else the first join or
leave of another device that can, takes effect. `set` is partition × 65,536 + SETID. -/
def execMembershipChange (set : Nat) (s : State) : Host.Outcome State Fault Refusal :=
  if s.xBusy set then .next s
  else match s.inflight.findSome? (fun e => match e.2 with
      | .xmember d part op _ => if setKey part op.set = set then s.tryMember e.1 d part op else none
      | _ => none) with
    | some s => .next s
    | none =>
      match mfind set s.xsets with
      | none =>
        match s.xin.find? (fun p => decide (p.key = set ∧ p.kind = 6)) with
        | none => .next s
        | some p => .next (s.unknownSet set p)
      | some x => .next ((s.xin.findSome? (s.heard set x)).getD s)

/-- MEMBERSHIP_AGREEMENT_TIMEOUT (R437): no agreement within the wait limit. -/
def execMembershipAgreementTimeout (id : Id) (s : State) : Host.Outcome State Fault Refusal :=
  match mfind id s.inflight with
  | some (.xmember d part op since) =>
    if s.cycle < since + s.limitCycles part then .next s else .next (s.xmEnd id d (setKey part op.set) 3)
  | _ => .next s

/-! ### The meanings -/

/-- XREDUCE. -/
def execXreduce (g : Guard) (tr : Bool) (confine : Bool) (d : Ix) (a : Opd) (ws : Option Ws) (s : State) : Host.Outcome State Fault Refusal :=
  issue (specXreduce g tr confine d a ws) s
/-- XGATHER. -/
def execXgather (g : Guard) (tr : Bool) (confine : Bool) (d : Ix) (a : Opd) (ws : Option Ws) (s : State) : Host.Outcome State Fault Refusal :=
  issue (specXgather g tr confine d a ws) s
/-- XBCAST. -/
def execXbcast (g : Guard) (tr : Bool) (confine : Bool) (d : Ix) (a : Opd) (ws : Option Ws) (s : State) : Host.Outcome State Fault Refusal :=
  issue (specXbcast g tr confine d a ws) s
/-- XMEMBER_CREATE. -/
def execXmemberCreate (g : Guard) (d : Ix) (a : Ix) (b : Ix) (s : State) : Host.Outcome State Fault Refusal :=
  issue (specXmemberCreate g d a b) s
/-- XMEMBER_SHRINK. -/
def execXmemberShrink (g : Guard) (d : Ix) (a : Ix) (b : Ix) (s : State) : Host.Outcome State Fault Refusal :=
  issue (specXmemberShrink g d a b) s
/-- XMEMBER_JOIN. -/
def execXmemberJoin (g : Guard) (d : Ix) (a : Ix) (b : Ix) (s : State) : Host.Outcome State Fault Refusal :=
  issue (specXmemberJoin g d a b) s
/-- XMEMBER_LEAVE. -/
def execXmemberLeave (g : Guard) (d : Ix) (a : Ix) (s : State) : Host.Outcome State Fault Refusal :=
  issue (specXmemberLeave g d a) s
/-- XLOG. -/
def execXlog (g : Guard) (tr : Bool) (keepf : Bool) (d : Ix) (a : Opd) (ws : Option Ws) (s : State) : Host.Outcome State Fault Refusal :=
  issue (specXlog g tr keepf d a ws) s

end Sys2Proof.Machine
end

