-- ==== Sys2Proof/Machine/Copy.lean ====
section
/-! DEFINITION. The copy engine: COPY and DTLOAD, and the events COPY_TRANSFER and DTLOAD_EXECUTE (spec/17_ref_c_e.md R352
to R356, R360). -/

namespace Sys2Proof.Machine

/-! ### Issue (R352, R353, R360) -/

/-- The place of a COPY operand (R352). -/
def copyPl (core : Nat) (sp : CopySp) (v : Nat) : EPl :=
  match sp with
  | .va => .va v
  | .loc => .ls core v
  | .clu => .ls (cluOf core * 8 + v / 2 ^ 18 % 8) (v % 2 ^ 18)

/-- Check a bracketed place of an extent (R353); the place's number. -/
def copyCheck (x : Ctx) (sp : CopySp) (v : Int) (ext : Nat) : OpM Nat := do
  let u := umod 64 v
  let w := BitVec.ofNat 64 u
  match sp with
  | .va => pure u
  | .loc =>
    if u + ext > 2 ^ 18 then trapAddr 9 0x14 w
    if u % 8 ≠ 0 then trapAddr 7 0 w
    if !x.sl.smode && decide (Config.lsSys < u + ext) then trapAddr 9 0x12 w
    pure u
  | .clu =>
    let o := u % 2 ^ 18
    if 2 ^ 21 ≤ u ∨ x.s0.samePart (x.clu * 8 + u / 2 ^ 18 % 8) x.core = false ∨ o + ext > 2 ^ 18 then trapAddr 9 0x14 w
    if u % 8 ≠ 0 then trapAddr 7 0 w
    if !x.sl.smode && decide (Config.lsSys < o + ext) then trapAddr 9 0x12 w
    pure u

/-- Bytes of a destination element of a conversion. -/
def ckBytes : CopyCk → Nat
  | .none => 1 | .f32 => 4 | .f16 => 2 | .bf16 => 2 | .e4m3 => 1 | .e5m2 => 1

/-- The kind of a conversion. -/
def ckKind : CopyCk → FK
  | .none => .f32 | .f32 => .f32 | .f16 => .f16 | .bf16 => .bf16 | .e4m3 => .e4m3 | .e5m2 => .e5m2

/-- The destination extent (R353). -/
def copyExt (m : CopyMods) (n : Nat) : Nat := if m.fmt && decide (m.ck = .none) then n + n / 4 else n

/-- F bits of a destination that acceptance clears (R353). -/
def copyClear (m : CopyMods) (core v n : Nat) (s : State) : State :=
  if m.keepf then s
  else match copyPl core m.dsp v with
    | .va _ => s
    | .ls c o => s.clearF c o n

/-- COPY (R353). -/
def specCopy (g : Guard) (m : CopyMods) (d : Ix) (a b : Opd) (n : BitVec 32) (ws : Option Ws) : OpSpec where
  g := g
  fields := [d, a.ix, b.ix]
  kinds := fun x => x.lateOk d && x.intNil a.ix && x.intNil b.ix
  m := [a, b]
  d := none
  needs := [.cmd m.try_]
  run := fun x => do
    noQueueD x d
    let (va, pa) ← readInt x a.ix
    let (vb, pb) ← readInt x b.ix
    if pa then trapName 0x0A 0 a.ix
    if pb then trapName 0x0A 0 b.ix
    let de := copyExt m n.toNat
    let da ← copyCheck x m.dsp va de
    let db ← copyCheck x m.ssp vb n.toNat
    acceptCmd x d m.try_ ws (.copy m da db n.toNat) (copyClear m x.core da de)

/-- DTLOAD (R360). -/
def specDtload (g : Guard) (tr : Bool) (d : Ix) (a : Opd) (ws : Option Ws) : OpSpec where
  g := g
  fields := [d, a.ix]
  kinds := fun x => x.lateOk d && x.intOk a.ix
  m := [a]
  d := none
  needs := [.pop a.ix, .cmd tr]
  run := fun x => do
    noQueueD x d
    let v ← readAddr x a.ix
    acceptCmd x d tr ws (.dtload (umod 64 v)) id

/-! ### One sector (R354, R355) -/

/-- A copy's request as its engine sees it. -/
structure CopyJob where
  m   : CopyMods
  dst : EPl
  src : EPl
  n   : Nat
  deriving DecidableEq, Repr

/-- Bytes of destination. -/
def CopyJob.ext (j : CopyJob) : Nat := copyExt j.m j.n

/-- The place some bytes further on. -/
def EPl.at (p : EPl) (k : Nat) : EPl :=
  match p with
  | .va a => .va (a + k)
  | .ls c o => .ls c (o + k)

/-- The VA of a source of a formatted copy. -/
def CopyJob.va (j : CopyJob) : Nat :=
  match j.src with
  | .va a => a
  | .ls _ o => o

/-- The FDX of the first source page, and its alignment (R354). -/
def CopyJob.fdx (j : CopyJob) (c : Cmd) : EngM Nat := do
  match c.aux with
  | f :: _ => pure f
  | [] =>
    let (_, l) ← engXlate c j.va .rd
    if j.va % 128 ≠ 0 then efail 0x0101 0x21
    pure l.fdx

/-- Check source pages: data pages carry the FDX of the first one. -/
def checkSrc (c : Cmd) (fdx : Nat) (rs : List (Nat × Nat × Bool)) : EngM Unit :=
  let ps := rs.flatMap (fun r => (pagesOf r.1 r.2.1).map (fun a => (a, r.2.2)))
  (ps.mergeSort (fun p q => decide (p.1 ≤ q.1))).forM (fun p => do
    let (_, l) ← engXlate c p.1 .rd
    if p.2 && decide (l.fdx ≠ fdx) then efail 0x0101 0x21)

/-- Bytes of the sidecar area from `o1` to `o2`, of which `used` bytes are entries that begin at `sb`. -/
def areaBytes (c : Cmd) (sb used o1 o2 : Nat) : EngM PBytes := do
  let k := min used o2 - o1
  let bs ← engRead c (.va (sb + o1)) k
  pure (bs ++ zeros (o2 - o1 - k))

/-- The elements of a converted line. -/
def convLine (m : CopyMods) (e : Fdt) (ln side : PBytes) : PBytes :=
  let z := ckBytes m.ck
  (List.range e.cpl).flatMap (fun i =>
    let k := if e.q4 then i / 2 else i
    let b := (ln[k]?).getD (0, false)
    let s := (side.drop (4 * (i / e.gsz))).take 4
    let (r, bad) := entryValue (packedCode e.q4 i b.1.toNat) (pval s)
    let (p, _) := r.round (ckKind m.ck) m.rm m.sat
    (toBytes z p).map (fun y => (y, b.2 || ppsn s || bad)))

/-- Lines and their sidecar entries, converted. -/
def convLines (m : CopyMods) (e : Fdt) : List PBytes → PBytes → PBytes
  | [], _ => []
  | l :: ls, side => convLine m e l (side.take (4 * e.gpl)) ++ convLines m e ls (side.drop (4 * e.gpl))

/-- Bytes cut into lines. -/
def cutLines : Nat → PBytes → List PBytes
  | 0, _ => []
  | n + 1, bs => bs.take 128 :: cutLines n (bs.drop 128)

/-- Move bytes unchanged. -/
def CopyJob.plain (j : CopyJob) (c : Cmd) (lo hi : Nat) : EngM Unit := do
  engCheck c (j.src.at lo) (hi - lo) .rd
  engCheck c (j.dst.at lo) (hi - lo) .wr
  let bs ← engRead c (j.src.at lo) (hi - lo)
  engWrite c (j.dst.at lo) bs

/-- The lines of a sector: read from a packed page, or decoded; with the Pegbox error that ended them and the lines before
it. -/
def CopyJob.lines (j : CopyJob) (c : Cmd) (e : Fdt) (t : Option PegTab) (l0 n : Nat) (more : Bool) :
    EngM (List PBytes × Option (Nat × Nat)) := do
  match t with
  | none =>
    let bs ← engRead c (.va (j.va + 128 * l0)) (128 * n)
    pure (cutLines n bs, none)
  | some t =>
    let (ls, err) ← pegLines c e t more (n + 1) ((j.va - e.dbase) / 128 + l0) n
    modify (fun s => s.countClu c.clu c.part 0x12 c.smode ls.length)
    pure (ls, err)

/-- The table that a coded command decodes with, as it keeps it behind its FDX and the mark of a coded one. -/
def Cmd.table (c : Cmd) (e : Fdt) : Option PegTab :=
  match (c.aux.drop 2).map (BitVec.ofNat 64) with
  | [] => none
  | ws => some ⟨c.part, e.ptab, ws.take 512, ws.drop 512⟩

/-- The table that a sector decodes with, or the Pegbox error that stops it (R138, R139): the command's first sector takes it
from the Pegbox, and the command keeps it, whatever becomes of the Pegbox's (R360). -/
def CopyJob.table (j : CopyJob) (c : Cmd) (e : Fdt) : EngM (Except Nat (Option PegTab)) := fun s =>
  if !e.coded then .ok (.ok none, s)
  else if (c.table e).isSome then .ok (.ok (c.table e), s)
  else if j.va < e.dbase ∨ (j.va - e.dbase) % (128 * 2 ^ e.chlog) ≠ 0 then .ok (.error 0x0406, s)
  else match (pegTable c e).run s with
    | .ok (t, s) => .ok (.ok (some t), s)
    | .error (.fault (q, _) s) => .ok (.error q, s)
    | .error (.wait d q s) => .error (.wait d q s)

/-- A sector of a formatted page (R354): the status code and its DETAIL where a decode error ends the command. -/
def CopyJob.packed (j : CopyJob) (c : Cmd) (fdx : Nat) (e : Fdt) (lo hi : Nat) : EngM (Option (Nat × Nat)) := do
  let conv := decide (j.m.ck ≠ .none)
  let per := if conv then e.cpl * ckBytes j.m.ck else 128
  if j.n % per ≠ 0 then efail 0x0105 0
  let l0 := min lo j.n / per
  let l1 := min hi j.n / per
  let row := 4 * e.gpl
  let used := if conv then 0 else j.n / 128 * row
  let sb := e.entryAt j.va 0
  let a1 := lo - j.n
  let a2 := hi - j.n
  match ← j.table c e with
  | .error q => pure (some (q, 128 * l0))
  | .ok t => do
    let side := if conv then (sb + row * l0, row * (l1 - l0), false) else (sb + a1, min used a2 - a1, false)
    let data := if e.coded then [] else [(j.va + 128 * l0, 128 * (l1 - l0), true)]
    checkSrc c fdx (data ++ [side])
    engCheck c (j.dst.at lo) (hi - lo) .wr
    let (ls, err) ← j.lines c e t l0 (l1 - l0) (decide (l1 < j.n / per))
    let sd ← engRead c (.va (sb + row * l0)) (if conv then row * ls.length else 0)
    engWrite c (j.dst.at lo) (if conv then convLines j.m e ls sd else ls.flatten)
    match err with
    | some q => pure (some (0x0400 + q.1, 128 * (l0 + q.2)))
    | none => do
      let bs ← areaBytes c sb used a1 (if conv then a1 else a2)
      engWrite c (j.dst.at (j.n + a1)) bs
      pure none

/-- A sector of a raw page of a formatted copy: the sidecar area is zero. -/
def CopyJob.rawFmt (j : CopyJob) (c : Cmd) (fdx lo hi : Nat) : EngM Unit := do
  if j.m.ck ≠ .none then efail 0x0101 0x23
  let h := min hi j.n
  checkSrc c fdx [(j.va + lo, h - lo, true)]
  engCheck c (j.dst.at lo) (hi - lo) .wr
  let bs ← engRead c (.va (j.va + lo)) (h - lo)
  engWrite c (j.dst.at lo) (bs ++ zeros (hi - max lo j.n))

/-- Sector `k`: what the command keeps for later sectors, and the outcome of a decode error. -/
def CopyJob.sector (j : CopyJob) (c : Cmd) (k : Nat) : EngM (List Nat × Option (Nat × Nat)) := do
  let lo := 4096 * k
  let hi := min j.ext (lo + 4096)
  if !j.m.fmt then do
    j.plain c lo hi
    pure ([], none)
  else do
    let fdx ← j.fdx c
    let ent ← engEntry c fdx
    match ent with
    | none =>
      j.rawFmt c fdx lo hi
      pure ([fdx, 0], none)
    | some e =>
      let r ← j.packed c fdx e lo hi
      let s ← get
      let t := (s.clu c.clu).peg.find? (fun t => decide (t.part = c.part ∧ t.tag = e.ptab))
      pure ((if !e.coded then [fdx, 0] else if 2 < c.aux.length then c.aux
        else [fdx, 1] ++ (t.elim [] (fun t => (t.tab ++ t.idx).map (·.toNat)))), r)

/-- DETAIL of a command that ends at sector `k` (R355). -/
def copyDetail (k code : Nat) : Nat :=
  if code = 0x0105 then 0 else 4096 * k

/-- The next sector of a copy: sectors move in rising order (log entry 77). -/
def copyStep (j : CopyJob) (c : Cmd) (s : State) : EStep × State :=
  stepEng c (j.sector c c.prog) s
    (fun r s => match r with
      | (_, some (code, d)) => (.done code 0 d, s)
      | (aux, none) =>
        if j.ext ≤ 4096 * (c.prog + 1) then (.done 0 0 0, s) else (.more { c with prog := c.prog + 1, aux := aux }, s))
    (fun e s => (.done e.1 e.2 (copyDetail c.prog e.1), s))

/-- Sectors of a copy. -/
def CopyJob.sectors (j : CopyJob) : Nat := (j.ext + 4095) / 4096

/-- A coded command of a cluster is under way at its Pegbox (R139). -/
def State.pegBusy (s : State) (id cl : Nat) : Bool :=
  s.cmds.any (fun e => decide (e.1 ≠ id) && decide (e.2.clu = cl) && e.2.begun &&
    (match e.2.kind with
     | .copy _ _ _ _ => decide (e.2.aux[1]? = some 1)
     | .dtload _ => !e.2.aux.isEmpty
     | _ => false))

/-- The FDX of a copy that decodes with the Pegbox. -/
def CopyJob.coded (j : CopyJob) (c : Cmd) (s : State) : Option Nat :=
  if !j.m.fmt then none
  else match (do
      let f ← j.fdx c
      let e ← engEntry c f
      pure (f, e) : EngM (Nat × Option Fdt)).run s with
    | .ok ((f, some e), _) => if e.coded then some f else none
    | _ => none

/-- DETAIL of a COPY that is cancelled at a sector boundary (R355). -/
def CopyJob.cancel (j : CopyJob) (c : Cmd) : Nat := cap32 (min (4096 * c.prog) j.ext)

/-- COPY_TRANSFER (R354): the copy engine moves sectors, up to so many, and ends the command after the last one. A coded copy
waits for the Pegbox, and while the current limiter holds it (R139, R307); the Pegbox is its own from then on. -/
def execCopyTransfer (id : Id) (upTo : Option Nat) (s : State) : Host.Outcome State Fault Refusal :=
  .next (s.cmdEvent id (fun c s =>
    match c.kind with
    | .copy m a b n =>
      let j : CopyJob := ⟨m, copyPl c.core m.dsp a, copyPl c.core m.ssp b, n⟩
      let run := fun (c : Cmd) => engLoop (copyStep j) (fun c s => some (j.cancel c, s)) id (upTo.getD j.sectors) c s
      match j.coded c s with
      | none => run c
      | some f => if s.pegBusy id c.clu || s.skips c then s else run (if c.aux.isEmpty then { c with aux := [f, 1] } else c)
    | _ => s))

/-- The entry that a DTLOAD loads from (R360). -/
def dtEntry (c : Cmd) (va : Nat) : EngM Fdt := do
  let (_, l) ← engXlate c va .rd
  match ← engEntry c l.fdx with
  | none => efail 0x0101 0x23
  | some e => if e.coded then pure e else efail 0x0101 0x23

/-- Take up a DTLOAD: what it loads, as PTAB and the number of chunks; a table with its tag goes. -/
def dtBegin (id : Nat) (c : Cmd) (va : Nat) (s : State) : State :=
  runEng c (dtEntry c va) s (fun e s => (s.pegDrop c.clu c.part e.ptab).setCmd id { c with aux := [e.ptab, e.nch] })
    (fun e s => s.endCmd id c e.1 e.2 0)

/-- The next 4 KiB of a DTLOAD's table and chunk index; after the last ones the table is resident. -/
def dtNext (id : Nat) (c : Cmd) (ptab nch : Nat) (s : State) : State :=
  let n := 2048 + 4 * (nch + 1)
  let lo := 4096 * c.prog
  let k := min 4096 (n - lo)
  runEng c (orFault (engRead c (.va (ptab + lo)) k) 0x0405) s
    (fun bs s =>
      let aux := c.aux ++ (words32 (k / 4) bs).map (·.toNat)
      if ppsn bs then s.endCmd id c 0x0405 0 0
      else if lo + k < n then s.setCmd id { c with prog := c.prog + 1, aux := aux }
      else
        let ws := (aux.drop 2).map (BitVec.ofNat 64)
        if increasing (ws.drop 512) then (s.pegPut c.clu ⟨c.part, ptab, ws.take 512, ws.drop 512⟩).endCmd id c 0 0 0
        else s.endCmd id c 0x0406 0 0)
    (fun e s => s.endCmd id c e.1 e.2 0)

/-- DTLOAD_EXECUTE (R360): the Pegbox takes the command up, and then each event loads up to 4 KiB; a load that fails leaves
the tag absent. -/
def execDtloadExecute (id : Id) (s : State) : Host.Outcome State Fault Refusal :=
  .next (s.cmdEvent id (fun c s =>
    match c.kind with
    | .dtload va =>
      match c.aux with
      | ptab :: nch :: _ => dtNext id c ptab nch s
      | _ => if s.pegBusy id c.clu then s else dtBegin id c va s
    | _ => s))

/-- A cancelled DTLOAD leaves its tag absent (R360), also one that the Pegbox has not taken up yet. -/
def State.dtCancelled (s : State) (c : Cmd) (va : Nat) : State :=
  if c.aux.isEmpty then
    match (dtEntry c va).run s with
    | .ok (e, _) => s.pegDrop c.clu c.part e.ptab
    | .error _ => s
  else s

/-! ### The meanings -/

/-- COPY. -/
def execCopy (g : Guard) (m : CopyMods) (d : Ix) (a b : Opd) (n : BitVec 32) (ws : Option Ws) (s : State) :
    Host.Outcome State Fault Refusal :=
  issue (specCopy g m d a b n ws) s
/-- DTLOAD. -/
def execDtload (g : Guard) (tr : Bool) (d : Ix) (a : Opd) (ws : Option Ws) (s : State) : Host.Outcome State Fault Refusal :=
  issue (specDtload g tr d a ws) s

end Sys2Proof.Machine
end

