-- ==== Sys2Proof/Machine/Flow.lean ====
section
/-! DEFINITION. Control transfer, loops, traps by instruction, the slot's registers, regions and fences of code
(spec/04_slots.md R71 to R75; spec/12_traps.md R266, R275, R277; spec/15_encoding.md R332). -/

namespace Sys2Proof.Machine

/-- An op without operands. -/
def bareSpec (g : Guard) (run : Ctx → OpM Next) : OpSpec where
  g := g
  fields := []
  kinds := fun _ => true
  m := []
  d := none
  run := run

/-- NOP (R387). -/
def specNop (g : Guard) (_pad : Bool) : OpSpec := bareSpec g (fun _ => seqNext)
/-- IFENCE (R374): every fetch of this model reads memory as it stands, so nothing is left to wait for. -/
def specIfence (g : Guard) : OpSpec := bareSpec g (fun _ => seqNext)

/-! ### Branches (R71, R74, R343, R347, R397) -/

/-- What a taken branch to `t` does to the loops (R74). -/
def Slot.branchTo (y : Slot) (t : Word) : Slot :=
  let y := if y.ls1.toNat ≤ t.toNat ∧ t.toNat < y.le1.toNat then y else { y with lc1 := 0 }
  if y.ls0.toNat ≤ t.toNat ∧ t.toNat < y.le0.toNat then y else { y with lc0 := 0, lc1 := 0 }

/-- A taken branch. -/
def branch (x : Ctx) (t : Word) : OpM Next := do
  modSelf x (fun y => y.branchTo t)
  pure (.jump t)

/-- The target of B and BL (R343). -/
def branchTarget (x : Ctx) (t : Imm) : Word :=
  match t with
  | .i14 v => x.pc + v.signExtend 64 * 4
  | .x32 v => x.pc + v.signExtend 64 * 4
  | .x64 v => v

/-- B (R343). -/
def specB (g : Guard) (t : Imm) : OpSpec := bareSpec g (fun x => branch x (branchTarget x t))

/-- The address after a word. -/
def Ctx.after (x : Ctx) : Word := x.pc + BitVec.ofNat 64 x.len

/-- BL (R343, R344). -/
def specBl (g : Guard) (d : Ix) (t : Imm) : OpSpec where
  g := g
  fields := [d]
  kinds := fun x => x.intNil d
  m := []
  d := none
  run := fun x => do
    writeInt x d x.after.toNat false
    branch x (branchTarget x t)

/-- BX (R347). -/
def specBx (g : Guard) (d : Ix) (a : Opd) : OpSpec where
  g := g
  fields := [d, a.ix]
  kinds := fun x => x.intOk d && !isNil a.ix && x.intOk a.ix
  m := [a]
  d := none
  run := fun x => do
    let v ← readAddr x a.ix
    writeInt x d x.after.toNat false
    branch x (BitVec.ofNat 64 (umod 64 v))

/-- RET (R397). -/
def specRet (g : Guard) (a : Opd) : OpSpec where
  g := g
  fields := [a.ix]
  kinds := fun x => !isNil a.ix && x.intOk a.ix
  m := [a]
  d := none
  run := fun x => do
    let v ← readAddr x a.ix
    branch x (BitVec.ofNat 64 (umod 64 v))

/-! ### Loops (R72, R75) -/

/-- Arm a loop of `c` trips to `endpc`; zero trips skip the body (R72, log entry 22). -/
def armLoop (x : Ctx) (c : Nat) (endpc : Word) : OpM Next :=
  if c = 0 then pure (.jump endpc)
  else do
    modSelf x (fun y => if y.lc0 = 0 then { y with ls0 := x.after, le0 := endpc, lc0 := c }
                        else { y with ls1 := x.after, le1 := endpc, lc1 := c })
    seqNext

/-- LOOP (R72). -/
def specLoop (g : Guard) (cnt : LoopCnt) (off : BitVec 14) : OpSpec :=
  match cnt with
  | .name a =>
    { g := g, fields := [a.ix], kinds := fun x => !isNil a.ix && x.intOk a.ix, m := [a], d := none
      run := fun x => do
        let c ← readAddr x a.ix
        armLoop x (min c.toNat (2 ^ 32 - 1)) (x.pc + off.setWidth 64 * 4) }
  | .x32 n => bareSpec g (fun x => armLoop x n.toNat (x.pc + off.setWidth 64 * 4))

/-- LEXIT (R75). -/
def specLexit (g : Guard) : OpSpec := bareSpec g (fun x => do
  let y := (← get).slot x.t
  if y.lc1 ≠ 0 then
    if y.lc0 ≠ 0 ∧ y.le1 = y.le0 then
      modSelf x (fun z => { z with lc1 := 0, lc0 := y.lc0 - 1 })
      pure (.jump (if y.lc0 = 1 then y.le1 else y.ls0))
    else
      modSelf x (fun z => { z with lc1 := 0 })
      pure (.jump y.le1)
  else if y.lc0 ≠ 0 then
    modSelf x (fun z => { z with lc0 := 0, lc1 := 0 })
    pure (.jump y.le0)
  else seqNext)

/-! ### TRAP and ERET (R266) -/

/-- TRAP (R266). -/
def specTrap (g : Guard) (code : BitVec 8) : OpSpec := bareSpec g (fun _ => trap 2 code.toNat)

/-- ERET (R266, R330). -/
def specEret (g : Guard) : OpSpec := bareSpec g (fun x => do
  if !x.sl.smode then trap 0x12 2
  let s ← get
  match s.returnTrap x.t with
  | none => trap 1 1
  | some st =>
    set st
    pure (.jump (st.slot x.t).pc))

/-! ### Registers by selector (R332, R412) -/

/-- The value of a register of a slot by its selector (R332, R409). -/
def State.selValue (s : State) (t : Tid) (pc : Word) (sel : Nat) : Word :=
  let y := s.slot t
  let n := fun (k : Nat) => BitVec.ofNat 64 k
  match sel with
  | 0x00 => n t
  | 0x01 => n (coreOf t)
  | 0x02 => n (cluOf (coreOf t))
  | 0x03 => n (qtrOf (coreOf t))
  | 0x04 => n s.devNum
  | 0x05 => n (slotOf t)
  | 0x06 => n (s.partNum (coreOf t))
  | 0x07 => n y.launch
  | 0x08 => n s.cycle
  | 0x09 => y.fflags.setWidth 64
  | 0x0A => y.epc
  | 0x0B => pc
  | 0x0C => y.frame
  | 0x0D => n y.capbase
  | 0x0E => y.ls0
  | 0x0F => y.le0
  | 0x10 => n y.lc0
  | 0x11 => y.ls1
  | 0x12 => y.le1
  | 0x13 => n y.lc1
  | 0x14 => y.rgnpc
  | 0x15 => n Config.stepping
  | 0x16 => n Config.archLevel
  | 0x17 => y.group
  | 0x18 => y.waiton
  | 0x19 => if y.st = .parked ∨ y.st = .trapped then n ((s.cycle - y.waitSince) / 16) else 0
  | 0x1A => y.ecause
  | 0x1B => y.eaddr
  | 0x1C => n (b2n (y.trapslot && decide (y.st = .trapped)))
  | _ => 0

/-- A selector of S mode alone (R332). -/
def selPriv (sel : Nat) : Bool := decide (sel = 0x0A ∨ sel = 0x1A ∨ sel = 0x1B)

/-- SREAD (R332, R412). -/
def specSread (g : Guard) (d : Opd) (sel : BitVec 14) : OpSpec where
  g := g
  fields := [d.ix]
  kinds := fun x => x.intOk d.ix
  m := []
  d := some d
  run := fun x => do
    if selPriv sel.toNat && !x.sl.smode then trap 0x12 2
    writeInt x d.ix (x.s0.selValue x.t x.pc sel.toNat).toNat false
    seqNext

/-- The value rule of a written register (R332, R408): FFLAGS, ECAUSE, and the loop counts through SLOTWR. -/
def selValueOk (sel : Nat) (v : Int) : Bool :=
  decide (0 ≤ v ∧ v < 2 ^ 64) &&
  (match sel with
   | 0x09 => decide (v.toNat < 32)
   | 0x1A => decide (v.toNat / 2 ^ 24 % 2 ^ 39 = 0)
   | 0x10 => decide (v.toNat < 2 ^ 32)
   | 0x13 => decide (v.toNat < 2 ^ 32)
   | _ => true)

/-- Write a register of a slot by its selector (R332, R410). -/
def Slot.setSel (y : Slot) (sel : Nat) (v : Word) : Slot :=
  match sel with
  | 0x09 => { y with fflags := v.setWidth 5 }
  | 0x0A => { y with epc := v }
  | 0x0B => { y with pc := v }
  | 0x0E => { y with ls0 := v }
  | 0x0F => { y with le0 := v }
  | 0x10 => { y with lc0 := v.toNat }
  | 0x11 => { y with ls1 := v }
  | 0x12 => { y with le1 := v }
  | 0x13 => { y with lc1 := v.toNat }
  | 0x1A => { y with ecause := v }
  | 0x1B => { y with eaddr := v }
  | _ => y

/-- SWRITE (R332, R412). -/
def specSwrite (g : Guard) (sel : BitVec 14) (a : Opd) : OpSpec where
  g := g
  fields := [a.ix]
  kinds := fun x => x.isInt a.ix
  m := [a]
  d := none
  run := fun x => do
    if selPriv sel.toNat && !x.sl.smode then trap 0x12 2
    let v ← readAddr x a.ix
    if !selValueOk sel.toNat v then trap 1 1
    modSelf x (fun y => y.setSel sel.toNat (BitVec.ofNat 64 v.toNat))
    seqNext

/-! ### Regions (R275 to R278, R398, R399) -/

/-- Byte j of a live-in list. -/
def liveIx (l : Word) (j : Nat) : Ix := BitVec.ofNat 8 (l.toNat / 256 ^ j)

/-- The live-ins of a list, in byte order (R398). -/
def liveIns (l : Word) : List Ix := ((List.range 8).map (liveIx l)).filter (fun i => !isNil i)

/-- A live-in that is a vector or queue name raises TUNE_BAD subcode 3, before any is read (R275, R333, R398). -/
def checkLive (x : Ctx) (l : Word) : OpM Unit :=
  match (liveIns l).find? (fun i => !x.sl.isInt i && !x.sl.isFlt i) with
  | none => pure ()
  | some i => trapName 0x0C 3 i

/-- The save-area words of a region: the value of each live-in with its P bit, 0 for an unused byte (R275). -/
def readLive (x : Ctx) (l : Word) : List Nat → OpM (List (Word × Bool))
  | [] => pure []
  | j :: js => do
    let i := liveIx l j
    let w ← if isNil i then pure ((0 : Word), false) else do
      let (v, p) ← readName x i
      pure (BitVec.ofNat 64 (umod 64 v.toInt), p)
    let ws ← readLive x l js
    pure (w :: ws)

/-- The offset of the save area of a slot (R275, R276). -/
def saveOff (t : Tid) : Nat := 0x35C00 + 64 * slotOf t

/-- RGN (R275, R398). -/
def specRgn (g : Guard) (f : BitVec 8) (c : BitVec 6) (live : Option Word) : OpSpec where
  g := g
  fields := liveIns (live.getD 0)
  kinds := fun _ => true
  m := []
  d := none
  run := fun x => do
    let l := live.getD 0
    checkLive x l
    let ws ← readLive x l (List.range 8)
    modify (fun s =>
      let s := s.lsPut x.core (saveOff x.t) true ws
      let s := (List.range c.toNat).foldl (fun st k => st.setSem x.core (f.toNat + k) 0) s
      s.modSlot x.t (fun y => { y with
        rgnpc := x.pc, rgntune := y.tuning, rgnframe := y.frame, rgnlist := l, rgnsem := (f.toNat, c.toNat)
        rgnseq := y.rgnseq + 1, rcount := 0 }))
    seqNext

/-- RGNEND (R277, R399). -/
def specRgnend (g : Guard) : OpSpec := bareSpec g (fun x => do
  if x.sl.rcount ≠ 0 then replayOp false
  modSelf x (fun y => { y with
    rgnpc := x.pc + 8, rgntune := y.tuning, rgnframe := y.frame, rgnlist := 0, rgnsem := (0, 0) })
  seqNext)

/-! ### Work changes (R439) -/

/-- The continuation record of a slot at a PC (R93, R94, R439). -/
def Slot.recAt (y : Slot) (pc : Word) (ack : Bool) : CRec := ⟨pc, y.frame, y.tuning, y.launch, y.bits, y.prio, ack⟩

/-- YIELD (R439). -/
def specYield (g : Guard) : OpSpec := bareSpec g (fun x => do
  if x.sl.frame = 0 then trap 9 0x10
  if (x.s0.portBefore x.t).dequeFull x.core then trap 0x11 4
  performAll x
  modify (fun s =>
    let s := (s.portBefore x.t).quit x.t
    ((s.portServed x.core x.t).pushTop x.core ((s.slot x.t).recAt (x.pc + 8) true)).seek x.t)
  pure .ended)

/-! ### The meanings -/

/-- NOP. -/
def execNop (g : Guard) (pad : Bool) (s : State) : Host.Outcome State Fault Refusal :=
  issue (specNop g pad) s
/-- B. -/
def execB (g : Guard) (t : Imm) (s : State) : Host.Outcome State Fault Refusal :=
  issue (specB g t) s
/-- BL. -/
def execBl (g : Guard) (d : Ix) (t : Imm) (s : State) : Host.Outcome State Fault Refusal :=
  issue (specBl g d t) s
/-- BX. -/
def execBx (g : Guard) (d : Ix) (a : Opd) (s : State) : Host.Outcome State Fault Refusal :=
  issue (specBx g d a) s
/-- RET. -/
def execRet (g : Guard) (a : Opd) (s : State) : Host.Outcome State Fault Refusal :=
  issue (specRet g a) s
/-- LOOP. -/
def execLoop (g : Guard) (cnt : LoopCnt) (off : BitVec 14) (s : State) : Host.Outcome State Fault Refusal :=
  issue (specLoop g cnt off) s
/-- LEXIT. -/
def execLexit (g : Guard) (s : State) : Host.Outcome State Fault Refusal :=
  issue (specLexit g) s
/-- TRAP. -/
def execTrap (g : Guard) (code : BitVec 8) (s : State) : Host.Outcome State Fault Refusal :=
  issue (specTrap g code) s
/-- ERET. -/
def execEret (g : Guard) (s : State) : Host.Outcome State Fault Refusal :=
  issue (specEret g) s
/-- SREAD. -/
def execSread (g : Guard) (d : Opd) (sel : BitVec 14) (s : State) : Host.Outcome State Fault Refusal :=
  issue (specSread g d sel) s
/-- SWRITE. -/
def execSwrite (g : Guard) (sel : BitVec 14) (a : Opd) (s : State) : Host.Outcome State Fault Refusal :=
  issue (specSwrite g sel a) s
/-- RGN. -/
def execRgn (g : Guard) (f : BitVec 8) (c : BitVec 6) (live : Option Word) (s : State) : Host.Outcome State Fault Refusal :=
  issue (specRgn g f c live) s
/-- RGNEND. -/
def execRgnend (g : Guard) (s : State) : Host.Outcome State Fault Refusal :=
  issue (specRgnend g) s
/-- IFENCE. -/
def execIfence (g : Guard) (s : State) : Host.Outcome State Fault Refusal :=
  issue (specIfence g) s
/-- YIELD. -/
def execYield (g : Guard) (s : State) : Host.Outcome State Fault Refusal :=
  issue (specYield g) s

end Sys2Proof.Machine
end

