-- ==== Sys2Proof/Machine/Tasks.lean ====
section
/-! DEFINITION. Threads and groups: SPAWN, SYNC, DONE, GENTER, GLEAVE, GBAR, GSIZE (spec/05_tasks.md R93 to R95;
spec/17_ref_c_e.md R359; spec/20_ref_s.md R415; spec/04_slots.md R85 to R87; spec/18_ref_f_l.md R371 to R373). -/

namespace Sys2Proof.Machine

/-! ### Frames -/

/-- Translate a frame's address for writing (R93 to R95): the access of its header, ordered as R92 has it and else only per
address (R335). -/
def frameAcc (x : Ctx) (va : Word) : OpM Acc := do
  let (pa, l) ← opXlate x false va.toNat .wr
  if !isDev pa then trapAddr 9 0x11 va
  pure ⟨x.t, x.sl.epoch, .mem pa, 32, true, .uo, none, l.trace⟩

/-- The child of a SPAWN begins at an offset in words of 4 bytes (R93). -/
def spawnTarget (x : Ctx) (t : ImmS) : Word :=
  match t with
  | .i14 v => x.pc + v.signExtend 64 * 4
  | .x32 v => x.pc + v.signExtend 64 * 4

/-- SPAWN (R93). -/
def specSpawn (g : Guard) (a : Opd) (t : ImmS) : OpSpec where
  g := g
  fields := [a.ix]
  kinds := fun x => x.isInt a.ix
  m := [a]
  d := none
  run := fun x => do
    let v ← readAddr x a.ix
    let cf := BitVec.ofNat 64 (umod 64 v)
    if x.sl.frame = 0 ∨ cf = 0 then trap 9 0x10
    if cf.toNat % 32 ≠ 0 then trapAddr 7 0 cf
    let f ← frameAcc x x.sl.frame
    let c ← frameAcc x cf
    if (x.s0.portBefore x.t).dequeFull x.core then trap 0x11 4
    performAll x
    modify (fun s =>
      let s := s.portBefore x.t
      let s := s.send (.inc f x.sl.launch x.sl.frame)
      let s := s.send (.hdr c x.sl.frame x.sl.tuning)
      let s := s.portPush x.t (x.sl.recAt x.after false)
      s.modSlot x.t (fun y => { y with frame := cf, lc0 := 0, lc1 := 0 }))
    pure (.jump (spawnTarget x t))

/-- SYNC (R94, R415). -/
def specSync (g : Guard) : OpSpec := bareSpec g (fun x => do
  if x.sl.frame = 0 then trap 9 0x10
  let f ← frameAcc x x.sl.frame
  performAll x
  modify (fun s =>
    let s := (s.quit x.t).send (.test f (x.pc + 8))
    s.setSlot x.t { Slot.reset with
      st := .held, held := .test (x.sl.recAt (x.pc + 8) true), epoch := x.sl.epoch })
  pure .ended)

/-- The live capsule of a slot goes on diverted with a record of a cause that is no trap (R252, R253). -/
def State.divertLive (s : State) (t : Tid) (rec : List Word) : State :=
  match s.heldBuf t with
  | none => s
  | some (b, c) =>
    let cap := s.bufCapsule (coreOf t) b c
    (s.freeBufAt (coreOf t) b).divert cap rec

/-- A slot whose thread has ended without a DEC seeks; a reserved slot takes no such work (R82, R95). -/
def State.endThread (s : State) (t : Tid) : State :=
  if s.reserved (coreOf t) && decide (14 ≤ slotOf t) then s.freeSlot t else s.seek t

/-- DONE (R95, R359). -/
def specDone (g : Guard) : OpSpec := bareSpec g (fun x => do
  let f ← if x.sl.frame = 0 then pure none else (do let f ← frameAcc x x.sl.frame; pure (some f))
  performAll x
  modify (fun s =>
    let s := (s.divertLive x.t (capRecord 0x10 x.t x.pc 0)).quit x.t
    match f with
    | none => s.endThread x.t
    | some f =>
      (s.send (.dec f x.sl.launch x.sl.prio x.pc x.sl.frame)).setSlot x.t { Slot.reset with
        st := .held, held := .dec x.sl.launch x.sl.prio, epoch := x.sl.epoch })
  pure .ended)

/-! ### Groups -/

/-- Park on a group record (R67), the slot's request having been sent. -/
def parkGroup {α : Type} (kind : Nat) (va : Word) (st : Option State) : OpM α :=
  let w := BitVec.ofNat 64 (kind * 2 ^ 60 + va.toNat / 32 % 2 ^ 51)
  fun _ => .error (match st with
    | none => .park w
    | some s => .parkWith s w)

/-- Check and translate the record of a GENTER (R371). -/
def recordAcc (x : Ctx) (va : Word) : OpM Acc := do
  if va.toNat % 32 ≠ 0 then trapAddr 7 0 va
  let (pa, l) ← opXlate x false va.toNat .rw
  if isHost pa then trapAddr 9 0x15 va
  if isPeer pa then trapAddr 9 0x16 va
  pure ⟨x.t, x.sl.epoch, .mem pa, 32, true, l.ord.group, none, l.trace⟩

/-- A slot is about to leave its group: its earlier accesses are performed, so that the marker of an arrival is known (R373).
-/
def leaving (x : Ctx) : OpM Unit := if x.sl.group = 0 then pure () else performAll x

/-- GENTER (R371 to R373): leaves the slot's group, sends its request and waits for the reply, which sets GROUP. -/
def specGenter (g : Guard) (a : Opd) : OpSpec where
  g := g
  fields := [a.ix]
  kinds := fun x => x.intNil a.ix
  m := [a]
  d := none
  run := fun x => do
    let v ← readAddr x a.ix
    let va := BitVec.ofNat 64 (umod 64 v)
    match x.sl.greq with
    | .genterDone =>
      modSelf x (fun y => { y with greq := .none })
      seqNext
    | .genterSent _ _ => parkGroup 6 va none
    | .none | .gbarSent | .gbarDone =>
      let acc ← recordAcc x va
      leaving x
      let s := (x.s0.leaveGroup x.t).send (.genter acc va)
      parkGroup 6 va (some (s.modSlot x.t (fun y => { y with greq := .genterSent acc.tgt.pa acc.trace, marker := none })))

/-- GLEAVE (R372). -/
def specGleave (g : Guard) : OpSpec := bareSpec g (fun x => do
  leaving x
  modify (fun s => s.leaveGroup x.t)
  seqNext)

/-- The GBAR completes: its marker is cleared (R373). -/
def barDone (x : Ctx) : OpM Next := do
  modSelf x (fun y => { y with greq := .none, marker := none })
  seqNext

/-- A GBAR arrives and waits (R372, R373). -/
def barArrive (x : Ctx) : OpM Next :=
  parkGroup 5 x.sl.group (some ((x.s0.modSlot x.t (fun y => { y with greq := .gbarSent, marker := none })).send
    (.gbar (x.sl.groupAcc x.t) x.pc)))

/-- GBAR (R372, R373). -/
def specGbar (g : Guard) : OpSpec := bareSpec g (fun x => do
  if x.sl.group = 0 then seqNext
  else if (match x.sl.marker with
      | some (pc, _) => decide (pc ≠ x.pc)
      | none => false) then barArrive x
  else match x.sl.greq with
    | .gbarDone => barDone x
    | .gbarSent => parkGroup 5 x.sl.group none
    | .none | .genterSent _ _ | .genterDone => barArrive x)

/-- GSIZE (R371, R372). -/
def specGsize (g : Guard) (d : Opd) : OpSpec where
  g := g
  fields := [d.ix]
  kinds := fun x => x.intOk d.ix
  m := []
  d := some d
  run := fun x => do
    if x.sl.isQ d.ix then trapName 0x11 3 d.ix
    if x.sl.group = 0 then writeInt x d.ix 0 false
    else
      let dst ← late x d.ix
      modify (fun s => s.send (.gsize (x.sl.groupAcc x.t) dst))
    seqNext

/-! ### The meanings -/

/-- SPAWN. -/
def execSpawn (g : Guard) (a : Opd) (t : ImmS) (s : State) : Host.Outcome State Fault Refusal :=
  issue (specSpawn g a t) s
/-- SYNC. -/
def execSync (g : Guard) (s : State) : Host.Outcome State Fault Refusal :=
  issue (specSync g) s
/-- DONE. -/
def execDone (g : Guard) (s : State) : Host.Outcome State Fault Refusal :=
  issue (specDone g) s
/-- GENTER. -/
def execGenter (g : Guard) (a : Opd) (s : State) : Host.Outcome State Fault Refusal :=
  issue (specGenter g a) s
/-- GLEAVE. -/
def execGleave (g : Guard) (s : State) : Host.Outcome State Fault Refusal :=
  issue (specGleave g) s
/-- GBAR. -/
def execGbar (g : Guard) (s : State) : Host.Outcome State Fault Refusal :=
  issue (specGbar g) s
/-- GSIZE. -/
def execGsize (g : Guard) (d : Opd) (s : State) : Host.Outcome State Fault Refusal :=
  issue (specGsize g d) s

end Sys2Proof.Machine
end

