-- ==== Sys2Proof/Machine/Owner.lean ====
section
/-! DEFINITION. Events at the owners of far accesses and on the way back: reads, writes, atomics, group requests, results that
land, walks, remote pushes, the end of a repack, and the wait limit (spec/08_memory.md R171 to R176; spec/09_ordering.md R188;
spec/18_ref_f_l.md R368, R372, R373; spec/04_slots.md R68, R77, R86; spec/03_tuning.md R60). -/

namespace Sys2Proof.Machine

/-- What a peer is asked for an access to its memory (R188, R294). -/
def Req.askOf (r : Req) : List (Word × Bool) :=
  match r with
  | .read a _ => askWords 17 a.n a.tid a.tgt.pa a.trace []
  | .write a v p => askWords 16 a.n a.tid a.tgt.pa a.trace [(BitVec.ofNat 64 v, p)]
  | .atomic a op ty rm b c p _ =>
    askWords 18 (atOpCode op + atTyCode ty * 2 ^ 4 + rm.code.toNat * 2 ^ 8) a.tid a.tgt.pa a.trace
      [(BitVec.ofInt 64 b, p), (BitVec.ofInt 64 c, false)]
  | _ => []

/-- What a peer has written for this device is known to stand there (log entry 15). -/
def State.farKnown (s : State) (r : Req) (ws : List (Word × Bool)) : State :=
  match r, ws with
  | .write a v p, _ => s.memWrite a.tgt.pa a.n v p
  | .atomic a op ty rm b c p _, w :: _ =>
    s.memWrite a.tgt.pa ty.bytes (atomNew op ty rm (w.1.toNat % 2 ^ (8 * ty.bytes)) b c) (w.2 || p)
  | _, _ => s

/-- An access that a peer has performed: what it read lands. -/
def State.farDone (s : State) (r : Req) (ws : List (Word × Bool)) : State :=
  let s := s.farKnown r ws
  match r with
  | .read a dst => let (w, s) := s.answered ws; s.send (.land dst (.raw a.n (w.1.toNat % 2 ^ (8 * a.n))) w.2 0)
  | .atomic _ _ ty _ _ _ _ (some d) => let (w, s) := s.answered ws; s.send (.land d (atomOld ty w.1.toNat) w.2 0)
  | _ => s

/-- An access to a peer's memory: the peer is asked once, and its reply ends the access. -/
def State.farEvent (s : State) (id : Nat) (r : Req) (dev : Nat) : State :=
  match s.asked.find? (fun a => decide (a.id = id)) with
  | none => if s.reaches dev then s.ask id dev r.askOf else s
  | some a => match a.ans with
    | none => s
    | some ws => ((s.unsend id).unask id).farDone r ws

/-- A request of a kind is performed at its owner, unless an earlier one must come first. -/
def State.ownerEvent (s : State) (id : Nat) (is : Req → Bool) : State :=
  match mfind id s.inflight with
  | none => s
  | some r =>
    if is r && s.mayPerform id r then
      match r.acc with
      | some a => if a.far then s.farEvent id r (peerDev a.tgt.pa) else (s.unsend id).performReq r
      | none => (s.unsend id).performReq r
    else s

/-- READ_AT_OWNER (R188). -/
def execReadAtOwner (id : Id) (s : State) : Host.Outcome State Fault Refusal :=
  .next (s.ownerEvent id (fun r => match r with
    | .read _ _ => true
    | _ => false))

/-- WRITE_AT_OWNER (R188). -/
def execWriteAtOwner (id : Id) (s : State) : Host.Outcome State Fault Refusal :=
  .next (s.ownerEvent id (fun r => match r with
    | .write _ _ _ => true
    | _ => false))

/-- ATOMIC_AT_OWNER (R175). -/
def execAtomicAtOwner (id : Id) (s : State) : Host.Outcome State Fault Refusal :=
  .next (s.ownerEvent id (fun r => match r with
    | .atomic _ _ _ _ _ _ _ _ => true
    | _ => false))

/-! ### Groups (R86, R372, R373) -/

/-- GENTER_AT_BANK (R372). -/
def execGenterAtBank (id : Id) (s : State) : Host.Outcome State Fault Refusal :=
  .next (s.ownerEvent id (fun r => match r with
    | .genter _ _ => true
    | _ => false))

/-- GLEAVE_AT_BANK (R86, R373). -/
def execGleaveAtBank (id : Id) (s : State) : Host.Outcome State Fault Refusal :=
  .next (s.ownerEvent id (fun r => match r with
    | .gleave _ _ => true
    | _ => false))

/-- GBAR_ARRIVAL (R86, R373). -/
def execGbarArrival (id : Id) (s : State) : Host.Outcome State Fault Refusal :=
  .next (s.ownerEvent id (fun r => match r with
    | .gbar _ _ => true
    | _ => false))

/-- GSIZE_AT_BANK (R86). -/
def execGsizeAtBank (id : Id) (s : State) : Host.Outcome State Fault Refusal :=
  .next (s.ownerEvent id (fun r => match r with
    | .gsize _ _ => true
    | _ => false))

/-- The slot still waits for the reply of its GENTER. -/
def Slot.inGenter (x : Slot) (ep : Nat) : Bool :=
  decide (x.epoch = ep) && match x.greq with
    | .genterSent _ _ => true
    | _ => false

/-- GENTER_REPLY (R372): GROUP is set; the GENTER completes at the slot's next turn. -/
def execGenterReply (id : Id) (s : State) : Host.Outcome State Fault Refusal :=
  match mfind id s.inflight with
  | some (.genterReply t ep va pa ord tr) =>
    let s := s.unsend id
    let x := s.slot t
    if x.inGenter ep then
      .next (s.setSlot t { x with group := va, groupPa := pa, groupOrd := ord, groupTr := tr, greq := .genterDone })
    else .next s
  | _ => .next s

/-- A slot raises WAIT_TIMEOUT (R68): cause, KIND and WAITON of its wait, and the pair slot of the op that waits (R332). -/
def State.timeOut (s : State) (t : Tid) : State :=
  let x := s.slot t
  let insn := match x.kept with
    | some (w, _) => w
    | none => 0
  s.takeTrap t x.pc (BitVec.ofNat 64 insn) ⟨6, x.waiton.toNat / 2 ^ 60, 0, x.waiton⟩ x.keptV

/-- A trap of a slot that waits must come after accesses of it that are under way to another device (R195). -/
def State.mustWait (s : State) (t : Tid) : Bool := (s.drain t).busy t

/-- GENTER_WITHDRAWAL (R373): the withdrawal for a wait limit reaches the bank. A held request is removed, and the slot traps;
a GENTER that has been applied takes effect. A withdrawal for a discard undoes a GENTER that has been applied. -/
def execGenterWithdrawal (id : Id) (s : State) : Host.Outcome State Fault Refusal :=
  match mfind id s.inflight with
  | some (.genterWd t ep pa tr timeout) =>
    if s.inflight.any (fun e => e.2.genters t ep) || s.mustWait t then .next s
    else
      let s := s.unsend id
      if timeout then
        match s.removeHeld t ep pa with
        | (true, s) =>
          .next (if (s.slot t).inGenter ep then (s.modSlot t (fun x => { x with greq := .none })).timeOut t else s)
        | (false, s) => .next s
      else .next (s.ungenter t ep pa tr)
  | _ => .next s

/-! ### Waiting too long (R68) -/

/-- WAIT_TIMEOUT (R68): a slot whose wait has reached the limit and whose op has failed again traps; one that waits in GENTER
first has its request withdrawn (R373). A GBAR or GENTER whose answer has reached the core takes effect at its turn. -/
def execWaitTimeout (tid : Tid) (s : State) : Host.Outcome State Fault Refusal :=
  let x := s.slot tid
  if x.st ≠ .parked ∨ !x.waitChecked ∨ s.mustWait tid then .next s
  else match x.waiton.toNat / 2 ^ 60, x.greq with
    | 5, .gbarDone => .next s
    | 6, .genterDone => .next s
    | 6, .genterSent pa tr =>
      if s.inflight.any (fun e => e.2.withdraws tid x.epoch) then .next s
      else .next (s.send (.genterWd tid x.epoch pa tr true))
    | _, _ => .next (s.timeOut tid)

/-! ### Results and pushes on their way (R77, R174, R368) -/

/-- Work that a PDRAIN or PRESET had to end and that is still under way (R289): commands that end, accesses of slots that
have ended, and what follows them at the banks and the sinks, sent before its result. -/
def State.lingers (s : State) (id : Nat) : Bool :=
  s.cmds.any (fun e => e.2.stopping || e.2.ended.isSome) ||
  s.inflight.any (fun e => decide (e.1 < id) && match e.2 with
    | .decPrime _ _ _ _ _ _ => true
    | .genterWd _ _ _ _ _ => true
    | .capSink _ _ => true
    | r => match r.acc with
      | some a => decide ((s.slot a.tid).epoch ≠ a.ep) || decide ((s.slot a.tid).st = .free)
      | none => false)

/-- One of some accesses is still under way: of a slot, or of an engine at a peer. -/
def State.usesLeft (s : State) (uses : List Nat) : Bool :=
  s.inflight.any (fun e => uses.contains e.1) || s.asked.any (fun a => a.ans.isNone && uses.contains a.tag)

/-- LAND_NAME (R174): not while the core's register store is being repacked; the result of a PDRAIN or PRESET lands once
everything that it ended is performed (R289), that of a TLBINV once the accesses are that used what it removed (R417). -/
def execLandName (id : Id) (s : State) : Host.Outcome State Fault Refusal :=
  match mfind id s.inflight with
  | some (.land d v p fl) => if s.repacking (coreOf d.tid) then .next s else .next ((s.unsend id).landName d v p fl)
  | some (.landAfter d v) =>
    if s.repacking (coreOf d.tid) || s.lingers id then .next s else .next ((s.unsend id).landName d (.int v) false 0)
  | some (.landUses d uses) =>
    if s.repacking (coreOf d.tid) || s.usesLeft uses then .next s else .next ((s.unsend id).landName d (.int 0) false 0)
  | _ => .next s

/-- The float kind of the name that a result of the special-function unit is bound for; f32 for `nil` and a name that has
gone. -/
def State.sfuKind (s : State) (d : Dst) : FK :=
  if d.ix = 0 then .f32
  else match (s.slot d.tid).names[d.ix - 1]? with
    | none => .f32
    | some n => match n.kind with
      | .flt k => k
      | .fvec k _ _ => k
      | .int _ _ _ => .f32
      | .ivec _ _ _ _ _ => .f32
      | .queue _ _ => .f32

/-- SFU_RESULT (R368, R430): the unit serves the slots of its core in issue order. -/
def execSfuResult (id : Id) (s : State) : Host.Outcome State Fault Refusal :=
  match mfind id s.inflight with
  | some (.sfu d fn rm sat src cols p) =>
    if s.repacking (coreOf d.tid) || s.inflight.any (fun e => decide (e.1 < id) && match e.2 with
        | .sfu q _ _ _ _ _ _ => decide (coreOf q.tid = coreOf d.tid)
        | _ => false) then .next s
    else
      let rs := src.map (fun o => o.map (sfuResult fn rm sat (s.sfuKind d)))
      let fl := rs.foldl (fun f o => match o with
        | some r => f ||| r.2
        | none => f) (0 : BitVec 5)
      let v : LandV := if cols = 0 then .pat ((rs.headD none).map (·.1) |>.getD 0)
        else .vec cols (rs.map (fun o => o.map (fun r => (r.1 : Int))))
      .next ((s.unsend id).landName d v p fl)
  | _ => .next s

/-- REMOTE_PUSH (R77): entries of one slot enter a queue in their order, once it has room. -/
def execRemotePush (id : Id) (s : State) : Host.Outcome State Fault Refusal :=
  match mfind id s.inflight with
  | some (.push t _ core q v p) =>
    if decide (16 ≤ (s.queue core q).length) || s.inflight.any (fun e => decide (e.1 < id) && match e.2 with
        | .push u _ c k _ _ => decide (u = t ∧ c = core ∧ k = q)
        | _ => false) then .next s
    else .next ((s.unsend id).setQueue core q (s.queue core q ++ [(v, p)]))
  | _ => .next s

/-! ### Walks and repacks (R60, R171) -/

/-- TRANSLATION_WALK (R171): a good walk fills the cluster's cache. -/
def execTranslationWalk (id : Id) (s : State) : Host.Outcome State Fault Refusal :=
  match mfind id s.inflight with
  | some (.walk cl part _ va) =>
    let s := s.unsend id
    match s.walkVa part va with
    | .error _ => .next s
    | .ok l => if backed (l.pa + (va - l.base)) && (s.cached cl part va).isNone then .next (s.fillCache cl part va l) else .next s
  | _ => .next s

/-- REPACK (R60): the last rotation of a repack has passed, and the names stand at their new places. -/
def execRepack (core : Nat) (s : State) : Host.Outcome State Fault Refusal :=
  match (s.core core).repack with
  | none => .next s
  | some r => if s.cycle < r.until_ then .next s else .next (s.endRepack core)

end Sys2Proof.Machine
end

