-- ==== Sys2Proof/Machine/Work.lean ====
section
/-! DEFINITION. Frame operations at the banks and their replies, continuation records and the search for work
(spec/05_tasks.md R90 to R100; spec/21_ref_t_y.md R440). -/

namespace Sys2Proof.Machine

/-! ### At the banks (R92) -/

/-- INC (R92). -/
def execInc (id : Id) (s : State) : Host.Outcome State Fault Refusal :=
  .next (s.ownerEvent id (fun r => match r with
    | .inc _ _ _ => true
    | _ => false))

/-- HDR (R92). -/
def execHdr (id : Id) (s : State) : Host.Outcome State Fault Refusal :=
  .next (s.ownerEvent id (fun r => match r with
    | .hdr _ _ _ => true
    | _ => false))

/-- DEC (R92). -/
def execDec (id : Id) (s : State) : Host.Outcome State Fault Refusal :=
  .next (s.ownerEvent id (fun r => match r with
    | .dec _ _ _ _ _ => true
    | _ => false))

/-- TEST (R92). -/
def execTest (id : Id) (s : State) : Host.Outcome State Fault Refusal :=
  .next (s.ownerEvent id (fun r => match r with
    | .test _ _ => true
    | _ => false))

/-- DEC_PRIME (R92). -/
def execDecPrime (id : Id) (s : State) : Host.Outcome State Fault Refusal :=
  match mfind id s.inflight with
  | some (.decPrime src ep _ pa tr frame) => .next ((s.unsend id).doDecPrime src ep pa tr frame)
  | _ => .next s

/-- The records of a frame on a core become stealable. -/
def Core.ackRecs (c : Core) (launch : Nat) (frame : Word) : Core :=
  let f := fun (r : CRec) => if r.launch = launch ∧ r.frame = frame then { r with ack := true } else r
  { c with deque := c.deque.map f, overflow := c.overflow.map f }

/-- INC_ACKNOWLEDGEMENT (R93): once no INC of the core to that frame is under way, its records may be stolen. -/
def execIncAcknowledgement (id : Id) (s : State) : Host.Outcome State Fault Refusal :=
  match mfind id s.inflight with
  | some (.incAck core launch frame) =>
    let s := s.unsend id
    if s.inflight.any (fun e => match e.2 with
        | .inc a _ f => decide (coreOf a.tid = core ∧ f = frame)
        | .incAck c _ f => decide (c = core ∧ f = frame)
        | _ => false) then .next s
    else .next (s.setCore core ((s.core core).ackRecs launch frame))
  | _ => .next s

/-! ### Starting a record (R90, R440) -/

/-- Report a record whose tuning cannot be used (R440). -/
def State.reportRec (s : State) (core : Nat) (r : CRec) (e : Nat × Nat × Nat) : State :=
  let part := s.partNum core
  s.sendTrap part { TrapRec.zero e.1 e.2.1 part s.cycle with
    name := e.2.2, pc := r.pc, addr := r.tuning, launch := r.launch }

/-- How a record fares that a held slot is to start: it has started, or has not and the slot goes on; or its push waits for
the port. -/
inductive RecStart where
  | started (s : State)
  | not (s : State)
  | waits
  deriving DecidableEq, Repr

/-- Start a record in a held slot: a record that does not fit goes to the bottom of the deque with its descriptor's bits, once
the port serves the push (R99), and one whose tuning is bad is reported. -/
def State.startRec (s : State) (t : Tid) (r : CRec) : RecStart :=
  let core := coreOf t
  match s.readTuning (s.partNum core) true core r.tuning with
  | .error e => .not (s.reportRec core r e)
  | .ok ks =>
    if s.fits core (costOf ks) then .started (s.startSlot t r.startOf ks)
    else if s.portServes core t then .not (s.portPush t { r with bits := costOf ks })
    else .waits

/-- TEST_REPLY (R94): GO starts the record in the held slot; WAIT makes it seek. -/
def execTestReply (id : Id) (s : State) : Host.Outcome State Fault Refusal :=
  match mfind id s.inflight with
  | some (.testReply t ep go) =>
    if s.repacking (coreOf t) then .next s
    else
      let u := s.unsend id
      let x := u.slot t
      match x.held with
      | .test r =>
        if x.epoch ≠ ep then .next u
        else if go then
          match u.startRec t r with
          | .started u => .next u
          | .not u => .next (u.seek t)
          | .waits => .next s
        else .next (u.seek t)
      | .none | .dec _ _ | .seek _ _ => .next u
  | _ => .next s

/-- BitsOf a descriptor as a core computes it (R95); 1 where it cannot be read (log entry 23). -/
def State.bitsOf (s : State) (core : Nat) (va : Word) : Nat :=
  match s.readTuning (s.partNum core) true core va with
  | .ok ks => costOf ks
  | .error _ => 1

/-- DEC_REPLY (R95, R98): a released record is pushed once the deque has room, and the slot seeks. -/
def execDecReply (id : Id) (s : State) : Host.Outcome State Fault Refusal :=
  match mfind id s.inflight with
  | some (.decReply t ep rel) =>
    let x := s.slot t
    match x.held with
    | .dec l prio =>
      if x.epoch ≠ ep then .next (s.unsend id)
      else match rel with
        | none => .next ((s.unsend id).endThread t)
        | some (pc, fr, tn) =>
          if s.dequeFull (coreOf t) || !s.portServes (coreOf t) t then .next s
          else
            let r : CRec := ⟨pc, fr, tn, l, s.bitsOf (coreOf t) tn, prio, true⟩
            .next (((s.unsend id).portPush t r).endThread t)
    | .none | .test _ | .seek _ _ => .next (s.unsend id)
  | _ => .next s

/-! ### Seek (R96, R99, R100) -/

/-- DEQUE_TAKE (R96, R99): the first port that a probe has still to ask serves it, once no request comes before it there. -/
def execDequeTake (id : Id) (s : State) : Host.Outcome State Fault Refusal :=
  match mfind id s.inflight with
  | some (.probe t ep k (v :: vs)) =>
    if !(s.slot t).seeking ep k then .next (s.unsend id)
    else if !s.portServes v t then .next s
    else .next (s.servePort id t ep k v vs)
  | _ => .next s

/-- SEEK_PROBE (R96): the answer was negative, and the slot issues its next probe or is free. -/
def execSeekProbe (id : Id) (s : State) : Host.Outcome State Fault Refusal :=
  match mfind id s.inflight with
  | some (.probe t ep k []) =>
    let s := s.unsend id
    if (s.slot t).seeking ep k then .next (s.issueProbe t (k + 1)) else .next s
  | _ => .next s

/-- The record on its way to a slot. -/
def State.tookOf (s : State) (t : Tid) : Option (Nat × Nat × CRec) :=
  s.inflight.findSome? (fun e => match e.2 with
    | .took u ep r => if u = t then some (e.1, ep, r) else none
    | _ => none)

/-- The number of the probe that a slot is in. -/
def Slot.probeNo (x : Slot) : Nat :=
  match x.held with
  | .seek k _ => k
  | .none | .test _ | .dec _ _ => 0

/-- CONTINUATION_START (R90, R440): a record that a search has taken starts; where it cannot, the search goes on with its next
numbered probe (log entry 64). -/
def execContinuationStart (tid : Tid) (s : State) : Host.Outcome State Fault Refusal :=
  match s.tookOf tid with
  | none => .next s
  | some (id, ep, r) =>
    let x := s.slot tid
    if s.repacking (coreOf tid) then .next s
    else if !x.seeking ep x.probeNo then
      .next (if s.portServes (coreOf tid) tid then (s.unsend id).portPush tid r else s)
    else match (s.unsend id).startRec tid r with
      | .started s => .next s
      | .not s => .next (s.issueProbe tid (x.probeNo + 1))
      | .waits => .next s

/-- The phase of a core's periodic search in 512 cycles (R100). -/
def seekPhase (core : Nat) : Nat := 16 * (core % 32)

/-- A periodic search of a core can begin (R100): its partition has a live launch, it has no other such search in flight, and a
slot is free for it. -/
def State.seekSlot (s : State) (core : Nat) : Option Tid :=
  if (s.core core).offline || (s.partOf core).isNone || !s.hasLive (s.partNum core) ||
      (coreTids core).any (fun t => (s.slot t).periodic) || s.headTakes core then none
  else s.freeSlotOf core false

/-- PERIODIC_SEEK (R100): at its phase, a core of a partition with a live launch searches for its lowest free unreserved
slot. -/
def execPeriodicSeek (core : Nat) (s : State) : Host.Outcome State Fault Refusal :=
  if s.cycle % 512 ≠ seekPhase core ∨ s.cycle < (s.core core).lastSeek then .next s
  else match s.seekSlot core with
    | none => .next s
    | some t => .next ((s.setCore core { s.core core with lastSeek := s.cycle + 1 }).search t true)

end Sys2Proof.Machine
end

