-- ==== Sys2Proof/Machine/Drain.lean ====
section
/-! DEFINITION. Draining a launch or a partition, pre-emption and resume: PDRAIN, save areas, restart entries
(spec/12_traps.md R280 to R289; spec/11_capsules.md R255, R257; spec/19_ref_m_r.md R389). -/

namespace Sys2Proof.Machine

/-! ### Cancelling engine commands (R159, R183, R226, R282) -/

/-- DETAIL of a command that is cancelled at a boundary, of an MDRAIN its FROW (R157, log entry 61), and the state with the
bitmap that a Plectrum command writes (R226) and without the table that a DTLOAD was to load (R360). A Plectrum command whose
request fails R216 leaves nothing (log entry 78). -/
def State.cancelDetail (s : State) (c : Cmd) : Nat × State :=
  match c.kind with
  | .copy m a b n => (CopyJob.cancel ⟨m, copyPl c.core m.dsp a, copyPl c.core m.ssp b, n⟩ c, s)
  | .gather req _ _ => s.plkCancel .gather req c
  | .scatter req _ _ => s.plkCancel .scatter req c
  | .scatadd req _ _ => s.plkCancel .scatadd req c
  | .bankop op _ => (bankCancel op c, s)
  | .mdrain _ _ => (c.prog % 256, s)
  | .dtload va => (0, s.dtCancelled c va)
  | .launch _ _ => (0, s)
  | .mma _ _ _ _ _ => (0, s)
  | .mmap _ _ => (0, s)
  | .mclr _ => (0, s)
  | .xreduce _ _ => (0, s.xWithdraw c)
  | .xgather _ _ => (0, s.xWithdraw c)
  | .xbcast _ _ => (0, s.xWithdraw c)
  | .xlog _ _ => (cap32 (64 * c.prog), s)

/-- End a command where it stands: status 0x0002, and its one Signal. -/
def State.cancelHere (s : State) (id : Nat) (c : Cmd) : State :=
  let (d, s) := s.cancelDetail c
  s.endCmd id c 2 0 d

/-- A command stands within a unit of its work, which comes to an end before it stops (R282): a Plectrum command within an
element whose row has begun to move (R226), a drain within a row whose inbox words it has begun to take (R159), a COPY or
BANKOP within a sector or line for which it has asked a peer (R346, R355). -/
def State.midUnit (s : State) (c : Cmd) : Bool :=
  let asked := s.asked.any (fun a => decide (a.id = c.key))
  match c.kind with
  | .gather _ _ _ => (plkSt c).cur.isSome
  | .scatter _ _ _ => (plkSt c).cur.isSome
  | .scatadd _ _ _ => (plkSt c).cur.isSome
  | .mdrain _ _ => c.midRow
  | .copy _ _ _ _ => asked
  | .bankop _ _ => asked
  | _ => false

/-- Cancel a command at its boundary (R282): at once, or after the unit within which it stands. A command that has ended keeps
its status. -/
def State.cancel (s : State) (id : Nat) (c : Cmd) : State :=
  if c.ended.isSome then s
  else if s.midUnit c then s.setCmd id { c with stopping := true }
  else s.cancelHere id c

/-- Cancel the commands that a test names. -/
def State.cancelAll (s : State) (which : Cmd → Bool) : State :=
  (s.cmds.filter (fun e => which e.2)).foldl (fun st e => st.cancel e.1 e.2) s

/-- Commands that a test names are to end after the unit within which they stand; whether there are any (R159, R226, R283). -/
def State.stopRows (s : State) (which : Cmd → Bool) : Bool × State :=
  let hits := s.cmds.filter (fun e => which e.2 && s.midUnit e.2 && e.2.ended.isNone)
  (!hits.isEmpty, hits.foldl (fun st e => st.setCmd e.1 { e.2 with stopping := true }) s)

/-! ### Discarding slots, records and capsules (R257, R280, R282) -/

/-- The record of a drained capsule. -/
def drainRecord : List Word := capRecord 0x17 0 0 0

/-- A capsule goes to its default sink at once (R257, R289). -/
def State.sinkNow (s : State) (c : Capsule) (rec0 : List Word) : State :=
  let c := c.diverted rec0
  match (s.part c.part).cfg with
  | some g => if g.capen then s.sinkStop c true else s.dropCapsule c
  | none => s.dropCapsule c

/-- A capsule taken out of a buffer: from its snapshot where a slot holds it, else as it stands. -/
def State.takeBuf (s : State) (core b : Nat) (x : CapBuf) : Capsule × State :=
  let c := if x.holder.isSome then { x.snap with src := some core } else s.bufCapsule core b x
  let head := decide ((s.core core).capHead.map (·.1) = some b)
  let s := s.freeBufAt core b
  (c, if head then s.popCap core else s)

/-- The buffers that a test names, with their cores. -/
def State.bufsWhere (s : State) (which : CapBuf → Bool) : List (Nat × Nat × CapBuf) :=
  s.cores.flatMap (fun e => (e.2.capBufs.filter (fun b => which b.2)).map (fun b => (e.1, b.1, b.2)))

/-- The capsule of a request that carries one in this device: one that has arrived from a peer has not adopted a launch yet
(R240). -/
def State.capsuleHere (s : State) (r : Req) : Option Capsule :=
  match r with
  | .capEgress c dev => if dev = s.devNum then none else some c
  | r => r.capsule

/-- Take out of the device the capsules that a test names: those in buffers, and those in flight (R255). -/
def State.takeCapsules (s : State) (which : Capsule → Bool) : List Capsule × State :=
  let a := (s.bufsWhere (fun x => which x.snap)).foldl (fun (a : List Capsule × State) e =>
    let (c, st) := a.2.takeBuf e.1 e.2.1 e.2.2
    (a.1 ++ [c], st)) ([], s)
  s.inflight.foldl (fun (a : List Capsule × State) e =>
    match s.capsuleHere e.2 with
    | some c => if which c then (a.1 ++ [c], a.2.unsend e.1) else a
    | none => a) a

/-- Discard the slots that a test names, in the order of their numbers. -/
def State.discardAll (s : State) (which : Slot → Tid → Bool) : State :=
  (s.slots.filter (fun e => which e.2 e.1)).foldl (fun st e => st.discard e.1) s

/-- Records on their way to a seeker that a test names are gone: its probe has found nothing (R282). -/
def State.dropTook (s : State) (which : CRec → Bool) : State :=
  s.inflight.foldl (fun st e => match e.2 with
    | .took t ep r => if which r then st.resend e.1 (.probe t ep (st.slot t).probeNo []) else st
    | _ => st) s

/-- Deque, overflow and restart work that a test names is removed. -/
def State.dropRecs (s : State) (which : CRec → Bool) : State :=
  s.cores.foldl (fun st e =>
    let (ov, dq) := st.readAll e.1
    let st := if (ov ++ dq).any which then
      st.setDeque e.1 (ov.filter (fun r => !which r)) (dq.filter (fun r => !which r)) else st
    st.setCore e.1 { st.core e.1 with restart := (st.core e.1).restart.filter (fun r => !which r.cont) }) s

/-- A launch lets go of its queue: HEAD moves past its record. -/
def State.leaveQueue (s : State) (lid : Nat) (l : Launch) : State :=
  if ((s.part l.part).q l.lev).cur = some lid then
    (s.headOn l.part l.lev).modQ l.part l.lev (fun q => { q with cur := none })
  else s

/-- DRAIN a launch (R282). -/
def State.drainLaunch (s : State) (lid : Nat) : State :=
  match mfind lid s.launches with
  | none => s
  | some l =>
    let s := s.leaveQueue lid l
    let s := { s with launches := mdel lid s.launches }
    let (cs, s) := s.takeCapsules (fun c => c.ofLaunch l.part lid)
    let s := s.discardAll (fun x _ => x.ofLaunch lid)
    let s := (s.dropTook (fun r => decide (r.launch = lid))).dropRecs (fun r => decide (r.launch = lid))
    let s := s.cancelAll (fun c => c.bears && decide (c.launch = lid))
    cs.foldl (fun st c => st.sinkNow c drainRecord) s

/-- The cores of a configuration. -/
def Pcb.cores (g : Pcb) : List Nat := (List.range (g.ncm1 + 1)).map (g.first + ·)

/-- Messages in flight to cores, and trap messages of a partition, are dropped. -/
def State.dropMsgs (s : State) (part : Nat) (g : Pcb) : State :=
  let s := { s with inflight := s.inflight.filter (fun e => match e.2 with
    | .msg m => !(g.has m.dst || (m.trap && decide (m.part = part)))
    | _ => true) }
  s.cores.foldl (fun st e => if g.has e.1 then st.setCore e.1 { st.core e.1 with inTrap := [], inMsg := [] } else st) s

/-- DRAIN a partition (R282): its queues stop and its ports refuse messages until PRESET; pushes to its cores are dropped
(R394). -/
def State.drainPart (s : State) (p : Nat) (g : Pcb) : State :=
  let stop := fun (q : LQueue) => { q with stop := 1, cur := none }
  let x := s.part p
  let s := s.setPart p { x with q0 := stop x.q0, q1 := stop x.q1, q2 := stop x.q2, q3 := stop x.q3, refuse := true }
  let s := { s with launches := s.launches.filter (fun e => decide (e.2.part ≠ p)) }
  let (cs, s) := s.takeCapsules (fun c => decide (c.part = p))
  let s := s.discardAll (fun _ t => g.has (coreOf t))
  let here := fun (st : State) (e : Nat × Core) => if g.has e.1 then
    st.setCore e.1 { st.core e.1 with deque := [], overflow := [], restart := [] } else st
  let s := s.cores.foldl here s
  let s := { s with inflight := s.inflight.filter (fun e => match e.2 with
    | .took t _ _ => !g.has (coreOf t)
    | .probe t _ _ _ => !g.has (coreOf t)
    | .push _ _ c _ _ _ => !g.has c
    | _ => true) }
  let s := s.cancelAll (fun c => decide (c.part = p))
  (cs.foldl (fun st c => st.sinkNow c drainRecord) s).dropMsgs p g

/-! ### Save areas (R283 to R285) -/

/-- Words of a restart entry for a core (R285). -/
def Restart.words (r : Restart) (core : Nat) : List (Word × Bool) :=
  (r.cont.words ++ [BitVec.ofNat 64 (b2n r.expl * 2 ^ 26 + r.sem.2 % 64 * 2 ^ 20 + r.sem.1 % 256 * 2 ^ 12 + core % 4096),
    r.list, 0, 0]).map (fun w => (w, false)) ++ r.save

/-- A restart entry from its words. -/
def Restart.ofWords (ws : List (Word × Bool)) : Restart :=
  let v := ws.map (·.1)
  let w := nthW v 4
  ⟨.ofWords v, decide (wbits w 26 26 = 1), (wbits w 19 12, wbits w 25 20), nthW v 5, ws.drop 8⟩

/-- What a discarded slot yields (R278, R283): its region, or its restart point. -/
def State.restartOf (s : State) (t : Tid) : Restart :=
  let x := s.slot t
  let core := coreOf t
  if x.rgnpc ≠ 0 then
    let b := match s.readTuning (s.partNum core) true core x.rgntune with
      | .ok ks => costOf ks
      | .error _ => x.bits
    ⟨⟨x.rgnpc, x.rgnframe, x.rgntune, x.launch, b, x.prio, true⟩, true, x.rgnsem, x.rgnlist, s.lsWords core (saveOff t) 8⟩
  else x.start.getD (.plain ⟨x.pc, x.frame, x.tuning, x.launch, x.bits, x.prio, true⟩)

/-- Write words through a slot's context in S mode, page by page; false at the first fault, with what was written. -/
def State.areaPut (s : State) (part : Nat) : Nat → Option Nat → List (Word × Bool) → Bool × State
  | _, _, [] => (true, s)
  | va, pa, w :: ws =>
    let pa := match pa with
      | some p => if va % 65536 = 0 then none else some p
      | none => none
    match (match pa with
      | some p => some p
      | none => match s.xlatePart part true (va % 2 ^ 64) .wr with
        | .ok p _ => some p
        | .miss => none
        | .fault _ _ => none) with
    | none => (false, s)
    | some p => (s.sysWrite p 8 w.1.toNat w.2).areaPut part (va + 8) (some (p + 8)) ws

/-- Read words through a slot's context in S mode; none at a fault. -/
def State.areaGet (s : State) (part : Nat) : Nat → Nat → Option Nat → Option (List (Word × Bool))
  | 0, _, _ => some []
  | n + 1, va, pa =>
    let pa := match pa with
      | some p => if va % 65536 = 0 then none else some p
      | none => none
    match (match pa with
      | some p => some p
      | none => match s.xlatePart part true (va % 2 ^ 64) .rd with
        | .ok p _ => some p
        | .miss => none
        | .fault _ _ => none) with
    | none => none
    | some p => (s.areaGet part n (va + 8) (some (p + 8))).map ((s.memWord p, s.memPoison p) :: ·)

/-- Words of a spilled local store (R283): offsets below 0x36000. -/
def spillWords : Nat := 27648

/-- The F map of a local store, bit w for word w (R284). -/
def State.fmap (s : State) (core : Nat) : List (Word × Bool) :=
  (List.range (spillWords / 64)).map (fun k =>
    (BitVec.ofNat 64 ((List.range 64).foldl (fun v j => v + b2n (s.lsF core (512 * k + 8 * j)) * 2 ^ j) 0), false))

/-- The block of a core (R284). -/
def State.coreBlock (s : State) (core : Nat) : List (Word × Bool) := s.lsWords core 0 spillWords ++ s.fmap core

/-- Plain words. -/
def plainWords (ws : List Word) : List (Word × Bool) := ws.map (fun w => (w, false))

/-- What a save area holds (R284): the LAUNCHID, NEXT, the launch record, the spilled cores with a block for each, the
restart and deque entries with their cores, and the captured capsules. -/
structure SaveArea where
  lid   : Nat
  next  : Nat
  recd  : List Word
  cores : List Nat
  blocks : List (List (Word × Bool))
  rest  : List (Nat × Restart)
  deq   : List (Nat × CRec)
  caps  : List Capsule
  deriving DecidableEq, Repr

/-- The header of a save area, with `n` capsule images and a STATE. -/
def SaveArea.header (a : SaveArea) (n state : Nat) : List (Word × Bool) :=
  plainWords ([0x5A7E * 2 ^ 48 + 2 ^ 40, a.lid, a.cores.length, a.rest.length, a.deq.length, n, a.next, state].map (BitVec.ofNat 64))

/-- The words of a deque entry. -/
def CRec.areaWords (r : CRec) (core : Nat) : List (Word × Bool) := plainWords (r.words ++ [BitVec.ofNat 64 core, 0, 0, 0])

/-- The words of a save area up to its capsule images, while it is being written (R284). -/
def SaveArea.body (a : SaveArea) : List (Word × Bool) :=
  a.header 0 0 ++ plainWords a.recd ++ plainWords (List.replicate 16 0) ++ a.blocks.flatten ++
  a.rest.flatMap (fun e => e.2.words e.1) ++ a.deq.flatMap (fun e => e.2.areaWords e.1)

/-- The replies that held slots of a launch wait for arrive (R415): their accesses are performed, a record that a reply brings
goes to the deque, and the slots are free. -/
def State.settle (s : State) (lid : Nat) : State :=
  (s.slots.filter (fun e => decide (e.2.st = .held) && e.2.ofLaunch lid)).foldl (fun st e =>
    let t := e.1
    let st := (st.drain t).joinAll t
    let st := st.inflight.foldl (fun st r => match r.2, (st.slot t).held with
      | .testReply u _ go, .test c => if u = t then
          (if go then (st.unsend r.1).pushRec (coreOf t) c else st.unsend r.1) else st
      | .decReply u _ (some (pc, fr, tn)), .dec l prio => if u = t then
          (st.unsend r.1).pushRec (coreOf t) ⟨pc, fr, tn, l, st.bitsOf (coreOf t) tn, prio, true⟩ else st
      | _, _ => st) st
    st.freeSlot t) s

/-- Records on their way to a seeker go back to its core's deque, and its probe has found nothing. -/
def State.returnTook (s : State) (lid : Nat) : State :=
  s.inflight.foldl (fun st e => match e.2 with
    | .took t ep r => if r.launch = lid then
        (st.resend e.1 (.probe t ep (st.slot t).probeNo [])).pushRec (coreOf t) r else st
    | _ => st) s

/-- The notice of a pre-emption (R283). -/
def State.saveNotice (s : State) (part lid : Nat) (va : Nat) (sub : Nat) : State :=
  s.sendTrap part { TrapRec.zero 0x21 sub part s.cycle with addr := BitVec.ofNat 64 va, launch := lid }

/-- Write captured capsules one after another; one whose write faults goes to the default sink (R283). -/
def State.putCapsules (s : State) (part va : Nat) : List Capsule → Nat → Nat × State
  | [], n => (n, s)
  | c :: cs, n =>
    let img := c.image ++ plainWords (List.replicate (1064 - c.image.length) 0)
    match s.areaPut part (va + 8512 * n) none img with
    | (true, s) => s.putCapsules part va cs (n + 1)
    | (false, s) => (s.sinkNow c drainRecord).putCapsules part va cs n

/-- What a pre-emption takes out of the machine (R283, steps 1 to 6), from a state in which no reply is under way. -/
def State.capture (s : State) (lid : Nat) (l : Launch) : SaveArea × State :=
  let mine := (s.slots.filter (fun e => e.2.ofLaunch lid)).map (·.1)
  let rest := (mine.filter (fun t => (s.heldBuf t).isNone)).map (fun t => (coreOf t, s.restartOf t))
  let rest := (s.cores.flatMap (fun e => (e.2.restart.filter (fun r => decide (r.cont.launch = lid))).map
    (fun r => (e.1, r)))) ++ rest
  let deq := s.cores.flatMap (fun e =>
    (((s.readAll e.1).1 ++ (s.readAll e.1).2).filter (fun r => decide (r.launch = lid))).map (fun r => (e.1, r)))
  let (caps, s) := s.takeCapsules (fun c => c.ofLaunch l.part lid)
  let s := (s.discardAll (fun x _ => x.ofLaunch lid)).dropRecs (fun r => decide (r.launch = lid))
  let s := s.cancelAll (fun c => c.bears && decide (c.launch = lid))
  let cores := match (s.part l.part).cfg with
    | some g => placeSet g (nthW l.words 4)
    | none => []
  (⟨lid, l.next, l.words, cores, cores.map s.coreBlock, rest, deq, caps⟩, s)

/-- PRE-EMPT a live launch (R283) through the context of a partition: the result and the state. -/
def State.saveLaunch (s : State) (part va lid : Nat) (l : Launch) : Nat × State :=
  let (a, s) := (((s.leaveQueue lid l).settle lid).returnTook lid).capture lid l
  match s.areaPut part va none a.body with
  | (false, s) =>
    let s := { s with launches := mdel lid s.launches }
    (5, (a.caps.foldl (fun st c => st.sinkNow c drainRecord) s).saveNotice l.part lid va 1)
  | (true, s) =>
    let (n, s) := s.putCapsules part (va + 8 * a.body.length) a.caps 0
    let (_, s) := s.areaPut part va none (a.header n 1)
    let k := { l with susp := true, susPaused := s.cycle, placing := false }
    let s := { s with launches := mset lid k s.launches, saved := mset lid ⟨k, a.cores⟩ s.saved }
    (0, s.saveNotice l.part lid va 0)

/-! ### Resume (R286) -/

/-- A captured capsule from its image. -/
def imageCapsule (part : Nat) (ws : List (Word × Bool)) : Capsule :=
  let hdr := (ws.take 8).map (·.1)
  ⟨hdr, ((ws.drop 8).take 32).map (·.1), ((ws.drop 40).take (hTb hdr / 8)), part, true, none⟩

/-- The cores of a suspended launch that still lie in its partition: those that were spilled, where the device knows them; else
the placement set, if it has as many cores as the header says (log entry 34). -/
def State.saveCores (s : State) (lid ncore : Nat) (recd : List Word) : Option (List Nat) :=
  match (s.part (launchPart lid)).cfg with
  | none => none
  | some g =>
    let cs := match mfind lid s.saved with
      | some v => v.cores
      | none => placeSet g (nthW recd 4)
    if cs.all g.has && decide (cs.length = ncore ∧ cs ≠ []) then some cs else none

/-- The header section of a save area: MAGIC and VER, reserved words zero, nothing poisoned, the launch record with its
reserved fields zero (R6, R103, R284). -/
def areaHeadOk (ws : List (Word × Bool)) : Bool :=
  let v := ws.map (·.1)
  let recd := (v.drop 8).take 8
  !ws.any (·.2) && decide ((nthW v 0).toNat = 0x5A7E * 2 ^ 48 + 2 ^ 40 ∧ (nthW v 1).toNat < 2 ^ 32) &&
  (v.drop 16).all (fun w => decide (w = 0)) &&
  decide (wbits (nthW recd 3) 31 18 = 0 ∧ wbits (nthW recd 4) 63 26 = 0 ∧ wbits (nthW recd 5) 63 32 = 0)

/-- A record, and its core in the word after it, with the words `zs` after them zero and no reserved bit set (R88, R284,
R285). -/
def recOk (ws : List (Word × Bool)) (hi : Nat) (zs : List Nat) : Bool :=
  let v := ws.map (·.1)
  !(ws.take 8).any (·.2) && decide (wbits (nthW v 3) 12 2 = 0 ∧ (nthW v 4).toNat < 2 ^ hi) && zs.all (fun k => decide (nthW v k = 0))

/-- A capsule image that is well formed and has no poison in its header and stops (R229 to R232). -/
def imageOk (ws : List (Word × Bool)) : Bool :=
  !(ws.take 40).any (·.2) && capsuleOk ((ws.take 8).map (·.1)) (((ws.drop 8).take 32).map (·.1))

/-- The core of a restart or deque entry. -/
def entryCore (ws : List (Word × Bool)) : Nat := wbits (nthW (ws.map (·.1)) 4) 11 0

/-- Read and check a save area through the context of a partition (R286): a result code, or its parts. Its launch is not live,
every core that it names lies in the launch's partition, and no reserved field is set. -/
def State.readArea (s : State) (part va : Nat) : Except Nat SaveArea :=
  match s.areaGet part 32 va none with
  | none => .error 3
  | some ws =>
    let v := ws.map (·.1)
    let n := fun k => (nthW v k).toNat
    if !areaHeadOk ws then .error 3
    else if n 7 ≠ 1 then .error 1
    else
      let lid := n 1
      let recd := (v.drop 8).take 8
      if (match mfind lid s.launches with
          | some l => !l.susp
          | none => false) then .error 1
      else match s.saveCores lid (n 2) recd with
        | none => .error 4
        | some cores =>
          let a := va + 256
          let b := a + 224640 * n 2
          let d := b + 128 * n 3
          let e := d + 64 * n 4
          let chunk := fun (at_ len k : Nat) => (List.range k).mapM (fun j => s.areaGet part (len / 8) (at_ + len * j) none)
          match chunk a 224640 (n 2), chunk b 128 (n 3), chunk d 64 (n 4), chunk e 8512 (n 5), s.xlatePart part true va .wr with
          | some bl, some re, some de, some ca, .ok _ _ =>
            if !(bl.all (fun w => !(w.drop spillWords).any (·.2)) && re.all (fun w => recOk w 27 [6, 7]) &&
                de.all (fun w => recOk w 12 [5, 6, 7]) && ca.all imageOk) then .error 3
            else if (re ++ de).any (fun w => decide (s.partOf (entryCore w) ≠ some (launchPart lid))) then .error 4
            else .ok ⟨lid, n 6, recd, cores, bl, re.map (fun w => (entryCore w, .ofWords w)),
              de.map (fun w => (entryCore w, .ofWords (w.map (·.1)))), ca.map (imageCapsule (launchPart lid))⟩
          | _, _, _, _, _ => .error 3

/-- Restore a core's local store from its block (R286). -/
def State.restoreCore (s : State) (core : Nat) (ws : List (Word × Bool)) : State :=
  let s := s.lsPut core 0 false (ws.take spillWords)
  let fm := (ws.drop spillWords).map (·.1)
  (List.range spillWords).foldl (fun st k => st.setLsF core (8 * k) (decide (wbits (nthW fm (k / 64)) (k % 64) (k % 64) = 1))) s

/-- A launch that runs on after a resume: as it was suspended, its budget continuing; anew from its record where the device
does not know it. -/
def State.resumed (s : State) (a : SaveArea) : Launch :=
  match mfind a.lid s.saved with
  | some v =>
    { v.launch with susp := false, words := a.recd, next := a.next, wdStart := v.launch.wdStart + (s.cycle - v.launch.susPaused) }
  | none =>
    let part := launchPart a.lid
    let bits := match s.launchTuning part (a.cores.headD 0) (nthW a.recd 1) with
      | .ok ks => costOf ks
      | .error _ => Config.storeBits
    { part := part, lev := wbits (nthW a.recd 3) 17 16, recNo := 0, words := a.recd, bits := bits, next := a.next, last := none
      placing := false, seen := s.cycle, wdStart := s.cycle, wdSent := false, susp := false, susPaused := 0 }

/-- A captured capsule is routed to its stop CUR again, with REPLAY = 1 and HOPS unchanged (R255). -/
def State.replayCapsule (s : State) (c : Capsule) : State :=
  s.route { c with hdr := setH0 (setH0 c.hdr 17 17 1) 42 35 (hHops c.hdr - 1) }

/-- RESUME a launch (R286). -/
def State.resume (s : State) (part va : Nat) (a : SaveArea) : State :=
  let s := (a.cores.zip a.blocks).foldl (fun st e => st.restoreCore e.1 e.2) s
  let (_, s) := s.areaPut part (va + 56) none [(2, false)]
  let s := { s with launches := mset a.lid (s.resumed a) s.launches, saved := mdel a.lid s.saved }
  let s := a.deq.foldl (fun st e => st.pushRec e.1 e.2) s
  let s := a.rest.foldl (fun st e => st.setCore e.1 { st.core e.1 with restart := (st.core e.1).restart ++ [e.2] }) s
  a.caps.foldl (fun st c => st.replayCapsule c) s

/-! ### PDRAIN (R281, R389) -/

/-- The result of a supervisor op goes on its way, to land after what the op has ended (R289), and the slot runs on unless
the op discarded it. -/
def superEnd (x : Ctx) (d : Ix) (code : Nat) (s : State) : OpM Next := fun _ =>
  let y := s.slot x.t
  if y.epoch = x.sl.epoch ∧ y.st = x.sl.st then
    (do
      let dst ← late x d
      modify (fun (st : State) => st.send (.landAfter dst code))
      seqNext).run s
  else .ok (.ended, s)

/-- A slot that a test names lies on a core whose register store is being repacked (R288). -/
def State.repackAmong (s : State) (which : Slot → Tid → Bool) : Bool :=
  s.slots.any (fun e => which e.2 e.1 && s.repacking (coreOf e.1))

/-- A pre-emption or a reset waits until no command that it cancels stands within a unit of its work. -/
def awaitRows (x : Ctx) (which : Cmd → Bool) : OpM Unit :=
  match x.s0.stopRows which with
  | (true, s) => fun _ => .error (.replay false (some s))
  | (false, _) => pure ()

/-- A PDRAIN or PRESET: S mode, then A and B; the operation decides. -/
def superSpec (g : Guard) (d : Ix) (a b : Option Opd) (run : Ctx → Int → Int → OpM Next) : OpSpec where
  g := g
  fields := [d] ++ (a.toList ++ b.toList).map (·.ix)
  kinds := fun x => x.lateOk d && (a.toList ++ b.toList).all (fun q => x.intOk q.ix)
  m := a.toList ++ b.toList
  d := none
  run := fun x => do
    if !x.sl.smode then trap 0x12 1
    if x.sl.isQ d then trapName 0x11 3 d
    let rd := fun (q : Option Opd) => match q with
      | none => (pure (0, false) : OpM (Int × Bool))
      | some q => readInt x q.ix
    let (v, p) ← rd a
    if p then trapName 0x0A 0 ((a.map (·.ix)).getD 0)
    let (w, q) ← rd b
    if q then trapName 0x0A 0 ((b.map (·.ix)).getD 0)
    run x v w

/-- The op names a partition that its slot may not act on (R260). -/
def foreign (x : Ctx) (part : Nat) : Bool := decide (x.part ≠ 0 ∧ part ≠ x.part)

/-- PDRAIN.drain of a launch. -/
def specPdrainDrain (g : Guard) (d : Ix) (a : Opd) : OpSpec := superSpec g d (some a) none (fun x v _ => do
  let lid := umod 32 v
  if foreign x (launchPart lid) then trap 0x12 3
  let s ← get
  match mfind lid s.launches with
  | none => superEnd x d 1 s
  | some l =>
    if l.susp then superEnd x d 1 s
    else do
      if s.repackAmong (fun y _ => y.ofLaunch lid) then replayOp false
      superEnd x d 0 (s.drainLaunch lid))

/-- PDRAIN.drain.part. -/
def specPdrainDrainPart (g : Guard) (d : Ix) (a : Opd) : OpSpec := superSpec g d (some a) none (fun x v _ => do
  if x.part ≠ 0 ∧ v ≠ x.part then trap 0x12 3
  let s ← get
  if v ≤ 0 ∨ 63 < v then superEnd x d 2 s
  else match (s.part v.toNat).cfg with
    | none => superEnd x d 1 s
    | some c => do
      if s.repackAmong (fun _ t => c.has (coreOf t)) then replayOp false
      superEnd x d 0 (s.drainPart v.toNat c))

/-- PDRAIN.save. -/
def specPdrainSave (g : Guard) (d : Ix) (a b : Opd) : OpSpec := superSpec g d (some a) (some b) (fun x v w => do
  let lid := umod 32 v
  let va := umod 64 w
  if foreign x (launchPart lid) then trap 0x12 3
  let s ← get
  if va % 4096 ≠ 0 then superEnd x d 3 s
  else match mfind lid s.launches with
    | none => superEnd x d 1 s
    | some l =>
      if l.susp then superEnd x d 1 s
      else do
        if s.repackAmong (fun y _ => y.ofLaunch lid) then replayOp false
        awaitRows x (fun c => c.bears && decide (c.launch = lid))
        let (code, s) := (← get).saveLaunch x.part va lid l
        superEnd x d code s)

/-- The partition of the launch whose save area lies at a VA, for the check of R260. -/
def State.areaPart (s : State) (part va : Nat) : Option Nat :=
  match s.areaGet part 2 va none with
  | some [m, l] => if m.1.toNat = 0x5A7E * 2 ^ 48 + 2 ^ 40 ∧ !l.2 then some (launchPart l.1.toNat) else none
  | _ => none

/-- PDRAIN.resume. -/
def specPdrainResume (g : Guard) (d : Ix) (b : Opd) : OpSpec := superSpec g d none (some b) (fun x _ w => do
  let va := umod 64 w
  let s ← get
  if (match s.areaPart x.part va with
      | some p => foreign x p
      | none => false) then trap 0x12 3
  if va % 4096 ≠ 0 then superEnd x d 3 s
  else match s.readArea x.part va with
    | .error c => superEnd x d c s
    | .ok a => superEnd x d 0 (s.resume x.part va a))

/-! ### Restart entries (R286) -/

/-- The live-ins of a region entry: every other name is 0 and empty. -/
def State.liveIn (s : State) (t : Tid) (r : Restart) : State :=
  s.modSlot t (fun x => { x with
    start := some r
    names := if !r.expl then x.names else (x.names.zipIdx).map (fun e =>
      match (List.range 8).find? (fun j => decide ((liveIx r.list j).toNat = e.2 + 1)) with
      | none => { e.1 with f := false }
      | some j =>
        let (w, p) := (r.save[j]?).getD (0, false)
        match e.1.kind with
        | .int sg wd _ => { e.1 with vals := [wrapTo sg wd w.toNat], f := true, p := p }
        | .flt k => { e.1 with vals := [((w.toNat % 2 ^ k.width : Nat) : Int)], f := true, p := p }
        | .ivec _ _ _ _ _ => { e.1 with f := false }
        | .fvec _ _ _ => { e.1 with f := false }
        | .queue _ _ => e.1) })

/-- The first restart entry of a core that can go: its tuning fits, or is bad. -/
def State.nextRestart (s : State) (core : Nat) : Option (Nat × Restart) :=
  ((s.core core).restart.zipIdx.find? (fun e =>
    match s.readTuning (s.partNum core) true core e.1.cont.tuning with
    | .error _ => true
    | .ok ks => s.fits core (costOf ks))).map (fun e => (e.2, e.1))

/-- RESTART_ENTRY_START (R286, R440). -/
def execRestartEntryStart (core : Nat) (s : State) : Host.Outcome State Fault Refusal :=
  if s.repacking core || s.headTakes core || (s.core core).offline then .next s
  else match s.freeSlotOf core false, s.nextRestart core with
    | some t, some (i, r) =>
      let k := s.core core
      let s := s.setCore core { k with restart := k.restart.eraseIdx i }
      match s.readTuning (s.partNum core) true core r.cont.tuning with
      | .error e => .next (s.reportRec core r.cont e)
      | .ok ks => .next ((s.startSlot t r.cont.startOf ks).liveIn t r)
    | _, _ => .next s

/-! ### The meanings -/

/-- PDRAIN_DRAIN. -/
def execPdrainDrain (g : Guard) (d : Ix) (a : Opd) (s : State) : Host.Outcome State Fault Refusal :=
  issue (specPdrainDrain g d a) s
/-- PDRAIN_DRAIN_PART. -/
def execPdrainDrainPart (g : Guard) (d : Ix) (a : Opd) (s : State) : Host.Outcome State Fault Refusal :=
  issue (specPdrainDrainPart g d a) s
/-- PDRAIN_SAVE. -/
def execPdrainSave (g : Guard) (d : Ix) (a : Opd) (b : Opd) (s : State) : Host.Outcome State Fault Refusal :=
  issue (specPdrainSave g d a b) s
/-- PDRAIN_RESUME. -/
def execPdrainResume (g : Guard) (d : Ix) (b : Opd) (s : State) : Host.Outcome State Fault Refusal :=
  issue (specPdrainResume g d b) s

end Sys2Proof.Machine
end

