-- ==== Sys2Proof/Machine/Admin.lean ====
section
/-! DEFINITION. The other supervisor ops: SLOTRD, SLOTWR, SLOTKILL, TLBINV, WDSET, PMCFG, PMRD, TRACERD
(spec/12_traps.md R267, R274; spec/20_ref_s.md R407 to R411; spec/21_ref_t_y.md R416 to R418; spec/19_ref_m_r.md R390, R391). -/

namespace Sys2Proof.Machine

/-! ### Another slot (R267, R407 to R411) -/

/-- The slot that a target value names. -/
def tgtTid (v : Word) : Tid := wbits v 15 0

/-- The target's EPOCH is the expected one, or is not asked for. -/
def State.epochOk (s : State) (v : Word) : Bool :=
  decide (wbits v 48 48 = 0) || decide ((s.slot (tgtTid v)).epoch = wbits v 47 32)

/-- Read and check the target of SLOTRD, SLOTWR, SLOTKILL; the value of SLOTWR comes between (R408). -/
def readTarget (x : Ctx) (a : Ix) (between : OpM Unit) (bad : Bool) : OpM Word := do
  let v ← readAddr x a
  between
  let w := BitVec.ofNat 64 (umod 64 v)
  if v < 0 ∨ (2 ^ 49 : Int) ≤ v ∨ wbits w 31 16 ≠ 0 ∨ bad = true then trap 1 1
  if x.part ≠ 0 ∧ x.s0.partOf (tgtTid w / 16) ≠ some x.part then trap 0x12 3
  pure w

/-- SLOTRD. -/
def specSlotrd (g : Guard) (d : Ix) (a : Opd) (sp : SlotSp) (sel : BitVec 8) : OpSpec where
  g := g
  fields := [d, a.ix]
  kinds := fun x => x.lateOk d && x.intOk a.ix
  m := [a]
  d := none
  run := fun x => do
    if !x.sl.smode then trap 0x12 1
    let w ← readTarget x a.ix (pure ()) false
    let dst ← late x d
    modify (fun s => s.send (.slotrd x.t x.part ⟨w, sp, sel.toNat⟩ dst))
    seqNext

/-- SLOTWR: with `.run` a release of every earlier access (R195). -/
def specSlotwr (g : Guard) (d : Ix) (a b : Opd) (sp : SlotSp) (sel : BitVec 8) (run : Bool) : OpSpec where
  g := g
  fields := [d, a.ix, b.ix]
  kinds := fun x => x.lateOk d && x.intOk a.ix && x.intOk b.ix
  m := [a, b]
  d := none
  run := fun x => do
    if !x.sl.smode then trap 0x12 1
    let t ← readAddr x a.ix
    let v ← readAddr x b.ix
    let w := BitVec.ofNat 64 (umod 64 t)
    if t < 0 ∨ (2 ^ 49 : Int) ≤ t ∨ wbits w 31 16 ≠ 0 ∨ (sp = .reg ∧ selValueOk sel.toNat v = false) then trap 1 1
    if x.part ≠ 0 ∧ x.s0.partOf (tgtTid w / 16) ≠ some x.part then trap 0x12 3
    if run then performAll x
    let dst ← late x d
    modify (fun s => s.send (.slotwr x.t x.part ⟨w, sp, sel.toNat⟩ v run dst))
    seqNext

/-- SLOTKILL. -/
def specSlotkill (g : Guard) (d : Ix) (a : Opd) : OpSpec where
  g := g
  fields := [d, a.ix]
  kinds := fun x => x.lateOk d && x.intOk a.ix
  m := [a]
  d := none
  run := fun x => do
    if !x.sl.smode then trap 0x12 1
    let w ← readTarget x a.ix (pure ()) false
    let dst ← late x d
    modify (fun s => s.send (.slotkill x.t x.part w dst))
    seqNext

/-- Issuer and target of a request to a slot. -/
def Req.slotPair : Req → Option (Tid × Tid)
  | .slotrd src _ o _ => some (src, tgtTid o.tgt)
  | .slotwr src _ o _ _ _ => some (src, tgtTid o.tgt)
  | .slotkill src _ t _ => some (src, tgtTid t)
  | _ => none

/-- A request to a slot may act: no repack of its core is under way, and no earlier one of its issuer to that slot. -/
def State.slotReady (s : State) (id : Nat) (r : Req) : Bool :=
  match r.slotPair with
  | none => false
  | some (src, t) => !s.repacking (coreOf t) && s.inflight.all (fun e => decide (id ≤ e.1) || decide (e.2.slotPair ≠ some (src, t)))

/-- The value of a name for SLOTRD (R409). -/
def NameSt.rdValue (n : NameSt) : Nat :=
  match n.kind with
  | .int _ _ _ => umod 64 (n.vals.headD 0)
  | .flt _ => (n.vals.headD 0).toNat
  | .ivec _ _ _ _ _ => 0
  | .fvec _ _ _ => 0
  | .queue _ _ => 0

/-- A scalar name. -/
def NKind.scalar : NKind → Bool
  | .int _ _ _ => true
  | .flt _ => true
  | .ivec _ _ _ _ _ => false
  | .fvec _ _ _ => false
  | .queue _ _ => false

/-- The name that SLOTRD or SLOTWR selects: absent, vector and queue names are none. -/
def Slot.selName (x : Slot) (sel : Nat) : Option NameSt :=
  match x.names[sel - 1]? with
  | none => none
  | some n => if n.kind.scalar then some n else none

/-- The value that SLOTRD returns (R409). -/
def State.slotValue (s : State) (t : Tid) (sp : SlotSp) (sel : Nat) : Nat :=
  let x := s.slot t
  match sp with
  | .reg => (s.selValue t x.pc sel).toNat
  | .nv => ((x.selName sel).map NameSt.rdValue).getD 0
  | .nf => match x.selName sel with
    | none => 4
    | some n => b2n n.f + 2 * b2n n.p

/-- SLOTRD_AT_TARGET (R409). -/
def execSlotrdAtTarget (id : Id) (s : State) : Host.Outcome State Fault Refusal :=
  match mfind id s.inflight with
  | some (.slotrd src part o dst) =>
    if !s.slotReady id (.slotrd src part o dst) then .next s
    else
      let v := if s.epochOk o.tgt then s.slotValue (tgtTid o.tgt) o.sp o.sel else 0
      .next ((s.unsend id).send (.land dst (.int v) false 0))
  | _ => .next s

/-- A name after SLOTWR; none where nothing changes (R410). -/
def NameSt.wrValue (n : NameSt) (sp : SlotSp) (v : Int) : Option NameSt :=
  match sp with
  | .nf =>
    if v < 0 ∨ 3 < v then none
    else some { n with f := decide (v.toNat % 2 = 1), p := decide (v.toNat / 2 % 2 = 1), pend := none }
  | .nv => match n.kind with
    | .int sg w m => (fitInt sg w m v).map (fun y => { n with vals := [y], f := true, p := false, pend := none })
    | .flt k => some { n with vals := [((umod k.width v : Nat) : Int)], f := true, p := false, pend := none }
    | .ivec _ _ _ _ _ => none
    | .fvec _ _ _ => none
    | .queue _ _ => none
  | .reg => none

/-- A slot after SLOTWR's write; none where nothing changes. -/
def Slot.wrSel (x : Slot) (o : SlotOp) (v : Int) : Option Slot :=
  match o.sp with
  | .reg => some (x.setSel o.sel (BitVec.ofNat 64 (umod 64 v)))
  | _ => match x.selName o.sel with
    | none => none
    | some n => (n.wrValue o.sp v).map (fun m => { x with names := x.names.set (o.sel - 1) m })

/-- SLOTWR_AT_TARGET (R410): only a slot parked by a trap is written, and with `.run` it runs on at its PC. -/
def execSlotwrAtTarget (id : Id) (s : State) : Host.Outcome State Fault Refusal :=
  match mfind id s.inflight with
  | some (.slotwr src part o v run dst) =>
    if !s.slotReady id (.slotwr src part o v run dst) then .next s
    else
      let t := tgtTid o.tgt
      let x := s.slot t
      let s := s.unsend id
      match (if x.st = .trapped ∧ s.epochOk o.tgt = true then x.wrSel o v else none) with
      | none => .next (s.send (.land dst (.int 0) false 0))
      | some y => .next ((s.setSlot t (if run then y.run else y)).send (.land dst (.int 1) false 0))
  | _ => .next s

/-- SLOTKILL_AT_TARGET (R411): a capsule that the slot held goes on diverted from its snapshot. -/
def execSlotkillAtTarget (id : Id) (s : State) : Host.Outcome State Fault Refusal :=
  match mfind id s.inflight with
  | some (.slotkill src part w dst) =>
    if !s.slotReady id (.slotkill src part w dst) then .next s
    else
      let t := tgtTid w
      let x := s.slot t
      let s := s.unsend id
      if x.st = .free ∨ s.epochOk w = false then .next (s.send (.land dst (.int 0) false 0))
      else
        let s1 := match s.heldBuf t with
          | none => s.discard t
          | some (b, c) => (((s.freeBufAt (coreOf t) b).discard t)).divert { c.snap with src := some (coreOf t) }
              (capRecord 0x18 t x.pc 0)
        .next (s1.send (.land dst (.int 1) false 0))
  | _ => .next s

/-! ### TLBINV (R416, R417) -/

/-- What a TLBINV removes. -/
inductive TlbSel where
  | page (va : Nat)
  | range (va n : Nat)
  | ctx
  | all
  deriving DecidableEq, Repr

/-- An entry is removed by a TLBINV of a partition. -/
def TEntry.hit (e : TEntry) (part : Nat) : TlbSel → Bool
  | .page va => decide (e.part = part ∧ e.leaf.base ≤ va ∧ va < e.leaf.base + e.leaf.size)
  | .range va n => decide (e.part = part ∧ e.leaf.base < va + n ∧ va < e.leaf.base + e.leaf.size)
  | .ctx => decide (e.part = part)
  | .all => true

/-- The accesses in flight that used an entry that goes are performed (R417). -/
def State.finishUses (s : State) (ls : List Leaf) : State :=
  s.inflight.foldl (fun st e => match e.2.acc with
    | none => st
    | some a => match a.tgt with
      | .mem pa => if ls.any (fun l => decide (l.pa ≤ pa ∧ pa < l.pa + l.size)) then st.drain a.tid else st
      | .ls _ _ => st) s

/-- The accesses through these leaves that are under way, by number: those of slots to a peer's memory, or behind such a one,
and those that engines have asked peers for. -/
def State.usesOf (s : State) (ls : List Leaf) : List Nat :=
  let hit := fun (pa : Nat) => ls.any (fun l => decide (l.pa ≤ pa ∧ pa < l.pa + l.size))
  (s.inflight.filter (fun e => match e.2.acc with
    | none => false
    | some a => match a.tgt with
      | .mem pa => hit pa
      | .ls _ _ => false)).map (·.1) ++
  (s.asked.filter (fun a => a.ans.isNone && match a.req with
    | _ :: w :: _ => hit (0x80000000000000 + a.dev * 2 ^ 42 + w.1.toNat)
    | _ => false)).map (·.tag)

/-- The result 0 of a TLBINV lands once the accesses that used these leaves are performed. -/
def State.landTlb (s : State) (dst : Dst) (ls : List Leaf) : State :=
  match s.usesOf ls with
  | [] => s.send (.land dst (.int 0) false 0)
  | us => s.send (.landUses dst us)

/-- The leaves that a TLBINV removes from the caches. -/
def State.tlbHits (s : State) (part : Nat) (k : TlbSel) : List Leaf :=
  s.clus.flatMap (fun e => (e.2.tcache.filter (fun t => t.hit part k)).map (·.leaf))

/-- Entries go from every cache, walks of the partition under way are discarded (R417). -/
def State.tlbinv (s : State) (part : Nat) (k : TlbSel) : State :=
  let s := s.finishUses (s.tlbHits part k)
  let s := { s with inflight := s.inflight.filter (fun e => match e.2 with
    | .walk _ q _ _ => decide (q ≠ part) && decide (k ≠ TlbSel.all)
    | _ => true) }
  s.clus.foldl (fun st e => st.setClu e.1 { e.2 with tcache := e.2.tcache.filter (fun t => !t.hit part k) }) s

/-- A TLBINV. -/
def tlbSpec (g : Guard) (d : Ix) (a b : Option Opd) (mk : Int → Int → Option TlbSel) (all : Bool) : OpSpec where
  g := g
  fields := [d] ++ (a.toList ++ b.toList).map (·.ix)
  kinds := fun x => x.lateOk d && (a.toList ++ b.toList).all (fun q => x.intOk q.ix)
  m := a.toList ++ b.toList
  d := none
  run := fun x => do
    if !x.sl.smode then trap 0x12 1
    let rd := fun (q : Option Opd) => match q with
      | none => (pure 0 : OpM Int)
      | some q => readAddr x q.ix
    let v ← rd a
    let w ← rd b
    if all && decide (x.part ≠ 0) then trap 0x12 3
    match mk v w with
    | none => do
      let dst ← late x d
      landLater dst 1
    | some k => do
      if x.s0.unperformed x.t .sys then replayOp false
      let dst ← late x d
      modify (fun s => (s.tlbinv x.part k).landTlb dst (s.tlbHits x.part k))
    seqNext

/-- A canonical VA of an operand. -/
def vaOf (v : Int) : Option Nat := let u := umod 64 v; if canonical u then some u else none

/-- TLBINV.page. -/
def specTlbinvPage (g : Guard) (d : Ix) (a : Opd) : OpSpec :=
  tlbSpec g d (some a) none (fun v _ => (vaOf v).map .page) false
/-- TLBINV.range. -/
def specTlbinvRange (g : Guard) (d : Ix) (a b : Opd) : OpSpec :=
  tlbSpec g d (some a) (some b) (fun v w => if w < 1 ∨ (2 ^ 56 : Int) ≤ w then none else (vaOf v).map (.range · w.toNat)) false
/-- TLBINV.ctx. -/
def specTlbinvCtx (g : Guard) (d : Ix) : OpSpec := tlbSpec g d none none (fun _ _ => some .ctx) false
/-- TLBINV.all. -/
def specTlbinvAll (g : Guard) (d : Ix) : OpSpec := tlbSpec g d none none (fun _ _ => some .all) true

/-! ### WDSET (R274) -/

/-- WDSET. -/
def specWdset (g : Guard) (d : Ix) (a b : Opd) : OpSpec where
  g := g
  fields := [d, a.ix, b.ix]
  kinds := fun x => x.intOk d && x.intOk a.ix && x.intOk b.ix
  m := [a, b]
  d := none
  run := fun x => do
    if !x.sl.smode then trap 0x12 1
    let v ← readAddr x a.ix
    let w ← readAddr x b.ix
    let p := umod 6 v
    if foreign x p then trap 0x12 3
    let lev := umod 10 v / 256
    if v ≠ ((p + 256 * lev : Nat) : Int) ∨ w < 0 ∨ (2 ^ 32 : Int) ≤ w then writeInt x d 2 false
    else
      modify (fun s => s.modQ p lev (fun q => { q with wdBudget := w.toNat, wdSince := s.cycle, wdSent := false }))
      writeInt x d 0 false
    seqNext

/-! ### Counters (R308, R390, R391) -/

/-- The counter that a selector value names: unit and index; ILLEGAL_OP for a bad layout, PRIV for a foreign unit. -/
def ctrSel (x : Ctx) (v : Int) : OpM (Nat × Nat × Nat) := do
  let u := umod 64 v
  let k := u / 4
  let unit := u % 4
  if v < 0 ∨ (2 ^ 7 : Int) ≤ v ∨ unit = 3 ∨ (unit ≠ 2 ∧ 7 < k) then trap 1 1
  if unit = 1 ∧ x.s0.samePart (8 * x.clu) x.core = false then trap 0x12 3
  if unit = 2 ∧ x.part ≠ 0 then trap 0x12 3
  pure (unit, match unit with
    | 0 => x.core
    | 1 => x.clu
    | _ => qtrOf x.core, k)

/-- An event that is assigned (R308; spec/14_objects.md gives 0x007). -/
def evtOk (e : Nat) : Bool :=
  decide (1 ≤ e ∧ e ≤ 7) || decide (0x10 ≤ e ∧ e ≤ 0x12) || decide (0x20 ≤ e ∧ e ≤ 0x23)

/-- PMCFG. -/
def specPmcfg (g : Guard) (a b : Opd) (zero : Bool) : OpSpec where
  g := g
  fields := [a.ix, b.ix]
  kinds := fun x => x.isInt a.ix && x.isInt b.ix
  m := [a, b]
  d := none
  run := fun x => do
    if !x.sl.smode then trap 0x12 1
    let v ← readAddr x a.ix
    let (unit, idx, k) ← ctrSel x v
    let w ← readAddr x b.ix
    let c := asWord w
    if wbits c 59 10 ≠ 0 ∨ wbits c 61 60 = 3 ∨ evtOk (wbits c 9 0) = false then trap 1 1
    modify (fun s =>
      let o := s.ctr unit idx k
      s.setCtr unit idx k {
        en := decide (wbits c 62 62 = 1), modef := wbits c 61 60, evt := wbits c 9 0
        ovf := o.ovf && decide (wbits c 63 63 = 0), count := if zero then 0 else o.count
        old := some (s.cycle, o.cfgAt s.cycle) })
    seqNext

/-- The configuration word of a counter. -/
def Ctr.word (c : Ctr) : Nat := b2n c.ovf * 2 ^ 63 + b2n c.en * 2 ^ 62 + c.modef % 4 * 2 ^ 60 + c.evt % 1024

/-- PMRD: a cycle count leaves out the cycle of its own turn, which time has counted already (R391). -/
def specPmrd (g : Guard) (d : Ix) (a : Opd) (cfg : Bool) : OpSpec where
  g := g
  fields := [d, a.ix]
  kinds := fun x => x.intOk d && x.isInt a.ix
  m := [a]
  d := none
  run := fun x => do
    if !x.sl.smode then trap 0x12 1
    let v ← readAddr x a.ix
    let (unit, idx, k) ← ctrSel x v
    let c := x.s0.ctr unit idx k
    let now := if unit = 0 ∧ c.counts x.s0.cycle 1 true = true then 1 else 0
    writeInt x d (if cfg then (c.word : Int) else ((umod 48 ((c.count : Int) - now) : Nat) : Int)) false
    seqNext

/-! ### TRACERD (R418) -/

/-- The entry of a ring as a partition sees it: the n-th most recent, word 0 or 1. -/
def State.traceSeen (s : State) (bank part n w : Nat) : Nat :=
  match (s.bank bank).ring[n]? with
  | none => 0
  | some e =>
    let src := wbits e.1 57 56
    if decide (part = 0) || (decide (src ≤ 1) && decide (s.partOf (wbits e.2 63 48 / 16) = some part)) then
      (if w = 0 then e.1 else e.2).toNat
    else 0

/-- TRACERD: with B an entry, without it the count LOGGED. -/
def specTracerd (g : Guard) (d : Ix) (a : Opd) (b : Option Opd) : OpSpec where
  g := g
  fields := [d, a.ix] ++ b.toList.map (·.ix)
  kinds := fun x => x.lateOk d && x.intOk a.ix && b.toList.all (fun q => x.intOk q.ix)
  m := a :: b.toList
  d := none
  run := fun x => do
    if !x.sl.smode then trap 0x12 1
    let v ← readAddr x a.ix
    let w ← match b with
      | none => (pure 0 : OpM Int)
      | some q => readAddr x q.ix
    if v < 0 ∨ (2 ^ 18 : Int) ≤ v ∨ w < 0 ∨ (2 ^ 9 : Int) ≤ w then trap 1 1
    let q := v.toNat / 4096
    if q ≠ 0 ∧ x.part ≠ 0 then trap 0x12 3
    let view := if q = 0 then x.part else q
    let bank := v.toNat % 4096
    let dst ← late x d
    let s ← get
    landLater dst (match b with
      | none => mget 0 view (s.bank bank).logged
      | some _ => s.traceSeen bank view (w.toNat / 2) (w.toNat % 2) : Nat)
    seqNext

/-! ### The meanings -/

/-- SLOTRD. -/
def execSlotrd (g : Guard) (d : Ix) (a : Opd) (sp : SlotSp) (sel : BitVec 8) (s : State) : Host.Outcome State Fault Refusal :=
  issue (specSlotrd g d a sp sel) s
/-- SLOTWR. -/
def execSlotwr (g : Guard) (d : Ix) (a : Opd) (b : Opd) (sp : SlotSp) (sel : BitVec 8) (run : Bool) (s : State) : Host.Outcome State Fault Refusal :=
  issue (specSlotwr g d a b sp sel run) s
/-- SLOTKILL. -/
def execSlotkill (g : Guard) (d : Ix) (a : Opd) (s : State) : Host.Outcome State Fault Refusal :=
  issue (specSlotkill g d a) s
/-- TLBINV_PAGE. -/
def execTlbinvPage (g : Guard) (d : Ix) (a : Opd) (s : State) : Host.Outcome State Fault Refusal :=
  issue (specTlbinvPage g d a) s
/-- TLBINV_RANGE. -/
def execTlbinvRange (g : Guard) (d : Ix) (a : Opd) (b : Opd) (s : State) : Host.Outcome State Fault Refusal :=
  issue (specTlbinvRange g d a b) s
/-- TLBINV_CTX. -/
def execTlbinvCtx (g : Guard) (d : Ix) (s : State) : Host.Outcome State Fault Refusal :=
  issue (specTlbinvCtx g d) s
/-- TLBINV_ALL. -/
def execTlbinvAll (g : Guard) (d : Ix) (s : State) : Host.Outcome State Fault Refusal :=
  issue (specTlbinvAll g d) s
/-- WDSET. -/
def execWdset (g : Guard) (d : Ix) (a : Opd) (b : Opd) (s : State) : Host.Outcome State Fault Refusal :=
  issue (specWdset g d a b) s
/-- PMCFG. -/
def execPmcfg (g : Guard) (a : Opd) (b : Opd) (zero : Bool) (s : State) : Host.Outcome State Fault Refusal :=
  issue (specPmcfg g a b zero) s
/-- PMRD. -/
def execPmrd (g : Guard) (d : Ix) (a : Opd) (cfg : Bool) (s : State) : Host.Outcome State Fault Refusal :=
  issue (specPmrd g d a cfg) s
/-- TRACERD. -/
def execTracerd (g : Guard) (d : Ix) (a : Opd) (b : Option Opd) (s : State) : Host.Outcome State Fault Refusal :=
  issue (specTracerd g d a b) s

end Sys2Proof.Machine
end

