-- ==== Sys2Proof/Machine/Preset.lean ====
section
/-! DEFINITION. Partition control blocks and PRESET (spec/12_traps.md R269 to R272; spec/19_ref_m_r.md R393). -/

namespace Sys2Proof.Machine

/-! ### Control blocks (R270) -/

/-- The configuration that the 16 words of a control block give; none where they fail R270. -/
def parsePcb (ws : List Word) : Option Pcb :=
  let w := nthW ws
  let g : Pcb := {
    ncm1 := wbits (w 0) 47 36, first := wbits (w 0) 35 24, trapc := wbits (w 0) 23 12, wle := wbits (w 0) 11 7
    fpe := BitVec.ofNat 5 (wbits (w 0) 6 2), rsv := decide (wbits (w 0) 1 1 = 1), capen := decide (wbits (w 0) 0 0 = 1)
    wm1 := wbits (w 1) 3 0, croot := (w 2).toNat, sroot := (w 3).toNat, fdt := w 4, lqb := w 5, ovf := w 6, htab := w 7
    ptab := w 8, dsink0 := w 9, dsink1 := w 10, svec := w 11, raw := ws }
  if wbits (w 0) 63 48 = 0x9A7E ∧ wbits (w 1) 63 4 = 0 ∧ (ws.drop 12).all (fun v => decide (v = 0)) ∧
      g.first + g.ncm1 ≤ 4095 ∧ g.first ≤ g.trapc ∧ g.trapc ≤ g.first + g.ncm1 ∧ 10 ≤ g.wle ∧ g.wle ≤ 30 ∧
      g.croot % 65536 = 0 ∧ g.sroot % 65536 = 0 ∧ g.fdt.toNat % 131072 = 0 ∧ g.lqb.toNat % 256 = 0 ∧
      g.ovf.toNat % 65536 = 0 ∧ g.htab.toNat % 1024 = 0 ∧ g.ptab.toNat % 32768 = 0 ∧ g.svec.toNat % 4 = 0 ∧
      (if g.capen then wbits g.dsink0 63 60 = 5 ∧ stopOk g.dsink0 g.dsink1 = true
       else g.ptab = 0 ∧ g.dsink0 = 0 ∧ g.dsink1 = 0) then some g else none

/-! ### The launch-queue block (R102) -/

/-- The PA of a header under a configuration: in the common store, readable and writable in S mode. -/
def State.headerPa (s : State) (g : Pcb) (va : Nat) : Option Nat :=
  if !canonical va then none
  else match s.walkFrom (if inSys va then g.sroot else g.croot) va with
    | .error _ => none
    | .ok l => match throughLeaf l va true .rw with
      | .ok pa _ => if isCommon pa then some pa else none
      | .miss => none
      | .fault _ _ => none

/-- The PAs of the four headers; none where one cannot be used, an empty list where there is no block. -/
def State.headerPas (s : State) (g : Pcb) : Option (List Nat) :=
  if g.lqb = 0 then some [] else [0, 1, 2, 3].mapM (fun k => s.headerPa g (g.lqb.toNat + 64 * k))

/-! ### Reset of a partition (R271) -/

/-- A core as PRESET leaves it; its counters are kept, and it stays offline until its test (R292). -/
def Core.cleared (c : Core) : Core :=
  { Core.reset with ctrs := c.ctrs, lastSeek := c.lastSeek, offline := c.offline, failing := c.failing }

/-- Entries of a sparse map whose index does not fall in a core of a set. -/
def keepOut {α : Type} (cores : List Nat) (per : Nat) (m : SMap α) : SMap α :=
  m.filter (fun e => !cores.contains (e.1 / per))

/-- Every core of a set is cleared: slots free, semaphores, queues, ports, deques and buffers empty, local stores zero. -/
def State.clearCores (s : State) (cores : List Nat) : State :=
  let s := cores.foldl (fun st c => (coreTids c).foldl (fun st t => st.freeSlot t) (st.setCore c (st.core c).cleared)) s
  { s with
    lmem := keepOut cores 262144 s.lmem, lf := keepOut cores 32768 s.lf, lp := keepOut cores 32768 s.lp
    inflight := s.inflight.filter (fun e => match e.2 with
      | .push _ _ c _ _ _ => !cores.contains c
      | .msg m => !cores.contains m.dst
      | .capCore c _ _ => !cores.contains c
      | _ => true) }

/-- The accumulator sets and maps of the clusters whose core 0 lies in a set go; the partition's cached translations and
Pegbox tables go everywhere. -/
def State.clearClus (s : State) (p : Nat) (cores : List Nat) : State :=
  { s with
    clus := s.clus.map (fun e =>
      let k := { e.2 with tcache := e.2.tcache.filter (fun t => decide (t.part ≠ p)), peg := e.2.peg.filter (fun t => decide (t.part ≠ p)) }
      (e.1, if cores.contains (8 * e.1) then { k with acc0 := .reset, acc1 := .reset } else k))
    inflight := s.inflight.filter (fun e => match e.2 with
      | .walk _ q _ _ => decide (q ≠ p)
      | _ => true)
    banks := s.banks.map (fun e => (e.1, { e.2 with logged := mput 0 p 0 e.2.logged })) }

/-- Entries that have become the reset value are not listed. -/
def State.tidy (s : State) : State :=
  { s with
    clus := s.clus.filter (fun e => decide (e.2 ≠ Cluster.reset)), banks := s.banks.filter (fun e => decide (e.2 ≠ Bank.reset)) }

/-- Apply a configuration (R271): LAUNCHIDs start anew, watchdogs are disarmed, and the headers' HEAD, TAIL, ESEQ and ECODE
become 0. -/
def State.applyPcb (s : State) (p : Nat) (new : Option Pcb) (pas : List Nat) : State :=
  let q := fun k => { LQueue.reset with pa := (pas[k]?).getD 0 }
  let s := match new with
    | none => s.setPart p Part.reset
    | some g => s.setPart p { Part.reset with cfg := some g, q0 := q 0, q1 := q 1, q2 := q 2, q3 := q 3 }
  pas.foldl (fun st pa => ((st.putWord (pa + 16) 0).putWord (pa + 24) 0).putWord (pa + 32) 0) s

/-- PRESET tests an offline core (R292): a core that passes comes back. -/
def State.testCore (s : State) (core : Nat) : State :=
  if (s.core core).offline then
    { s with free := s.free + 1 }.setCore core { s.core core with offline := !Config.coreTest s.free }
  else s

/-- PRESET tests the offline cores of its core set: whether all of them are good now (R292). -/
def State.testCores (s : State) (cores : List Nat) : Bool × State :=
  let s := cores.foldl State.testCore s
  (cores.all (fun c => !(s.core c).offline), s)

/-- Everything that PRESET does once its checks have passed (R271). -/
def State.preset (s : State) (p : Nat) (new : Option Pcb) (pas : List Nat) : State :=
  let old := (s.part p).cfg
  let s := match old with
    | some g => s.drainPart p g
    | none => s
  let cores := ((old.map Pcb.cores).getD [] ++ (new.map Pcb.cores).getD [])
  (((s.clearCores cores).clearClus p cores).tidy).applyPcb p new pas

/-! ### PRESET (R271, R393) -/

/-- The cores of a configuration meet those of another partition. -/
def State.overlaps (s : State) (p : Nat) (g : Pcb) : Bool :=
  s.parts.any (fun e => decide (e.1 ≠ p) && match e.2.cfg with
    | none => false
    | some h => decide (g.first ≤ h.first + h.ncm1 ∧ h.first ≤ g.first + g.ncm1))

/-- PRESET changes nothing while a core of the partition repacks, or a drain of it stands within a row (R280, R159). -/
def awaitPart (x : Ctx) (p : Nat) : OpM Unit := do
  let s ← get
  if s.repackAmong (fun _ t => decide (s.partOf (coreOf t) = some p)) then replayOp false
  awaitRows x (fun c => decide (c.part = p))

/-- The checks of PRESET from the new configuration on, and its effect. A core that fails its test leaves the partition
without a configuration (R292; log entry 31). -/
def presetEnd (x : Ctx) (d : Ix) (p : Nat) (new : Option Pcb) : OpM Next := do
  let s ← get
  match new with
  | none => do
    awaitPart x p
    superEnd x d 0 ((← get).preset p none [])
  | some g =>
    if s.overlaps p g then superEnd x d 4 s
    else match s.headerPas g with
      | none => superEnd x d 3 s
      | some pas => do
        awaitPart x p
        let (good, s) := (← get).testCores g.cores
        if good then superEnd x d 0 (s.preset p (some g) pas) else superEnd x d 4 (s.preset p none [])

/-- PRESET. -/
def specPreset (g : Guard) (d : Ix) (a b : Opd) : OpSpec where
  g := g
  fields := [d, a.ix, b.ix]
  kinds := fun x => x.lateOk d && x.intOk a.ix && x.intOk b.ix
  m := [a, b]
  d := none
  run := fun x => do
    if !x.sl.smode then trap 0x12 1
    if x.part ≠ 0 then trap 0x12 3
    if x.sl.isQ d then trapName 0x11 3 d
    let p ← readAddr x a.ix
    if p ≤ 0 ∨ 63 < p then superEnd x d 2 (← get)
    else do
      let w ← readAddr x b.ix
      let s ← get
      let va := umod 64 w
      if va = 0 then presetEnd x d p.toNat none
      else if va % 128 ≠ 0 then superEnd x d 3 s
      else match s.devWords x.part true va 16 with
        | .error _ => superEnd x d 3 s
        | .ok ws => match parsePcb ws with
          | none => superEnd x d 3 s
          | some g => presetEnd x d p.toNat (some g)

/-- PRESET.keep. -/
def specPresetKeep (g : Guard) (d : Ix) (a : Opd) : OpSpec where
  g := g
  fields := [d, a.ix]
  kinds := fun x => x.lateOk d && x.intOk a.ix
  m := [a]
  d := none
  run := fun x => do
    if !x.sl.smode then trap 0x12 1
    if x.part ≠ 0 then trap 0x12 3
    if x.sl.isQ d then trapName 0x11 3 d
    let p ← readAddr x a.ix
    let s ← get
    if p ≤ 0 ∨ 63 < p then superEnd x d 2 s
    else match (s.part p.toNat).cfg with
      | none => superEnd x d 1 s
      | some g => presetEnd x d p.toNat (some g)

/-! ### The meanings -/

/-- PRESET. -/
def execPreset (g : Guard) (d : Ix) (a : Opd) (b : Opd) (s : State) : Host.Outcome State Fault Refusal :=
  issue (specPreset g d a b) s
/-- PRESET_KEEP. -/
def execPresetKeep (g : Guard) (d : Ix) (a : Opd) (s : State) : Host.Outcome State Fault Refusal :=
  issue (specPresetKeep g d a) s

end Sys2Proof.Machine
end

