-- ==== Sys2Proof/Machine/Errors.lean ====
section
/-! DEFINITION. Faults of the hardware itself: corrected and uncorrectable errors, scrub, a core that goes offline; the
current limiter and the wrap of a counter (spec/13_dependability.md R290 to R292, R307, R308; spec/01_device.md R21). -/

namespace Sys2Proof.Machine

/-! ### Sites (R291) -/

/-- The quarter whose error counters count a fault at a site (log entry 46). -/
def siteQuarter : ErrSite → Nat
  | .mem pa => bankOf pa / 1024
  | .lstore core _ => qtrOf core
  | .name tid _ => qtrOf (coreOf tid)
  | .slotState tid => qtrOf (coreOf tid)
  | .queue core _ _ => qtrOf core
  | .deque core _ => qtrOf core
  | .tcache cl => cl / 128
  | .acc cl _ _ _ => cl / 128
  | .capsule core _ _ => qtrOf core
  | .inbound core _ => qtrOf core
  | .logic core => qtrOf core
  | .hostLink => 0

/-- The cores that a control fault at a site takes offline; a cluster's tags and maps serve its eight cores (log entry 46). -/
def siteHits : ErrSite → List Nat
  | .mem _ => []
  | .lstore _ _ => []
  | .name _ _ => []
  | .slotState tid => [coreOf tid]
  | .queue core _ _ => [core]
  | .deque core _ => [core]
  | .tcache cl => (List.range 8).map (8 * cl + ·)
  | .acc _ _ _ _ => []
  | .capsule core _ _ => [core]
  | .inbound core _ => [core]
  | .logic core => [core]
  | .hostLink => []

/-- The site lies in this device. -/
def siteHere : ErrSite → Bool
  | .mem pa => isDev pa
  | .lstore core off => decide (core < Config.cores ∧ off < Config.lsBytes)
  | .name tid _ => decide (coreOf tid < Config.cores)
  | .slotState tid => decide (coreOf tid < Config.cores)
  | .queue core q _ => decide (core < Config.cores ∧ q < 32)
  | .deque core _ => decide (core < Config.cores)
  | .tcache cl => decide (cl < Config.clusters)
  | .acc cl set row col => decide (cl < Config.clusters ∧ set < 2 ∧ row < 256 ∧ col < 256)
  | .capsule core buf _ => decide (core < Config.cores ∧ buf < 4)
  | .inbound core _ => decide (core < Config.cores)
  | .logic core => decide (core < Config.cores)
  | .hostLink => true

/-! ### A core goes offline (R292) -/

/-- A launch has a slot, a record, a command or a capsule on a core. -/
def State.launchOn (s : State) (core lid : Nat) (l : Launch) : Bool :=
  let c := s.core core
  s.slots.any (fun e => decide (coreOf e.1 = core) && e.2.ofLaunch lid) ||
  (c.deque ++ c.overflow ++ c.restart.map (·.cont)).any (fun r => decide (r.launch = lid)) ||
  s.inflight.any (fun e => match e.2 with
    | .took t _ r => decide (coreOf t = core ∧ r.launch = lid)
    | _ => false) ||
  s.cmds.any (fun e => e.2.bears && decide (e.2.core = core ∧ e.2.launch = lid)) ||
  c.capBufs.any (fun b => b.2.snap.ofLaunch l.part lid)

/-- The record of a core that goes offline. -/
def State.offlineRec (s : State) (core : Nat) : TrapRec :=
  { TrapRec.zero 0x0A 0x30 (s.partNum core) s.cycle with addr := BitVec.ofNat 64 core }

/-- The launches that a core's failure ends. -/
def State.launchesOn (s : State) (core : Nat) : List Nat := (s.launches.filter (fun e => s.launchOn core e.1 e.2)).map (·.1)

/-- A repack is under way on a core, or on one where a slot must be discarded that bears one of its launches (R280). -/
def State.repackNear (s : State) (core : Nat) : Bool :=
  s.repacking core || (s.launchesOn core).any (fun l => s.repackAmong (fun x _ => x.ofLaunch l))

/-- The searches of a core end where they stand: it takes no more work. -/
def State.dropSeeks (s : State) (core : Nat) : State :=
  s.inflight.foldl (fun st e => match e.2 with
    | .probe t _ _ _ => if coreOf t = core then (st.unsend e.1).freeSlot t else st
    | _ => st) s

/-- A core goes offline, once no such repack is under way: its launches are drained, its searches end, its waiting messages are
dropped, and partition 0 gets the record. -/
def State.goOffline (s : State) (core : Nat) : State :=
  if (s.core core).offline then s
  else if s.repackNear core then s.setCore core { s.core core with failing := true }
  else
    let lids := s.launchesOn core
    let s := s.setCore core { s.core core with offline := true, failing := false }
    let s := (lids.foldl (fun st l => st.drainLaunch l) s).dropSeeks core
    let s := s.setCore core { s.core core with inTrap := [], inMsg := [] }
    s.sendTrap 0 (s.offlineRec core)

/-- CORE_OFFLINE (R292). -/
def execCoreOffline (core : Nat) (s : State) : Host.Outcome State Fault Refusal :=
  .next (if core < Config.cores then s.goOffline core else s)

/-! ### Errors (R290, R291) -/

/-- Poison the words of the 128-byte line of a physical address. -/
def State.poisonLine (s : State) (pa : Nat) : State :=
  (List.range 16).foldl (fun st k => st.putP (.mem (floorTo pa 128 + 8 * k)) true) s

/-- Poison every element of a column of an accumulator set (R150). -/
def AccSet.poisonCol (a : AccSet) (col : Nat) : AccSet :=
  { a with psn := (List.range 256).foldl (fun m r => mput false (256 * r + col) true m) a.psn }

/-- The data of a site becomes poisoned (R291). -/
def State.poisonSite (s : State) : ErrSite → State
  | .mem pa => s.poisonLine pa
  | .lstore core off => s.setLsP core off true
  | .name tid ix => s.modSlot tid (fun x => { x with names := x.names.modify (ix - 1) (fun n => { n with p := true }) })
  | .acc cl set _ col =>
    let c := s.clu cl
    s.setClu cl (if set = 0 then { c with acc0 := c.acc0.poisonCol col } else { c with acc1 := c.acc1.poisonCol col })
  | .slotState _ => s
  | .queue _ _ _ => s
  | .deque _ _ => s
  | .tcache _ => s
  | .capsule _ _ _ => s
  | .inbound _ _ => s
  | .logic _ => s
  | .hostLink => s

/-- Eight words that the spec leaves open. -/
def State.freeRec (s : State) : List Word × State :=
  (List.range 8).foldl (fun (a : List Word × State) _ => let (w, st) := a.2.freeVal; (a.1 ++ [w], st)) ([], s)

/-- UNCORRECTABLE_ERROR (R291): data is poisoned, a control fault takes its core offline, a fault of the host link is reported
to the host (R304). -/
def execUncorrectableError (site : ErrSite) (s : State) : Host.Outcome State Fault Refusal :=
  if !siteHere site then .next s
  else
    let s := s.count 2 (siteQuarter site) 0x22 false 1
    let s := (siteHits site).foldl (fun st c => st.goOffline c) (s.poisonSite site)
    match site with
    | .hostLink => let (ws, s) := s.freeRec; .next (s.reportHost ws)
    | _ => .next s

/-- CORRECTED_ERROR (R291): no value, F or P bit changes; the error is counted. -/
def execCorrectedError (site : ErrSite) (s : State) : Host.Outcome State Fault Refusal :=
  .next (if siteHere site then s.count 2 (siteQuarter site) 0x21 false 1 else s)

/-- SCRUB (R290): reads storage and changes nothing; what it finds is a CORRECTED_ERROR or an UNCORRECTABLE_ERROR. -/
def execScrub (_site : ErrSite) (s : State) : Host.Outcome State Fault Refusal := .next s

/-! ### The current limiter (R21, R307) -/

/-- The limiter of a quarter is engaged or not, from the next rotation on: every slot of the quarter loses a turn to a
rotation that it inserts, or none does. -/
def Quarter.setLimit (q : Quarter) (rot : Nat) (b : Bool) : Quarter :=
  { q with was := if rot < q.limAt then q.was else q.limit, limit := b, limAt := rot + 1 }

/-- Engage or release the limiter of a quarter. -/
def State.setLimit (s : State) (q : Nat) (b : Bool) : State :=
  if (s.qtr q).limit = b then s else s.setQtr q ((s.qtr q).setLimit (s.cycle / 16) b)

/-- CURRENT_LIMITER_ENGAGE (R307): from the next rotation on one in two is empty. -/
def execCurrentLimiterEngage (quarter : Nat) (s : State) : Host.Outcome State Fault Refusal :=
  .next (if quarter < 4 then s.setLimit quarter true else s)

/-- CURRENT_LIMITER_RELEASE (R307). -/
def execCurrentLimiterRelease (quarter : Nat) (s : State) : Host.Outcome State Fault Refusal :=
  .next (if quarter < 4 then s.setLimit quarter false else s)

/-! ### Counters (R308) -/

/-- A counter that has reached 2^48 wraps and sets OVF. -/
def Ctr.wrap (c : Ctr) : Ctr := if 2 ^ 48 ≤ c.count then { c with count := c.count % 2 ^ 48, ovf := true } else c

/-- COUNTER_WRAP (R308). -/
def execCounterWrap (unit idx ctr : Nat) (s : State) : Host.Outcome State Fault Refusal :=
  .next (s.setCtr unit idx ctr (s.ctr unit idx ctr).wrap)

end Sys2Proof.Machine
end

