-- ==== Sys2Proof/Machine/Peers.lean ====
section
/-! DEFINITION. Peer ports: flits that arrive, acknowledgement and replay, a port that goes down and comes back
(spec/13_dependability.md R294 to R298; spec/11_capsules.md R240). Log entry 44 gives the payload layout, log entry 47 what
the spec leaves open about sequence numbers, acknowledgements and replay. -/

namespace Sys2Proof.Machine

/-! ### Acknowledgement and replay (R297) -/

/-- Flits of a replay count on the quarter of the port's number / 9 (log entry 47). -/
def portQuarter (port : Nat) : Nat := port / 9

/-- Cycles without an acknowledgement after which a sender replays: 2 µs. -/
def replayCycles : Nat := 2 * Config.cyclesPerUs

/-- Replays of one flit after which, without success, its port goes down (R298). -/
def maxReplays : Nat := 8

/-- The acknowledgement that a port sends: the last sequence number it has received in order. -/
def Port.ackFlit (p : Port) (me : Nat) : Flit := ⟨p.txSeq, 5, p.ackNo, me, p.peer, 0, []⟩

/-- Acknowledge what has been received in order. -/
def Port.acknowledge (p : Port) (me : Nat) : Port := p.put (p.ackFlit me)

/-- Refuse a flit: the sender is told what was received in order, unless that is the last thing it was told. -/
def Port.refuse (p : Port) (me : Nat) : Port := if p.wire.head? = some (p.ackFlit me) then p else p.acknowledge me

/-- An acknowledgement up to a sequence number: the flits it covers leave the replay buffer, and flits that wait take their
room. -/
def Port.acked (p : Port) (ack cyc : Nat) : Port :=
  match p.unacked.findIdx? (fun k => decide (k.flit.seq = ack)) with
  | none => p
  | some i => { p with unacked := p.unacked.drop (i + 1), since := cyc }.fill cyc

/-- The oldest flit that is not acknowledged has been replayed as often as it may be. -/
def Port.spent (p : Port) : Bool :=
  match p.unacked with
  | [] => false
  | k :: _ => decide (maxReplays ≤ k.replays)

/-- Send again every flit that is not acknowledged, in their order. -/
def Port.again (p : Port) (cyc : Nat) : Port :=
  let ks := p.unacked.map (fun k => { k with replays := k.replays + 1, flit := { k.flit with ack := p.ackNo } })
  ks.foldl (fun q k => q.put k.flit) { p with unacked := ks, since := cyc }

/-- A port goes down (R298): the flits that are not acknowledged, and those behind them, are resent on another port to the same
peer, in their order. -/
def State.portDown (s : State) (port : Nat) : State :=
  let p := s.port port
  if p.up then
    (p.unacked ++ p.queue).foldl (fun st k => st.sendKept { k with replays := 0 })
      (s.setPort port { p with up := false, unacked := [], queue := [] })
  else s

/-- The sender replays from its first flit that is not acknowledged; where that has been replayed in vain, the port goes
down. -/
def State.replay (s : State) (port : Nat) : State :=
  let p := s.port port
  if p.spent then s.portDown port
  else (s.setPort port (p.again s.cycle)).count 2 (portQuarter port) 0x23 false p.unacked.length

/-- 2 µs have passed at a port without an acknowledgement. -/
def State.replayDue (s : State) (port : Nat) : Bool :=
  let p := s.port port
  p.up && !p.unacked.isEmpty && decide (p.since + replayCycles ≤ s.cycle)

/-- REPLAY_TIMEOUT (R297). -/
def execReplayTimeout (port : Nat) (s : State) : Host.Outcome State Fault Refusal :=
  .next (if s.replayDue port then s.replay port else s)

/-! ### A port goes down and comes up (R298) -/

/-- PORT_DOWN (R298): 8 replays without success, or a lane has lost alignment. -/
def execPortDown (port : Nat) (s : State) : Host.Outcome State Fault Refusal := .next (s.portDown port)

/-- The requests and replies that wait at the ports of a peer, all of which are down, by port; they wait there no longer. -/
def State.waiting (s : State) (dev : Nat) : List KeptFlit × State :=
  let here := fun (e : Nat × Port) => !e.2.up && decide (e.2.peer = dev)
  ((s.ports.filter here).flatMap (fun e => e.2.queue),
   (s.ports.filter here).foldl (fun st e => st.setPort e.1 { e.2 with queue := [] }) s)

/-- PORT_RETRAIN (R298): firmware retrains a port that is down; its sequence numbers start anew, and what has waited for the
peer goes out. -/
def execPortRetrain (port : Nat) (s : State) : Host.Outcome State Fault Refusal :=
  let p := s.port port
  .next (if port < 36 ∧ p.up = false then
    let (ks, s) := s.waiting p.peer
    s.setPort port ({ Port.reset with up := true, peer := p.peer, queue := ks }.fill s.cycle)
  else s)

/-! ### Requests of peers (R202, R294, R435) -/

/-- A request of a peer is answered: entries of a set's log (R435), or a read, a write, an atomic or a line
operation of this device's memory, whose tag the reply names. -/
def State.peerRequest (s : State) (dev : Nat) (ws : List (Word × Bool)) : State :=
  let w := fun k => ((ws[k]?).map (·.1)).getD 0
  let part := wbits (w 0) 5 0
  let kind := wbits (w 0) 15 8
  let n := wbits (w 0) 31 16
  if kind = 9 then
    match mfind (setKey part n) s.xsets with
    | none => s.sendPieces dev 2 (xHead part 11 n s.devNum) 0 0 [(0, false)]
    | some x =>
      (List.range (min (w 3).toNat 4096)).foldl (fun st j =>
        st.sendPieces dev 2 (xHead part 8 n s.devNum) ((w 2).toNat + j) 0
          ((x.entry ((w 2).toNat + j)).map (fun v => (v, false)))) s
  else if 16 ≤ kind ∧ kind ≤ 20 then
    let (r, s) := s.serve dev ws
    s.sendPieces dev 2 (xHead 0 kind (wbits (w 0) 47 32) s.devNum) 0 0 r
  else s

/-! ### Payloads -/

/-- A capsule from a peer is whole: it arrives, and belongs to no launch of this device yet (R240). -/
def State.joinCapsule (s : State) (p : XIn) : State :=
  let ps := s.piecesOf 10 p.dev p.key p.lseq s.cycle
  match gatherPieces ps 40 0 with
  | none => s
  | some hd =>
    let hdr := (hd.take 8).map (·.1)
    match gatherPieces ps (hTb hdr / 8) 40 with
    | none => s
    | some tile =>
      let c : Capsule := ⟨hdr, (hd.drop 8).map (·.1), tile, launchPart (hLaunch hdr), false, none⟩
      { s with xin := s.xin.filter (fun q => !decide (q.kind = 10 ∧ q.dev = p.dev ∧ q.lseq = p.lseq)) }.send
        (.capEgress c s.devNum)

/-- The payload of a flit that has been accepted. -/
def State.payload (s : State) (f : Flit) : State :=
  let p := pieceOf f.words f.src s.cycle
  if f.dst ≠ s.devNum then s
  else match f.kind with
    | 1 => s.peerRequest f.src f.words
    | 2 =>
      if 16 ≤ p.kind ∧ p.kind ≤ 20 then s.answer f.src (p.key % 65536) p.words
      else if p.kind = 8 ∨ p.kind = 11 then { s with xin := s.xin ++ [p] } else s
    | 3 => { s with xin := s.xin ++ [p] }.joinCapsule p
    | 4 => { s with xin := s.xin ++ [p] }
    | _ => s

/-- A flit without a sequence number of its own: idle or acknowledgement (log entry 47). -/
def Flit.bare (f : Flit) : Bool := decide (f.kind = 0 ∨ f.kind = 5)

/-- A flit that comes again: it was received in order before (its number lies up to 512 behind). -/
def Port.old (p : Port) (f : Flit) : Bool :=
  let d := (p.rxSeq + 4096 - f.seq % 4096) % 4096
  decide (1 ≤ d ∧ d ≤ replayFlits)

/-- A flit of a port acts on its acknowledgement, and is then accepted, or discarded. An acknowledgement that covers no flit
that waits for one starts a replay. -/
def State.takeFlit (s : State) (port : Nat) (f : Flit) : State :=
  let p := s.port port
  let q := p.acked f.ack s.cycle
  let s := s.setPort port q
  if f.bare then (if f.kind = 5 ∧ q = p ∧ !p.unacked.isEmpty then s.replay port else s)
  else if f.seq = q.rxSeq then
    (s.setPort port ({ q with rxSeq := (q.rxSeq + 1) % 4096 }.acknowledge s.devNum)).payload f
  else if q.old f then s.setPort port (q.acknowledge s.devNum)
  else s.setPort port (q.refuse s.devNum)

/-- FLIT_RECEIVED (R296, R297): 256 bytes arrive at a port that is up. A bad flit is discarded, and the sender is told what
came before it. -/
def execFlitReceived (port : Nat) (bytes : List Byte) (s : State) : Host.Outcome State Fault Refusal :=
  let p := s.port port
  if !p.up then .next s
  else match Flit.of bytes with
    | none => .next (s.setPort port (p.refuse s.devNum))
    | some f => .next (s.takeFlit port f)

end Sys2Proof.Machine
end

