-- ==== Sys2Proof/Machine/Sha.lean ====
section
/-! DEFINITION. SHA-384 (FIPS 180-4), with which the SPDM responder measures partition 0's handler table (R306). -/

namespace Sys2Proof.Machine

/-- The whole root of degree `k` of `n`: its bits from `b` downward, each kept while the power does not pass `n`. -/
def rootBits (k n : Nat) : Nat → Nat → Nat
  | 0, r => r
  | b + 1, r => rootBits k n b (if (r + 2 ^ b) ^ k ≤ n then r + 2 ^ b else r)

/-- The first 64 bits of the fraction of the root of degree `k` of a number below 512. -/
def rootFraction (k n : Nat) : Word := BitVec.ofNat 64 (rootBits k (n * 2 ^ (64 * k)) 70 0)

/-- The first 80 primes. -/
def shaPrimes : List Nat :=
  (List.range 410).filter (fun p => decide (2 ≤ p) && (List.range 21).all (fun d => decide (d < 2 ∨ p ≤ d ∨ p % d ≠ 0)))

/-- The constants of the rounds: from the cube roots of the primes. -/
def shaK : List Word := shaPrimes.map (rootFraction 3)

/-- The hash value to begin with: from the square roots of the ninth to the sixteenth prime. -/
def shaIv : List Word := ((shaPrimes.drop 8).take 8).map (rootFraction 2)

/-- Rotate right. -/
abbrev ror (w : Word) (n : Nat) : Word := w.rotateRight n

/-- Extend a message schedule, newest word first, to as many words more. -/
def shaExtend : Nat → List Word → List Word
  | 0, ws => ws
  | n + 1, ws =>
    let w := fun k => (ws[k]?).getD 0
    let s0 := ror (w 14) 1 ^^^ ror (w 14) 8 ^^^ (w 14 >>> 7)
    let s1 := ror (w 1) 19 ^^^ ror (w 1) 61 ^^^ (w 1 >>> 6)
    shaExtend n ((w 15 + s0 + w 6 + s1) :: ws)

/-- One round on the eight working words, with a constant and a schedule word. -/
def shaRound (v : List Word) (kw : Word × Word) : List Word :=
  match v with
  | [a, b, c, d, e, f, g, h] =>
    let t1 := h + (ror e 14 ^^^ ror e 18 ^^^ ror e 41) + ((e &&& f) ^^^ (~~~e &&& g)) + kw.1 + kw.2
    let t2 := (ror a 28 ^^^ ror a 34 ^^^ ror a 39) + ((a &&& b) ^^^ (a &&& c) ^^^ (b &&& c))
    [t1 + t2, a, b, c, d + t1, e, f, g]
  | _ => v

/-- A block of 16 words changes the hash value. -/
def shaBlock (h : List Word) (ws : List Word) : List Word :=
  let sched := (shaExtend 64 ws.reverse).reverse
  ((shaK.zip sched).foldl shaRound h).zipWith (· + ·) h

/-- The big-endian value of bytes. -/
def beBytes (bs : List Byte) : Nat := leBytes bs.reverse

/-- A message with its padding: 1, zeros, and its length in bits in 16 bytes. -/
def shaPad (m : List Byte) : List Byte :=
  m ++ [0x80] ++ List.replicate ((239 - m.length % 128) % 128) 0 ++ (toBytes 16 (8 * m.length)).reverse

/-- Hash as many blocks of a padded message. -/
def shaBlocks : Nat → List Byte → List Word → List Word
  | 0, _, h => h
  | n + 1, bs, h =>
    let ws := (List.range 16).map (fun k => BitVec.ofNat 64 (beBytes ((bs.drop (8 * k)).take 8)))
    shaBlocks n (bs.drop 128) (shaBlock h ws)

/-- The SHA-384 digest of bytes. -/
def sha384 (m : List Byte) : List Byte :=
  let p := shaPad m
  ((shaBlocks (p.length / 128) p shaIv).take 6).flatMap (fun w => (toBytes 8 w.toNat).reverse)

end Sys2Proof.Machine
end

