-- ==== Sys2Proof/Machine/HostIf.lean ====
section
/-! DEFINITION. The host interface: CXL.mem accesses, machine check records, SPDM, device reset and boot
(spec/13_dependability.md R294, R304 to R306; spec/09_ordering.md R202). -/

namespace Sys2Proof.Machine

/-! ### Accesses of the host (R202, R294) -/

/-- Where the model puts the register block among the places that a host reads (log entry 53). -/
def regBlock : Nat := 2 ^ 56

/-- A word of the register block (R304): DEVID, FWSTAT, MCHKSTAT, the eight words of MCHKREC; nothing else stands there. -/
def State.regWord (s : State) (off : Nat) : Word :=
  if off = 0 then BitVec.ofNat 64 (0x5709 + Config.stepping * 2 ^ 16)
  else if off = 8 then BitVec.ofNat 64 (s.fwstat % 16)
  else if off = 16 then s.mchkstat
  else if 64 ≤ off ∧ off < 128 then nthW s.mchkrec ((off - 64) / 8)
  else 0

/-- A byte that a host reads: of the register block, or of memory. -/
def State.hostByte (s : State) (pa : Nat) : Byte × Bool :=
  if regBlock ≤ pa then
    let off := pa - regBlock
    (BitVec.ofNat 8 ((s.regWord (off / 8 * 8)).toNat / 2 ^ (8 * (off % 8))), false)
  else (Memory.read s.mem pa, s.memPoison pa)

/-- HOST_READ: bytes of memory, each with its word's poison, or of the register block go to the host. -/
def execHostRead (pa n : Nat) (s : State) : Host.Outcome State Fault Refusal :=
  .next (if regBlock ≤ pa || (backed pa && backed (pa + (n - 1))) then
    { s with hostRd := (List.range n).map (fun k => s.hostByte (pa + k)) }
  else s)

/-- Write bytes word by word, each word with the poison of the write as R162 has it. -/
def State.hostPut (s : State) (psn : Bool) : Nat → Nat → List Byte → State
  | 0, _, _ => s
  | f + 1, pa, bs =>
    let k := min bs.length (8 - pa % 8)
    if k = 0 then s
    else (s.memWrite pa k (leBytes (bs.take k)) psn).hostPut psn f (pa + k) (bs.drop k)

/-- HOST_WRITE: bytes of memory change: of the device, of the host's own memory, or those that this device sees in a peer's
window (log entry 15); a host write is never traced (R210). -/
def execHostWrite (pa : Nat) (bytes : List Byte) (psn : Bool) (s : State) : Host.Outcome State Fault Refusal :=
  .next (if backed pa && backed (pa + (bytes.length - 1)) then s.hostPut psn (bytes.length / 8 + 2) pa bytes else s)

/-! ### Machine checks (R265, R304) -/

/-- MACHINE_CHECK_REPORT: the oldest record that waits goes to MCHKREC, MCHKSTAT bit 0 is set, MSI-X vector 0 is raised. -/
def execMachineCheckReport (s : State) : Host.Outcome State Fault Refusal :=
  match s.mchkq with
  | [] => .next s
  | ws :: rest => .next { s with mchkq := rest, mchkrec := ws, mchkstat := 1, msix := s.msix + 1 }

/-- MCHKSTAT_WRITE: a 1 written to bit 0 clears it. -/
def execMchkstatWrite (v : Word) (s : State) : Host.Outcome State Fault Refusal :=
  .next (if v.toNat % 2 = 1 then { s with mchkstat := 0 } else s)

/-! ### SPDM (R306; message formats in log entry 48) -/

/-- Bytes that the spec leaves open. -/
def State.freeBytes (s : State) : Nat → List Byte × State
  | 0 => ([], s)
  | n + 1 =>
    let (w, s) := s.freeVal
    let (bs, s) := s.freeBytes n
    (BitVec.ofNat 8 w.toNat :: bs, s)

/-- A response goes to the mailbox. -/
def State.respond (s : State) (bs : List Byte) : State := { s with spdm := { s.spdm with resp := bs } }

/-- SPDM ERROR with its error code and data. -/
def State.spdmError (s : State) (code data : Nat) : State :=
  s.respond [0x13, 0x7F, BitVec.ofNat 8 code, BitVec.ofNat 8 data]

/-- A header and free bytes. -/
def State.respondFree (s : State) (hd : List Byte) (n : Nat) : State :=
  let (bs, s) := s.freeBytes n
  s.respond (hd ++ bs)

/-- A request that may come only when the connection has come as far as `n`; else ERROR, UnexpectedRequest. -/
def State.spdmAt (s : State) (n : Nat) (f : State → State) : State := if n ≤ s.spdm.state then f s else s.spdmError 4 0

/-- The connection has come as far as `n`. -/
def State.spdmTo (s : State) (n : Nat) : State := { s with spdm := { s.spdm with state := n } }

/-- Byte `k` of a request. -/
def reqByte (req : List Byte) (k : Nat) : Byte := (req[k]?).getD 0

/-- GET_VERSION: version 1.3; the connection starts anew. -/
def execGetVersion (_req : List Byte) (s : State) : Host.Outcome State Fault Refusal :=
  .next ((s.spdmTo 1).respond [0x10, 0x04, 0, 0, 0, 1, 0x00, 0x13])

/-- The device certificate chain in slot 0, of 1 to 65,535 bytes. -/
def certChain : List Byte := (List.range (Config.certLen % 65535 + 1)).map Config.certByte

/-- GET_CAPABILITIES: certificates, challenges, and measurements with signatures; the time exponent and the message sizes are
free bytes. -/
def execGetCapabilities (_req : List Byte) (s : State) : Host.Outcome State Fault Refusal :=
  .next (s.spdmAt 1 (fun s =>
    let (cte, s) := s.freeBytes 1
    (s.spdmTo 2).respondFree ([0x13, 0x61, 0, 0, 0] ++ cte ++ [0, 0, 0x16, 0, 0, 0]) 8))

/-- NEGOTIATE_ALGORITHMS: ECDSA P-384 and SHA-384. -/
def execNegotiateAlgorithms (_req : List Byte) (s : State) : Host.Outcome State Fault Refusal :=
  .next (s.spdmAt 2 (fun s =>
    let (a, s) := s.freeBytes 8
    let (b, s) := s.freeBytes 16
    (s.spdmTo 3).respond ([0x13, 0x63, 0, 0] ++ a ++ [0x80, 0, 0, 0, 0x02, 0, 0, 0] ++ b)))

/-- GET_DIGESTS: the digest of the chain in slot 0. -/
def execGetDigests (_req : List Byte) (s : State) : Host.Outcome State Fault Refusal :=
  .next (s.spdmAt 3 (fun s => s.respond ([0x13, 0x01, 0, 1] ++ sha384 certChain)))

/-- GET_CERTIFICATE: the portion of the chain in slot 0 that is asked for, as far as there is one, and how much remains behind
it. -/
def execGetCertificate (req : List Byte) (s : State) : Host.Outcome State Fault Refusal :=
  .next (s.spdmAt 3 (fun s =>
    let off := (reqByte req 4).toNat + 256 * (reqByte req 5).toNat
    let rest := certChain.length - off
    let k := min ((reqByte req 6).toNat + 256 * (reqByte req 7).toNat) rest
    if reqByte req 2 ≠ 0 ∨ rest = 0 then s.spdmError 1 0
    else s.respond ([0x13, 0x02, 0, 0] ++ toBytes 2 k ++ toBytes 2 (rest - k) ++ (certChain.drop off).take k)))

/-- A measurement block: index, DMTF specification, the digest. -/
def measBlock (k : Nat) (dig : List Byte) : List Byte :=
  [BitVec.ofNat 8 k, 1, 51, 0, BitVec.ofNat 8 (k - 1), 48, 0] ++ dig

/-- Measurement `k` of the three: of the boot ROM, the firmware image, partition 0's handler table. -/
def State.measurement (s : State) (k : Nat) : List Byte := measBlock k ((s.spdm.meas.drop (48 * (k - 1))).take 48)

/-- The measurements that an operation of GET_MEASUREMENTS asks for: none but their number, one, or all; none where it is no
operation. -/
def measAsked (op : Nat) : Option (List Nat) :=
  if op = 0 then some []
  else if op = 0xFF then some [1, 2, 3]
  else if op ≤ 3 then some [op]
  else none

/-- The measurement summary that a CHALLENGE asks for: none, or the digest of all three measurements, which are those of the
trusted base too; none where it is no such request. -/
def State.measSummary (s : State) (op : Nat) : Option (List Byte) :=
  if op = 0 then some []
  else if op = 1 ∨ op = 0xFF then some (sha384 ([1, 2, 3].flatMap s.measurement))
  else none

/-- CHALLENGE: chain digest, nonce, measurement summary, opaque data of no length, the requester's context, signature. -/
def execChallenge (req : List Byte) (s : State) : Host.Outcome State Fault Refusal :=
  .next (s.spdmAt 3 (fun s =>
    match (if reqByte req 2 = 0 then s.measSummary (reqByte req 3).toNat else none) with
    | none => s.spdmError 1 0
    | some sum =>
      let (nonce, s) := s.freeBytes 32
      let (sig, s) := s.freeBytes 96
      s.respond ([0x13, 0x03, 0, 1] ++ sha384 certChain ++ nonce ++ sum ++ [0, 0] ++
        (List.range 8).map (fun k => reqByte req (36 + k)) ++ sig)))

/-- A signature, where the request asks for one. -/
def State.signIf (s : State) (b : Bool) : List Byte × State := if b then s.freeBytes 96 else ([], s)

/-- GET_MEASUREMENTS: the digests asked for, a nonce, the requester's context, and a signature if it is asked for. -/
def execGetMeasurements (req : List Byte) (s : State) : Host.Outcome State Fault Refusal :=
  .next (s.spdmAt 3 (fun s =>
    let op := (reqByte req 3).toNat
    let sign := decide ((reqByte req 2).toNat % 2 = 1)
    match measAsked op with
    | none => s.spdmError 1 0
    | some ks =>
      let n := ks.length
      let (nonce, s) := s.freeBytes 32
      let (sig, s) := s.signIf sign
      let ctx := (List.range 8).map (fun k => reqByte req ((if sign then 37 else 4) + k))
      s.respond ([0x13, 0x60, if op = 0 then 3 else 0, 0, BitVec.ofNat 8 n] ++ toBytes 3 (55 * n) ++
        ks.flatMap s.measurement ++ nonce ++ [0, 0] ++ ctx ++ sig)))

/-- SPDM_SESSION_REQUEST: ERROR, UnsupportedRequest, with the request's code. -/
def execSpdmSessionRequest (req : List Byte) (s : State) : Host.Outcome State Fault Refusal :=
  .next (s.respond [0x13, 0x7F, 0x07, reqByte req 1])

/-! ### Device reset and boot (R295, R305) -/

/-- The device at reset; the model's own fields go on. -/
def State.cold (s : State) : State := { State.reset with free := s.free, inputs := s.inputs }

/-- A refused image: FWSTAT 3, and a record for the host. -/
def State.refuseImage (s : State) : State :=
  let (ws, s) := s.freeRec
  { s with fwstat := 3 }.reportHost ws

/-- The digest of partition 0's handler table, of which the spec says nothing where there is none to read (log entry 48). -/
def State.handlerDigest (s : State) : List Byte × State :=
  match (s.part 0).cfg with
  | none => s.freeBytes 48
  | some g => match (if g.htab = 0 then .error (0, 0) else s.devWords 0 true g.htab.toNat 128) with
    | .error _ => s.freeBytes 48
    | .ok ws => (sha384 (ws.flatMap (fun w => toBytes 8 w.toNat)), s)

/-- What boot measures: boot ROM, image, handler table. -/
def State.measure (s : State) (digest : List Byte) : State :=
  let (b, s) := s.handlerDigest
  { s with spdm := { s.spdm with
    meas := (List.range 48).map Config.romDigest ++ (digest ++ List.replicate 48 0).take 48 ++ b } }

/-- Boot configures partition 0 from a good image: its bytes, its ports, its control block. -/
def State.bootImage (s : State) (m : FwImage) (g : Pcb) : State :=
  let s := { s with
    fwstat := 2, devNum := m.devNum.toNat
    mem := m.mem.foldl (fun c (e : Nat × Byte) => if isDev e.1 then Memory.write c e.1 e.2 else c) s.mem
    ports := (m.peers.take 36).zipIdx.map (fun (e : BitVec 10 × Nat) => (e.2, { Port.reset with up := true, peer := e.1.toNat })) }
  (s.applyPcb 0 (some g) ((s.headerPas g).getD [])).measure m.digest

/-- Boot comes to its end: the image is refused, or a good one configures partition 0. -/
def State.verify (s : State) (img : Option FwImage) : State :=
  match img with
  | none => s.refuseImage
  | some m =>
    if !(m.edOk && m.mlOk) then s.refuseImage
    else match parsePcb m.pcb with
      | none => s.refuseImage
      | some g => s.bootImage m g

/-- What the next step makes of a device that verifies an image. -/
def State.bootEnd (s : State) (img : Option FwImage) : State := { s with boot := none }.verify img

/-- DEVICE_RESET (R304, R305): the device is as at reset, and the boot ROM verifies the image; FWSTAT says so until the next
step, which ends it. -/
def execDeviceReset (img : Option FwImage) (s : State) : Host.Outcome State Fault Refusal :=
  .next { s.cold with fwstat := 1, boot := some img }

end Sys2Proof.Machine
end

