-- ==== Sys2Proof/Machine/Schedule.lean ====
section
/-! DEFINITION. Which event of the device comes next when no input names one: the first event that changes the state, in a
fixed order (log entry 8: the spec fixes no order among events of different units, and an input can name any). -/

namespace Sys2Proof.Machine

/-- An event that may be due: its meaning. -/
abbrev Due := State → Host.Outcome State Fault Refusal

/-- The events of a request in flight. -/
def Req.due (id : Nat) : Req → List Due
  | .read _ _ => [execReadAtOwner id]
  | .write _ _ _ => [execWriteAtOwner id]
  | .atomic _ _ _ _ _ _ _ _ => [execAtomicAtOwner id]
  | .inc _ _ _ => [execInc id]
  | .hdr _ _ _ => [execHdr id]
  | .dec _ _ _ _ _ => [execDec id]
  | .decPrime _ _ _ _ _ _ => [execDecPrime id]
  | .test _ _ => [execTest id]
  | .incAck _ _ _ => [execIncAcknowledgement id]
  | .testReply _ _ _ => [execTestReply id]
  | .decReply _ _ _ => [execDecReply id]
  | .genter _ _ => [execGenterAtBank id]
  | .genterReply _ _ _ _ _ _ => [execGenterReply id]
  | .genterWd _ _ _ _ _ => [execGenterWithdrawal id]
  | .gleave _ _ => [execGleaveAtBank id]
  | .gbar _ _ => [execGbarArrival id]
  | .gsize _ _ => [execGsizeAtBank id]
  | .land _ _ _ _ => [execLandName id]
  | .landAfter _ _ => [execLandName id]
  | .landUses _ _ => [execLandName id]
  | .sfu _ _ _ _ _ _ _ => [execSfuResult id]
  | .slotrd _ _ _ _ => [execSlotrdAtTarget id]
  | .slotwr _ _ _ _ _ _ => [execSlotwrAtTarget id]
  | .slotkill _ _ _ _ => [execSlotkillAtTarget id]
  | .push _ _ _ _ _ _ => [execRemotePush id]
  | .msg _ => [execMessageArrival id]
  | .walk _ _ _ _ => [execTranslationWalk id]
  | .probe _ _ _ vs => [if vs.isEmpty then execSeekProbe id else execDequeTake id]
  | .took t _ _ => [execContinuationStart t]
  | .capCore _ _ _ => [execCapsuleEntry id, execCapsuleWaitTimeout (2 * id)]
  | .capBank _ => [execBankStop id]
  | .capHome _ => [execHomeStop id]
  | .capEgress _ _ => [execEgressArrival id]
  | .capSink _ _ => [execSinkStop id]
  | .xmember _ part op _ => [execMembershipChange (setKey part op.set),
      execMembershipAgreementTimeout id]

/-- The events of an engine command, each to its end. -/
def CmdKind.due (id : Nat) : CmdKind → List Due
  | .copy _ _ _ _ => [execCopyTransfer id none]
  | .gather _ _ _ => [execGatherExecute id none]
  | .scatter _ _ _ => [execScatterExecute id none]
  | .scatadd _ _ _ => [execScataddExecute id none]
  | .bankop _ _ => [execBankopExecute id none]
  | .dtload _ => [execDtloadExecute id]
  | .launch _ _ => [execLaunchAppend id]
  | .mma _ _ _ _ _ => [execClusterFifoEntry id, execMmaExecute id none]
  | .mmap _ _ => [execClusterFifoEntry id, execMmapExecute id]
  | .mdrain _ _ => [execClusterFifoEntry id, execMdrainExecute id none,
      execMdrainInboxTimeout id]
  | .mclr _ => [execClusterFifoEntry id, execMclrExecute id]
  | .xreduce _ _ => [execXreduceExecute id, execCollectiveDeadline id]
  | .xgather _ _ => [execXgatherExecute id, execCollectiveDeadline id]
  | .xbcast _ _ => [execXbcastExecute id, execCollectiveDeadline id]
  | .xlog _ _ => [execXlogExecute id none]

/-- The events of the ports and buffers of a core: what starts there, then what has waited too long. -/
def coreDue (core : Nat) (c : Core) : List Due :=
  (if c.repack.isSome then [execRepack core] else []) ++
  (if c.failing then [execCoreOffline core] else []) ++
  (if c.inTrap.isEmpty then [] else [execTrapMessageStart core]) ++
  (if c.inMsg.isEmpty then [] else
    [execMessageStart core, execMessageDrop core]) ++
  (if c.capBufs.isEmpty then [] else [execCapsuleStopStart core]) ++
  (c.capBufs.map (fun b => execCapsuleWaitTimeout (2 * (4 * core + b.1) + 1))) ++
  (if c.restart.isEmpty then [] else [execRestartEntryStart core])

/-- Counters of a unit that have reached 2^48. -/
def wrapsOf (unit idx : Nat) (m : SMap Ctr) : List Due :=
  (m.filter (fun e => decide (2 ^ 48 ≤ e.2.count))).map (fun e => execCounterWrap unit idx e.1)

/-- Counters that wrap. -/
def State.wrapDue (s : State) : List Due :=
  s.cores.flatMap (fun e => wrapsOf 0 e.1 e.2.ctrs) ++ s.clus.flatMap (fun e => wrapsOf 1 e.1 e.2.ctrs) ++
  s.qtrs.flatMap (fun e => wrapsOf 2 e.1 e.2.ctrs)

/-- The events of the launch queues of a partition. -/
def State.queueDue (s : State) (part : Nat) : List Due :=
  if s.hasQueues part then
    [0, 1, 2, 3].map (fun lev => execTailWriteSeen part lev) ++
    [0, 1, 2, 3].map (fun lev => execQueueStallWatchdog part lev)
  else []

/-- A partition has a record that a search could find. -/
def State.hasWork (s : State) (part : Nat) : Bool :=
  s.cores.any (fun e => (!e.2.deque.isEmpty || !e.2.overflow.isEmpty) && decide (s.partOf e.1 = some part))

/-- The cores whose periodic search can begin, and could find work (R100; log entry 37). -/
def State.seekers (s : State) : List Nat :=
  s.parts.flatMap (fun e => match e.2.cfg with
    | none => []
    | some g => if s.hasWork e.1 && s.hasLive e.1 then g.cores.filter (fun c => (s.seekSlot c).isSome) else [])

/-- The first cycle after the present one that is the phase of a core's periodic search. -/
def State.nextPhase (s : State) (core : Nat) : Nat :=
  s.cycle + 1 + (seekPhase core + 512 - (s.cycle + 1) % 512) % 512

/-- The events of the dispatcher. -/
def State.launchDue (s : State) : List Due :=
  s.parts.flatMap (fun e => s.queueDue e.1) ++
  (if s.parts.any (fun e => s.hasQueues e.1) then
    [0, 1, 2, 3].map (fun q => execThreadPlacement q) else []) ++
  s.launches.flatMap (fun e => [execLaunchCompletion e.1,
    execLaunchWatchdogExpiry e.1]) ++
  s.seekers.map (fun c => execPeriodicSeek c)

/-- The sets of which this device knows something, or is asked to be the sponsor of a joiner. -/
def State.setKeys (s : State) : List Nat :=
  s.xsets.map (·.1) ++ (s.xin.filter (fun p => decide (p.kind = 6))).map (·.key)

/-- The events of the peer ports and of the membership sets. -/
def State.linkDue (s : State) : List Due :=
  s.ports.flatMap (fun e => if e.2.unacked.isEmpty then [] else
    if e.2.spent && s.replayDue e.1 then [execPortDown e.1] else [execReplayTimeout e.1]) ++
  (if s.xin.isEmpty then [] else s.setKeys.flatMap (fun k => [execMembershipChange k,
    fun s => .next (if s.xBusy k then s else s.xSettle k)]))

/-- Events that may be due, in the default order. -/
def State.dueEvents (s : State) : List Due :=
  s.wrapDue ++ (if s.mchkq.isEmpty then [] else [execMachineCheckReport]) ++
  s.cores.flatMap (fun e => coreDue e.1 e.2) ++
  s.inflight.flatMap (fun e => e.2.due e.1) ++
  s.cmds.flatMap (fun e => e.2.kind.due e.1) ++
  (s.slots.filter (fun e => decide (e.2.st = .parked) && e.2.waitChecked)).map (fun e =>
    execWaitTimeout e.1) ++
  s.launchDue ++ s.linkDue

/-- What an event changes the state to; none where it changes nothing. -/
def State.after (s : State) (e : Due) : Option State :=
  match e s with
  | .next t => if t = s then none else some t
  | .fault _ => none
  | .refused _ => none

/-- What the next event of the device in the default order makes of the state: the first event that changes it. -/
def State.autoEvent (s : State) : Option State := s.dueEvents.findSome? s.after

end Sys2Proof.Machine
end

