-- ==== Sys2Proof/Machine/Fetch.lean ====
section
/-! DEFINITION. What a step does before an instruction executes: the next issue turn (R62, R69, R307), the fetch of its
word (R321), and the choice between inputs, events of the device and turns. -/

namespace Sys2Proof.Machine

/-! ### Time and turns -/

/-- Cycles of a slot number after `c0` up to and with `c1` (R62). -/
def turnsIn (c0 c1 j : Nat) : Nat := (c1 + 16 - j) / 16 - (c0 + 16 - j) / 16

/-- Turns that a slot loses to its core's repack while cycles pass (R59, R60): those of the rotations in which it runs. -/
def lostTurns (r : Repack) (c0 c1 : Nat) (t : Tid) : Nat := turnsIn (max c0 (r.from_ - 1)) (min c1 (r.until_ - 1)) (slotOf t)

/-- Odd numbers up to a number. -/
def odds (n : Nat) : Nat := (n + 1) / 2

/-- Rotations that a limiter inserts after rotation `r0`, up to and with `r1` (R307). -/
def Quarter.inserted (q : Quarter) (r0 r1 : Nat) : Nat :=
  (if q.was then odds (min r1 (q.limAt - 1)) - odds r0 else 0) + (if q.limit then odds r1 - odds (max r0 (q.limAt - 1)) else 0)

/-- Turns of a slot number after `c0` up to and with `c1` that a limiter takes: each rotation it inserts takes one (R21). -/
def Quarter.tookTurns (q : Quarter) (c0 c1 j : Nat) : Nat := q.inserted ((c0 + 16 - j) / 16 - 1) ((c1 + 16 - j) / 16 - 1)

/-- What the counters of a core count while cycles pass (R308): cycles, empty turns of slots parked by a trap, turns lost
to a repack. -/
def State.countCore (s : State) (core c0 c1 : Nat) : State :=
  (coreTids core).foldl (fun st t =>
    let x := s.slot t
    let n := turnsIn c0 c1 (slotOf t)
    let st := st.count 0 core 1 x.smode n
    let st := if x.st = .trapped then
        st.count 0 core 3 x.smode (n - (s.qtr (qtrOf core)).tookTurns c0 c1 (slotOf t)) else st
    match (s.core core).repack with
    | none => st
    | some r => if x.st = .runnable ∨ x.st = .parked then st.count 0 core 4 x.smode (lostTurns r c0 c1 t) else st) s

/-- Rotations inserted by the limiters of the quarters while cycles pass (R307, R308). -/
def State.countLimit (s : State) (c0 c1 : Nat) : State :=
  (List.range 4).foldl (fun st q =>
    let n := (s.qtr q).inserted (c0 / 16) (c1 / 16)
    if n = 0 then st else st.count 2 q 0x20 false n) s

/-- Time moves on to a cycle, and the cycles after the present one are counted. -/
def State.advanceTo (s : State) (c : Nat) : State :=
  let c0 := s.cycle
  let s := s.advance (c - c0)
  let s := s.cores.foldl (fun st e => if e.2.ctrs.isEmpty then st else st.countCore e.1 c0 c) s
  s.countLimit c0 c

/-- The slot issues at its turns (R65, R94): runnable or parked by a wait, on a core that is not offline. -/
def State.issues (s : State) (t : Tid) (x : Slot) : Bool :=
  (decide (x.st = .runnable) || decide (x.st = .parked)) && !(s.core (coreOf t)).offline

/-- The cycle of the next turn of a slot from the present cycle and core on: not in a rotation that the limiter of its
quarter inserts (R62, R307). While its core's register store is being repacked, the slot that caused it has no turn, and
every other slot loses every turn of the rotations in which the repack runs: R59 lets any slot lose turns (log entry 62). -/
def State.turnOf (s : State) (t : Tid) : Option Nat :=
  let j := slotOf t
  let c := s.cycle + (16 + j - s.cycle % 16) % 16
  let c := if c = s.cycle ∧ coreOf t < s.turnCore then c + 16 else c
  let c := if (s.qtr (qtrOf (coreOf t))).inserts (c / 16) then c + 16 else c
  match (s.core (coreOf t)).repack with
  | none => some c
  | some r => if t = r.tid ∨ r.from_ ≤ c then none else some c

/-- The earlier of two turns; of one cycle, that of the lower core. -/
def earlier (b : Option (Nat × Tid)) (c : Nat) (t : Tid) : Option (Nat × Tid) :=
  match b with
  | none => some (c, t)
  | some (d, u) => if c < d ∨ (c = d ∧ coreOf t < coreOf u) then some (c, t) else some (d, u)

/-- The next turn: its cycle and slot. -/
def State.nextTurn (s : State) : Option (Nat × Tid) :=
  (s.slots.filter (fun e => s.issues e.1 e.2)).foldl (fun b e =>
    match s.turnOf e.1 with
    | none => b
    | some c => earlier b c e.1) none

/-- The cycle at which the first repack under way ends. -/
def State.repackEnd (s : State) : Option Nat := (s.cores.filterMap (fun e => e.2.repack.map (·.until_))).min?

/-- The cycles at which first probes go out that have not yet (R96). -/
def State.probeCycles (s : State) : List Nat :=
  (s.slots.filter (fun e => decide (e.2.st = .held ∧ s.cycle < e.2.waitSince))).map (·.2.waitSince)

/-- The cycles at which dispatchers that have placed a thread can place another (R106). -/
def State.placeCycles (s : State) : List Nat :=
  (s.qtrs.filter (fun e => decide (s.cycle < e.2.placed) && (s.servedPart e.1).isSome)).map (·.2.placed)

/-- The next cycle at which a core has a periodic search to begin (R100), a search sends its first probe, or a dispatcher places
another thread. -/
def State.wakeAt (s : State) : Option Nat := (s.seekers.map s.nextPhase ++ s.probeCycles ++ s.placeCycles).min?

/-! ### Fetch (R318, R321) -/

/-- The bytes of a code block from a PA to its end. -/
def State.codeBytes (s : State) (pa n : Nat) : List Byte := Memory.reads s.mem pa n

/-- An 8-byte word from `a` to before `b` is poisoned. -/
def State.poisonIn (s : State) (a b : Nat) : Bool :=
  (List.range ((b + 7) / 8 - a / 8)).any (fun k => s.memPoison ((a / 8 + k) * 8))

/-- The word at a PC of a slot: its bits and length, or the trap with the INSN of its record (R321). -/
def State.fetch (s : State) (t : Tid) (pc : Word) : Except (TrapInfo × Word) (Nat × Nat) × State :=
  let core := coreOf t
  let va := pc.toNat
  match s.xlateNow (cluOf core) (s.partNum core) (s.slot t).smode va .fetch with
  | (.miss, s) => (.error (if va % 4 ≠ 0 then .of 1 2 else ⟨8, 7, 0, pc⟩, 0), s)
  | (.fault c sc, s) => (.error (if va % 4 ≠ 0 then .of 1 2 else ⟨c, sc, 0, pc⟩, 0), s)
  | (.ok pa _, s) =>
    let n := 32 - va % 32
    let bs := s.codeBytes pa n
    let short : Word := if s.poisonIn pa (pa + min 8 n) then 0 else BitVec.ofNat 64 (leBytes (bs.take 8))
    if va % 4 ≠ 0 then (.error (.of 1 2, short), s)
    else if s.memPoison pa then (.error (.of 0x0A 1, 0), s)
    else match wordLen (BitVec.ofNat 2 (leBytes (bs.take 1))) with
      | none => (.error (.of 1 2, short), s)
      | some k =>
        if n < k then (.error (.of 1 2, short), s)
        else if s.poisonIn pa (pa + k) then (.error (.of 0x0A 1, 0), s)
        else (.ok (leBytes (bs.take k), k), s)

/-- The word that a slot issues: a parked op keeps the word it fetched (R318). -/
def State.wordOf (s : State) (t : Tid) : Except (TrapInfo × Word) (Nat × Nat) × State :=
  let x := s.slot t
  match x.st, x.kept with
  | .parked, some w => (.ok w, s)
  | _, _ => s.fetch t x.pc

/-! ### The plan of a step -/

/-- What comes next: the issue turn of a slot at a cycle; the end of boot; an input; an event of the device, which makes a
state; or no more than that time passes. -/
inductive Choice where
  | turn (c : Nat) (t : Tid)
  | boot (img : Option FwImage)
  | input (i : Instr) (rest : List Instr)
  | event (s : State)
  | idle (c : Nat)
  deriving DecidableEq, Repr

/-- The host reads a register while boot verifies the image: it sees that. -/
def readsFirst : List Instr → Bool
  | .hostRead _ _ :: _ => true
  | _ => false

/-- A turn of the cycle under way: the ops of a cycle come before the events of that cycle (R185, R404), but for the end of a
repack. -/
def State.turnNow (s : State) : Option Tid :=
  if s.turnCore = 0 && s.repackEnd.any (fun d => decide (d ≤ s.cycle)) then none
  else match s.nextTurn with
    | none => none
    | some (c, t) => if c = s.cycle then some t else none

/-- Where nothing else is due: the next turn, or an earlier end of a repack or cycle at which something else begins. -/
def State.passTime (s : State) : Choice :=
  match s.nextTurn, s.repackEnd, s.wakeAt with
  | some (c, t), r, p =>
    if (match r with
        | some d => decide (d ≤ c)
        | none => false) || (match p with
        | some d => decide (d < c)
        | none => false) then .idle (max (min (r.getD c) (p.getD c)) (s.cycle + 1)) else .turn c t
  | none, some r, some p => .idle (max (min r p) (s.cycle + 1))
  | none, some r, none => .idle (max r (s.cycle + 1))
  | none, none, some p => .idle p
  | none, none, none => .idle (s.cycle + 16)

/-- What comes next: the rest of the cycle's turns, the end of boot, inputs, events of the device that are due, issue turns;
time moves on when nothing else does. -/
def State.choice (s : State) : Choice :=
  match s.turnNow with
  | some t => .turn s.cycle t
  | none =>
    match (if readsFirst s.inputs then none else s.boot) with
    | some img => .boot img
    | none =>
      match s.inputs with
      | i :: rest => .input i rest
      | [] =>
        match s.autoEvent with
        | some t => .event t
        | none => s.passTime

/-- What a step does: execute an instruction in a state, or nothing more than reach a state. -/
inductive Plan where
  | run (i : Instr) (s : State)
  | done (s : State)
  deriving DecidableEq, Repr

/-- The turn of a slot: its word is fetched and decoded; a word that is no instruction traps, which slot 1 of a pair does
where its op fails first (R321, R328, R331, R332). -/
def State.planTurn (s : State) (t : Tid) : Plan :=
  let s := { s with cur := t }
  let pc := (s.slot t).pc
  match s.wordOf t with
  | (.error (i, insn), s) => .done (s.trapAt t pc insn i false)
  | (.ok (w, n), s) =>
    let s := { s with insn := w, ilen := n }
    match decodeBits (BitVec.ofNat 128 w) with
    | .ok i => .run i s
    | .error e => .done (s.trapAt t pc (BitVec.ofNat 64 w) (.of 1 e.subcode) (faultsV (BitVec.ofNat 128 w)))

/-- The plan of a step. -/
def State.plan (s : State) : Plan :=
  match s.choice with
  | .turn c t => { s.advanceTo c with turnCore := coreOf t + 1 }.planTurn t
  | .boot img => .done (s.bootEnd img)
  | .input i rest => if isEvent i then .run i { s with inputs := rest } else .done { s with inputs := rest }
  | .event t => .done t
  | .idle c => .done { s.advanceTo c with turnCore := 0 }

end Sys2Proof.Machine
end

