-- ==== Sys2Proof/Machine/Boot.lean ====
section
/-! DEFINITION. Placing an instruction word where the next step fetches it: at the next turn's address where one can be
fetched, else in a machine of one core with one page of code (log entry 7). -/

namespace Sys2Proof.Machine

/-- The configuration of a partition 0 of core 0 alone, whose context table root lies at 0x1FFE0000. -/
def bootPcb : Pcb where
  ncm1 := 0
  first := 0
  trapc := 0
  wle := 20
  fpe := 0
  rsv := false
  capen := false
  wm1 := 0
  croot := 0x1FFE0000
  sroot := 0x1FFE0000
  fdt := 0
  lqb := 0
  ovf := 0
  htab := 0
  ptab := 0
  dsink0 := 0
  dsink1 := 0
  svec := 0
  raw := []

/-- The PA from which the next step fetches, when the next step is a turn whose word can be fetched from a page. -/
def State.fetchPa (s : State) : Option Nat :=
  match s.choice with
  | .turn _ t =>
    let x := s.slot t
    if x.kept.isSome || decide (x.pc.toNat % 32 ≠ 0) then none
    else match s.xlateNow (cluOf (coreOf t)) (s.partNum (coreOf t)) x.smode x.pc.toNat .fetch with
      | (.ok pa _, _) => some pa
      | _ => none
  | .boot _ => none
  | .input _ _ => none
  | .event _ => none
  | .idle _ => none

/-- Bytes of an instruction stored at a PA, unpoisoned. -/
def State.placeAt (s : State) (pa : Nat) (bs : List Byte) : State :=
  { s with mem := Memory.writes s.mem pa bs, memP := mdel (pa / 8) (mdel (pa / 8 + 1) s.memP) }

/-- A machine of one core, one runnable slot at PC 0x1000 and one 512 MiB page, over the memory of a state. -/
def State.oneCore (s : State) : State :=
  let mem := Memory.writes s.mem 0x1FFE0000 (toBytes 8 (0x1FFF * 4096 + 1))
  let mem := Memory.writes mem 0x1FFF0000 (toBytes 8 127)
  { s with
    mem := mem, memP := [], slots := [(0, { Slot.reset with st := .runnable, pc := 0x1000 })], cores := [], clus := []
    qtrs := [], parts := [(0, { Part.reset with cfg := some bootPcb })], launches := [], inflight := [], cmds := []
    ports := [], xin := [], asked := [], boot := none, mchkq := [], inputs := [], turnCore := 0 }

/-- The bits of an instruction, zero above `nbits`, stored where the next step fetches. -/
def State.placeWord (s : State) (nbits w : Nat) : State :=
  let bs := toBytes maxWordBytes (w % 2 ^ nbits)
  match s.fetchPa with
  | some pa => s.placeAt pa bs
  | none => s.oneCore.placeAt 0x1000 bs

end Sys2Proof.Machine
end

