-- ==== Sys2Proof/Machine/Sync.lean ====
section
/-! DEFINITION. Semaphores, queues and messages: SEMWAIT, SEMSIG, SEMSET, SEMRD, QCFG, QCOUNT, MSEND
(spec/08_memory.md R185, R186; spec/20_ref_s.md R403, R404; spec/19_ref_m_r.md R384, R385, R394, R395). -/

namespace Sys2Proof.Machine

/-- An op without name operands that acts on the state. -/
def actSpec (g : Guard) (act : Ctx → State → State) : OpSpec where
  g := g
  fields := []
  kinds := fun _ => true
  m := []
  d := none
  run := fun x => do
    modify (act x)
    seqNext

/-- SEMWAIT (R186): an acquire; a slot's ops issue in order, so nothing of it is early. -/
def specSemwait (g : Guard) (n : BitVec 8) (t : BitVec 12) (take : Bool) : OpSpec where
  g := g
  fields := []
  kinds := fun _ => true
  m := []
  d := none
  run := fun x => do
    let s ← get
    let v := s.sem x.core n.toNat
    if v < t.toNat then parkOn 2 (n.toNat + t.toNat * 256)
    if take then set (s.setSem x.core n.toNat (v - t.toNat))
    seqNext

/-- SEMSIG (R186): a release at `.sys`. -/
def specSemsig (g : Guard) (n : BitVec 8) (i : BitVec 12) : OpSpec :=
  bareSpec g (fun x => do
    release x .sys
    modify (fun s => s.signal x.core n.toNat i.toNat)
    seqNext)

/-- The value of SEMSET. -/
def semVal : ImmS → Nat
  | .i14 v => v.toNat
  | .x32 v => v.toNat

/-- SEMSET (R186). -/
def specSemset (g : Guard) (n : BitVec 8) (v : ImmS) : OpSpec :=
  actSpec g (fun x s => s.setSem x.core n.toNat (semVal v))

/-- SEMRD (R186). -/
def specSemrd (g : Guard) (d : Opd) (n : BitVec 8) : OpSpec where
  g := g
  fields := [d.ix]
  kinds := fun x => x.intOk d.ix
  m := []
  d := some d
  run := fun x => do
    let s ← get
    writeInt x d.ix (s.sem x.core n.toNat) false
    seqNext

/-- A core number that lies in the issuing slot's partition (R4, R269). -/
def coreOk (x : Ctx) (c : Int) : Bool := decide (0 ≤ c ∧ c ≤ 4095) && x.s0.samePart c.toNat x.core

/-- QCFG (R394). -/
def specQcfg (g : Guard) (d : Ix) (a : Opd) (n : BitVec 5) : OpSpec where
  g := g
  fields := [d, a.ix]
  kinds := fun x => x.isQ d && x.intNil a.ix
  m := [a]
  d := none
  run := fun x => do
    let bind := fun (c : Nat) => modify (fun s => s.modName x.t d (fun y => { y with kind := .queue c n.toNat }))
    if isNil a.ix then bind x.core
    else do
      let c ← readAddr x a.ix
      if !coreOk x c then trap 0x11 2
      bind c.toNat
    seqNext

/-- QCOUNT (R395): the entries as they stood at the start of the turn. -/
def specQcount (g : Guard) (d : Opd) (n : BitVec 5) : OpSpec where
  g := g
  fields := [d.ix]
  kinds := fun x => x.intOk d.ix
  m := []
  d := some d
  needs := []
  run := fun x => do
    if x.sl.isQ d.ix then trapName 0x11 3 d.ix
    writeInt x d.ix (x.s0.queue x.core n.toNat).length false
    seqNext

/-- Messages that a cluster's switch holds (R80). -/
def State.switchUse (s : State) (cl : Nat) : Nat :=
  (s.inflight.filter (fun e => match e.2 with
    | .msg m => !m.trap && decide (cluOf (coreOf m.src) = cl)
    | _ => false)).length

/-- The payload words of MSEND, read in order (R385). -/
def readPayload (x : Ctx) : List Ix → OpM (List (Word × Bool))
  | [] => pure []
  | i :: is => do
    let (v, p) ← readName x i
    let ws ← readPayload x is
    pure ((BitVec.ofNat 64 (umod 64 v.toInt), p) :: ws)

/-- MSEND (R384, R385). -/
def specMsend (g : Guard) (k : BitVec 6) (a : Opd) (pl : List Ix) : OpSpec where
  g := g
  fields := a.ix :: pl
  kinds := fun x => x.intOk a.ix && pl.all (fun i => !x.isVec i && !x.isQ i)
  m := [a]
  d := none
  run := fun x => do
    let c ← readAddr x a.ix
    if !coreOk x c then trap 9 0x17
    if k.toNat = 0 && !x.sl.smode then trap 0x12 4
    let ws ← readPayload x pl
    let s ← get
    if decide (4 ≤ (s.core c.toNat).inMsg.length) && decide (Config.switchHolds ≤ s.switchUse x.clu) then
      parkOn 9 c.toNat
    release x .dev
    modify (fun s => s.send (.msg ⟨x.part, k.toNat, ws, x.t, c.toNat, false⟩))
    seqNext

/-! ### The meanings -/

/-- SEMWAIT. -/
def execSemwait (g : Guard) (n : BitVec 8) (t : BitVec 12) (take : Bool) (s : State) : Host.Outcome State Fault Refusal :=
  issue (specSemwait g n t take) s
/-- SEMSIG. -/
def execSemsig (g : Guard) (n : BitVec 8) (i : BitVec 12) (s : State) : Host.Outcome State Fault Refusal :=
  issue (specSemsig g n i) s
/-- SEMSET. -/
def execSemset (g : Guard) (n : BitVec 8) (v : ImmS) (s : State) : Host.Outcome State Fault Refusal :=
  issue (specSemset g n v) s
/-- SEMRD. -/
def execSemrd (g : Guard) (d : Opd) (n : BitVec 8) (s : State) : Host.Outcome State Fault Refusal :=
  issue (specSemrd g d n) s
/-- QCFG. -/
def execQcfg (g : Guard) (d : Ix) (a : Opd) (n : BitVec 5) (s : State) : Host.Outcome State Fault Refusal :=
  issue (specQcfg g d a n) s
/-- QCOUNT. -/
def execQcount (g : Guard) (d : Opd) (n : BitVec 5) (s : State) : Host.Outcome State Fault Refusal :=
  issue (specQcount g d n) s
/-- MSEND. -/
def execMsend (g : Guard) (k : BitVec 6) (a : Opd) (pl : List Ix) (s : State) : Host.Outcome State Fault Refusal :=
  issue (specMsend g k a pl) s

end Sys2Proof.Machine
end

