-- ==== Sys2Proof/Machine/VecMove.lean ====
section
/-! DEFINITION. The vector ops that move, pack, quantize and rank elements: VPERM, VCOMP, VEXPD, VIOTA, VQUANT, VDEQ, VMOVS,
VTOPK (spec/21_ref_t_y.md R423, R424, R427, R428, R431). -/

namespace Sys2Proof.Machine

/-- Two vectors of one element kind. -/
def sameElem (x : Slot) (i j : Ix) : Bool :=
  match x.kind i, x.kind j with
  | some (.ivec sg w _ _ _), some (.ivec sh v _ _ _) => (sg == sh) && decide (w = v)
  | some (.fvec k _ _), some (.fvec l _ _) => decide (k = l)
  | _, _ => false

/-- D and A of one class. -/
def sameClass (x : Slot) (d a : Ix) : Bool := (x.isIVec d && x.isIVec a) || (x.isFVec d && x.isFVec a)

/-! ### VPERM, VCOMP, VEXPD, VIOTA (R423) -/

/-- VPERM. -/
def specVperm (h : VH) (d a b : Opd) : OpSpec where
  g := h.g
  fields := [d.ix, a.ix, b.ix, h.msk]
  kinds := vkinds [d.ix, a.ix, b.ix, h.msk] (fun x => x.maskOk h && sameClass x d.ix a.ix && x.isIVec b.ix)
  m := [a, b]
  d := some d
  needs := []
  run := fun x => do
    noQueue x [d.ix, a.ix, b.ix, h.msk]
    let (va, pa) ← readV x a.ix
    let (vb, pb) ← readV x b.ix
    let (m, pm) ← readMask x h
    let (er, ec) := extent x [d.ix, b.ix]
    let (ra, ca) := va.shape.getD (0, 0)
    writeElems x d.ix false (pa || pb || pm) (fun n i j =>
      if i < er ∧ j < ec ∧ activeAt h m i j = true then
        let k := vb.get i j
        some (if 0 ≤ k ∧ k < ca ∧ i < ra then moveElem n.kind va i k.toNat else fitElem n.kind 0)
      else none)

/-- The active columns of a row below a bound, in rising order. -/
def activeCols (h : VH) (m : VMask) (i c : Nat) : List Nat := (List.range c).filter (fun j => activeAt h m i j)

/-- VCOMP and VEXPD: `src` gives the column of A for an element of D, none for one that is left as it is. -/
def packSpec (h : VH) (d a : Opd) (src : VMask → Nat → Nat → Nat → Option Nat) : OpSpec where
  g := h.g
  fields := [d.ix, a.ix, h.msk]
  kinds := vkinds [d.ix, a.ix, h.msk] (fun x => x.isIVec h.msk && sameElem x d.ix a.ix)
  m := [a]
  d := some d
  needs := []
  run := fun x => do
    noQueue x [d.ix, a.ix, h.msk]
    let (va, pa) ← readV x a.ix
    let (m, pm) ← readMask x h
    let (er, _) := extent x [d.ix, a.ix]
    let (_, ca) := va.shape.getD (0, 0)
    writeElems x d.ix false (pa || pm) (fun n i j =>
      if i < er then (src m ca i j).map (fun k => moveElem n.kind va i k) else none)

/-- VCOMP. -/
def specVcomp (h : VH) (d a : Opd) : OpSpec := packSpec h d a (fun m ca i j => (activeCols h m i ca)[j]?)

/-- VEXPD. -/
def specVexpd (h : VH) (d a : Opd) : OpSpec :=
  packSpec h d a (fun m ca i j =>
    let n := (activeCols h m i j).length
    if activeAt h m i j && decide (n < ca) then some n else none)

/-- VIOTA. -/
def specViota (h : VH) (d a : Opd) : OpSpec where
  g := h.g
  fields := [d.ix, a.ix, h.msk]
  kinds := vkinds [d.ix, a.ix, h.msk] (fun x => x.maskOk h && x.isIVec d.ix && x.intNil a.ix)
  m := [a]
  d := some d
  needs := []
  run := fun x => do
    noQueue x [d.ix, a.ix, h.msk]
    let (va, pa) ← readV x a.ix
    let (m, pm) ← readMask x h
    writeElems x d.ix false (pa || pm) (fun n i j =>
      if activeAt h m i j then some (fitElem n.kind (va.get 0 0 + (i * n.kind.shape.2 + j : Nat))) else none)

/-! ### VDEQ and VQUANT (R424, R428) -/

/-- Columns of a group (R424). -/
def gsCols : Gs → Nat
  | .g32 => 32 | .g64 => 64 | .g128 => 128

/-- An integer vector of element width 32. -/
def Slot.isEntryVec (x : Slot) (i : Ix) : Bool :=
  match x.kind i with
  | some (.ivec _ w _ _ _) => decide (w = 32)
  | _ => false

/-- VDEQ: the columns of E do not bound the extent, its rows do (log entry 43). -/
def specVdeq (h : VH) (gs : Gs) (rm : Rm) (sat : Bool) (d a e : Opd) : OpSpec where
  g := h.g
  fields := [d.ix, a.ix, e.ix, h.msk]
  kinds := vkinds [d.ix, a.ix, e.ix, h.msk] (fun x =>
    x.maskOk h && x.isFVec d.ix && x.isIVec a.ix && x.isEntryVec e.ix)
  m := [a, e]
  d := some d
  needs := []
  run := fun x => do
    noQueue x [d.ix, a.ix, e.ix, h.msk]
    let (va, pa) ← readV x a.ix
    let (ve, pe) ← readV x e.ix
    let (m, pm) ← readMask x h
    let (er, ec) := extent x [d.ix, a.ix]
    let (re, ce) := ve.shape.getD (0, 0)
    let val := fun (i j : Nat) =>
      if i < min er re ∧ j < ec ∧ activeAt h m i j = true ∧ j / gsCols gs < ce then
        some (entryValue (va.get i j) (umod 32 (ve.get i (j / gsCols gs))))
      else none
    let bad := (cells (min er re) ec).any (fun q => match val q.1 q.2 with
      | some (_, z) => z
      | none => false)
    writeElems x d.ix false (pa || pe || pm || bad) (fun n i j =>
      (val i j).map (fun v => rndElem n.kind.efk rm sat v.1))

/-- The magnitude of a finite value. -/
def FV.mag : FV → FV
  | .nan s => .nan s
  | .inf _ => .inf false
  | .fin _ m e => .fin false m e

/-- Quantize a group (R428): the scale, the codes, the flags. -/
def quantGroup (qmax : Int) (vs : List FV) : Nat × List Int × BitVec 5 :=
  let zero := vs.map (fun _ => (0 : Int))
  if vs.any (fun v => match v with
      | .nan _ => true
      | .inf _ => true
      | .fin _ _ _ => false) then (0x7E00, zero, fNV)
  else
    let m := vs.foldl (fun a v => if cmpFV a v.mag = .lt then v.mag else a) (.fin false 0 0)
    if m.isZero then (0, zero, 0)
    else
      let (sc0, f0) := (fDiv m (FV.ofInt qmax)).round .f16 .rup false
      let (sc, f) := if sc0 = 0x7C00 then (0x7BFF, fOF ||| fNX) else (sc0, f0)
      let s := FK.f16.decode sc
      let qs := vs.map (fun v => match (fDiv v s).v with
        | .fin n k e => roundInt .rne n k e
        | .nan _ => (0, false)
        | .inf _ => (0, false))
      (sc, qs.map (fun q => min qmax (max (-qmax) q.1)), if qs.any (·.2) then f ||| fNX else f)

/-- A signed vector of element width 4 or 8. -/
def Slot.isCodeVec (x : Slot) (i : Ix) : Bool :=
  match x.kind i with
  | some (.ivec true w _ _ _) => decide (w = 4 ∨ w = 8)
  | _ => false

/-- VQUANT: writes the codes to D and the sidecar entries to E. -/
def specVquant (g : Guard) (gs : Gs) (d a e : Opd) : OpSpec where
  g := g
  fields := [d.ix, a.ix, e.ix]
  kinds := vkinds [d.ix, a.ix, e.ix] (fun x => x.isCodeVec d.ix && x.isFVec a.ix && x.isEntryVec e.ix)
  m := [a, e]
  d := some d
  needs := []
  run := fun x => do
    noQueue x [d.ix, a.ix, e.ix]
    let (va, pa) ← readV x a.ix
    match x.sl.nm d.ix, x.sl.nm e.ix with
    | some nd, some ne =>
      let qmax : Int := match nd.kind with
        | .ivec _ 4 _ _ _ => 7
        | _ => 127
      let (er, ec) := extent x [d.ix, a.ix]
      let (re, ce) := ne.kind.shape
      let rows := min er re
      let gc := gsCols gs
      let ng := (ec + gc - 1) / gc
      let q := (List.range rows).map (fun i => (List.range ng).map (fun k =>
        quantGroup qmax (((List.range ec).filter (fun j => decide (j / gc = k))).map (fun j => va.fv i j))))
      let fl := q.flatten.foldl (fun f r => f ||| r.2.2) (0 : BitVec 5)
      let grp := fun (i k : Nat) => ((q[i]?).getD [])[k]?
      let eWhole := decide (re = rows ∧ ce ≤ ng)
      let dWhole := decide (nd.kind.shape = (rows, ec))
      if !eWhole && !ne.f then trapName 5 0 e.ix
      if !dWhole && !nd.f then trapName 5 0 d.ix
      floatFlags x fl
      let _ ← writeElems x d.ix false pa (fun n i j =>
        if j < ec then (grp i (j / gc)).map (fun r => fitElem n.kind ((r.2.1[j % gc]?).getD 0)) else none)
      writeElems x e.ix false pa (fun n i k => (grp i k).map (fun r => fitElem n.kind (r.1 : Int)))
    | _, _ => seqNext

/-! ### VMOVS (R427) -/

/-- The operands of VMOVS: a vector and a scalar of one class, float kinds being equal. -/
def movsKinds (d a b : Ix) (x : Slot) : Bool :=
  x.intNil b &&
  ((x.isIVec a && x.intNil d) || (x.isFVec a && (isNil d || (x.isFlt d && decide (x.fkAny d = x.fkAny a)))) ||
   (x.isIVec d && x.intNil a) || (x.isFVec d && x.isFlt a && decide (x.fkAny d = x.fkAny a)))

/-- VMOVS. -/
def specVmovs (g : Guard) (d a b : Opd) : OpSpec where
  g := g
  fields := [d.ix, a.ix, b.ix]
  kinds := vkinds [d.ix, a.ix, b.ix] (movsKinds d.ix a.ix b.ix)
  m := [a, b]
  d := some d
  needs := []
  run := fun x => do
    noQueue x [d.ix, a.ix, b.ix]
    let (va, pa) ← readV x a.ix
    let (vb, pb) ← readV x b.ix
    let q := vb.get 0 0
    let ok := decide (0 ≤ q ∧ q < 2 ^ 32)
    let i := bits q.toNat 31 16
    let j := bits q.toNat 15 0
    match va.shape with
    | some (r, c) =>
      let v := if ok ∧ i < r ∧ j < c then va.get i j else 0
      match va.fk with
      | some k => writePat x d.ix (k.canon v.toNat) (pa || pb)
      | none => writeInt x d.ix v (pa || pb)
      seqNext
    | none =>
      writeElems x d.ix true (pa || pb) (fun n k l =>
        if ok ∧ k = i ∧ l = j then some (moveElem n.kind va 0 0) else none)

/-! ### VTOPK (R431) -/

/-- The value of column `j` stands before that of column `k`. -/
def rankBefore (va : VIn) (mn : Bool) (i j k : Nat) : Bool :=
  match va.fk with
  | none => if mn then decide (va.get i j < va.get i k) else decide (va.get i k < va.get i j)
  | some _ =>
    let a := va.fv i j
    let b := va.fv i k
    if a.isNan then false else if b.isNan then true
    else if mn then belowFV a b else belowFV b a

/-- Insert a column behind those that it does not stand before. -/
def rankInsert (va : VIn) (mn : Bool) (i j : Nat) : List Nat → List Nat
  | [] => [j]
  | k :: ks => if rankBefore va mn i j k then j :: k :: ks else k :: rankInsert va mn i j ks

/-- The columns of a row in rank order; ties stand in rising order. -/
def rankRow (va : VIn) (mn : Bool) (i c : Nat) : List Nat :=
  (List.range c).foldl (fun l j => rankInsert va mn i j l) []

/-- VTOPK. -/
def specVtopk (g : Guard) (mn : Bool) (d a : Opd) : OpSpec where
  g := g
  fields := [d.ix, a.ix]
  kinds := vkinds [d.ix, a.ix] (fun x => x.isIVec d.ix && x.isVec a.ix)
  m := [a]
  d := some d
  needs := []
  run := fun x => do
    noQueue x [d.ix, a.ix]
    let (va, pa) ← readV x a.ix
    let (ra, ca) := va.shape.getD (0, 0)
    writeElems x d.ix false pa (fun n i j =>
      if i < ra ∧ j < ca then ((rankRow va mn i ca)[j]?).map (fun k => fitElem n.kind (k : Int)) else none)

/-! ### The meanings -/

/-- VPERM. -/
def execVperm (h : VH) (d : Opd) (a : Opd) (b : Opd) (s : State) : Host.Outcome State Fault Refusal :=
  issue (specVperm h d a b) s
/-- VCOMP. -/
def execVcomp (h : VH) (d : Opd) (a : Opd) (s : State) : Host.Outcome State Fault Refusal :=
  issue (specVcomp h d a) s
/-- VEXPD. -/
def execVexpd (h : VH) (d : Opd) (a : Opd) (s : State) : Host.Outcome State Fault Refusal :=
  issue (specVexpd h d a) s
/-- VIOTA. -/
def execViota (h : VH) (d : Opd) (a : Opd) (s : State) : Host.Outcome State Fault Refusal :=
  issue (specViota h d a) s
/-- VQUANT. -/
def execVquant (g : Guard) (gs : Gs) (d : Opd) (a : Opd) (e : Opd) (s : State) : Host.Outcome State Fault Refusal :=
  issue (specVquant g gs d a e) s
/-- VDEQ. -/
def execVdeq (h : VH) (gs : Gs) (rm : Rm) (sat : Bool) (d : Opd) (a : Opd) (e : Opd) (s : State) : Host.Outcome State Fault Refusal :=
  issue (specVdeq h gs rm sat d a e) s
/-- VMOVS. -/
def execVmovs (g : Guard) (d : Opd) (a : Opd) (b : Opd) (s : State) : Host.Outcome State Fault Refusal :=
  issue (specVmovs g d a b) s
/-- VTOPK. -/
def execVtopk (g : Guard) (mn : Bool) (d : Opd) (a : Opd) (s : State) : Host.Outcome State Fault Refusal :=
  issue (specVtopk g mn d a) s

end Sys2Proof.Machine
end

