-- ==== Sys2Proof/Machine/Pairs.lean ====
section
/-! DEFINITION. Instruction pairs (spec/02_notation.md R37, spec/15_encoding.md R327, R328): the ops that may stand in a
pair, and the turn of a pair. -/

namespace Sys2Proof.Machine

/-- The op of an instruction that may stand in a pair (R327). -/
def specOf (i : Instr) : Option OpSpec :=
  match i with
  | .nop g pad => some (specNop g pad)
  | .b .. => none
  | .bl .. => none
  | .bx .. => none
  | .ret .. => none
  | .loop .. => none
  | .lexit .. => none
  | .trap .. => none
  | .eret .. => none
  | .sread g d sel => some (specSread g d sel)
  | .swrite g sel a => some (specSwrite g sel a)
  | .rgn .. => none
  | .rgnend .. => none
  | .ifence .. => none
  | .yield .. => none
  | .tune .. => none
  | .resize .. => none
  | .shape .. => none
  | .width .. => none
  | .fset g d => some (specFset g d)
  | .fclr g d => some (specFclr g d)
  | .ftest g d a => some (specFtest g d a)
  | .pdrainDrain .. => none
  | .pdrainDrainPart .. => none
  | .pdrainSave .. => none
  | .pdrainResume .. => none
  | .preset .. => none
  | .presetKeep .. => none
  | .slotrd .. => none
  | .slotwr .. => none
  | .slotkill .. => none
  | .tlbinvPage .. => none
  | .tlbinvRange .. => none
  | .tlbinvCtx .. => none
  | .tlbinvAll .. => none
  | .wdset .. => none
  | .pmcfg .. => none
  | .pmrd .. => none
  | .tracerd .. => none
  | .add g d a b => some (specAdd g d a b)
  | .addi g d a imm => some (specAddi g d a imm)
  | .sub g d a b => some (specSub g d a b)
  | .mul g d a b => some (specMul g d a b)
  | .mulh g d a b => some (specMulh g d a b)
  | .madd g d a b c => some (specMadd g d a b c)
  | .div g d a b nz => some (specDiv g d a b nz)
  | .rem g d a b nz => some (specRem g d a b nz)
  | .and g d a b => some (specAnd g d a b)
  | .or g d a b => some (specOr g d a b)
  | .xor g d a b => some (specXor g d a b)
  | .andn g d a b => some (specAndn g d a b)
  | .shl g d a k => some (specShl g d a k)
  | .shr g d a k => some (specShr g d a k)
  | .sra g d a k => some (specSra g d a k)
  | .rot g d a k => some (specRot g d a k)
  | .min g d a b => some (specMin g d a b)
  | .max g d a b => some (specMax g d a b)
  | .abs g d a => some (specAbs g d a)
  | .clz g d a => some (specClz g d a)
  | .ctz g d a => some (specCtz g d a)
  | .popc g d a => some (specPopc g d a)
  | .cmp g cc d a b => some (specCmp g cc d a b)
  | .cmpi g cc d a imm => some (specCmpi g cc d a imm)
  | .sel g d a b c => some (specSel g d a b c)
  | .mov g d a => some (specMov g d a)
  | .movi g d imm => some (specMovi g d imm)
  | .ext g e d a pos lenm1 => some (specExt g e d a pos lenm1)
  | .ins g d a pos lenm1 => some (specIns g d a pos lenm1)
  | .ldl g fe d a => some (specLdl g fe d a)
  | .stl g f a b => some (specStl g f a b)
  | .ldx g cl acq d a => some (specLdx g cl acq d a)
  | .stx g cl rel a b => some (specStx g cl rel a b)
  | .fence g sc => some (specFence g sc)
  | .copy .. => none
  | .gather g m d a ws => some (specGather g m d a ws)
  | .scatter g m d a ws => some (specScatter g m d a ws)
  | .scatadd g m d a ws => some (specScatadd g m d a ws)
  | .bankopFill g tr d a ws => some (specBankopFill g tr d a ws)
  | .bankopAxpy g tr d a ws => some (specBankopAxpy g tr d a ws)
  | .bankopCvt g tr d a ws => some (specBankopCvt g tr d a ws)
  | .bankopSum g tr d a ws => some (specBankopSum g tr d a ws)
  | .dtload g tr d a ws => some (specDtload g tr d a ws)
  | .aadd g f ty => some (specAadd g f ty)
  | .aand g f ty => some (specAand g f ty)
  | .acas g f ty => some (specAcas g f ty)
  | .afadd g f ty rm => some (specAfadd g f ty rm)
  | .afmax g f ty => some (specAfmax g f ty)
  | .afmin g f ty => some (specAfmin g f ty)
  | .amax g f ty => some (specAmax g f ty)
  | .amin g f ty => some (specAmin g f ty)
  | .aor g f ty => some (specAor g f ty)
  | .aswap g f ty => some (specAswap g f ty)
  | .axor g f ty => some (specAxor g f ty)
  | .fadd g rm sat d a b => some (specFadd g rm sat d a b)
  | .fsub g rm sat d a b => some (specFsub g rm sat d a b)
  | .fmul g rm sat d a b => some (specFmul g rm sat d a b)
  | .ffma g rm sat d a b c => some (specFfma g rm sat d a b c)
  | .fdiv g rm sat d a b => some (specFdiv g rm sat d a b)
  | .fsqrt g rm sat d a => some (specFsqrt g rm sat d a)
  | .fmin g d a b => some (specFmin g d a b)
  | .fmax g d a b => some (specFmax g d a b)
  | .fcmp g cc d a b => some (specFcmp g cc d a b)
  | .fsgn g op d a b => some (specFsgn g op d a b)
  | .cvt g rm sat d a => some (specCvt g rm sat d a)
  | .fsfu g fn rm sat d a => some (specFsfu g fn rm sat d a)
  | .vadd h rm sat d a b => some (specVadd h rm sat d a b)
  | .vsub h rm sat d a b => some (specVsub h rm sat d a b)
  | .vmul h rm sat d a b => some (specVmul h rm sat d a b)
  | .vfma h rm sat d a b => some (specVfma h rm sat d a b)
  | .vmin h d a b => some (specVmin h d a b)
  | .vmax h d a b => some (specVmax h d a b)
  | .vand h d a b => some (specVand h d a b)
  | .vor h d a b => some (specVor h d a b)
  | .vxor h d a b => some (specVxor h d a b)
  | .vshl h d a b => some (specVshl h d a b)
  | .vshr h d a b => some (specVshr h d a b)
  | .vcmp h cc d a b => some (specVcmp h cc d a b)
  | .vsel h d a b => some (specVsel h d a b)
  | .vcvt h rm sat d a => some (specVcvt h rm sat d a)
  | .vld h w q rm sat d a b => some (specVld h w q rm sat d a b)
  | .vst h setf d a b => some (specVst h setf d a b)
  | .vldt h w d a b => some (specVldt h w d a b)
  | .vbcast h rm sat d a => some (specVbcast h rm sat d a)
  | .vred h op rm d a => some (specVred h op rm d a)
  | .vscan h op rm d a => some (specVscan h op rm d a)
  | .vperm h d a b => some (specVperm h d a b)
  | .vcomp h d a => some (specVcomp h d a)
  | .vexpd h d a => some (specVexpd h d a)
  | .viota h d a => some (specViota h d a)
  | .vsfu h fn rm d a => some (specVsfu h fn rm d a)
  | .vquant g gs d a e => some (specVquant g gs d a e)
  | .vdeq h gs rm sat d a e => some (specVdeq h gs rm sat d a e)
  | .vmovs g d a b => some (specVmovs g d a b)
  | .mcfg g src => some (specMcfg g src)
  | .mma g tr z gg t d a ws => some (specMma g tr z gg t d a ws)
  | .mdrain g tr acc d ws => some (specMdrain g tr acc d ws)
  | .mmap g tr d a ws => some (specMmap g tr d a ws)
  | .mclr g tr d ws => some (specMclr g tr d ws)
  | .xreduce g tr confine d a ws => some (specXreduce g tr confine d a ws)
  | .xgather g tr confine d a ws => some (specXgather g tr confine d a ws)
  | .xbcast g tr confine d a ws => some (specXbcast g tr confine d a ws)
  | .xmemberCreate g d a b => some (specXmemberCreate g d a b)
  | .xmemberShrink g d a b => some (specXmemberShrink g d a b)
  | .xmemberJoin g d a b => some (specXmemberJoin g d a b)
  | .xmemberLeave g d a => some (specXmemberLeave g d a)
  | .xlog g tr keepf d a ws => some (specXlog g tr keepf d a ws)
  | .semwait g n t take => some (specSemwait g n t take)
  | .semsig g n i => some (specSemsig g n i)
  | .semset g n v => some (specSemset g n v)
  | .semrd g d n => some (specSemrd g d n)
  | .qcfg g d a n => some (specQcfg g d a n)
  | .qcount g d n => some (specQcount g d n)
  | .msend g k a pl => some (specMsend g k a pl)
  | .spawn .. => none
  | .sync .. => none
  | .done .. => none
  | .launch g tr lev d a ws => some (specLaunch g tr lev d a ws)
  | .genter g a => some (specGenter g a)
  | .gleave g => some (specGleave g)
  | .gbar g => some (specGbar g)
  | .gsize g d => some (specGsize g d)
  | .cmake g d a => some (specCmake g d a)
  | .csend g => some (specCsend g)
  | .cstop g d k => some (specCstop g d k)
  | .cins g a b => some (specCins g a b)
  | .cdel g n => some (specCdel g n)
  | .csetp g k a => some (specCsetp g k a)
  | .csplit g a b => some (specCsplit g a b)
  | .cdivert g a => some (specCdivert g a)
  | .vtopk .. => none
  | .instructionPair .. => none
  | .repack .. => none
  | .waitTimeout .. => none
  | .trapMessageStart .. => none
  | .messageStart .. => none
  | .messageDrop .. => none
  | .remotePush .. => none
  | .tailWriteSeen .. => none
  | .threadPlacement .. => none
  | .launchCompletion .. => none
  | .continuationStart .. => none
  | .periodicSeek .. => none
  | .seekProbe .. => none
  | .dequeTake .. => none
  | .inc .. => none
  | .incAcknowledgement .. => none
  | .hdr .. => none
  | .dec .. => none
  | .decPrime .. => none
  | .test .. => none
  | .testReply .. => none
  | .decReply .. => none
  | .genterAtBank .. => none
  | .genterReply .. => none
  | .genterWithdrawal .. => none
  | .gleaveAtBank .. => none
  | .gbarArrival .. => none
  | .gsizeAtBank .. => none
  | .atomicAtOwner .. => none
  | .readAtOwner .. => none
  | .writeAtOwner .. => none
  | .translationWalk .. => none
  | .landName .. => none
  | .sfuResult .. => none
  | .slotrdAtTarget .. => none
  | .slotwrAtTarget .. => none
  | .slotkillAtTarget .. => none
  | .clusterFifoEntry .. => none
  | .copyTransfer .. => none
  | .gatherExecute .. => none
  | .scatterExecute .. => none
  | .scataddExecute .. => none
  | .bankopExecute .. => none
  | .dtloadExecute .. => none
  | .launchAppend .. => none
  | .mmaExecute .. => none
  | .mmapExecute .. => none
  | .mdrainExecute .. => none
  | .mdrainInboxTimeout .. => none
  | .mclrExecute .. => none
  | .xreduceExecute .. => none
  | .xgatherExecute .. => none
  | .xbcastExecute .. => none
  | .collectiveDeadline .. => none
  | .xlogExecute .. => none
  | .membershipChange .. => none
  | .membershipAgreementTimeout .. => none
  | .capsuleEntry .. => none
  | .capsuleStopStart .. => none
  | .bankStop .. => none
  | .homeStop .. => none
  | .egressArrival .. => none
  | .sinkStop .. => none
  | .capsuleWaitTimeout .. => none
  | .restartEntryStart .. => none
  | .launchWatchdogExpiry .. => none
  | .queueStallWatchdog .. => none
  | .currentLimiterEngage .. => none
  | .currentLimiterRelease .. => none
  | .uncorrectableError .. => none
  | .scrub .. => none
  | .coreOffline .. => none
  | .flitReceived .. => none
  | .replayTimeout .. => none
  | .portDown .. => none
  | .hostRead .. => none
  | .hostWrite .. => none
  | .mchkstatWrite .. => none
  | .machineCheckReport .. => none
  | .getVersion .. => none
  | .getCapabilities .. => none
  | .negotiateAlgorithms .. => none
  | .getDigests .. => none
  | .getCertificate .. => none
  | .challenge .. => none
  | .getMeasurements .. => none
  | .spdmSessionRequest .. => none
  | .deviceReset .. => none
  | .messageArrival .. => none
  | .portRetrain .. => none
  | .counterWrap .. => none
  | .correctedError .. => none

/-- INSTRUCTION_PAIR: the slot takes its turn with a pair (R37, R328). A word that is no legal pair raises ILLEGAL_OP, as
decoding it does (R331). -/
def execInstructionPair (a b : Instr) (s : State) : Host.Outcome State Fault Refusal :=
  match specOf a, specOf b with
  | some p, some q => issuePair p q s
  | some _, none => .next (s.takeTrap s.cur (s.slot s.cur).pc (BitVec.ofNat 64 s.insn) (.of 1 1) true)
  | none, some _ => .next (s.takeTrap s.cur (s.slot s.cur).pc (BitVec.ofNat 64 s.insn) (.of 1 1) false)
  | none, none => .next (s.takeTrap s.cur (s.slot s.cur).pc (BitVec.ofNat 64 s.insn) (.of 1 1) false)

end Sys2Proof.Machine
end

