-- ==== Sys2Proof/Machine/Dispatch.lean ====
section
/-! DEFINITION. The meaning of every instruction: one arm for each constructor. -/

namespace Sys2Proof.Machine

def exec (i : Instr) (s : State) : Host.Outcome State Fault Refusal :=
  match i with
  | .nop g pad => Sys2Proof.Machine.execNop g pad s
  | .b g t => Sys2Proof.Machine.execB g t s
  | .bl g d t => Sys2Proof.Machine.execBl g d t s
  | .bx g d a => Sys2Proof.Machine.execBx g d a s
  | .ret g a => Sys2Proof.Machine.execRet g a s
  | .loop g cnt off => Sys2Proof.Machine.execLoop g cnt off s
  | .lexit g => Sys2Proof.Machine.execLexit g s
  | .trap g code => Sys2Proof.Machine.execTrap g code s
  | .eret g => Sys2Proof.Machine.execEret g s
  | .sread g d sel => Sys2Proof.Machine.execSread g d sel s
  | .swrite g sel a => Sys2Proof.Machine.execSwrite g sel a s
  | .rgn g f c live => Sys2Proof.Machine.execRgn g f c live s
  | .rgnend g => Sys2Proof.Machine.execRgnend g s
  | .ifence g => Sys2Proof.Machine.execIfence g s
  | .yield g => Sys2Proof.Machine.execYield g s
  | .tune g src => Sys2Proof.Machine.execTune g src s
  | .resize g d wm1 => Sys2Proof.Machine.execResize g d wm1 s
  | .shape g d v q => Sys2Proof.Machine.execShape g d v q s
  | .width g d a => Sys2Proof.Machine.execWidth g d a s
  | .fset g d => Sys2Proof.Machine.execFset g d s
  | .fclr g d => Sys2Proof.Machine.execFclr g d s
  | .ftest g d a => Sys2Proof.Machine.execFtest g d a s
  | .pdrainDrain g d a => Sys2Proof.Machine.execPdrainDrain g d a s
  | .pdrainDrainPart g d a => Sys2Proof.Machine.execPdrainDrainPart g d a s
  | .pdrainSave g d a b => Sys2Proof.Machine.execPdrainSave g d a b s
  | .pdrainResume g d b => Sys2Proof.Machine.execPdrainResume g d b s
  | .preset g d a b => Sys2Proof.Machine.execPreset g d a b s
  | .presetKeep g d a => Sys2Proof.Machine.execPresetKeep g d a s
  | .slotrd g d a sp sel => Sys2Proof.Machine.execSlotrd g d a sp sel s
  | .slotwr g d a b sp sel run => Sys2Proof.Machine.execSlotwr g d a b sp sel run s
  | .slotkill g d a => Sys2Proof.Machine.execSlotkill g d a s
  | .tlbinvPage g d a => Sys2Proof.Machine.execTlbinvPage g d a s
  | .tlbinvRange g d a b => Sys2Proof.Machine.execTlbinvRange g d a b s
  | .tlbinvCtx g d => Sys2Proof.Machine.execTlbinvCtx g d s
  | .tlbinvAll g d => Sys2Proof.Machine.execTlbinvAll g d s
  | .wdset g d a b => Sys2Proof.Machine.execWdset g d a b s
  | .pmcfg g a b zero => Sys2Proof.Machine.execPmcfg g a b zero s
  | .pmrd g d a cfg => Sys2Proof.Machine.execPmrd g d a cfg s
  | .tracerd g d a b => Sys2Proof.Machine.execTracerd g d a b s
  | .add g d a b => Sys2Proof.Machine.execAdd g d a b s
  | .addi g d a imm => Sys2Proof.Machine.execAddi g d a imm s
  | .sub g d a b => Sys2Proof.Machine.execSub g d a b s
  | .mul g d a b => Sys2Proof.Machine.execMul g d a b s
  | .mulh g d a b => Sys2Proof.Machine.execMulh g d a b s
  | .madd g d a b c => Sys2Proof.Machine.execMadd g d a b c s
  | .div g d a b nz => Sys2Proof.Machine.execDiv g d a b nz s
  | .rem g d a b nz => Sys2Proof.Machine.execRem g d a b nz s
  | .and g d a b => Sys2Proof.Machine.execAnd g d a b s
  | .or g d a b => Sys2Proof.Machine.execOr g d a b s
  | .xor g d a b => Sys2Proof.Machine.execXor g d a b s
  | .andn g d a b => Sys2Proof.Machine.execAndn g d a b s
  | .shl g d a k => Sys2Proof.Machine.execShl g d a k s
  | .shr g d a k => Sys2Proof.Machine.execShr g d a k s
  | .sra g d a k => Sys2Proof.Machine.execSra g d a k s
  | .rot g d a k => Sys2Proof.Machine.execRot g d a k s
  | .min g d a b => Sys2Proof.Machine.execMin g d a b s
  | .max g d a b => Sys2Proof.Machine.execMax g d a b s
  | .abs g d a => Sys2Proof.Machine.execAbs g d a s
  | .clz g d a => Sys2Proof.Machine.execClz g d a s
  | .ctz g d a => Sys2Proof.Machine.execCtz g d a s
  | .popc g d a => Sys2Proof.Machine.execPopc g d a s
  | .cmp g cc d a b => Sys2Proof.Machine.execCmp g cc d a b s
  | .cmpi g cc d a imm => Sys2Proof.Machine.execCmpi g cc d a imm s
  | .sel g d a b c => Sys2Proof.Machine.execSel g d a b c s
  | .mov g d a => Sys2Proof.Machine.execMov g d a s
  | .movi g d imm => Sys2Proof.Machine.execMovi g d imm s
  | .ext g e d a pos lenm1 => Sys2Proof.Machine.execExt g e d a pos lenm1 s
  | .ins g d a pos lenm1 => Sys2Proof.Machine.execIns g d a pos lenm1 s
  | .ldl g fe d a => Sys2Proof.Machine.execLdl g fe d a s
  | .stl g f a b => Sys2Proof.Machine.execStl g f a b s
  | .ldx g cl acq d a => Sys2Proof.Machine.execLdx g cl acq d a s
  | .stx g cl rel a b => Sys2Proof.Machine.execStx g cl rel a b s
  | .fence g sc => Sys2Proof.Machine.execFence g sc s
  | .copy g m d a b n ws => Sys2Proof.Machine.execCopy g m d a b n ws s
  | .gather g m d a ws => Sys2Proof.Machine.execGather g m d a ws s
  | .scatter g m d a ws => Sys2Proof.Machine.execScatter g m d a ws s
  | .scatadd g m d a ws => Sys2Proof.Machine.execScatadd g m d a ws s
  | .bankopFill g tr d a ws => Sys2Proof.Machine.execBankopFill g tr d a ws s
  | .bankopAxpy g tr d a ws => Sys2Proof.Machine.execBankopAxpy g tr d a ws s
  | .bankopCvt g tr d a ws => Sys2Proof.Machine.execBankopCvt g tr d a ws s
  | .bankopSum g tr d a ws => Sys2Proof.Machine.execBankopSum g tr d a ws s
  | .dtload g tr d a ws => Sys2Proof.Machine.execDtload g tr d a ws s
  | .aadd g f ty => Sys2Proof.Machine.execAadd g f ty s
  | .aand g f ty => Sys2Proof.Machine.execAand g f ty s
  | .acas g f ty => Sys2Proof.Machine.execAcas g f ty s
  | .afadd g f ty rm => Sys2Proof.Machine.execAfadd g f ty rm s
  | .afmax g f ty => Sys2Proof.Machine.execAfmax g f ty s
  | .afmin g f ty => Sys2Proof.Machine.execAfmin g f ty s
  | .amax g f ty => Sys2Proof.Machine.execAmax g f ty s
  | .amin g f ty => Sys2Proof.Machine.execAmin g f ty s
  | .aor g f ty => Sys2Proof.Machine.execAor g f ty s
  | .aswap g f ty => Sys2Proof.Machine.execAswap g f ty s
  | .axor g f ty => Sys2Proof.Machine.execAxor g f ty s
  | .fadd g rm sat d a b => Sys2Proof.Machine.execFadd g rm sat d a b s
  | .fsub g rm sat d a b => Sys2Proof.Machine.execFsub g rm sat d a b s
  | .fmul g rm sat d a b => Sys2Proof.Machine.execFmul g rm sat d a b s
  | .ffma g rm sat d a b c => Sys2Proof.Machine.execFfma g rm sat d a b c s
  | .fdiv g rm sat d a b => Sys2Proof.Machine.execFdiv g rm sat d a b s
  | .fsqrt g rm sat d a => Sys2Proof.Machine.execFsqrt g rm sat d a s
  | .fmin g d a b => Sys2Proof.Machine.execFmin g d a b s
  | .fmax g d a b => Sys2Proof.Machine.execFmax g d a b s
  | .fcmp g cc d a b => Sys2Proof.Machine.execFcmp g cc d a b s
  | .fsgn g op d a b => Sys2Proof.Machine.execFsgn g op d a b s
  | .cvt g rm sat d a => Sys2Proof.Machine.execCvt g rm sat d a s
  | .fsfu g fn rm sat d a => Sys2Proof.Machine.execFsfu g fn rm sat d a s
  | .vadd h rm sat d a b => Sys2Proof.Machine.execVadd h rm sat d a b s
  | .vsub h rm sat d a b => Sys2Proof.Machine.execVsub h rm sat d a b s
  | .vmul h rm sat d a b => Sys2Proof.Machine.execVmul h rm sat d a b s
  | .vfma h rm sat d a b => Sys2Proof.Machine.execVfma h rm sat d a b s
  | .vmin h d a b => Sys2Proof.Machine.execVmin h d a b s
  | .vmax h d a b => Sys2Proof.Machine.execVmax h d a b s
  | .vand h d a b => Sys2Proof.Machine.execVand h d a b s
  | .vor h d a b => Sys2Proof.Machine.execVor h d a b s
  | .vxor h d a b => Sys2Proof.Machine.execVxor h d a b s
  | .vshl h d a b => Sys2Proof.Machine.execVshl h d a b s
  | .vshr h d a b => Sys2Proof.Machine.execVshr h d a b s
  | .vcmp h cc d a b => Sys2Proof.Machine.execVcmp h cc d a b s
  | .vsel h d a b => Sys2Proof.Machine.execVsel h d a b s
  | .vcvt h rm sat d a => Sys2Proof.Machine.execVcvt h rm sat d a s
  | .vld h w q rm sat d a b => Sys2Proof.Machine.execVld h w q rm sat d a b s
  | .vst h setf d a b => Sys2Proof.Machine.execVst h setf d a b s
  | .vldt h w d a b => Sys2Proof.Machine.execVldt h w d a b s
  | .vbcast h rm sat d a => Sys2Proof.Machine.execVbcast h rm sat d a s
  | .vred h op rm d a => Sys2Proof.Machine.execVred h op rm d a s
  | .vscan h op rm d a => Sys2Proof.Machine.execVscan h op rm d a s
  | .vperm h d a b => Sys2Proof.Machine.execVperm h d a b s
  | .vcomp h d a => Sys2Proof.Machine.execVcomp h d a s
  | .vexpd h d a => Sys2Proof.Machine.execVexpd h d a s
  | .viota h d a => Sys2Proof.Machine.execViota h d a s
  | .vsfu h fn rm d a => Sys2Proof.Machine.execVsfu h fn rm d a s
  | .vquant g gs d a e => Sys2Proof.Machine.execVquant g gs d a e s
  | .vdeq h gs rm sat d a e => Sys2Proof.Machine.execVdeq h gs rm sat d a e s
  | .vmovs g d a b => Sys2Proof.Machine.execVmovs g d a b s
  | .mcfg g src => Sys2Proof.Machine.execMcfg g src s
  | .mma g tr z gg t d a ws => Sys2Proof.Machine.execMma g tr z gg t d a ws s
  | .mdrain g tr acc d ws => Sys2Proof.Machine.execMdrain g tr acc d ws s
  | .mmap g tr d a ws => Sys2Proof.Machine.execMmap g tr d a ws s
  | .mclr g tr d ws => Sys2Proof.Machine.execMclr g tr d ws s
  | .xreduce g tr confine d a ws => Sys2Proof.Machine.execXreduce g tr confine d a ws s
  | .xgather g tr confine d a ws => Sys2Proof.Machine.execXgather g tr confine d a ws s
  | .xbcast g tr confine d a ws => Sys2Proof.Machine.execXbcast g tr confine d a ws s
  | .xmemberCreate g d a b => Sys2Proof.Machine.execXmemberCreate g d a b s
  | .xmemberShrink g d a b => Sys2Proof.Machine.execXmemberShrink g d a b s
  | .xmemberJoin g d a b => Sys2Proof.Machine.execXmemberJoin g d a b s
  | .xmemberLeave g d a => Sys2Proof.Machine.execXmemberLeave g d a s
  | .xlog g tr keepf d a ws => Sys2Proof.Machine.execXlog g tr keepf d a ws s
  | .semwait g n t take => Sys2Proof.Machine.execSemwait g n t take s
  | .semsig g n n1 => Sys2Proof.Machine.execSemsig g n n1 s
  | .semset g n v => Sys2Proof.Machine.execSemset g n v s
  | .semrd g d n => Sys2Proof.Machine.execSemrd g d n s
  | .qcfg g d a n => Sys2Proof.Machine.execQcfg g d a n s
  | .qcount g d n => Sys2Proof.Machine.execQcount g d n s
  | .msend g k a pl => Sys2Proof.Machine.execMsend g k a pl s
  | .spawn g a t => Sys2Proof.Machine.execSpawn g a t s
  | .sync g => Sys2Proof.Machine.execSync g s
  | .done g => Sys2Proof.Machine.execDone g s
  | .launch g tr lev d a ws => Sys2Proof.Machine.execLaunch g tr lev d a ws s
  | .genter g a => Sys2Proof.Machine.execGenter g a s
  | .gleave g => Sys2Proof.Machine.execGleave g s
  | .gbar g => Sys2Proof.Machine.execGbar g s
  | .gsize g d => Sys2Proof.Machine.execGsize g d s
  | .cmake g d a => Sys2Proof.Machine.execCmake g d a s
  | .csend g => Sys2Proof.Machine.execCsend g s
  | .cstop g d k => Sys2Proof.Machine.execCstop g d k s
  | .cins g a b => Sys2Proof.Machine.execCins g a b s
  | .cdel g n => Sys2Proof.Machine.execCdel g n s
  | .csetp g k a => Sys2Proof.Machine.execCsetp g k a s
  | .csplit g a b => Sys2Proof.Machine.execCsplit g a b s
  | .cdivert g a => Sys2Proof.Machine.execCdivert g a s
  | .vtopk g mn d a => Sys2Proof.Machine.execVtopk g mn d a s
  | .instructionPair e v => Sys2Proof.Machine.execInstructionPair e v s
  | .repack core => Sys2Proof.Machine.execRepack core s
  | .waitTimeout tid => Sys2Proof.Machine.execWaitTimeout tid s
  | .trapMessageStart core => Sys2Proof.Machine.execTrapMessageStart core s
  | .messageStart core => Sys2Proof.Machine.execMessageStart core s
  | .messageDrop id => Sys2Proof.Machine.execMessageDrop id s
  | .remotePush id => Sys2Proof.Machine.execRemotePush id s
  | .tailWriteSeen part lev => Sys2Proof.Machine.execTailWriteSeen part lev s
  | .threadPlacement quarter => Sys2Proof.Machine.execThreadPlacement quarter s
  | .launchCompletion launch => Sys2Proof.Machine.execLaunchCompletion launch s
  | .continuationStart tid => Sys2Proof.Machine.execContinuationStart tid s
  | .periodicSeek core => Sys2Proof.Machine.execPeriodicSeek core s
  | .seekProbe id => Sys2Proof.Machine.execSeekProbe id s
  | .dequeTake id => Sys2Proof.Machine.execDequeTake id s
  | .inc id => Sys2Proof.Machine.execInc id s
  | .incAcknowledgement id => Sys2Proof.Machine.execIncAcknowledgement id s
  | .hdr id => Sys2Proof.Machine.execHdr id s
  | .dec id => Sys2Proof.Machine.execDec id s
  | .decPrime id => Sys2Proof.Machine.execDecPrime id s
  | .test id => Sys2Proof.Machine.execTest id s
  | .testReply id => Sys2Proof.Machine.execTestReply id s
  | .decReply id => Sys2Proof.Machine.execDecReply id s
  | .genterAtBank id => Sys2Proof.Machine.execGenterAtBank id s
  | .genterReply id => Sys2Proof.Machine.execGenterReply id s
  | .genterWithdrawal id => Sys2Proof.Machine.execGenterWithdrawal id s
  | .gleaveAtBank id => Sys2Proof.Machine.execGleaveAtBank id s
  | .gbarArrival id => Sys2Proof.Machine.execGbarArrival id s
  | .gsizeAtBank id => Sys2Proof.Machine.execGsizeAtBank id s
  | .atomicAtOwner id => Sys2Proof.Machine.execAtomicAtOwner id s
  | .readAtOwner id => Sys2Proof.Machine.execReadAtOwner id s
  | .writeAtOwner id => Sys2Proof.Machine.execWriteAtOwner id s
  | .translationWalk id => Sys2Proof.Machine.execTranslationWalk id s
  | .landName id => Sys2Proof.Machine.execLandName id s
  | .sfuResult id => Sys2Proof.Machine.execSfuResult id s
  | .slotrdAtTarget id => Sys2Proof.Machine.execSlotrdAtTarget id s
  | .slotwrAtTarget id => Sys2Proof.Machine.execSlotwrAtTarget id s
  | .slotkillAtTarget id => Sys2Proof.Machine.execSlotkillAtTarget id s
  | .clusterFifoEntry id => Sys2Proof.Machine.execClusterFifoEntry id s
  | .copyTransfer id upTo => Sys2Proof.Machine.execCopyTransfer id upTo s
  | .gatherExecute id upTo => Sys2Proof.Machine.execGatherExecute id upTo s
  | .scatterExecute id upTo => Sys2Proof.Machine.execScatterExecute id upTo s
  | .scataddExecute id upTo => Sys2Proof.Machine.execScataddExecute id upTo s
  | .bankopExecute id upTo => Sys2Proof.Machine.execBankopExecute id upTo s
  | .dtloadExecute id => Sys2Proof.Machine.execDtloadExecute id s
  | .launchAppend id => Sys2Proof.Machine.execLaunchAppend id s
  | .mmaExecute id upTo => Sys2Proof.Machine.execMmaExecute id upTo s
  | .mmapExecute id => Sys2Proof.Machine.execMmapExecute id s
  | .mdrainExecute id upTo => Sys2Proof.Machine.execMdrainExecute id upTo s
  | .mdrainInboxTimeout id => Sys2Proof.Machine.execMdrainInboxTimeout id s
  | .mclrExecute id => Sys2Proof.Machine.execMclrExecute id s
  | .xreduceExecute id => Sys2Proof.Machine.execXreduceExecute id s
  | .xgatherExecute id => Sys2Proof.Machine.execXgatherExecute id s
  | .xbcastExecute id => Sys2Proof.Machine.execXbcastExecute id s
  | .collectiveDeadline id => Sys2Proof.Machine.execCollectiveDeadline id s
  | .xlogExecute id upTo => Sys2Proof.Machine.execXlogExecute id upTo s
  | .membershipChange set => Sys2Proof.Machine.execMembershipChange set s
  | .membershipAgreementTimeout id => Sys2Proof.Machine.execMembershipAgreementTimeout id s
  | .capsuleEntry id => Sys2Proof.Machine.execCapsuleEntry id s
  | .capsuleStopStart core => Sys2Proof.Machine.execCapsuleStopStart core s
  | .bankStop id => Sys2Proof.Machine.execBankStop id s
  | .homeStop id => Sys2Proof.Machine.execHomeStop id s
  | .egressArrival id => Sys2Proof.Machine.execEgressArrival id s
  | .sinkStop id => Sys2Proof.Machine.execSinkStop id s
  | .capsuleWaitTimeout id => Sys2Proof.Machine.execCapsuleWaitTimeout id s
  | .restartEntryStart core => Sys2Proof.Machine.execRestartEntryStart core s
  | .launchWatchdogExpiry launch => Sys2Proof.Machine.execLaunchWatchdogExpiry launch s
  | .queueStallWatchdog part lev => Sys2Proof.Machine.execQueueStallWatchdog part lev s
  | .currentLimiterEngage quarter => Sys2Proof.Machine.execCurrentLimiterEngage quarter s
  | .currentLimiterRelease quarter => Sys2Proof.Machine.execCurrentLimiterRelease quarter s
  | .uncorrectableError site => Sys2Proof.Machine.execUncorrectableError site s
  | .scrub site => Sys2Proof.Machine.execScrub site s
  | .coreOffline core => Sys2Proof.Machine.execCoreOffline core s
  | .flitReceived port bytes => Sys2Proof.Machine.execFlitReceived port bytes s
  | .replayTimeout port => Sys2Proof.Machine.execReplayTimeout port s
  | .portDown port => Sys2Proof.Machine.execPortDown port s
  | .hostRead pa n => Sys2Proof.Machine.execHostRead pa n s
  | .hostWrite pa bytes psn => Sys2Proof.Machine.execHostWrite pa bytes psn s
  | .mchkstatWrite v => Sys2Proof.Machine.execMchkstatWrite v s
  | .machineCheckReport => Sys2Proof.Machine.execMachineCheckReport s
  | .getVersion req => Sys2Proof.Machine.execGetVersion req s
  | .getCapabilities req => Sys2Proof.Machine.execGetCapabilities req s
  | .negotiateAlgorithms req => Sys2Proof.Machine.execNegotiateAlgorithms req s
  | .getDigests req => Sys2Proof.Machine.execGetDigests req s
  | .getCertificate req => Sys2Proof.Machine.execGetCertificate req s
  | .challenge req => Sys2Proof.Machine.execChallenge req s
  | .getMeasurements req => Sys2Proof.Machine.execGetMeasurements req s
  | .spdmSessionRequest req => Sys2Proof.Machine.execSpdmSessionRequest req s
  | .deviceReset img => Sys2Proof.Machine.execDeviceReset img s
  | .messageArrival id => Sys2Proof.Machine.execMessageArrival id s
  | .portRetrain port => Sys2Proof.Machine.execPortRetrain port s
  | .counterWrap unit idx ctr => Sys2Proof.Machine.execCounterWrap unit idx ctr s
  | .correctedError site => Sys2Proof.Machine.execCorrectedError site s

end Sys2Proof.Machine
end

