-- ==== Sys2Proof/Machine/Step.lean ====
section
/-! DEFINITION. One step of the device, and the placing of an instruction for the next step. -/

namespace Sys2Proof.Machine

/-- One step: an input, an event of the device, or the issue turn of one slot. -/
def step (s : State) : Host.Outcome State Fault Refusal :=
  match s.plan with
  | .run i s' => exec i s'
  | .done s' => .next s'

/-- The state with an instruction, its bits numbered as the opcode table numbers them, stored where the next step
fetches. -/
def State.withFetchWord (s : State) (nbits w : Nat) : State := s.placeWord nbits w

end Sys2Proof.Machine
end

