-- ==== Sys2Proof/Safety.lean ====
section
/-! DEFINITION. The terms in which the statements speak of the machine: when an op takes effect, what it reads and
writes, what memory holds, and the invariant of the device. Each of them is written from the rules of the spec, beside
the model's own functions. -/

namespace Sys2Proof.Machine

/-- A step goes on: it neither faults nor refuses. -/
def Goes (o : Host.Outcome State Fault Refusal) : Prop := ∃ t, o = .next t

/-- The invariant of the device: the bytes of memory and of the local stores keep their canonical form, and so do the
sparse maps of P and F bits. -/
def Inv (s : State) : Prop :=
  Memory.wf s.mem = true ∧ Memory.wf s.lmem = true ∧ mwf false s.memP = true ∧ mwf false s.lp = true ∧
    mwf false s.lf = true

/-! ### The issue of an op (R35, R36, R43, R323) -/

/-- The slot whose turn it is. -/
def State.me (s : State) : Slot := s.slot s.cur

/-- A guard lets its op take effect (R36): `nil`, or a full unpoisoned integer name that is nonzero, or zero under a
negated guard. -/
def GuardOn (s : State) (g : Guard) : Prop :=
  g.name = 0 ∨ ∃ n sg w md, s.me.nm g.name = some n ∧ n.kind = .int sg w md ∧ n.f = true ∧ n.p = false ∧
    (n.vals.headD 0 = 0 ↔ g.neg = true)

/-- A guard turns its op off (R36). -/
def GuardOff (s : State) (g : Guard) : Prop :=
  ∃ n sg w md, s.me.nm g.name = some n ∧ n.kind = .int sg w md ∧ n.f = true ∧ n.p = false ∧
    (n.vals.headD 0 = 0 ↔ g.neg = false)

/-- The names that an op uses are declared (R323). -/
def Declared (s : State) (g : Guard) (fs : List Ix) : Prop := ∀ i ∈ g.name :: fs, i.toNat ≤ s.me.names.length

/-- No operand that carries `!` is a queue name (R35, R76). -/
def NoSyncQueue (s : State) (m : List Opd) (d : Option Opd) : Prop :=
  ∀ q ∈ m ++ d.toList, q.sync = true → s.me.isQ q.ix = false

/-- An op with a guard, name fields, sources that may carry `!` and a destination that may, takes effect at its turn (R43):
its names are declared, its guard is on, and its `!` conditions hold (R35). -/
structure Ready (s : State) (g : Guard) (fs : List Ix) (m : List Opd) (d : Option Opd) : Prop where
  declared : Declared s g fs
  on       : GuardOn s g
  noQueue  : NoSyncQueue s m d
  full     : ∀ q ∈ m, q.sync = true → ∀ n, s.me.nm q.ix = some n → n.f = true
  empty    : ∀ q, d = some q → q.sync = true → ∀ n, s.me.nm q.ix = some n →
    n.f = false ∨ ∃ r ∈ m, r.sync = true ∧ r.ix = q.ix

/-- The state in which an op operates: its word is counted (R308), and its `!` sources are empty (R35). -/
def State.emptied (s : State) (m : List Opd) : State :=
  m.foldl (fun st q => if q.sync && !isNil q.ix then st.modName s.cur q.ix (fun n => { n with f := false }) else st) s.counted

/-- The slot goes on at the next word, with the loop-end check (R73). -/
def State.goOn (s st : State) : State :=
  st.modSlot s.cur (fun y => (y.loopEnd (s.me.pc + BitVec.ofNat 64 s.ilen)).run)

/-- The slot goes on at an address, without the loop-end check (R73, R74). -/
def State.goTo (s st : State) (pc : Word) : State := st.modSlot s.cur (fun y => { y with pc := pc }.run)

/-- No access of the slot whose turn it is stays under way to another device once those that the device can perform are
performed (log entry 15). -/
def Performed (s st : State) : Prop := (st.drain s.cur).busy s.cur = false

/-- The trap of an op at its turn (R43, R195): the slot's earlier accesses are performed first; while one of them is under
way to another device (log entry 15), the op only replays. -/
def State.trapped (s : State) (i : TrapInfo) : State :=
  s.trapAt s.cur s.me.pc (BitVec.ofNat 64 s.insn) i false

/-- A release of the slot whose turn it is at a scope (R197) has what must come first performed in its step, none of it
being under way to another device (log entries 15 and 21). -/
def Released (s st : State) (sc : Scope) : Prop := (st.releaseAt s.cur sc).unreleased s.cur sc = false

/-! ### What ops read and write (R42, R48, R76, R77) -/

/-- Reading a scalar name gives a value and its poison, and leaves a state: `nil` reads 0; a full name gives its value; a
name of a queue of the own core pops the oldest entry. -/
def Reads (s st : State) (i : Ix) (v : Val) (p : Bool) (st' : State) : Prop :=
  (i = 0 ∧ v = .int 0 ∧ p = false ∧ st' = st) ∨
  (∃ n sg w m, s.me.nm i = some n ∧ n.kind = .int sg w m ∧ n.f = true ∧ v = .int (n.vals.headD 0) ∧ p = n.p ∧ st' = st) ∨
  (∃ n k, s.me.nm i = some n ∧ n.kind = .flt k ∧ n.f = true ∧ v = .flt k (n.vals.headD 0).toNat ∧ p = n.p ∧ st' = st) ∨
  (∃ n q w l, s.me.nm i = some n ∧ n.kind = .queue (coreOf s.cur) q ∧ st.queue (coreOf s.cur) q = (w, p) :: l ∧
    v = .int w.toNat ∧ st' = st.setQueue (coreOf s.cur) q l)

/-- Reading an integer. -/
def ReadsInt (s st : State) (i : Ix) (v : Int) (p : Bool) (st' : State) : Prop := Reads s st i (.int v) p st'

/-- Writing an integer (R42): `nil` discards it; a name of `int` kind holds the fitted value and is full; a queue of the
own core with room, or of another core of the partition, gets the low 64 bits. -/
def WritesInt (s st : State) (i : Ix) (v : Int) (p : Bool) (st' : State) : Prop :=
  (i = 0 ∧ st' = st) ∨
  (∃ n sg w m y, s.me.nm i = some n ∧ n.kind = .int sg w m ∧ fitInt sg w m v = some y ∧
    st' = st.modName s.cur i (·.put [y] p)) ∨
  (∃ n q, s.me.nm i = some n ∧ n.kind = .queue (coreOf s.cur) q ∧ (st.queue (coreOf s.cur) q).length < 16 ∧
    Released s st .core ∧ st' = (st.releaseAt s.cur .core).setQueue (coreOf s.cur) q
      ((st.releaseAt s.cur .core).queue (coreOf s.cur) q ++ [(BitVec.ofInt 64 v, p)])) ∨
  (∃ n c q, s.me.nm i = some n ∧ n.kind = .queue c q ∧ c ≠ coreOf s.cur ∧ st.samePart c (coreOf s.cur) = true ∧
    (st.queue c q).length + st.pushesTo c q < 16 ∧
    Released s st .dev ∧ st' = (st.releaseAt s.cur .dev).send (.push s.cur s.me.epoch c q (BitVec.ofInt 64 v) p))

/-- Writing a float pattern of a kind (R42, R76): `nil` discards it; a name of the kind holds it and is full; a queue of
the own core with room, or of another core of the partition, gets it, zero-extended. -/
def WritesPat (s st : State) (i : Ix) (k : FK) (v : Nat) (p : Bool) (st' : State) : Prop :=
  (i = 0 ∧ st' = st) ∨
  (∃ n, s.me.nm i = some n ∧ n.kind = .flt k ∧ st' = st.modName s.cur i (·.put [(v : Int)] p)) ∨
  (∃ n q, s.me.nm i = some n ∧ n.kind = .queue (coreOf s.cur) q ∧ (st.queue (coreOf s.cur) q).length < 16 ∧
    Released s st .core ∧
    st' = (st.releaseAt s.cur .core).setQueue (coreOf s.cur) q
      ((st.releaseAt s.cur .core).queue (coreOf s.cur) q ++ [(BitVec.ofNat 64 v, p)])) ∨
  (∃ n c q, s.me.nm i = some n ∧ n.kind = .queue c q ∧ c ≠ coreOf s.cur ∧ st.samePart c (coreOf s.cur) = true ∧
    (st.queue c q).length + st.pushesTo c q < 16 ∧
    Released s st .dev ∧ st' = (st.releaseAt s.cur .dev).send (.push s.cur s.me.epoch c q (BitVec.ofNat 64 v) p))

/-- A scalar integer name of the slot. -/
def IntName (s : State) (i : Ix) : Prop := ∃ n sg w m, s.me.nm i = some n ∧ n.kind = .int sg w m

/-- A scalar float name of a kind. -/
def FltName (s : State) (i : Ix) (k : FK) : Prop := ∃ n, s.me.nm i = some n ∧ n.kind = .flt k

/-- The index is no queue name. -/
def NoQueue (s : State) (i : Ix) : Prop := s.me.isQ i = false

/-! ### Frames -/

/-- What an op that only computes on names leaves alone: every byte, P bit and F bit of memory and of the local stores;
every other slot; every unit and every request but the counters; of its own slot every register but the PC and the loop
counts, and every name but the destination `d`, where names read with `!` only lose their F bit. -/
structure NamesOnly (s t : State) (d : Option Ix) (m : List Opd) : Prop where
  mem      : ∀ a, Memory.read t.mem a = Memory.read s.mem a
  memP     : ∀ a, t.memPoison a = s.memPoison a
  lmem     : ∀ a, Memory.read t.lmem a = Memory.read s.lmem a
  lf       : ∀ c o, t.lsF c o = s.lsF c o
  lp       : ∀ c o, t.lsP c o = s.lsP c o
  slots    : ∀ u, u ≠ s.cur → t.slot u = s.slot u
  names    : ∀ i, d ≠ some i → ∀ n, s.me.nm i = some n →
    (t.slot s.cur).nm i = some n ∨ ((∃ q ∈ m, q.sync = true ∧ q.ix = i) ∧ (t.slot s.cur).nm i = some { n with f := false })
  own      : ∃ nms pc lc0 lc1, t.slot s.cur = { s.me with
    names := nms, pc := pc, lc0 := lc0, lc1 := lc1, st := .runnable, waiton := 0, kept := none, waitChecked := false }
  units    : t.clus = s.clus ∧ t.qtrs = s.qtrs ∧ t.banks = s.banks ∧ t.parts = s.parts ∧ t.launches = s.launches ∧
    t.ports = s.ports ∧ t.xsets = s.xsets
  sems     : ∀ c k, t.sem c k = s.sem c k
  queues   : ∀ c k, t.queue c k = s.queue c k
  pending  : t.inflight = s.inflight ∧ t.cmds = s.cmds ∧ t.mchkq = s.mchkq ∧ t.inputs = s.inputs ∧ t.cycle = s.cycle

end Sys2Proof.Machine
end

