-- ==== Sys2Proof/Certificates/Slice0/Obligations.lean ====
section
/-! DEFINITION. The statements. -/

namespace Sys2Proof.Machine

/-! ### Integer ops (R338 to R342, R350, R351, R358, R362, R377, R378, R382, R383, R386, R388, R392, R396, R400, R402,
R406, R414, R438) -/

/-- The width of an integer name, 64 for a queue name or `nil` (R350, R386, R400). -/
def IntWidth (x : Slot) (i : Ix) (w : Nat) : Prop :=
  (i = 0 ∧ w = 64) ∨ (∃ n c q, x.nm i = some n ∧ n.kind = .queue c q ∧ w = 64) ∨
    (∃ n sg m, x.nm i = some n ∧ n.kind = .int sg w m)

/-- An op on two integer sources and the exact result that its rule gives: of the slot, the indices of D and A, and the
values of A and B. -/
inductive IntOp2 : (Guard → Opd → Opd → Opd → Instr) → (Slot → Ix → Ix → Int → Int → Int → Prop) → Prop where
  | add : IntOp2 .add (fun _ _ _ a b r => r = a + b)
  | sub : IntOp2 .sub (fun _ _ _ a b r => r = a - b)
  | mul : IntOp2 .mul (fun _ _ _ a b r => r = a * b)
  | mulh : IntOp2 .mulh (fun x d _ a b r => ∃ w, IntWidth x d w ∧ r = (a * b).fdiv (2 ^ w))
  | div (nz : Bool) : IntOp2 (fun g d a b => .div g d a b nz) (fun _ _ _ a b r => b ≠ 0 ∧ r = a.tdiv b)
  | rem (nz : Bool) : IntOp2 (fun g d a b => .rem g d a b nz) (fun _ _ _ a b r => b ≠ 0 ∧ r = a.tmod b)
  | divNz : IntOp2 (fun g d a b => .div g d a b true) (fun _ _ _ _ b r => b = 0 ∧ r = 0)
  | remNz : IntOp2 (fun g d a b => .rem g d a b true) (fun _ _ _ _ b r => b = 0 ∧ r = 0)
  | and : IntOp2 .and (fun _ _ _ a b r => r = iand a b)
  | or : IntOp2 .or (fun _ _ _ a b r => r = ior a b)
  | xor : IntOp2 .xor (fun _ _ _ a b r => r = ixor a b)
  | andn : IntOp2 .andn (fun _ _ _ a b r => r = iand a (inot b))
  | shl : IntOp2 (fun g d a b => .shl g d a (.name b)) (fun _ _ _ a k r => r = shiftBy a k)
  | sra : IntOp2 (fun g d a b => .sra g d a (.name b)) (fun _ _ _ a k r => r = shiftBy a (-k))
  | shr : IntOp2 (fun g d a b => .shr g d a (.name b))
      (fun x _ i a k r => ∃ w, IntWidth x i w ∧ r = shiftBy (a % 2 ^ w) (-k))
  | rot : IntOp2 (fun g d a b => .rot g d a (.name b))
      (fun x _ i a k r => ∃ w u, IntWidth x i w ∧ u = rotBy w (umod w a) k ∧
        r = if srcSigned x i then sext w u else u)
  | min : IntOp2 .min (fun _ _ _ a b r => r = min a b)
  | max : IntOp2 .max (fun _ _ _ a b r => r = max a b)
  | cmp (cc : Cc) : IntOp2 (fun g d a b => .cmp g cc d a b) (fun _ _ _ a b r => r = if Cc.holds cc a b then 1 else 0)

/-- An op on one integer source, with its immediate, and the exact result that its rule gives. -/
inductive IntOp1 : (Guard → Opd → Opd → Instr) → (Slot → Ix → Int → Int → Prop) → Prop where
  | addi (v : Imm) : IntOp1 (fun g d a => .addi g d a v) (fun _ _ a r => r = a + Imm.sval v)
  | cmpi (cc : Cc) (v : ImmC) : IntOp1 (fun g d a => .cmpi g cc d a v)
      (fun _ _ a r => r = if Cc.holds cc a (ImmC.sval v) then 1 else 0)
  | abs : IntOp1 .abs (fun _ _ a r => r = a.natAbs)
  | clz : IntOp1 .clz (fun x i a r => ∃ w, IntWidth x i w ∧ r = clzOf w (umod w a))
  | ctz : IntOp1 .ctz (fun x i a r => ∃ w, IntWidth x i w ∧ r = ctzOf w (umod w a))
  | popc : IntOp1 .popc (fun x i a r => ∃ w, IntWidth x i w ∧ r = popOf w (umod w a))
  | shl (k : BitVec 6) : IntOp1 (fun g d a => .shl g d a (.imm k)) (fun _ _ a r => r = a * 2 ^ k.toNat)
  | sra (k : BitVec 6) : IntOp1 (fun g d a => .sra g d a (.imm k)) (fun _ _ a r => r = a.fdiv (2 ^ k.toNat))
  | shr (k : BitVec 6) : IntOp1 (fun g d a => .shr g d a (.imm k))
      (fun x i a r => ∃ w, IntWidth x i w ∧ r = (a % 2 ^ w).fdiv (2 ^ k.toNat))
  | rot (k : BitVec 6) : IntOp1 (fun g d a => .rot g d a (.imm k))
      (fun x i a r => ∃ w u, IntWidth x i w ∧ u = rotBy w (umod w a) k.toNat ∧ r = if srcSigned x i then sext w u else u)
  | ext (sg : Bool) (pos lenm1 : BitVec 6) : IntOp1 (fun g d a => .ext g sg d a pos lenm1)
      (fun _ _ a r => ∃ f, f = umod (lenm1.toNat + 1) (a.fdiv (2 ^ pos.toNat)) ∧
        r = if sg then sext (lenm1.toNat + 1) f else f)

/-! ### Float ops (R112 to R125, R357, R363 to R370) -/

/-- FFLAGS of the issuing slot gather flags (R120). -/
def State.raised (s st : State) (fl : BitVec 5) : State := st.modSlot s.cur (fun y => { y with fflags := y.fflags ||| fl })

/-- The FPE mask of the issuing slot's partition (R121). -/
def State.fpeMask (s : State) : BitVec 5 :=
  match s.cfgOf (coreOf s.cur) with
  | some g => g.fpe
  | none => 0

/-- A full float name of a kind and its pattern. -/
def FltIs (s : State) (i : Ix) (k : FK) (n : Nat) (p : Bool) : Prop :=
  ∃ y, s.me.nm i = some y ∧ y.kind = .flt k ∧ y.f = true ∧ n = (y.vals.headD 0).toNat ∧ p = y.p

/-- The kind in which a float op rounds (R364): that of D, or that of A for a queue name. -/
def RoundsIn (s : State) (d a : Ix) (k : FK) : Prop :=
  FltName s d k ∨ (s.me.isQ d = true ∧ FltName s a k)

/-- A float op on two sources and its exact result (R363). -/
inductive FltOp2 : (Guard → Rm → Bool → Opd → Opd → Opd → Instr) → (Rm → FV → FV → FRes) → Prop where
  | add : FltOp2 .fadd fAdd
  | sub : FltOp2 .fsub fSub
  | mul : FltOp2 .fmul (fun _ => fMul)
  | div : FltOp2 .fdiv (fun _ => fDiv)

/-- A result of a float op that is rounded once to the kind of its destination (R364): it traps with FPE where a flag that it
raises is enabled, and else raises its flags, is written with the poison `p`, and the slot goes on. -/
def RoundedOnce (i : Instr) (s st0 : State) (d a : Ix) (rm : Rm) (sat : Bool) (x : FRes) (p : Bool) : Prop :=
  ∀ k, RoundsIn s d a k →
    ((x.round k rm sat).2 &&& s.fpeMask ≠ 0 →
      Sys2Proof.Machine.exec i s = .next (s.trapped ⟨0x0D, ((x.round k rm sat).2 &&& s.fpeMask).toNat, 0, 0⟩)) ∧
    ((x.round k rm sat).2 &&& s.fpeMask = 0 → ∀ st,
      WritesPat s (s.raised st0 (x.round k rm sat).2) d k (x.round k rm sat).1 p st →
      Sys2Proof.Machine.exec i s = .next (s.goOn st))

/-- A float op with the destination `nil` raises the flags of its exact result and goes on; the flags of a rounding that no
kind is given for are free (log entry 42), and an exact result that is 0, infinite or a NaN has none of them. -/
def RoundedAway (i : Instr) (s st0 : State) (x : FRes) : Prop :=
  s.fpeMask = 0 → ∃ f n, f &&& (fNV ||| fDZ) = 0 ∧ ((∀ sg m e, x.v = .fin sg m e → m = 0) → f = 0) ∧
    Sys2Proof.Machine.exec i s = .next (s.goOn (s.raised { st0 with free := n } (x.fl ||| f)))

/-! ### Vector ops (R419 to R431) -/

/-- An operand of a vector op that can be read: `nil`, or a full name. -/
def VReads (s : State) (i : Ix) (v : VIn) (p : Bool) : Prop :=
  (i = 0 ∧ v = ⟨none, none, [0]⟩ ∧ p = false) ∨
  (∃ n, s.me.nm i = some n ∧ n.f = true ∧ v = ⟨n.kind.fk, n.kind.vshape, n.vals⟩ ∧ p = n.p)

/-- The mask of a vector op that can be read (R420): none, or a full integer vector. -/
def VMasks (s : State) (h : VH) (m : VMask) (p : Bool) : Prop :=
  (h.msk = 0 ∧ m = none ∧ p = false) ∨ (h.msk ≠ 0 ∧ s.me.isIVec h.msk = true ∧ ∃ v, m = some v ∧ VReads s h.msk v p)

/-- The elements of D that a vector op writes (R421): `f` gives the result of an element, with its flags, none for one that it
leaves as it is. D must be full where the op uses it or leaves an element as it is, no flag is enabled in FPE, and every result
fits; then the elements are in place, the poison is that of the sources and, where D was read, of D. -/
def VWrites (s st : State) (d : Ix) (usesD : Bool) (p : Bool) (f : NameSt → Nat → Nat → Option ERes) (st' : State) : Prop :=
  ∃ n es, s.me.nm d = some n ∧ es = (cells n.kind.shape.1 n.kind.shape.2).map (fun e => f n e.1 e.2) ∧
    (usesD = true ∨ none ∈ es → n.f = true) ∧ (∀ fl, some (none, fl) ∉ es) ∧ eflags es &&& s.fpeMask = 0 ∧
    st' = (s.raised st (eflags es)).modName s.cur d (·.put ((n.vals.zip es).map (fun e => match e.2 with
      | some (some v, _) => v
      | _ => e.1)) (p || (usesD || es.any Option.isNone) && n.p))

/-- An elementwise op: the classes of its operands D, A and B, whether it uses the elements of D, and the result of an active
element, from the kind of D, A, B, the element of D and the place. -/
inductive VElemOp : (VH → Opd → Opd → Opd → Instr) → (Ix → Ix → Ix → Slot → Bool) → Bool →
    (NKind → VIn → VIn → Int → Nat → Nat → ERes) → Prop where
  | vaddI : VElemOp (fun h => .vadd h .rne false) intVecs false (fun k a b _ i j => fitElem k (a.get i j + b.get i j))
  | vsubI : VElemOp (fun h => .vsub h .rne false) intVecs false (fun k a b _ i j => fitElem k (a.get i j - b.get i j))
  | vmulI : VElemOp (fun h => .vmul h .rne false) intVecs false (fun k a b _ i j => fitElem k (a.get i j * b.get i j))
  | vaddF (rm : Rm) (sat : Bool) : VElemOp (fun h => .vadd h rm sat) fltVecs false
      (fun k a b _ i j => rndElem k.efk rm sat (fAdd rm (a.fv i j) (b.fv i j)))
  | vsubF (rm : Rm) (sat : Bool) : VElemOp (fun h => .vsub h rm sat) fltVecs false
      (fun k a b _ i j => rndElem k.efk rm sat (fSub rm (a.fv i j) (b.fv i j)))
  | vmulF (rm : Rm) (sat : Bool) : VElemOp (fun h => .vmul h rm sat) fltVecs false
      (fun k a b _ i j => rndElem k.efk rm sat (fMul (a.fv i j) (b.fv i j)))
  | vfma (rm : Rm) (sat : Bool) : VElemOp (fun h => .vfma h rm sat) fltVecs true
      (fun k a b v i j => rndElem k.efk rm sat (fFma rm (a.fv i j) (b.fv i j) (k.efk.decode v.toNat)))
  | vminI : VElemOp .vmin intVecs false (fun k a b _ i j => fitElem k (min (a.get i j) (b.get i j)))
  | vmaxI : VElemOp .vmax intVecs false (fun k a b _ i j => fitElem k (max (a.get i j) (b.get i j)))
  | vminF : VElemOp .vmin fltVecs false (fun k a b _ i j =>
      (some (k.efk.exact (fMinMax false (a.fv i j) (b.fv i j)).1 : Int), (fMinMax false (a.fv i j) (b.fv i j)).2))
  | vmaxF : VElemOp .vmax fltVecs false (fun k a b _ i j =>
      (some (k.efk.exact (fMinMax true (a.fv i j) (b.fv i j)).1 : Int), (fMinMax true (a.fv i j) (b.fv i j)).2))
  | vand : VElemOp .vand (fun d a b x => intVecs d a b x || oneKind d a b x) false
      (fun k a b _ i j => fitElem k (iand (a.get i j) (b.get i j)))
  | vor : VElemOp .vor (fun d a b x => intVecs d a b x || oneKind d a b x) false
      (fun k a b _ i j => fitElem k (ior (a.get i j) (b.get i j)))
  | vxor : VElemOp .vxor (fun d a b x => intVecs d a b x || oneKind d a b x) false
      (fun k a b _ i j => fitElem k (ixor (a.get i j) (b.get i j)))
  | vshl : VElemOp .vshl intVecs false (fun k a b _ i j => fitElem k (shiftBy (a.get i j) (b.get i j)))
  | vshr : VElemOp .vshr intVecs false (fun k a b _ i j => fitElem k (shiftBy (a.get i j) (-b.get i j)))
  | vcmpI (cc : FCc) : cc ≠ .un → VElemOp (fun h => .vcmp h cc)
      (fun d a b x => x.isIVec d && x.isIVec a && (x.isIVec b || x.intNil b)) false
      (fun k a b _ i j => fitElem k (if Cc.holds (ccOf cc) (a.get i j) (b.get i j) then 1 else 0))
  | vcmpF (cc : FCc) : VElemOp (fun h => .vcmp h cc)
      (fun d a b x => x.isIVec d && x.isFVec a && (x.isFVec b || x.isFlt b)) false
      (fun k a b _ i j => ((fitElem k (if (fCompare cc (a.fv i j) (b.fv i j)).1 then 1 else 0)).1,
        (fCompare cc (a.fv i j) (b.fv i j)).2))

/-- A number lies below another (R119): by exact value, with −0 below +0; the infinities lie outside all others, and a NaN
below nothing and above nothing. -/
def FloatBelow : FV → FV → Prop
  | .nan _, _ => False
  | .inf _, .nan _ => False
  | .fin _ _ _, .nan _ => False
  | .inf n, .inf n' => n = true ∧ n' = false
  | .inf n, .fin _ _ _ => n = true
  | .fin _ _ _, .inf n' => n' = false
  | .fin n m e, .fin n' m' e' =>
    let v : Int := (if n then -(m : Int) else m) * 2 ^ (e - min e e').toNat
    let v' : Int := (if n' then -(m' : Int) else m') * 2 ^ (e' - min e e').toNat
    v < v' ∨ (m = 0 ∧ m' = 0 ∧ n = true ∧ n' = false)

/-- Where element (i, j) of a vector of element width `sw` lies (R425): its byte offset, and its first bit within the byte;
`tr` says that the vector is loaded transposed. -/
def VAt (tr : Bool) (o rs : Int) (sw i j : Nat) : VPlace :=
  if tr then ⟨o + j * rs + (i * sw / 8 : Nat), i * sw % 8, i, j⟩ else ⟨o + i * rs + (j * sw / 8 : Nat), j * sw % 8, i, j⟩

/-- A place and a stride in the local store that every active element of a vector of kind `k` may be accessed at (R425): the
bytes lie within the store, in U mode below the system words, and the offset and stride are aligned. -/
def VInStore (s : State) (h : VH) (m : VMask) (k : NKind) (tr : Bool) (o rs : Int) : Prop :=
  (8 ≤ k.sw → o % (k.sw / 8 : Nat) = 0 ∧ rs % (k.sw / 8 : Nat) = 0) ∧
  ∀ e ∈ cells k.shape.1 k.shape.2, activeAt h m e.1 e.2 = true →
    0 ≤ (VAt tr o rs k.sw e.1 e.2).off ∧
    (VAt tr o rs k.sw e.1 e.2).off + elemBytes k.sw ≤ if s.me.smode then 2 ^ 18 else 0x3E000

/-- The operands A and B of a vector access: offset and row stride, `nil` for rows without a gap. -/
def VOperands (s st : State) (h : VH) (d : Ix) (a b : Opd) (natural : Nat) (o rs : Int) : Prop :=
  s.me.isVec d = true ∧ NoQueue s a.ix ∧ NoQueue s b.ix ∧ (h.msk = 0 ∨ s.me.isIVec h.msk = true) ∧
  ReadsInt s st a.ix o false st ∧
  ((b.ix = 0 ∧ rs = natural) ∨ (b.ix ≠ 0 ∧ ReadsInt s st b.ix rs false st))

/-- The state in which a vector access to the local store acts: what must come before it has been performed. -/
def State.lsReady (s : State) (m : List Opd) (wr : Bool) : State :=
  (s.emptied m).drainFor (s.ctx.lsAcc (coreOf s.cur) 0 (2 ^ 18) wr)

/-- Nothing that must come before a vector access to the local store is under way to another device (log entry 15). -/
def LsOpen (s : State) (m : List Opd) (wr : Bool) : Prop :=
  (s.lsReady m wr).blocked (s.ctx.lsAcc (coreOf s.cur) 0 (2 ^ 18) wr) = false

/-- The flags of a packed load: `.q` descriptor fields (R426): q4 or q8, group size, sidecar offset. -/
def QDesc (v : Int) (q4 : Bool) (gsz soff : Nat) : Prop :=
  0 ≤ v ∧ v < 2 ^ 24 ∧ v / 2 ^ 22 = (if q4 then 1 else 2) ∧
  ((v / 2 ^ 20 % 4 = 0 ∧ gsz = 32) ∨ (v / 2 ^ 20 % 4 = 1 ∧ gsz = 64) ∨ (v / 2 ^ 20 % 4 = 2 ∧ gsz = 128)) ∧
  v / 2 ^ 18 % 4 = 0 ∧ v % 4 = 0 ∧ (soff : Int) = v % 2 ^ 18
/-! ### Control transfer, loops, registers, regions (R71 to R75, R266, R275 to R278, R332, R343, R347, R397 to R399, R412) -/

/-- A taken branch of the slot whose turn it is: the loops that the target leaves end, and execution goes on at the target
without the loop-end check (R71, R73, R74). -/
def State.branched (s st : State) (t : Word) : State := s.goTo (st.modSlot s.cur (fun y => y.branchTo t)) t

/-- The address after the word of the turn. -/
def State.afterPc (s : State) : Word := s.me.pc + BitVec.ofNat 64 s.ilen

/-- The target of B and BL: the absolute X64, or the word's address and four times the offset (R343). -/
def BranchTo (s : State) : Imm → Word → Prop
  | .i14 v, t => t = s.me.pc + 4 * v.signExtend 64
  | .x32 v, t => t = s.me.pc + 4 * v.signExtend 64
  | .x64 v, t => t = v

/-- The registers of the issuing slot that SREAD can read in every mode, by selector (R332). -/
inductive SelReg (s : State) : Nat → Word → Prop where
  | tid : SelReg s 0x00 (BitVec.ofNat 64 s.cur)
  | core : SelReg s 0x01 (BitVec.ofNat 64 (s.cur / 16))
  | cluster : SelReg s 0x02 (BitVec.ofNat 64 (s.cur / 128))
  | quarter : SelReg s 0x03 (BitVec.ofNat 64 (s.cur / 16384))
  | device : SelReg s 0x04 (BitVec.ofNat 64 s.devNum)
  | slot : SelReg s 0x05 (BitVec.ofNat 64 (s.cur % 16))
  | part : SelReg s 0x06 (BitVec.ofNat 64 (s.partNum (s.cur / 16)))
  | launchid : SelReg s 0x07 (BitVec.ofNat 64 s.me.launch)
  | cycle : SelReg s 0x08 (BitVec.ofNat 64 s.cycle)
  | fflags : SelReg s 0x09 (s.me.fflags.setWidth 64)
  | pc : SelReg s 0x0B s.me.pc
  | frame : SelReg s 0x0C s.me.frame
  | capbase : SelReg s 0x0D (BitVec.ofNat 64 s.me.capbase)
  | ls0 : SelReg s 0x0E s.me.ls0
  | le0 : SelReg s 0x0F s.me.le0
  | lc0 : SelReg s 0x10 (BitVec.ofNat 64 s.me.lc0)
  | ls1 : SelReg s 0x11 s.me.ls1
  | le1 : SelReg s 0x12 s.me.le1
  | lc1 : SelReg s 0x13 (BitVec.ofNat 64 s.me.lc1)
  | rgnpc : SelReg s 0x14 s.me.rgnpc
  | stepping : SelReg s 0x15 0xC0
  | archlevel : SelReg s 0x16 3
  | group : SelReg s 0x17 s.me.group

/-- The registers that SREAD can read in S mode alone (R265, R332). -/
inductive SelPriv (s : State) : Nat → Word → Prop where
  | epc : SelPriv s 0x0A s.me.epc
  | ecause : SelPriv s 0x1A s.me.ecause
  | eaddr : SelPriv s 0x1B s.me.eaddr

/-- The word that RGN saves for byte j of its live-in list, with its P bit (R275): 0 for an unused byte, else the value of the
full scalar name that the byte names. -/
def LiveIn (s : State) (l : Word) (j : Nat) (w : Word) (p : Bool) : Prop :=
  (liveIx l j = 0 ∧ w = 0 ∧ p = false) ∨
  ∃ n, s.me.nm (liveIx l j) = some n ∧ n.f = true ∧ p = n.p ∧
    ((∃ sg wd m, n.kind = .int sg wd m ∧ w = BitVec.ofInt 64 (n.vals.headD 0)) ∨
      (∃ k, n.kind = .flt k ∧ w = BitVec.ofNat 64 (n.vals.headD 0).toNat))
/-! ### Tunings and name bits (R44 to R61, R405, R432) -/

/-- A word of a tuning descriptor that an op of the turn can read in the state `st`: its page is translated and readable and
the word is not poisoned. -/
def DescWord (s st : State) (va : Nat) (w : Word) : Prop :=
  ∃ pa l, st.xlate (cluOf (coreOf s.cur)) (s.partNum (coreOf s.cur)) s.me.smode (va % 2 ^ 64) .rd = .ok pa l ∧
    st.memPoison pa = false ∧ w = st.memWord pa

/-- A name as its declaration leaves it (R48): zero, full, unpoisoned, with no result pending. -/
def Declares (n : NameSt) (k : NKind) : Prop :=
  n.kind = k ∧ n.f = true ∧ n.p = false ∧ n.pend = none ∧ (∀ v ∈ n.vals, v = 0) ∧
    n.vals.length = k.shape.1 * k.shape.2

/-- A name may take a new kind at once: it does so where it stands, or its op may begin the repack that it needs (R53, R59). -/
def MayGrow (s : State) (d : Ix) (n : NameSt) (k : NKind) : Prop :=
  s.growMoves s.cur (d.toNat - 1) n k = true → s.mayRepack s.cur = true

/-- FK of a float kind (R45). -/
def fkCode : FK → Nat
  | .f32 => 0 | .f16 => 1 | .bf16 => 2 | .e4m3 => 3 | .e5m2 => 4 | .a56 => 5
/-- MODE of a mode (R45). -/
def modeCode : Mode → Nat
  | .wrap => 0 | .sat => 1 | .trap => 2
/-! ### Accesses (R160 to R176, R187 to R200, R334, R335, R337, R413) -/

/-- The bytes that an access through a name moves (R163): the least of 1, 2, 4 and 8 that hold the name; 8 for a queue name and
`nil`. -/
def AccBytes (s : State) (i : Ix) (n : Nat) : Prop :=
  (i = 0 ∧ n = 8) ∨ (s.me.isQ i = true ∧ n = 8) ∨
  ∃ y w, s.me.nm i = some y ∧ ((∃ sg m, y.kind = .int sg w m) ∨ (∃ k, y.kind = .flt k ∧ w = k.width)) ∧
    n = if w ≤ 8 then 1 else if w ≤ 16 then 2 else if w ≤ 32 then 4 else 8

/-- Loaded bytes go to a name (R163): to an integer name as a number of its signedness, to a queue name as a word, to a float
name as its pattern, poisoned where an a56 word has a bit above bit 55; `nil` takes nothing. -/
def LoadsInto (s st : State) (i : Ix) (n raw : Nat) (p : Bool) (st' : State) : Prop :=
  (i = 0 ∧ st' = st) ∨
  (s.me.isQ i = true ∧ WritesInt s st i raw p st') ∨
  (∃ y sg w m, s.me.nm i = some y ∧ y.kind = .int sg w m ∧ WritesInt s st i (if sg then sext (8 * n) raw else raw) p st') ∨
  (∃ k, FltName s i k ∧ WritesPat s st i k (raw % 2 ^ k.width) (p || decide (k = .a56 ∧ 2 ^ 56 ≤ raw)) st')

/-- An offset in the own local store that an access of `n` bytes may use (R163): in range, in U mode below the system words,
and aligned. -/
def InLocal (s : State) (o : Int) (n : Nat) : Prop :=
  0 ≤ o ∧ o < (if s.me.smode then 2 ^ 18 else 0x3E000) ∧ o % n = 0

/-- An access of a slot to a local store (R191). -/
def lsAccOf (s : State) (c o n : Nat) (wr : Bool) (acq : Option Scope) : Acc := ⟨s.cur, s.me.epoch, .ls c o, n, wr, .rc, acq, false⟩

/-- The slot that a result is bound for still runs the work that asked for it (R174, R268). -/
def Lives (s : State) (d : Dst) : Prop :=
  (s.slot d.tid).epoch = d.ep ∧ (s.slot d.tid).st ≠ .free ∧ (s.slot d.tid).st ≠ .held

/-- The access of a far op at an address (R160, R164, R165): through the page that the cluster's cache holds for it, or to a
local store of the cluster. -/
def FarAcc (s st : State) (cl : Bool) (v : Int) (n : Nat) (k : AKind) (wr : Bool) (acq : Option Scope) (a : Acc) : Prop :=
  v % n = 0 ∧
  ((cl = false ∧ ∃ pa l, st.xlate (cluOf (coreOf s.cur)) (s.partNum (coreOf s.cur)) s.me.smode (umod 64 v) k = .ok pa l ∧
      a = ⟨s.cur, s.me.epoch, .mem pa, n, wr, l.ord, acq, l.trace⟩) ∨
   (cl = true ∧ ∃ c o, (v % 2 ^ 64 = (c * 2 ^ 18 + o : Nat)) ∧ c < 8 ∧ o < (if s.me.smode then 2 ^ 18 else 0x3E000) ∧
      s.samePart (cluOf (coreOf s.cur) * 8 + c) (coreOf s.cur) = true ∧
      a = lsAccOf s (cluOf (coreOf s.cur) * 8 + c) o n wr acq))

/-- An LDX, STX or atomic replays (R172): its slot has lost its turn, which counts (R308). -/
def State.replayedFar (s : State) : State := (s.modSlot s.cur Slot.run).count 0 (coreOf s.cur) 6 s.me.smode 1

/-- The name of a result that lands later is empty and waits for it (R48, R49). -/
def State.pending (s st : State) (d : Ix) : State :=
  let st' := { st with nextId := st.nextId + 1 }
  if d = 0 then st' else st'.modName s.cur d (fun y => { y with f := false, pend := some st.nextId })

/-- Where that result is bound for. -/
def State.resultOf (s st : State) (d : Ix) : Dst := ⟨s.cur, s.me.epoch, d.toNat, st.nextId⟩

/-- An atomic, what it does, and the type of its word (R175). -/
inductive AtomicOp : (Guard → AtomF → Instr) → AtOp → AtTy → Rm → Prop where
  | add (t : ITy) : AtomicOp (fun g f => .aadd g f t) .add (.int t) .rne
  | and (t : ITy) : AtomicOp (fun g f => .aand g f t) .and (.int t) .rne
  | cas (t : ITy) : AtomicOp (fun g f => .acas g f t) .cas (.int t) .rne
  | fadd (t : FTy) (rm : Rm) : AtomicOp (fun g f => .afadd g f t rm) .fadd (.flt t) rm
  | fmax (t : FTy) : AtomicOp (fun g f => .afmax g f t) .fmax (.flt t) .rne
  | fmin (t : FTy) : AtomicOp (fun g f => .afmin g f t) .fmin (.flt t) .rne
  | max (t : ITy) : AtomicOp (fun g f => .amax g f t) .max (.int t) .rne
  | min (t : ITy) : AtomicOp (fun g f => .amin g f t) .min (.int t) .rne
  | or (t : ITy) : AtomicOp (fun g f => .aor g f t) .or (.int t) .rne
  | swap (t : ITy) : AtomicOp (fun g f => .aswap g f t) .swap (.int t) .rne
  | xor (t : ITy) : AtomicOp (fun g f => .axor g f t) .xor (.int t) .rne

/-- An operand of an atomic, reduced to its type (R176). -/
def AtomIn (ty : AtTy) (rm : Rm) (v : Val) (r : Int) : Prop :=
  (∃ t n, ty = .int t ∧ v = .int n ∧ r = wrapTo (itySigned t) (ityBits t) n) ∨
  (∃ t k n, ty = .flt t ∧ v = .flt k n ∧ r = (k.convert (ftyFk t) rm false n).1) ∨
  (∃ t, ty = .flt t ∧ v = .int 0 ∧ r = 0)
/-! ### Semaphores, queues, messages, threads and groups -/

/-- A core that an op may name (R4, R269): of the issuing slot's partition. -/
def CoreNamed (s : State) (v : Int) (c : Nat) : Prop := v = c ∧ c ≤ 4095 ∧ s.samePart c (coreOf s.cur) = true

/-- The payload words of a message (R385): of each name the low 64 bits of its value, with its poison. -/
def Payload (s : State) : List Ix → List (Word × Bool) → Prop
  | [], ws => ws = []
  | i :: is, ws => ∃ w p rest, ws = (w, p) :: rest ∧ Payload s is rest ∧
      ((i = 0 ∧ w = 0 ∧ p = false) ∨
        ∃ n, s.me.nm i = some n ∧ n.f = true ∧ p = n.p ∧
          ((∃ sg wd m, n.kind = .int sg wd m ∧ w = BitVec.ofInt 64 (n.vals.headD 0)) ∨
            (∃ k, n.kind = .flt k ∧ w = BitVec.ofNat 64 (n.vals.headD 0).toNat)))

/-- The access of a frame header that an op of the turn makes (R93 to R95): translated for writing, in the common store or a
tier; the rows of R198 do not order it (log entry 14). -/
def FrameAcc (s st : State) (va : Word) (a : Acc) : Prop :=
  ∃ pa l, st.xlate (cluOf (coreOf s.cur)) (s.partNum (coreOf s.cur)) s.me.smode va.toNat .wr = .ok pa l ∧ isDev pa = true ∧
    a = ⟨s.cur, s.me.epoch, .mem pa, 32, true, .uo, none, l.trace⟩

/-- A slot that is between its thread and its next work (R64, R94 to R96): it holds nothing of its thread but its epoch. -/
def heldSlot (x : Slot) (h : Held) : Slot := { Slot.reset with st := .held, held := h, epoch := x.epoch }

/-- A request in flight to an owner in this device, when no earlier access must come first. -/
def AtOwner (s : State) (id : Nat) (r : Req) : Prop :=
  mfind id s.inflight = some r ∧ s.mayPerform id r = true ∧ ∀ a, r.acc = some a → a.far = false

/-- A partition has a live launch (R100, R108): one that is accepted and not pre-empted, or a record that has been seen in
one of its queues and is not accepted yet. -/
def LiveLaunch (s : State) (p : Nat) : Prop :=
  (∃ e ∈ s.launches, e.2.part = p ∧ e.2.susp = false) ∨
  ∃ g lev, (s.part p).cfg = some g ∧ g.lqb ≠ 0 ∧ lev < 4 ∧
    s.memRead (((s.part p).q lev).pa + 16) 8 + (if ((s.part p).q lev).cur.isSome then 1 else 0) < ((s.part p).q lev).tail

/-- Word `k` of the record or header at `pa` in a state. -/
def wordAt (s : State) (pa k : Nat) : Nat := s.memRead (pa + 8 * k) 8

/-- A slot waits in a GBAR that has arrived at the open barrier of the record at `pa` (R86, R373). -/
def WaitsIn (s : State) (pa : Nat) (u : Tid) : Prop :=
  (pa, u, (s.slot u).epoch) ∈ (s.bank (bankOf pa)).waiters ∧ (s.slot u).greq = .gbarSent ∧ (s.slot u).group ≠ 0 ∧
    (s.slot u).groupPa = pa ∧ (s.slot u).marker.map (·.2) = some (wordAt s pa 3)


/-! ### Traps and messages (R79 to R84, R261 to R266, R312, R313) -/

/-- The record of a trap (R262), field by field. -/
def TrapRecordOf (s st : State) (t : Tid) (pc insn : Word) (i : TrapInfo) (nested : Bool) : List Word :=
  [BitVec.ofNat 64 (i.cause + i.sub % 256 * 2 ^ 8 + i.name * 2 ^ 16), BitVec.ofNat 64 t, pc, insn, i.addr,
   BitVec.ofNat 64 (s.partNum (coreOf t) * 2 ^ 56 + (if (st.slot t).rgnpc ≠ 0 then 1 else 0) * 2 ^ 50 +
     (if nested then 1 else 0) * 2 ^ 49 + (if (st.slot t).smode then 1 else 0) * 2 ^ 48 + (st.slot t).epoch * 2 ^ 32 +
     (st.slot t).launch),
   BitVec.ofNat 64 st.cycle, (st.slot t).rgnpc]

/-- A slot parked by a trap (R65, R67, R261): every register is kept; PC is that of the trapped op and WAITON tells the
cause. -/
def parkedByTrap (x : Slot) (pc : Word) (i : TrapInfo) (inV : Bool) (cyc : Nat) : Slot :=
  { x with st := .trapped, pc := pc, trapslot := inV, kept := none, waitChecked := false, waitSince := cyc,
           waiton := BitVec.ofNat 64 (10 * 2 ^ 60 + i.sub % 256 * 256 + i.cause) }

/-- The ordinary message at the head of a core's port. -/
def HeadMsg (s : State) (c : Nat) (m : Msg) (ms : List Msg) : Prop := (s.core c).inTrap = [] ∧ (s.core c).inMsg = m :: ms
/-! ### Capsules (R228 to R258, R348, R349) -/

/-- The slot of the turn holds the capsule of a buffer of its core (R235). -/
def Holds (s st : State) (b : Nat) (x : CapBuf) : Prop := st.heldBuf s.cur = some (b, x)

/-- The slot lets its capsule go: the buffer is free and CAPBASE is 0 (R244, R250). -/
def State.lettingGo (s st : State) (b : Nat) : State :=
  (st.freeBufAt (coreOf s.cur) b).modSlot s.cur (fun y => { y with capbase := 0 })

/-- The place of the stop of a capsule is unavailable (R236): its stop word 0 is `w0`. -/
def NoPlace (s : State) (c : Capsule) (w0 : Word) : Prop :=
  let tgt := w0.toNat / 2 ^ 32 % 2 ^ 28
  (w0.toNat / 2 ^ 60 = 0 ∧ s.capCoreOk c.part tgt = false) ∨
  (w0.toNat / 2 ^ 60 = 1 ∧ s.classMembers c.part tgt = []) ∨
  (w0.toNat / 2 ^ 60 = 3 ∧ s.peerUp tgt = false) ∨
  (w0.toNat / 2 ^ 60 = 4 ∧ ((hOdev c.hdr = s.devNum ∧ s.capCoreOk c.part (hOtid c.hdr / 16) = false) ∨
    (hOdev c.hdr ≠ s.devNum ∧ s.peerUp (hOdev c.hdr) = false)))

/-- The flits in which a capsule goes to a peer, in their order: its image in pieces of 27 words, each with what it is, the
number of the capsule and the number of its first word before it (log entry 44); the last one ends the capsule. -/
def capsulePieces (src dev n : Nat) (c : Capsule) : List KeptFlit :=
  let m := max 1 ((c.image.length + 26) / 27)
  (List.range m).map (fun k => ⟨⟨0, 3, 0, src, dev, 0,
    [(xHead 0 10 0 src, false), (BitVec.ofNat 64 (n % 2 ^ 32 + 27 * k * 2 ^ 32), false)] ++ (c.image.drop (27 * k)).take 27⟩,
    if k + 1 = m then some c else none, 0⟩)

/-- A capsule at its next stop. -/
def Capsule.next (c : Capsule) : Capsule := { c with hdr := setH0 c.hdr 50 47 (hCur c.hdr + 1) }
/-! ### Engine commands (R140, R179 to R184, R346, R353 to R355) -/

/-- An engine has taken a command of the slot (R179 to R181, R275): the slot's earlier accesses are performed, the status
name is empty and waits, the command stands in the FIFO, RCOUNT and the counter of commands rise, and `clear` empties its
destination. -/
def State.accepted (s st : State) (d : Ix) (ws : Option Ws) (kind : CmdKind) (clear : State → State) : State :=
  let t := st.drain s.cur
  let u := s.pending t d
  let c : Cmd := ⟨s.cur, s.me.epoch, s.me.launch, s.me.bears, s.partNum (coreOf s.cur), s.me.smode, kind, ws,
    some (s.resultOf t d), s.me.rgnseq, 0, [], false, false, u.cycle, false, none⟩
  clear (({ u with nextId := u.nextId + 1, cmds := mset u.nextId c u.cmds }.modSlot s.cur
    (fun y => { y with rcount := y.rcount + 1 })).count 0 (coreOf s.cur) 5 s.me.smode 1)

/-- An engine command at its turn, its operands read in the state `st` (R180): with room in the FIFO of its core it is taken;
with the FIFO full it writes 1 to D with `.try`, and parks with KIND 7 without. -/
def Takes (i : Instr) (s st : State) (d : Ix) (tr : Bool) (ws : Option Ws) (kind : CmdKind) (clear : State → State) : Prop :=
  (st.fifoUse (coreOf s.cur) < 16 → Sys2Proof.Machine.exec i s = .next (s.goOn (s.accepted st d ws kind clear))) ∧
  (16 ≤ st.fifoUse (coreOf s.cur) → tr = true → ∀ st2, WritesInt s st d 1 false st2 →
    Sys2Proof.Machine.exec i s = .next (s.goOn st2)) ∧
  (16 ≤ st.fifoUse (coreOf s.cur) → tr = false →
    Sys2Proof.Machine.exec i s = .next ((s.parkWait s.cur (BitVec.ofNat 64 (7 * 2 ^ 60)) false).count 0 (coreOf s.cur) 3 s.me.smode 1))

/-- A place that a COPY names, `n` bytes long (R353). -/
def CopyPlace (s : State) (sp : CopySp) (v : Int) (n a : Nat) : Prop :=
  a = umod 64 v ∧ (sp = .va ∨
    (a % 8 = 0 ∧ a % 2 ^ 18 + n ≤ (if s.me.smode then 2 ^ 18 else 0x3E000) ∧
      ((sp = .loc ∧ a < 2 ^ 18) ∨
        (sp = .clu ∧ a < 2 ^ 21 ∧ s.samePart (cluOf (coreOf s.cur) * 8 + a / 2 ^ 18) (coreOf s.cur) = true))))

/-- An offset of a request of `n` bytes in the own local store (R345, R376). -/
def ReqPlace (s : State) (v : Int) (n o : Nat) : Prop :=
  v = o ∧ o % n = 0 ∧ o + n ≤ (if s.me.smode then 2 ^ 18 else 0x3E000)

/-- A local-store area whose words become empty at acceptance. -/
def emptyArea (s : State) (core off n : Nat) : State := s.clearF core off n

/-- A command at the head of its engine: it may start, or go on (R140, R181, R182). -/
def AtEngine (s : State) (id : Nat) (c : Cmd) : Prop := mfind id s.cmds = some c ∧ c.ended = none ∧ s.canRun id c = true

/-- The events of an engine command. -/
inductive EngineEvent (id : Id) : Instr → Prop where
  | copy (u : Option Nat) : EngineEvent id (.copyTransfer id u)
  | gather (u : Option Nat) : EngineEvent id (.gatherExecute id u)
  | scatter (u : Option Nat) : EngineEvent id (.scatterExecute id u)
  | scatadd (u : Option Nat) : EngineEvent id (.scataddExecute id u)
  | bankop (u : Option Nat) : EngineEvent id (.bankopExecute id u)
  | dtload : EngineEvent id (.dtloadExecute id)
  | launch : EngineEvent id (.launchAppend id)
  | mma (u : Option Nat) : EngineEvent id (.mmaExecute id u)
  | mmap : EngineEvent id (.mmapExecute id)
  | mdrain (u : Option Nat) : EngineEvent id (.mdrainExecute id u)
  | mclr : EngineEvent id (.mclrExecute id)
  | xreduce : EngineEvent id (.xreduceExecute id)
  | xgather : EngineEvent id (.xgatherExecute id)
  | xbcast : EngineEvent id (.xbcastExecute id)
  | xlog (u : Option Nat) : EngineEvent id (.xlogExecute id u)
  | deadline : EngineEvent id (.collectiveDeadline id)
  | inbox : EngineEvent id (.mdrainInboxTimeout id)

/-- The command has begun. -/
def Cmd.started (c : Cmd) : Cmd := { c with begun := true }

/-- The cluster's cache maps a range of VAs of a command onto a range of PAs outside the peer windows, each at its place within
its page, for an access that needs no trace entry. -/
def Mapped (s : State) (c : Cmd) (va pa n : Nat) (k : AKind) : Prop :=
  va + n ≤ 2 ^ 64 ∧ pa % 65536 = va % 65536 ∧ ∀ j < n, canonical (va + j) = true ∧ isPeer (pa + j) = false ∧
    ∃ l, s.cached c.clu c.part (va + j) = some l ∧ throughLeaf l (va + j) c.smode k = .ok (pa + j) l ∧ l.trace = false

/-- A word of the own local store is written and full. -/
def State.lsSet (s : State) (core off v : Nat) (p : Bool) : State := (s.lsWrite core off 8 v p).setLsF core off true

/-- What a Plectrum command of one element of eight bytes asks for (R215): row address `a` from its index entry. -/
structure OneRow (s : State) (c : Cmd) (req : List Word) (op : PlkOp) (a pa : Nat) (k : AKind) : Prop where
  ok    : (plkReq req).check op c.smode = none
  n     : (plkReq req).n = 1
  rb    : (plkReq req).rb = 8
  new   : c.aux = [] ∧ c.prog = 0
  idx   : s.lsP c.core (plkReq req).ioff = false
  addr  : a = (plkReq req).base + s.lsRead c.core (plkReq req).ioff (plkReq req).isz * (plkReq req).stride
  align : a % 8 = 0
  map   : Mapped s c a pa 8 k
  dev   : isDev pa = true

/-- The value of an element of an operand of a BANKOP at a PA (R177). -/
def elemAt (s : State) (k : FK) (pa i : Nat) : Nat := s.memRead (pa + i * k.bytes) k.bytes % 2 ^ k.width

/-- The elements that a BANKOP writes (R178). -/
def bankElem (s : State) (r : BankReq) (pa pb i : Nat) : Nat :=
  match r.op with
  | 0 => r.arg % 2 ^ (8 * r.dk.bytes)
  | 1 => ((fFma r.rm (FK.f32.decode r.arg) (r.sk.decode (elemAt s r.sk pb i)) (r.dk.decode (elemAt s r.dk pa i))).round
      r.dk r.rm r.sat).1
  | _ => (r.sk.convert r.dk r.rm r.sat (elemAt s r.sk pb i)).1

/-- An element of an int8 operand of an MMA whose row lies at a cluster-local address (R146). -/
def intAt (s : State) (cl a : Nat) : Int := sext 8 (s.lsRead (cl * 8 + a / 2 ^ 18) (a % 2 ^ 18) 1)

/-- No word of the rows of an operand is poisoned. -/
def rowsClean (s : State) (cl : Nat) (o : MOpd) (n : Nat) : Prop :=
  ∀ r ∈ o.rows, r.2 = false ∧ ∀ j < n, s.lsP (cl * 8 + r.1 / 2 ^ 18) (r.1 % 2 ^ 18 + j) = false

/-- The three collectives: their events, numbers and commands (R299, R303). -/
inductive Collective : (Id → Instr) → Nat → (Nat → Bool → CmdKind) → Prop where
  | reduce : Collective .xreduceExecute 1 .xreduce
  | gather : Collective .xgatherExecute 2 .xgather
  | bcast : Collective .xbcastExecute 3 .xbcast

/-- A collective whose descriptor, read now, is well formed (R300, R301). -/
structure CollDesc (s : State) (c : Cmd) (kind off : Nat) (ws : List Word) : Prop where
  new   : c.aux = []
  words : s.lsWords c.core off 4 = ws.map (fun w => (w, false))
  good  : (XDesc.of ws).bad kind = false
  align : (XDesc.of ws).sva % 8 = 0 ∧ (XDesc.of ws).dva % 8 = 0

/-- A collective that its set has recorded (R301, R303): its key, LSEQ, the cycle of the set's first descriptor, whether this
member's contribution is given, and the descriptor's words. -/
structure CollUnder (s : State) (c : Cmd) (kind key lseq first : Nat) (given : Bool) (ws : List Word) (x : XSet) : Prop where
  aux  : c.aux = [key, lseq, first, if given then 1 else 0] ++ ws.map (·.toNat)
  kind : c.prog = kind
  len  : ws.length = 4
  set  : mfind key s.xsets = some x

/-- What member `l` has contributed by a cycle (R300, R301): the words of its contribution. -/
def State.broughtBy (s : State) (x : XSet) (kind key lseq by_ : Nat) (d : XDesc) (l : Nat) : Option (List (Word × Bool)) :=
  gatherPieces (s.piecesOf kind (x.devs.getD l 1024) key lseq by_) d.words 0

/-- The members whose contribution is missing by a cycle: it has not arrived, or the member has withdrawn (R301, R434). -/
def State.missingBy (s : State) (x : XSet) (kind key lseq by_ : Nat) (d : XDesc) : List Nat :=
  (needed kind x d).filter (fun l => (s.broughtBy x kind key lseq by_ d l).isNone ||
    !(s.piecesOf 15 (x.devs.getD l 1024) key lseq s.cycle).isEmpty)

/-- One request for a change of a set is on its way, and no collective of the set is under way. -/
def OneChange (s : State) (id : Nat) (d : Dst) (part : Nat) (op : XmOp) (since : Nat) : Prop :=
  s.inflight = [(id, .xmember d part op since)] ∧ s.xBusy (setKey part op.set) = false
/-! ### Launches (R88, R102 to R109, R273, R274) -/

/-- The header of a launch queue at a PA holds its words unpoisoned, with its reserved fields zero (R102, R105). -/
structure HeaderIs (s : State) (pa ring logn head tail : Nat) : Prop where
  ring  : wordAt s pa 0 = ring
  logn  : wordAt s pa 1 = logn ∧ logn ≤ 16
  head  : wordAt s pa 2 = head
  tail  : wordAt s pa 3 = tail
  zero  : wordAt s pa 5 = 0 ∧ wordAt s pa 6 = 0 ∧ wordAt s pa 7 = 0
  clean : ∀ k < 8, s.memPoison (pa + 8 * k) = false

/-- Where thread `i` of a launch has its frame (R103). -/
def frameOf (l : Launch) (i : Nat) : Word :=
  nthW l.words 2 + BitVec.ofNat 64 (i * ((nthW l.words 3).toNat / 2 ^ 32))

/-- Words of zeros and the tuning's address stand in a frame header (R107). -/
def State.rootFrame (s : State) (pa : Nat) (tn : Word) : State :=
  (((s.putWord pa 0).putWord (pa + 8) 0).putWord (pa + 16) 0).putWord (pa + 24) tn.toNat
/-! ### Supervisor operations (R267, R271, R274, R281 to R286, R308, R389 to R391, R393, R407 to R411, R416 to R418) -/

/-- The supervisor-only operations with their name fields and the operands that may carry `!`. -/
inductive Supervisor (s : State) : Instr → Guard → List Ix → List Opd → Prop where
  | drain g (d : Ix) a : s.me.intNil d = true → s.me.intNil a.ix = true → Supervisor s (.pdrainDrain g d a) g [d, a.ix] [a]
  | part g (d : Ix) a : s.me.intNil d = true → s.me.intNil a.ix = true → Supervisor s (.pdrainDrainPart g d a) g [d, a.ix] [a]
  | save g (d : Ix) a b : s.me.intNil d = true → s.me.intNil a.ix = true → s.me.intNil b.ix = true →
      Supervisor s (.pdrainSave g d a b) g [d, a.ix, b.ix] [a, b]
  | resume g (d : Ix) b : s.me.intNil d = true → s.me.intNil b.ix = true → Supervisor s (.pdrainResume g d b) g [d, b.ix] [b]
  | preset g (d : Ix) a b : s.me.intNil d = true → s.me.intNil a.ix = true → s.me.intNil b.ix = true →
      Supervisor s (.preset g d a b) g [d, a.ix, b.ix] [a, b]
  | keep g (d : Ix) a : s.me.intNil d = true → s.me.intNil a.ix = true → Supervisor s (.presetKeep g d a) g [d, a.ix] [a]
  | slotrd g (d : Ix) a sp (sel : BitVec 8) : s.me.intNil d = true → s.me.intNil a.ix = true →
      Supervisor s (.slotrd g d a sp sel) g [d, a.ix] [a]
  | slotwr g (d : Ix) a b sp (sel : BitVec 8) run : s.me.intNil d = true → s.me.intNil a.ix = true → s.me.intNil b.ix = true →
      Supervisor s (.slotwr g d a b sp sel run) g [d, a.ix, b.ix] [a, b]
  | slotkill g (d : Ix) a : s.me.intNil d = true → s.me.intNil a.ix = true → Supervisor s (.slotkill g d a) g [d, a.ix] [a]
  | page g (d : Ix) a : s.me.intNil d = true → s.me.intNil a.ix = true → Supervisor s (.tlbinvPage g d a) g [d, a.ix] [a]
  | range g (d : Ix) a b : s.me.intNil d = true → s.me.intNil a.ix = true → s.me.intNil b.ix = true →
      Supervisor s (.tlbinvRange g d a b) g [d, a.ix, b.ix] [a, b]
  | ctx g (d : Ix) : s.me.intNil d = true → Supervisor s (.tlbinvCtx g d) g [d] []
  | all g (d : Ix) : s.me.intNil d = true → Supervisor s (.tlbinvAll g d) g [d] []
  | wdset g (d : Ix) a b : s.me.intNil d = true → s.me.intNil a.ix = true → s.me.intNil b.ix = true →
      Supervisor s (.wdset g d a b) g [d, a.ix, b.ix] [a, b]
  | pmcfg g a b z : IntName s a.ix → IntName s b.ix → Supervisor s (.pmcfg g a b z) g [a.ix, b.ix] [a, b]
  | pmrd g (d : Ix) a c : s.me.intNil d = true → IntName s a.ix → Supervisor s (.pmrd g d a c) g [d, a.ix] [a]
  | tracerd g (d : Ix) a b : s.me.intNil d = true → s.me.intNil a.ix = true → s.me.intNil b.ix = true →
      Supervisor s (.tracerd g d a (some b)) g [d, a.ix, b.ix] [a, b]
  | count g (d : Ix) a : s.me.intNil d = true → s.me.intNil a.ix = true → Supervisor s (.tracerd g d a none) g [d, a.ix] [a]

/-- An operation in S mode answers `code`: D is empty and pending, the result is on its way (R48, R174), and the slot goes
on. -/
def State.givesAtOnce (s st : State) (d : Ix) (code : Nat) : State :=
  s.goOn ((s.pending st d).send (.land (s.resultOf st d) (.int code) false 0))

/-- A PDRAIN or PRESET answers `code`, its work having led to `st`: D is empty and pending, the result is on its way and
lands once everything that the operation ended is performed (R289), and the slot goes on. -/
def State.gives (s st : State) (d : Ix) (code : Nat) : State :=
  s.goOn ((s.pending st d).send (.landAfter (s.resultOf st d) code))

/-- No core repacks, and no command of a set stands within a unit of its work, a row, an element or a line (R159, R226, R280):
a PDRAIN or PRESET acts at once. -/
def Settled (s : State) (which : Cmd → Prop) : Prop :=
  (∀ e ∈ s.cores, e.2.repack = none) ∧ ∀ e ∈ s.cmds, which e.2 → s.midUnit e.2 = false

/-- The issuing slot still runs its thread in a state. -/
def State.goesOnIn (s st : State) : Prop := (st.slot s.cur).epoch = s.me.epoch ∧ (st.slot s.cur).st = s.me.st

/-- A value that names a target slot (R267), on a core that the issuer may act on (R260). -/
def TargetIs (s : State) (v : Int) (w : Word) : Prop :=
  0 ≤ v ∧ v < 2 ^ 49 ∧ w = BitVec.ofInt 64 v ∧ w.toNat / 2 ^ 16 % 2 ^ 16 = 0 ∧
  (s.partNum (coreOf s.cur) = 0 ∨ s.partOf (w.toNat % 2 ^ 16 / 16) = some (s.partNum (coreOf s.cur)))

/-- A value that names a counter that the issuer may use (R390, R391). -/
def CounterIs (s : State) (v : Int) (unit idx k : Nat) : Prop :=
  v = (unit + 4 * k : Nat) ∧
  ((unit = 0 ∧ k < 8 ∧ idx = coreOf s.cur) ∨
   (unit = 1 ∧ k < 8 ∧ idx = cluOf (coreOf s.cur) ∧ s.samePart (8 * cluOf (coreOf s.cur)) (coreOf s.cur) = true) ∨
   (unit = 2 ∧ k < 32 ∧ idx = qtrOf (coreOf s.cur) ∧ s.partNum (coreOf s.cur) = 0))

/-- A request to a slot acts at its target: no repack of its core is under way, and no request is before it. -/
def AtTarget (s : State) (id : Nat) (r : Req) (t : Tid) : Prop :=
  mfind id s.inflight = some r ∧ s.repacking (coreOf t) = false ∧ (∀ e ∈ s.inflight, e.1 < id → e.2.slotPair = none)
/-! ### Errors, peer links and the host (R240, R290 to R298, R304 to R308) -/

/-- A record reaches partition 0 in a device whose partition 0 is configured: a trap message for its trap core (R265). -/
def ToPartition0 (s : State) (r : TrapRec) (t : State) : Prop :=
  ∃ g, (s.part 0).cfg = some g ∧ t = s.send (.msg ⟨0, 0, r.words.map (fun w => (w, false)), r.tid, g.trapc, true⟩)

/-- A request of the host's SPDM requester with its answer: byte 0 is the version, byte 1 the response code (R306, log entry
48). -/
def Answers (i : Instr) (s : State) (n : Nat) (hd : List Byte) (len : Nat) : Prop :=
  ∃ t : State, Sys2Proof.Machine.exec i s = .next t ∧ t.spdm.state = n ∧ t.spdm.resp.take hd.length = hd ∧
    t.spdm.resp.length = len ∧ t.mem = s.mem ∧ t.slots = s.slots
/-! ### The machine as a whole -/

/-- An instruction is an op, with its guard, name fields, kinds, `!` operands and operation (R43): one that may stand in a pair
(R327), or one of those that may not. -/
inductive OpOf : Instr → OpSpec → Prop where
  | pairable {i o} : specOf i = some o → OpOf i o
  | b g t : OpOf (.b g t) (specB g t)
  | bl g d t : OpOf (.bl g d t) (specBl g d t)
  | bx g d a : OpOf (.bx g d a) (specBx g d a)
  | ret g a : OpOf (.ret g a) (specRet g a)
  | loop g c o : OpOf (.loop g c o) (specLoop g c o)
  | lexit g : OpOf (.lexit g) (specLexit g)
  | trap g c : OpOf (.trap g c) (specTrap g c)
  | eret g : OpOf (.eret g) (specEret g)
  | rgn g f c l : OpOf (.rgn g f c l) (specRgn g f c l)
  | rgnend g : OpOf (.rgnend g) (specRgnend g)
  | ifence g : OpOf (.ifence g) (specIfence g)
  | yield g : OpOf (.yield g) (specYield g)
  | tune g src : OpOf (.tune g src) (specTune g src)
  | resize g d w : OpOf (.resize g d w) (specResize g d w)
  | shape g d v q : OpOf (.shape g d v q) (specShape g d v q)
  | width g d a : OpOf (.width g d a) (specWidth g d a)
  | pdrainDrain g d a : OpOf (.pdrainDrain g d a) (specPdrainDrain g d a)
  | pdrainDrainPart g d a : OpOf (.pdrainDrainPart g d a) (specPdrainDrainPart g d a)
  | pdrainSave g d a b : OpOf (.pdrainSave g d a b) (specPdrainSave g d a b)
  | pdrainResume g d b : OpOf (.pdrainResume g d b) (specPdrainResume g d b)
  | preset g d a b : OpOf (.preset g d a b) (specPreset g d a b)
  | presetKeep g d a : OpOf (.presetKeep g d a) (specPresetKeep g d a)
  | slotrd g d a sp sel : OpOf (.slotrd g d a sp sel) (specSlotrd g d a sp sel)
  | slotwr g d a b sp sel r : OpOf (.slotwr g d a b sp sel r) (specSlotwr g d a b sp sel r)
  | slotkill g d a : OpOf (.slotkill g d a) (specSlotkill g d a)
  | tlbinvPage g d a : OpOf (.tlbinvPage g d a) (specTlbinvPage g d a)
  | tlbinvRange g d a b : OpOf (.tlbinvRange g d a b) (specTlbinvRange g d a b)
  | tlbinvCtx g d : OpOf (.tlbinvCtx g d) (specTlbinvCtx g d)
  | tlbinvAll g d : OpOf (.tlbinvAll g d) (specTlbinvAll g d)
  | wdset g d a b : OpOf (.wdset g d a b) (specWdset g d a b)
  | pmcfg g a b z : OpOf (.pmcfg g a b z) (specPmcfg g a b z)
  | pmrd g d a c : OpOf (.pmrd g d a c) (specPmrd g d a c)
  | tracerd g d a b : OpOf (.tracerd g d a b) (specTracerd g d a b)
  | copy g m d a b n ws : OpOf (.copy g m d a b n ws) (specCopy g m d a b n ws)
  | spawn g a t : OpOf (.spawn g a t) (specSpawn g a t)
  | sync g : OpOf (.sync g) (specSync g)
  | done g : OpOf (.done g) (specDone g)
  | vtopk g mn d a : OpOf (.vtopk g mn d a) (specVtopk g mn d a)

/-- The names of an op are declared and of the kinds that it takes, and no `!` stands on a queue name (R35, R323). -/
def WellNamed (s : State) (o : OpSpec) : Prop :=
  Declared s o.g o.fields ∧ (o.g.name = 0 ∨ s.me.isInt o.g.name = true) ∧ o.kinds s.me = true ∧ NoSyncQueue s o.m o.d

/-- A `!` source waits for a full name, a `!` destination for an empty one (R35). -/
def AwaitsFull (s : State) (q : Opd) : Prop := q.sync = true ∧ ∃ n, s.me.nm q.ix = some n ∧ n.f = false
/-- A `!` destination that is no `!` source waits for an empty name (R35). -/
def AwaitsEmpty (s : State) (o : OpSpec) (q : Opd) : Prop :=
  o.d = some q ∧ q.sync = true ∧ (∃ n, s.me.nm q.ix = some n ∧ n.f = true) ∧ ∀ r ∈ o.m, r.sync = true → r.ix ≠ q.ix

/-- The name whose `!` condition fails first in an op (R35, R43): of its sources in their order, then of its destination. -/
def WaitsFor (s : State) (o : OpSpec) (i : Ix) : Prop :=
  (∃ pre q post, o.m = pre ++ q :: post ∧ (∀ r ∈ pre, ¬ AwaitsFull s r) ∧ AwaitsFull s q ∧ i = q.ix) ∨
  ((∀ r ∈ o.m, ¬ AwaitsFull s r) ∧ ∃ q, AwaitsEmpty s o q ∧ i = q.ix)

/-- The `!` conditions of an op hold (R35). -/
def WaitsForNone (s : State) (o : OpSpec) : Prop :=
  (∀ r ∈ o.m, ¬ AwaitsFull s r) ∧ ∀ q, ¬ AwaitsEmpty s o q

/-- The slot of the turn parks (R66 to R68), at the op of slot 1 of a pair or not. -/
def State.parksAt (s : State) (w : Word) (inV : Bool) : State :=
  (s.parkWait s.cur w inV).count 0 (coreOf s.cur) 3 s.me.smode 1

/-- A queue to which a name is bound. -/
def QueueName (s : State) (i : Ix) (c q : Nat) : Prop := ∃ n, s.me.nm i = some n ∧ n.kind = .queue c q

/-- A condition of an op of a pair fails at the start of the turn, the conditions `before` of the same word having been met
(R76, R77, R179, R200, R328): what the pair does then. -/
inductive Fails (s : State) (before : List Need) : Need → Stop → Prop where
  | pop {i q} : QueueName s i (coreOf s.cur) q →
      (s.queue (coreOf s.cur) q).length ≤ s.ctx.popsOf before (coreOf s.cur, q) →
      Fails s before (.pop i) (.park (BitVec.ofNat 64 (3 * 2 ^ 60 + q % 2 ^ 51)))
  | pushOwn {i q} : QueueName s i (coreOf s.cur) q →
      16 + s.ctx.popsOf before (coreOf s.cur, q) ≤
        (s.queue (coreOf s.cur) q).length + s.ctx.pushesOf before (coreOf s.cur, q) →
      Fails s before (.push i) (.park (BitVec.ofNat 64 (4 * 2 ^ 60 + (q + coreOf s.cur * 32) % 2 ^ 51)))
  | pushFar {i c q} : QueueName s i c q → c ≠ coreOf s.cur → s.samePart c (coreOf s.cur) = true →
      16 + s.ctx.popsOf before (c, q) ≤ (s.queue c q).length + s.pushesTo c q + s.ctx.pushesOf before (c, q) →
      Fails s before (.push i) (.park (BitVec.ofNat 64 (4 * 2 ^ 60 + (q + c * 32) % 2 ^ 51)))
  | cmd : 16 ≤ s.fifoUse (coreOf s.cur) + cmdsOf before → Fails s before (.cmd false) (.park (BitVec.ofNat 64 (7 * 2 ^ 60)))
  | fence {sc} : s.unperformed s.cur sc = true → Fails s before (.fence sc) (.replay false none)

/-- The first condition of a word that fails at the start of the turn, and whether it is of the op of slot 1. -/
def FailsFirst (s : State) (ns : List (Need × Bool)) (e : Stop) (v : Bool) : Prop :=
  ∃ pre n post, ns = pre ++ (n, v) :: post ∧ Fails s (pre.map (·.1)) n e ∧
    ∀ p q r, pre = p ++ q :: r → ∀ e', ¬ Fails s (p.map (·.1)) q.1 e'

/-- Every condition of a word holds at the start of the turn. -/
def HoldAll (s : State) (ns : List (Need × Bool)) : Prop := ∀ p q r, ns = p ++ q :: r → ∀ e, ¬ Fails s (p.map (·.1)) q.1 e

/-- The conditions of an op of a pair, as those of its slot 0 or 1. -/
def OpSpec.conds (o : OpSpec) (v : Bool) : List (Need × Bool) := o.needs.map (fun n => (n, v))

/-- What a condition that fails makes of the turn: the slot parks, or the pair replays. -/
def Stopped (s : State) (v : Bool) : Stop → State → Prop
  | .park w, t => t = s.parksAt w v
  | .replay _ _, t => t = s.modSlot s.cur Slot.run
  | _, _ => False

/-- A state with further sources of its turn emptied (R35). -/
def State.emptyOn (s st : State) (m : List Opd) : State :=
  m.foldl (fun st q => if q.sync && !isNil q.ix then st.modName s.cur q.ix (fun n => { n with f := false }) else st) st

/-- The state in which a turn begins: time has come to the turn, and the slot is the one that issues. -/
def State.turnAt (s : State) (c : Nat) (t : Tid) : State :=
  { s.advanceTo c with turnCore := coreOf t + 1, cur := t }

/-- The next thing that the device does is the turn of slot `t` at cycle `c`: it is a further turn of the cycle under way, or
no boot is under way, no input waits, no event of the device is due, and no repack ends and no search begins before. -/
def TurnComes (s : State) (c : Nat) (t : Tid) : Prop :=
  s.nextTurn = some (c, t) ∧
  ((s.turnCore ≠ 0 ∧ c = s.cycle) ∨
   (s.boot = none ∧ s.inputs = [] ∧ s.autoEvent = none ∧ (∀ d, s.repackEnd = some d → c < d) ∧ ∀ d, s.wakeAt = some d → c ≤ d))

end Sys2Proof.Machine

open Sys2Proof Sys2Proof.Machine

/-- R338, R341, R342, R351, R358, R377, R378, R386, R388, R396, R400, R406, R414, R438: an op on two integer names, queue
names or `nil`, whose names are declared, whose guard is on and whose `!` conditions hold, reads A and then B at their exact
values, writes its exact result, fitted to D, with the OR of the sources' poison, and goes on at the next word. -/
def Clause.IntegerTwoSourceOps : Prop :=
  ∀ c r, IntOp2 c r → ∀ g d a b s st1 st2 st3 va vb vr p q,
    Ready s g [d.ix, a.ix, b.ix] [a, b] (some d) →
    ReadsInt s (s.emptied [a, b]) a.ix va p st1 → ReadsInt s st1 b.ix vb q st2 →
    r s.me d.ix a.ix va vb vr → WritesInt s st2 d.ix vr (p || q) st3 →
    Sys2Proof.Machine.exec (c g d a b) s = .next (s.goOn st3)

/-- R336, R340, R350, R351, R362, R392, R400, R406: the same for the ops on one source. -/
def Clause.IntegerOneSourceOps : Prop :=
  ∀ c r, IntOp1 c r → ∀ g d a s st1 st2 va vr p,
    Ready s g [d.ix, a.ix] [a] (some d) →
    ReadsInt s (s.emptied [a]) a.ix va p st1 → r s.me a.ix va vr → WritesInt s st1 d.ix vr p st2 →
    Sys2Proof.Machine.exec (c g d a) s = .next (s.goOn st2)

/-- R375, R377, R382, R383, R402: MADD, SEL, MOV, MOVI and INS. MADD adds the product of A and B to C; SEL takes A where C is
not zero, else B; MOV copies; MOVI writes its constant, to a float name its low bits as a pattern; INS writes the low bits of
A into a field of D. -/
def Clause.IntegerMovesAndMultiplyAdd : Prop :=
  (∀ g d a b c s st1 st2 st3 st4 va vb vc p q r,
    Ready s g [d.ix, a.ix, b.ix, c] [a, b] (some d) →
    ReadsInt s (s.emptied [a, b]) a.ix va p st1 → ReadsInt s st1 b.ix vb q st2 → ReadsInt s st2 c vc r st3 →
    WritesInt s st3 d.ix (va * vb + vc) (p || q || r) st4 →
    Sys2Proof.Machine.exec (.madd g d a b c) s = .next (s.goOn st4)) ∧
  (∀ g d a b c s st0 st1 st2 st3 va vb vc p q r,
    Ready s g [d.ix, a.ix, b.ix, c] [a, b] (some d) → IntName s c →
    ReadsInt s (s.emptied [a, b]) c vc r st0 → Reads s st0 a.ix va p st1 → Reads s st1 b.ix vb q st2 →
    ((∃ n m, va = .int n ∧ vb = .int m ∧ s.me.intOk d.ix = true ∧
        WritesInt s st2 d.ix (if vc ≠ 0 then n else m) (if vc ≠ 0 then r || p else r || q) st3) ∨
     (∃ k n m, va = .flt k n ∧ vb = .flt k m ∧ (d.ix = 0 ∨ FltName s d.ix k) ∧
        WritesPat s st2 d.ix k (if vc ≠ 0 then n else m) (if vc ≠ 0 then r || p else r || q) st3)) →
    Sys2Proof.Machine.exec (.sel g d a b c) s = .next (s.goOn st3)) ∧
  (∀ g d a s st1 st2 va p,
    Ready s g [d.ix, a.ix] [a] (some d) → Reads s (s.emptied [a]) a.ix va p st1 →
    ((∃ n, va = .int n ∧ WritesInt s st1 d.ix n p st2) ∨
     (∃ k n, va = .flt k n ∧ d.ix ≠ 0 ∧ WritesPat s st1 d.ix k n p st2)) →
    Sys2Proof.Machine.exec (.mov g d a) s = .next (s.goOn st2)) ∧
  (∀ g d imm s st1,
    Ready s g [d.ix] [] (some d) →
    (WritesInt s s.counted d.ix (moviVal s.me d.ix imm) false st1 ∨
     (∃ k, FltName s d.ix k ∧ WritesPat s s.counted d.ix k (umod k.width (moviVal s.me d.ix imm)) false st1)) →
    Sys2Proof.Machine.exec (.movi g d imm) s = .next (s.goOn st1)) ∧
  (∀ g d a pos lenm1 s st0 st1 st2 vd va p q n sg w m,
    Ready s g [d, a.ix] [a] none → s.me.nm d = some n → n.kind = .int sg w m →
    ReadsInt s (s.emptied [a]) d vd p st0 → ReadsInt s st0 a.ix va q st1 →
    WritesInt s st1 d (insVal sg w vd va pos.toNat (lenm1.toNat + 1)) (p || q) st2 →
    Sys2Proof.Machine.exec (.ins g d a pos lenm1) s = .next (s.goOn st2))

/-- R111, R358, R396: a divisor of zero raises DIV0 (0x0E), unless the op carries `.nz` or the divisor is poisoned; a poisoned
zero divisor gives 0, poisoned. -/
def Clause.DivideByZero : Prop :=
  ∀ c ∈ [(fun g d a b => Instr.div g d a b false), (fun g d a b => Instr.rem g d a b false)],
  ∀ (g : Guard) (d a b : Opd) s st1 st2 st3 va p q,
    Ready s g [d.ix, a.ix, b.ix] [a, b] (some d) → s.me.intOk d.ix = true →
    ReadsInt s (s.emptied [a, b]) a.ix va p st1 → ReadsInt s st1 b.ix 0 q st2 →
    (q = false → Sys2Proof.Machine.exec (c g d a b) s = .next (s.trapped ⟨0x0E, 0, 0, 0⟩)) ∧
    (q = true → WritesInt s st2 d.ix 0 true st3 → Sys2Proof.Machine.exec (c g d a b) s = .next (s.goOn st3))

/-- R42, R110: an integer op whose exact result does not fit a destination of mode `trap` raises WIDTH (3) subcode 1 with
NAME = D, and nothing of the op takes effect. -/
def Clause.ResultTooWideTraps : Prop :=
  ∀ c r, IntOp2 c r → ∀ g d a b s st1 st2 va vb vr p q n sg w,
    Ready s g [d.ix, a.ix, b.ix] [a, b] (some d) →
    ReadsInt s (s.emptied [a, b]) a.ix va p st1 → ReadsInt s st1 b.ix vb q st2 → r s.me d.ix a.ix va vb vr →
    s.me.nm d.ix = some n → n.kind = .int sg w .trap → (vr < imin sg w ∨ imax sg w < vr) →
    Sys2Proof.Machine.exec (c g d a b) s = .next (s.trapped ⟨3, 1, d.ix.toNat, 0⟩)

/-- The frame of the integer ops on names, MADD, SEL, MOV, MOVI and INS among them: where no operand is a queue name, nothing but
the destination, the F bits of `!` sources, the PC and the loop counts changes. -/
def Obligations.IntegerOpsFrame : Prop :=
  (∀ c r, IntOp2 c r → ∀ g d a b s st1 st2 st3 va vb vr p q,
    Ready s g [d.ix, a.ix, b.ix] [a, b] (some d) → NoQueue s d.ix → NoQueue s a.ix → NoQueue s b.ix →
    ReadsInt s (s.emptied [a, b]) a.ix va p st1 → ReadsInt s st1 b.ix vb q st2 →
    r s.me d.ix a.ix va vb vr → WritesInt s st2 d.ix vr (p || q) st3 →
    ∃ t, Sys2Proof.Machine.exec (c g d a b) s = .next t ∧ NamesOnly s t (some d.ix) [a, b]) ∧
  (∀ c r, IntOp1 c r → ∀ g d a s st1 st2 va vr p,
    Ready s g [d.ix, a.ix] [a] (some d) → NoQueue s d.ix → NoQueue s a.ix →
    ReadsInt s (s.emptied [a]) a.ix va p st1 → r s.me a.ix va vr → WritesInt s st1 d.ix vr p st2 →
    ∃ t, Sys2Proof.Machine.exec (c g d a) s = .next t ∧ NamesOnly s t (some d.ix) [a]) ∧
  (∀ g d a b c s st1 st2 st3 st4 va vb vc p q r,
    Ready s g [d.ix, a.ix, b.ix, c] [a, b] (some d) → NoQueue s d.ix → NoQueue s a.ix → NoQueue s b.ix → NoQueue s c →
    ReadsInt s (s.emptied [a, b]) a.ix va p st1 → ReadsInt s st1 b.ix vb q st2 → ReadsInt s st2 c vc r st3 →
    WritesInt s st3 d.ix (va * vb + vc) (p || q || r) st4 →
    ∃ t, Sys2Proof.Machine.exec (.madd g d a b c) s = .next t ∧ NamesOnly s t (some d.ix) [a, b]) ∧
  (∀ g d a b c s st0 st1 st2 va vb vc p q r,
    Ready s g [d.ix, a.ix, b.ix, c] [a, b] (some d) → NoQueue s d.ix → NoQueue s a.ix → NoQueue s b.ix → IntName s c →
    ReadsInt s (s.emptied [a, b]) c vc r st0 → Reads s st0 a.ix va p st1 → Reads s st1 b.ix vb q st2 →
    ((∃ n m st3, va = .int n ∧ vb = .int m ∧ s.me.intOk d.ix = true ∧
        WritesInt s st2 d.ix (if vc ≠ 0 then n else m) (if vc ≠ 0 then r || p else r || q) st3) ∨
     (∃ k n m, va = .flt k n ∧ vb = .flt k m ∧ (d.ix = 0 ∨ FltName s d.ix k))) →
    ∃ t, Sys2Proof.Machine.exec (.sel g d a b c) s = .next t ∧ NamesOnly s t (some d.ix) [a, b]) ∧
  (∀ g d a s st1 va p,
    Ready s g [d.ix, a.ix] [a] (some d) → NoQueue s d.ix → NoQueue s a.ix → Reads s (s.emptied [a]) a.ix va p st1 →
    ((∃ n st2, va = .int n ∧ WritesInt s st1 d.ix n p st2) ∨ (∃ k n, va = .flt k n ∧ FltName s d.ix k)) →
    ∃ t, Sys2Proof.Machine.exec (.mov g d a) s = .next t ∧ NamesOnly s t (some d.ix) [a]) ∧
  (∀ g d imm s, Ready s g [d.ix] [] (some d) → NoQueue s d.ix →
    ((∃ st1, WritesInt s s.counted d.ix (moviVal s.me d.ix imm) false st1) ∨ ∃ k, FltName s d.ix k) →
    ∃ t, Sys2Proof.Machine.exec (.movi g d imm) s = .next t ∧ NamesOnly s t (some d.ix) []) ∧
  (∀ g d a pos lenm1 s st0 st1 st2 vd va p q n sg w m,
    Ready s g [d, a.ix] [a] none → NoQueue s a.ix → s.me.nm d = some n → n.kind = .int sg w m →
    ReadsInt s (s.emptied [a]) d vd p st0 → ReadsInt s st0 a.ix va q st1 →
    WritesInt s st1 d (insVal sg w vd va pos.toNat (lenm1.toNat + 1)) (p || q) st2 →
    ∃ t, Sys2Proof.Machine.exec (.ins g d a pos lenm1) s = .next t ∧ NamesOnly s t (some d) [a])

/-- R341, R342, R388, R438, R375: AND, OR, XOR and ANDN act on every bit of the unbounded two's complement strings of their
sources, and INS replaces the bits of its field that lie below the width and keeps the others. -/
def Clause.BitwiseResults : Prop :=
  (∀ (a b : Int) (k : Nat),
    (iand a b / 2 ^ k % 2 = 1 ↔ a / 2 ^ k % 2 = 1 ∧ b / 2 ^ k % 2 = 1) ∧
    (ior a b / 2 ^ k % 2 = 1 ↔ a / 2 ^ k % 2 = 1 ∨ b / 2 ^ k % 2 = 1) ∧
    (ixor a b / 2 ^ k % 2 = 1 ↔ ¬(a / 2 ^ k % 2 = 1 ↔ b / 2 ^ k % 2 = 1)) ∧
    (iand a (inot b) / 2 ^ k % 2 = 1 ↔ a / 2 ^ k % 2 = 1 ∧ ¬ b / 2 ^ k % 2 = 1)) ∧
  (∀ (sg : Bool) (w pos len k : Nat) (d a : Int), 1 ≤ w → w ≤ 64 → 1 ≤ len → pos + len ≤ 64 → k < w →
    (insVal sg w d a pos len / 2 ^ k % 2 = 1 ↔
      if pos ≤ k ∧ k < pos + len then a / 2 ^ (k - pos) % 2 = 1 else d / 2 ^ k % 2 = 1))

/-- R406: a count of any size shifts exactly. The model cuts a count to ±200 (log entry 51); in every destination the result is
that of the exact shift. -/
def Clause.ShiftCountsAreExact : Prop :=
  ∀ (sg : Bool) (w : Nat) (m : Mode) (v k : Int), 1 ≤ w → w ≤ 64 → -(2 ^ 63) ≤ v → v < 2 ^ 64 →
    fitInt sg w m (shiftBy v k) = fitInt sg w m (if 0 ≤ k then v * 2 ^ k.toNat else v.fdiv (2 ^ (-k).toNat)) ∧
    BitVec.ofInt 64 (shiftBy v k) = BitVec.ofInt 64 (if 0 ≤ k then v * 2 ^ k.toNat else v.fdiv (2 ^ (-k).toNat))

/-- R363 to R365, R120, R121: FADD, FSUB, FMUL, FDIV, FFMA and FSQRT compute the exact result of their full float sources,
round it once to the kind of D, or of A for a queue D, in the mode RM with SAT, and write it with the OR of the sources'
poison. -/
def Clause.FloatArithmeticRoundsOnce : Prop :=
  (∀ c f, FltOp2 c f → ∀ g rm sat d a b s ka na p kb nb q,
    Ready s g [d.ix, a.ix, b.ix] [a, b] (some d) → FltIs s a.ix ka na p → FltIs s b.ix kb nb q →
    RoundedOnce (c g rm sat d a b) s (s.emptied [a, b]) d.ix a.ix rm sat (f rm (ka.decode na) (kb.decode nb)) (p || q) ∧
    (d.ix = 0 → RoundedAway (c g rm sat d a b) s (s.emptied [a, b]) (f rm (ka.decode na) (kb.decode nb)))) ∧
  (∀ g rm sat d a b c s ka na p kb nb q kc nc r,
    Ready s g [d.ix, a.ix, b.ix, c] [a, b] (some d) → FltIs s a.ix ka na p → FltIs s b.ix kb nb q → FltIs s c kc nc r →
    RoundedOnce (.ffma g rm sat d a b c) s (s.emptied [a, b]) d.ix a.ix rm sat
      (fFma rm (ka.decode na) (kb.decode nb) (kc.decode nc)) (p || q || r) ∧
    (d.ix = 0 → RoundedAway (.ffma g rm sat d a b c) s (s.emptied [a, b])
      (fFma rm (ka.decode na) (kb.decode nb) (kc.decode nc)))) ∧
  (∀ g rm sat d a s ka na p,
    Ready s g [d.ix, a.ix] [a] (some d) → FltIs s a.ix ka na p →
    RoundedOnce (.fsqrt g rm sat d a) s (s.emptied [a]) d.ix a.ix rm sat (fSqrt (ka.decode na)) p ∧
    (d.ix = 0 → RoundedAway (.fsqrt g rm sat d a) s (s.emptied [a]) (fSqrt (ka.decode na))))

/-- R366, R367, R370: FCMP writes 1 or 0 to an integer destination and raises the flags of its comparison; FMIN and FMAX
deliver one of their operands, or the canonical NaN, in the kind of D, or of A for a queue D; FSGN gives A the sign that
its operation makes and raises nothing. -/
def Clause.FloatCompareMinMaxSign : Prop :=
  (∀ g cc d a b s ka na p kb nb q st,
    Ready s g [d.ix, a.ix, b.ix] [a, b] (some d) → FltIs s a.ix ka na p → FltIs s b.ix kb nb q →
    (fCompare cc (ka.decode na) (kb.decode nb)).2 &&& s.fpeMask = 0 →
    WritesInt s (s.raised (s.emptied [a, b]) (fCompare cc (ka.decode na) (kb.decode nb)).2) d.ix
      (if (fCompare cc (ka.decode na) (kb.decode nb)).1 then 1 else 0) (p || q) st →
    Sys2Proof.Machine.exec (.fcmp g cc d a b) s = .next (s.goOn st)) ∧
  (∀ c mx, (c = Instr.fmin ∧ mx = false) ∨ (c = Instr.fmax ∧ mx = true) → ∀ g d a b s ka na p kb nb q k r fl st,
    Ready s g [d.ix, a.ix, b.ix] [a, b] (some d) → FltIs s a.ix ka na p → FltIs s b.ix kb nb q →
    ((∃ y, s.me.nm d.ix = some y ∧ y.kind = .flt k ∧ k.holds ka = true ∧ k.holds kb = true) ∨
      (s.me.isQ d.ix = true ∧ k = ka ∧ k.holds kb = true) ∨ d.ix = 0) →
    fMinMax mx (ka.decode na) (kb.decode nb) = (r, fl) → fl &&& s.fpeMask = 0 →
    WritesPat s (s.raised (s.emptied [a, b]) fl) d.ix k
      (match r with
        | .nan _ => k.cnan
        | .inf n => k.signed n k.infPat
        | .fin n m e => (k.roundFin .rne false n m e).1) (p || q) st →
    Sys2Proof.Machine.exec (c g d a b) s = .next (s.goOn st)) ∧
  (∀ g op d a b s k na p kb nb q sg st,
    Ready s g (if op = .abs then [d.ix, a.ix] else [d.ix, a.ix, b.ix]) [a, b] (some d) → FltIs s a.ix k na p →
    (op = .abs ∧ b = ⟨0, false⟩ ∧ q = false ∨ op ≠ .abs ∧ FltIs s b.ix kb nb q) →
    sg = (match op with
      | .cpy => kb.signOf nb
      | .neg => !kb.signOf nb
      | .xor => k.signOf na != kb.signOf nb
      | .abs => false) →
    (d.ix = 0 ∨ FltName s d.ix k) →
    WritesPat s (s.emptied [a, b]) d.ix k (k.signed sg (na % k.signBit)) (p || q) st →
    Sys2Proof.Machine.exec (.fsgn g op d a b) s = .next (s.goOn st))

/-- R357: CVT between float kinds and between floats and integers, rounded once in RM; the range rules of R123 hold towards an
integer name. A flag that FPE enables raises FPE (0x0D) and nothing of the op takes effect (R121). (Which flags a float raises
towards `nil` is the model's choice: NV where it is a NaN or an infinity, NX where it is no integer, log entry 42.) -/
def Clause.ConversionsRoundOnce : Prop :=
  (∀ g rm sat d a s k v p st0 fl r st,
    Ready s g [d.ix, a.ix] [a] (some d) → FltName s d.ix k → Reads s (s.emptied [a]) a.ix v p st0 →
    (match v with
      | .flt l n => l.convert k rm sat n
      | .int n => k.ofInt rm sat n) = (r, fl) → fl &&& s.fpeMask = 0 →
    WritesPat s (s.raised st0 fl) d.ix k r p st →
    Sys2Proof.Machine.exec (.cvt g rm sat d a) s = .next (s.goOn st)) ∧
  (∀ g rm d a s l n p y sg w m r fl st,
    Ready s g [d.ix, a.ix] [a] (some d) → s.me.nm d.ix = some y → y.kind = .int sg w m → FltIs s a.ix l n p →
    floatToInt rm sg w m (l.decode n) = some (r, fl) → fl &&& s.fpeMask = 0 →
    WritesInt s (s.raised (s.emptied [a]) fl) d.ix r p st →
    Sys2Proof.Machine.exec (.cvt g rm false d a) s = .next (s.goOn st)) ∧
  (∀ g rm d a s l n p y sg w m,
    Ready s g [d.ix, a.ix] [a] (some d) → s.me.nm d.ix = some y → y.kind = .int sg w m → FltIs s a.ix l n p →
    floatToInt rm sg w m (l.decode n) = none →
    Sys2Proof.Machine.exec (.cvt g rm false d a) s = .next (s.trapped ⟨3, 1, d.ix.toNat, 0⟩)) ∧
  (∀ g rm d a s l n p fl, Ready s g [d.ix, a.ix] [a] (some d) → d.ix = 0 → FltIs s a.ix l n p →
    fl = (match l.decode n with
      | .nan _ => fNV
      | .inf _ => fNV
      | .fin sg m e => if (roundInt rm sg m e).2 then fNX else 0) →
    fl &&& s.fpeMask = 0 →
    Sys2Proof.Machine.exec (.cvt g rm false d a) s = .next (s.goOn (s.raised (s.emptied [a]) fl))) ∧
  (∀ g rm sat d a s k v p st0 fl r,
    Ready s g [d.ix, a.ix] [a] (some d) → FltName s d.ix k → Reads s (s.emptied [a]) a.ix v p st0 →
    (match v with
      | .flt l n => l.convert k rm sat n
      | .int n => k.ofInt rm sat n) = (r, fl) → fl &&& s.fpeMask ≠ 0 →
    Sys2Proof.Machine.exec (.cvt g rm sat d a) s = .next (s.trapped ⟨0x0D, (fl &&& s.fpeMask).toNat, 0, 0⟩)) ∧
  (∀ g rm d a s l n p y sg w m r fl,
    Ready s g [d.ix, a.ix] [a] (some d) → s.me.nm d.ix = some y → y.kind = .int sg w m → FltIs s a.ix l n p →
    floatToInt rm sg w m (l.decode n) = some (r, fl) → fl &&& s.fpeMask ≠ 0 →
    Sys2Proof.Machine.exec (.cvt g rm false d a) s = .next (s.trapped ⟨0x0D, (fl &&& s.fpeMask).toNat, 0, 0⟩))

/-- R116, R118: rounding a value that a kind holds gives its own pattern and raises no flag, in every mode, with SAT or
without. -/
def Clause.RoundingKeepsHeldValues : Prop :=
  ∀ (k : FK) (rm : Rm) (sat : Bool) (n : Nat) (neg : Bool) (m : Nat) (e : Int), n < 2 ^ k.width →
    k.decode n = .fin neg m e → k.roundFin rm sat neg m e = (n, 0)

/-- R49, R63, R368: FSFU leaves its destination empty and pending and sends its operand to the special-function unit; at
SFU_RESULT the value lands, with its flags, in a name that still waits for it, unless the core's register store is being
repacked or the unit serves an earlier operation of the core. -/
def Obligations.SpecialFunctionLandsLater : Prop :=
  (∀ g fn rm sat d a s k n p,
    Ready s g [d.ix, a.ix] [a] (some d) → FltIs s a.ix k n p → k ≠ .a56 → (∃ l, FltName s d.ix l) →
    let st := s.emptied [a]
    Sys2Proof.Machine.exec (.fsfu g fn rm sat d a) s = .next (s.goOn
      ((({ st with nextId := st.nextId + 1 }).modName s.cur d.ix (fun y => { y with f := false, pend := some st.nextId })).send
        (.sfu ⟨s.cur, s.me.epoch, d.ix.toNat, st.nextId⟩ fn rm sat [some (toF32 k n)] 0 p)))) ∧
  (∀ id s dst fn rm sat n p y l,
    mfind id s.inflight = some (.sfu dst fn rm sat [some n] 0 p) → s.repacking (coreOf dst.tid) = false →
    (∀ e ∈ s.inflight, e.1 < id → ∀ q fn rm sat src c p, e.2 = .sfu q fn rm sat src c p → coreOf q.tid ≠ coreOf dst.tid) →
    Lives s dst → dst.ix ≠ 0 → (s.slot dst.tid).names[dst.ix - 1]? = some y → y.pend = some dst.tk → y.kind = .flt l →
    ∃ t, Sys2Proof.Machine.exec (.sfuResult id) s = .next t ∧ t.inflight = mdel id s.inflight ∧
      (t.slot dst.tid).names[dst.ix - 1]? = some { y with
        vals := [((sfuResult fn rm sat l n).1 : Int)], f := true, p := p, pend := none } ∧
      (t.slot dst.tid).fflags = (s.slot dst.tid).fflags ||| (sfuResult fn rm sat l n).2)

/-- R419 to R422: an elementwise op reads A, B and its mask, computes each active element of the extent (the smallest shape
of its vector operands) at the elements' exact values, fits or rounds it to the element kind of D, leaves every other element
as it is, and goes on. -/
def Clause.VectorElementwiseRule : Prop :=
  ∀ c cls u f, VElemOp c cls u f → ∀ h d a b s va vb m pa pb pm st,
    Ready s h.g [d.ix, a.ix, b.ix, h.msk] [a, b] (some d) → cls d.ix a.ix b.ix s.me = true →
    VReads s a.ix va pa → VReads s b.ix vb pb → VMasks s h m pm →
    VWrites s (s.emptied [a, b]) d.ix u (pa || pb || pm)
      (fun n i j => if i < (extent s.ctx [d.ix, a.ix, b.ix]).1 ∧ j < (extent s.ctx [d.ix, a.ix, b.ix]).2 ∧
          activeAt h m i j = true then
        some (f n.kind va vb ((n.vals[i * n.kind.shape.2 + j]?).getD 0) i j) else none) st →
    Sys2Proof.Machine.exec (c h d a b) s = .next (s.goOn st)

/-- R422, R423: VSEL takes A where the mask is active and B elsewhere; VCVT converts the active elements; VBCAST gives every
row the scalar A or row 0 of A; VPERM gathers the columns of A that B names, 0 for one outside A; VCOMP packs the active
columns of A, VEXPD unpacks them; VIOTA numbers the elements from A. -/
def Obligations.VectorMovesOps : Prop :=
  (∀ h d a b s va vb m pa pb pm st,
    Ready s h.g [d.ix, a.ix, b.ix, h.msk] [a, b] (some d) → (intVecs d.ix a.ix b.ix s.me || fltVecs d.ix a.ix b.ix s.me) = true →
    h.msk ≠ 0 → VReads s a.ix va pa → VReads s b.ix vb pb → VMasks s h m pm →
    VWrites s (s.emptied [a, b]) d.ix false (pa || pb || pm)
      (fun n i j => if i < (extent s.ctx [d.ix, a.ix, b.ix]).1 ∧ j < (extent s.ctx [d.ix, a.ix, b.ix]).2 then
        some (if activeAt h m i j then moveElem n.kind va i j else ((moveElem n.kind vb i j).1, 0)) else none) st →
    Sys2Proof.Machine.exec (.vsel h d a b) s = .next (s.goOn st)) ∧
  (∀ h rm sat d a s va m pa pm st,
    Ready s h.g [d.ix, a.ix, 0, h.msk] [a, ⟨0, false⟩] (some d) →
    ((s.me.isFVec d.ix && (s.me.isFVec a.ix || s.me.isIVec a.ix)) || (s.me.isIVec d.ix && s.me.isFVec a.ix && !sat)) = true →
    VReads s a.ix va pa → VMasks s h m pm →
    VWrites s (s.emptied [a, ⟨0, false⟩]) d.ix false (pa || pm)
      (fun n i j => if i < (extent s.ctx [d.ix, a.ix, 0]).1 ∧ j < (extent s.ctx [d.ix, a.ix, 0]).2 ∧ activeAt h m i j = true then
        some (match n.kind with
          | .ivec sg w md _ _ => match floatToInt rm sg w md (va.fv i j) with
            | none => (none, 0)
            | some (r, fl) => (some r, fl)
          | k => rndElem k.efk rm sat (.pure (va.fv i j))) else none) st →
    Sys2Proof.Machine.exec (.vcvt h rm sat d a) s = .next (s.goOn st)) ∧
  (∀ h rm sat d a s va m pa pm st,
    Ready s h.g [d.ix, a.ix, h.msk] [a] (some d) →
    ((s.me.isIVec d.ix && (s.me.isIVec a.ix || s.me.intNil a.ix) && decide (rm = .rne) && !sat) ||
      (s.me.isFVec d.ix && (s.me.isFVec a.ix || s.me.isFlt a.ix))) = true →
    VReads s a.ix va pa → VMasks s h m pm →
    VWrites s (s.emptied [a]) d.ix false (pa || pm)
      (fun n i j => if j < (extent s.ctx [d.ix, a.ix]).2 ∧ activeAt h m i j = true then
        some (match n.kind.fk with
          | none => fitElem n.kind (va.get 0 j)
          | some q => rndElem q rm sat (.pure (va.fv 0 j))) else none) st →
    Sys2Proof.Machine.exec (.vbcast h rm sat d a) s = .next (s.goOn st)) ∧
  (∀ h d a b s va vb m pa pb pm st,
    Ready s h.g [d.ix, a.ix, b.ix, h.msk] [a, b] (some d) → sameClass s.me d.ix a.ix = true → s.me.isIVec b.ix = true →
    VReads s a.ix va pa → VReads s b.ix vb pb → VMasks s h m pm →
    VWrites s (s.emptied [a, b]) d.ix false (pa || pb || pm)
      (fun n i j => if i < (extent s.ctx [d.ix, b.ix]).1 ∧ j < (extent s.ctx [d.ix, b.ix]).2 ∧ activeAt h m i j = true then
        some (if 0 ≤ vb.get i j ∧ vb.get i j < ((va.shape.getD (0, 0)).2 : Int) ∧ i < (va.shape.getD (0, 0)).1 then
          moveElem n.kind va i (vb.get i j).toNat else fitElem n.kind 0) else none) st →
    Sys2Proof.Machine.exec (.vperm h d a b) s = .next (s.goOn st)) ∧
  (∀ h d a s va m pa pm st,
    Ready s h.g [d.ix, a.ix, h.msk] [a] (some d) → sameElem s.me d.ix a.ix = true → h.msk ≠ 0 →
    VReads s a.ix va pa → VMasks s h m pm →
    (VWrites s (s.emptied [a]) d.ix false (pa || pm)
      (fun n i j => if i < (extent s.ctx [d.ix, a.ix]).1 then
        (((List.range (va.shape.getD (0, 0)).2).filter (fun q => activeAt h m i q))[j]?).map
          (fun q => moveElem n.kind va i q) else none) st →
      Sys2Proof.Machine.exec (.vcomp h d a) s = .next (s.goOn st)) ∧
    (VWrites s (s.emptied [a]) d.ix false (pa || pm)
      (fun n i j => if i < (extent s.ctx [d.ix, a.ix]).1 then
        (if activeAt h m i j && decide (((List.range j).filter (fun q => activeAt h m i q)).length < (va.shape.getD (0, 0)).2) then
          some ((List.range j).filter (fun q => activeAt h m i q)).length else none).map
          (fun q => moveElem n.kind va i q) else none) st →
      Sys2Proof.Machine.exec (.vexpd h d a) s = .next (s.goOn st))) ∧
  (∀ h d a s va m pa pm st,
    Ready s h.g [d.ix, a.ix, h.msk] [a] (some d) → s.me.isIVec d.ix = true → s.me.intNil a.ix = true →
    VReads s a.ix va pa → VMasks s h m pm →
    VWrites s (s.emptied [a]) d.ix false (pa || pm)
      (fun n i j => if activeAt h m i j then some (fitElem n.kind (va.get 0 0 + (i * n.kind.shape.2 + j : Nat))) else none) st →
    Sys2Proof.Machine.exec (.viota h d a) s = .next (s.goOn st))

/-- R429: VRED combines the active elements of each row of A into column 0 of a vector D, or all of them into a scalar D;
VSCAN gives each active element the combination of the active elements of its row up to it. -/
def Obligations.VectorReductions : Prop :=
  (∀ h op rm d a s va m pa pm st,
    Ready s h.g [d.ix, a.ix, h.msk] [a] (some d) → redKinds op rm d.ix a.ix s.me = true → s.me.isVec d.ix = true →
    VReads s a.ix va pa → VMasks s h m pm →
    VWrites s (s.emptied [a]) d.ix false (pa || pm)
      (fun n i j => if i < (va.shape.getD (0, 0)).1 ∧ j = 0 then
        redElem op rm n.kind va (((List.range (va.shape.getD (0, 0)).2).map (fun q => (i, q))).filter
          (fun e => activeAt h m e.1 e.2)) else none) st →
    Sys2Proof.Machine.exec (.vred h op rm d a) s = .next (s.goOn st)) ∧
  (∀ h op rm d a s va m pa pm v st,
    Ready s h.g [d.ix, a.ix, h.msk] [a] (some d) → redKinds op rm d.ix a.ix s.me = true → s.me.isIVec a.ix = true →
    s.me.intNil d.ix = true → VReads s a.ix va pa → VMasks s h m pm →
    redInt op (((cells (va.shape.getD (0, 0)).1 (va.shape.getD (0, 0)).2).filter (fun e => activeAt h m e.1 e.2)).map
      (fun e => va.get e.1 e.2)) = some v →
    WritesInt s (s.emptied [a]) d.ix v (pa || pm) st →
    Sys2Proof.Machine.exec (.vred h op rm d a) s = .next (s.goOn st)) ∧
  (∀ h op rm d a s va m pa pm x r st k,
    Ready s h.g [d.ix, a.ix, h.msk] [a] (some d) → redKinds op rm d.ix a.ix s.me = true → s.me.isFVec a.ix = true →
    FltName s d.ix k → VReads s a.ix va pa → VMasks s h m pm →
    redFlt op rm (((cells (va.shape.getD (0, 0)).1 (va.shape.getD (0, 0)).2).filter (fun e => activeAt h m e.1 e.2)).map
      (fun e => va.fv e.1 e.2)) = some (x, r) →
    (if r then (x.round k rm false).2 else x.fl) &&& s.fpeMask = 0 →
    WritesPat s (s.raised (s.emptied [a]) (if r then (x.round k rm false).2 else x.fl)) d.ix k
      (if r then (x.round k rm false).1 else k.exact x.v) (pa || pm) st →
    Sys2Proof.Machine.exec (.vred h op rm d a) s = .next (s.goOn st)) ∧
  (∀ h op rm d a s va m pa pm st,
    Ready s h.g [d.ix, a.ix, h.msk] [a] (some d) →
    ((s.me.isIVec a.ix && s.me.isIVec d.ix && decide (rm = .rne)) || (s.me.isFVec a.ix && s.me.isFVec d.ix)) = true →
    VReads s a.ix va pa → VMasks s h m pm →
    VWrites s (s.emptied [a]) d.ix false (pa || pm)
      (fun n i j => if i < (extent s.ctx [d.ix, a.ix]).1 ∧ j < (extent s.ctx [d.ix, a.ix]).2 ∧ activeAt h m i j = true then
        redElem (scanRed op) rm n.kind va
          (((List.range (j + 1)).map (fun q => (i, q))).filter (fun e => activeAt h m e.1 e.2)) else none) st →
    Sys2Proof.Machine.exec (.vscan h op rm d a) s = .next (s.goOn st))

/-- R421: element (i, j) of a vector stands at i × columns + j of its values, so each result of a vector op stands at its
place. -/
def Clause.VectorElementPlaces : Prop :=
  ∀ (s st st' : State) (d : Ix) (u p : Bool) (f : NameSt → Nat → Nat → Option ERes) (n : NameSt) (i j : Nat),
    VWrites s st d u p f st' → s.me.nm d = some n → (st.slot s.cur).nm d = some n →
    n.vals.length = n.kind.shape.1 * n.kind.shape.2 → i < n.kind.shape.1 → j < n.kind.shape.2 →
    ∃ y, (st'.slot s.cur).nm d = some y ∧ y.f = true ∧
      y.vals[i * n.kind.shape.2 + j]? = (match f n i j with
        | some (some v, _) => some v
        | some (none, _) => n.vals[i * n.kind.shape.2 + j]?
        | none => n.vals[i * n.kind.shape.2 + j]?)

/-- R425, R426: VLD and VLDT load the active elements of D from their places in the local store, a load with `.w` only when the
words that hold them are full; VLD with `.q` decodes packed codes and rounds them; VST stores the active elements. -/
def Clause.VectorLoadsAndStores : Prop :=
  (∀ c tr, ((∃ rm sat, c = (fun h w => Instr.vld h w false rm sat)) ∧ tr = false) ∨ (c = Instr.vldt ∧ tr = true) →
    ∀ h w d a b n o rs m pm s st,
    Ready s h.g [d.ix, a.ix, b.ix, h.msk] [a, b] (some d) → s.me.nm d.ix = some n →
    VOperands s (s.emptied [a, b]) h d.ix a b (((if tr then n.kind.shape.1 else n.kind.shape.2) * n.kind.sw + 7) / 8) o rs →
    VMasks s h m pm → VInStore s h m n.kind tr o rs → LsOpen s [a, b] false →
    let t := s.lsReady [a, b] false
    (w = true → ∀ e ∈ cells n.kind.shape.1 n.kind.shape.2, activeAt h m e.1 e.2 = true →
      t.lsF (coreOf s.cur) (VAt tr o rs n.kind.sw e.1 e.2).off.toNat = true) →
    VWrites s t d.ix false
      (pm || (cells n.kind.shape.1 n.kind.shape.2).any (fun e => activeAt h m e.1 e.2 &&
        ((loadElem n.kind n.kind.sw (t.elemBits (coreOf s.cur) n.kind.sw (VAt tr o rs n.kind.sw e.1 e.2))).2 ||
          t.lsP (coreOf s.cur) (VAt tr o rs n.kind.sw e.1 e.2).off.toNat)))
      (fun k i j => if activeAt h m i j = true then
        some (loadElem k.kind k.kind.sw (t.elemBits (coreOf s.cur) k.kind.sw (VAt tr o rs k.kind.sw i j))).1 else none) st →
    Sys2Proof.Machine.exec (c h w d a b) s = .next (s.goOn st)) ∧
  (∀ h w rm sat d a b n o v q4 gsz soff m pm s st,
    Ready s h.g [d.ix, a.ix, b.ix, h.msk] [a, b] (some d) → s.me.nm d.ix = some n → s.me.isFVec d.ix = true →
    VOperands s (s.emptied [a, b]) h d.ix a b 0 o v → QDesc v q4 gsz soff → VMasks s h m pm → o % 128 = 0 →
    LsOpen s [a, b] false →
    let t := s.lsReady [a, b] false
    let code := fun (i j : Nat) => (o + (if q4 then (i * n.kind.shape.2 + j) / 2 else i * n.kind.shape.2 + j : Nat) : Int)
    let ent := fun (i j : Nat) => soff + 4 * ((i * n.kind.shape.2 + j) / gsz)
    let byte := fun (i j : Nat) => t.lsRead (coreOf s.cur) (code i j).toNat 1
    let word := fun (i j : Nat) => t.lsRead (coreOf s.cur) (ent i j) 4
    (∀ e ∈ cells n.kind.shape.1 n.kind.shape.2, activeAt h m e.1 e.2 = true →
      0 ≤ code e.1 e.2 ∧ code e.1 e.2 + 1 ≤ (if s.me.smode then 2 ^ 18 else 0x3E000) ∧
      ent e.1 e.2 + 4 ≤ (if s.me.smode then 2 ^ 18 else 0x3E000) ∧
      (w = true → t.lsF (coreOf s.cur) (code e.1 e.2).toNat = true)) →
    VWrites s t d.ix false
      (pm || (cells n.kind.shape.1 n.kind.shape.2).any (fun e => activeAt h m e.1 e.2 &&
        (decide (word e.1 e.2 / 2 ^ 24 ≠ 0) || t.lsP (coreOf s.cur) (code e.1 e.2).toNat ||
          t.lsP (coreOf s.cur) (ent e.1 e.2))))
      (fun k i j => if activeAt h m i j = true then
        some (rndElem k.kind.efk rm sat (dequant
          (if q4 then sext 4 (byte i j / 16 ^ ((i * n.kind.shape.2 + j) % 2)) else sext 8 (byte i j))
          (sext 8 (word i j / 2 ^ 16)) (word i j % 2 ^ 16))) else none) st →
    Sys2Proof.Machine.exec (.vld h w true rm sat d a b) s = .next (s.goOn st)) ∧
  (∀ h setf d a b n o rs m pm v p s,
    Ready s h.g [d, a.ix, b.ix, h.msk] [a, b] none → s.me.nm d = some n →
    VOperands s (s.emptied [a, b]) h d a b ((n.kind.shape.2 * n.kind.sw + 7) / 8) o rs →
    VMasks s h m pm → VReads s d v p → VInStore s h m n.kind false o rs → LsOpen s [a, b] true →
    Sys2Proof.Machine.exec (.vst h setf d a b) s = .next (s.goOn
      ((s.lsReady [a, b] true).storeElems (coreOf s.cur) n.kind.sw setf p
        (((cells n.kind.shape.1 n.kind.shape.2).filter (fun e => activeAt h m e.1 e.2)).map
          (fun (e : Nat × Nat) => (VAt false o rs n.kind.sw e.1 e.2, umod n.kind.sw (v.get e.1 e.2)))))))

/-- R425, R162: what the storing of elements leaves alone: every byte of memory, and every byte of the local stores but the
bytes of the elements; and the bytes of an element that no later one overlaps hold its value. -/
def Clause.VectorStorePlaces : Prop :=
  ∀ (s : State) (core sw : Nat) (setf p : Bool) (es : List (VPlace × Nat)),
    (∀ e ∈ es, 0 ≤ e.1.off ∧ e.1.off + elemBytes sw ≤ 2 ^ 18) →
    (s.storeElems core sw setf p es).mem = s.mem ∧ (s.storeElems core sw setf p es).slots = s.slots ∧
    (∀ x, (∀ e ∈ es, ∀ k < elemBytes sw, x ≠ core * 2 ^ 18 + e.1.off.toNat + k) →
      Memory.read (s.storeElems core sw setf p es).lmem x = Memory.read s.lmem x) ∧
    (∀ q v rest, es = rest ++ [(q, v)] → 8 ≤ sw → sw % 8 = 0 →
      (s.storeElems core sw setf p es).lsRead core q.off.toNat (sw / 8) = v % 2 ^ sw)

/-- R424, R427, R428, R430, R431 (the extents of VDEQ and VQUANT are log entry 43): VDEQ dequantizes the codes of A with the
entries of E; VQUANT writes codes and entries of each group; VMOVS moves one element; VTOPK writes the columns in rank order;
VSFU leaves D empty and pending and sends its active elements to the special-function unit. -/
def Clause.VectorQuantizeRules : Prop :=
  (∀ h gs rm sat d a e va ve m pa pe pm re ce s st,
    Ready s h.g [d.ix, a.ix, e.ix, h.msk] [a, e] (some d) → s.me.isFVec d.ix = true → s.me.isIVec a.ix = true →
    s.me.isEntryVec e.ix = true → VReads s a.ix va pa → VReads s e.ix ve pe → VMasks s h m pm → ve.shape = some (re, ce) →
    let act := fun (i j : Nat) => i < (extent s.ctx [d.ix, a.ix]).1 ∧ i < re ∧ j < (extent s.ctx [d.ix, a.ix]).2 ∧
      activeAt h m i j = true ∧ j / gsCols gs < ce
    let ent := fun (i j : Nat) => umod 32 (ve.get i (j / gsCols gs))
    VWrites s (s.emptied [a, e]) d.ix false
      (pa || pe || pm || (cells re (extent s.ctx [d.ix, a.ix]).2).any (fun q =>
        decide (act q.1 q.2) && decide (ent q.1 q.2 / 2 ^ 24 ≠ 0)))
      (fun n i j => if act i j then
        some (rndElem n.kind.efk rm sat (dequant (va.get i j) (sext 8 (ent i j / 2 ^ 16)) (ent i j % 2 ^ 16))) else none) st →
    Sys2Proof.Machine.exec (.vdeq h gs rm sat d a e) s = .next (s.goOn st)) ∧
  (∀ g gs d a e va pa nd ne w md r c sg md2 re ce s st,
    Ready s g [d.ix, a.ix, e.ix] [a, e] (some d) → s.me.nm d.ix = some nd → s.me.nm e.ix = some ne →
    nd.kind = .ivec true w md r c → (w = 4 ∨ w = 8) → ne.kind = .ivec sg 32 md2 re ce → s.me.isFVec a.ix = true →
    VReads s a.ix va pa →
    let er := min (extent s.ctx [d.ix, a.ix]).1 re
    let ec := (extent s.ctx [d.ix, a.ix]).2
    let gc := gsCols gs
    let grp := fun (i k : Nat) => quantGroup (if w = 4 then 7 else 127)
      (((List.range ec).filter (fun j => decide (j / gc = k))).map (fun j => va.fv i j))
    let fl := (cells er ((ec + gc - 1) / gc)).foldl (fun f q => f ||| (grp q.1 q.2).2.2) (0 : BitVec 5)
    fl &&& s.fpeMask = 0 → nd.f = true → ne.f = true →
    VWrites s (s.raised (s.emptied [a, e]) fl) d.ix false pa
      (fun n i j => if i < er ∧ j < ec then some (fitElem n.kind (((grp i (j / gc)).2.1[j % gc]?).getD 0)) else none) st →
    ∀ st2, VWrites s st e.ix false pa
      (fun n i k => if i < er ∧ k < (ec + gc - 1) / gc then some (fitElem n.kind ((grp i k).1 : Int)) else none) st2 →
    Sys2Proof.Machine.exec (.vquant g gs d a e) s = .next (s.goOn st2)) ∧
  (∀ g d a b va pa q pb r c s st,
    Ready s g [d.ix, a.ix, b.ix] [a, b] (some d) → movsKinds d.ix a.ix b.ix s.me = true → NoQueue s d.ix →
    VReads s a.ix va pa → ReadsInt s (s.emptied [a, b]) b.ix q pb (s.emptied [a, b]) → va.shape = some (r, c) →
    let v := if 0 ≤ q ∧ q < 2 ^ 32 ∧ q / 2 ^ 16 < r ∧ q % 2 ^ 16 < c then va.get (q / 2 ^ 16).toNat (q % 2 ^ 16).toNat else 0
    ((va.fk = none ∧ WritesInt s (s.emptied [a, b]) d.ix v (pa || pb) st) ∨
      (∃ k, va.fk = some k ∧ WritesPat s (s.emptied [a, b]) d.ix k (k.canon v.toNat) (pa || pb) st)) →
    Sys2Proof.Machine.exec (.vmovs g d a b) s = .next (s.goOn st)) ∧
  (∀ g d a b va pa q pb s st,
    Ready s g [d.ix, a.ix, b.ix] [a, b] (some d) → movsKinds d.ix a.ix b.ix s.me = true → s.me.isVec d.ix = true →
    VReads s a.ix va pa → ReadsInt s (s.emptied [a, b]) b.ix q pb (s.emptied [a, b]) → va.shape = none →
    VWrites s (s.emptied [a, b]) d.ix true (pa || pb)
      (fun n i j => if q = (i * 2 ^ 16 + j : Nat) ∧ j < 2 ^ 16 ∧ q < 2 ^ 32 then some (moveElem n.kind va 0 0) else none) st →
    Sys2Proof.Machine.exec (.vmovs g d a b) s = .next (s.goOn st)) ∧
  (∀ g mn d a va pa r c s st,
    Ready s g [d.ix, a.ix] [a] (some d) → s.me.isIVec d.ix = true → s.me.isVec a.ix = true → VReads s a.ix va pa →
    va.shape = some (r, c) →
    VWrites s (s.emptied [a]) d.ix false pa
      (fun n i j => if i < r ∧ j < c then ((rankRow va mn i c)[j]?).map (fun k => fitElem n.kind (k : Int)) else none) st →
    Sys2Proof.Machine.exec (.vtopk g mn d a) s = .next (s.goOn st)) ∧
  (∀ h fn rm d a va m pa pm k n s,
    Ready s h.g [d.ix, a.ix, h.msk] [a] (some d) → s.me.isFVec d.ix = true → s.me.isFVec a.ix = true → va.fk = some k →
    k ≠ .a56 → VReads s a.ix va pa → VMasks s h m pm → s.me.nm d.ix = some n → n.f = true →
    let st := s.emptied [a]
    Sys2Proof.Machine.exec (.vsfu h fn rm d a) s = .next (s.goOn
      ((({ st with nextId := st.nextId + 1 }).modName s.cur d.ix (fun y => { y with f := false, pend := some st.nextId })).send
        (.sfu ⟨s.cur, s.me.epoch, d.ix.toNat, st.nextId⟩ fn rm false
          ((cells (extent s.ctx [d.ix, a.ix]).1 (extent s.ctx [d.ix, a.ix]).2).map (fun (e : Nat × Nat) =>
            if activeAt h m e.1 e.2 then some (toF32 k (va.get e.1 e.2).toNat) else none))
          (extent s.ctx [d.ix, a.ix]).2 (pa || pm)))))

/-- R119, R431: which of two columns ranks before the other. Integers rank by exact value, the larger first, with `.min` the
smaller. A NaN ranks before nothing, and every number ranks before a NaN; numbers rank by exact value, −0 below +0. -/
def Clause.ColumnRank : Prop :=
  ∀ (va : VIn) (mn : Bool) (i j k : Nat),
    (va.fk = none → (rankBefore va mn i j k = true ↔ if mn then va.get i j < va.get i k else va.get i k < va.get i j)) ∧
    (∀ f, va.fk = some f → (rankBefore va mn i j k = true ↔ (∀ s, va.fv i j ≠ .nan s) ∧
      ((∃ s, va.fv i k = .nan s) ∨ if mn then FloatBelow (va.fv i j) (va.fv i k) else FloatBelow (va.fv i k) (va.fv i j))))

/-- R431: the rank of VTOPK is a permutation of the columns in which none ranks before an earlier one, and of two columns that
neither ranks before the other the lower comes first. -/
def Clause.TopColumnsAreRanked : Prop :=
  ∀ (va : VIn) (mn : Bool) (i c : Nat),
    (rankRow va mn i c).length = c ∧ (∀ j, j ∈ rankRow va mn i c ↔ j < c) ∧
    (rankRow va mn i c).Pairwise (fun j k => rankBefore va mn i k j = false ∧ (rankBefore va mn i j k = false → j < k))

/-- R343, R347, R397, R71: B, BL, BX and RET go to their target. BL and BX write the address of the next word to their link
name, fitted to it, before; `nil` discards it. BX and RET read their target from a name, which must not be poisoned. -/
def Clause.BranchTargets : Prop :=
  (∀ g i t s, Ready s g [] [] none → BranchTo s i t → Sys2Proof.Machine.exec (.b g i) s = .next (s.branched s.counted t)) ∧
  (∀ g d i t s st, Ready s g [d] [] none → BranchTo s i t → (d = 0 ∨ IntName s d) →
    WritesInt s s.counted d s.afterPc.toNat false st → Sys2Proof.Machine.exec (.bl g d i) s = .next (s.branched st t)) ∧
  (∀ g d a v s st1 st2, Ready s g [d, a.ix] [a] none → a.ix ≠ 0 → ReadsInt s (s.emptied [a]) a.ix v false st1 →
    WritesInt s st1 d s.afterPc.toNat false st2 →
    Sys2Proof.Machine.exec (.bx g d a) s = .next (s.branched st2 (BitVec.ofInt 64 v))) ∧
  (∀ g a v s st, Ready s g [a.ix] [a] none → a.ix ≠ 0 → ReadsInt s (s.emptied [a]) a.ix v false st →
    Sys2Proof.Machine.exec (.ret g a) s = .next (s.branched st (BitVec.ofInt 64 v)))

/-- R74: a taken branch ends level 1 where its target lies outside the body of level 1, and both levels where its target lies
outside the body of level 0; it leaves everything else of the slot alone. -/
def Clause.BranchesEndLoops : Prop :=
  ∀ (y : Slot) (t : Word), ∃ c0 c1, y.branchTo t = { y with lc0 := c0, lc1 := c1 } ∧
    c0 = (if y.ls0.toNat ≤ t.toNat ∧ t.toNat < y.le0.toNat then y.lc0 else 0) ∧
    c1 = (if y.ls1.toNat ≤ t.toNat ∧ t.toNat < y.le1.toNat ∧ y.ls0.toNat ≤ t.toNat ∧ t.toNat < y.le0.toNat then y.lc1
      else 0)

/-- R73: the check at a sequential address. Level 1 counts down at its end and goes back to its start while trips are left;
then level 0 likewise; else execution goes on at the address. -/
def Clause.LoopEndCheck : Prop :=
  ∀ (y : Slot) (a : Word),
    (y.lc1 > 1 → a = y.le1 → y.loopEnd a = { y with lc1 := y.lc1 - 1, pc := y.ls1 }) ∧
    (∀ c1, ((y.lc1 = 1 ∧ a = y.le1 ∧ c1 = 0) ∨ (y.lc1 = 0 ∧ c1 = 0) ∨ (a ≠ y.le1 ∧ c1 = y.lc1)) →
      (y.lc0 > 1 → a = y.le0 → y.loopEnd a = { y with lc1 := c1, lc0 := y.lc0 - 1, pc := y.ls0 }) ∧
      (y.lc0 = 1 → a = y.le0 → y.loopEnd a = { y with lc1 := c1, lc0 := 0, pc := a }) ∧
      (y.lc0 = 0 ∨ a ≠ y.le0 → y.loopEnd a = { y with lc1 := c1, pc := a }))

/-- R72: LOOP arms level 0 where it is not active, else level 1, with the count cut to 0 to 2^32 − 1; a count of zero skips the
body and arms nothing (the address after the body is reached without an end check: log entry 22). -/
def Clause.LoopArms : Prop :=
  ∀ g cnt off c fs m st0 s, Ready s g fs m none →
    ((∃ a v, cnt = .name a ∧ fs = [a.ix] ∧ m = [a] ∧ a.ix ≠ 0 ∧ ReadsInt s (s.emptied [a]) a.ix v false st0 ∧
        c = min v.toNat (2 ^ 32 - 1)) ∨
      (∃ n : BitVec 32, cnt = .x32 n ∧ fs = [] ∧ m = [] ∧ st0 = s.counted ∧ c = n.toNat)) →
    let e := s.me.pc + 4 * off.setWidth 64
    (c = 0 → Sys2Proof.Machine.exec (.loop g cnt off) s = .next (s.goTo st0 e)) ∧
    (c ≠ 0 → (st0.slot s.cur).lc0 = 0 → Sys2Proof.Machine.exec (.loop g cnt off) s =
      .next (s.goOn (st0.modSlot s.cur (fun y => { y with ls0 := s.afterPc, le0 := e, lc0 := c })))) ∧
    (c ≠ 0 → (st0.slot s.cur).lc0 ≠ 0 → Sys2Proof.Machine.exec (.loop g cnt off) s =
      .next (s.goOn (st0.modSlot s.cur (fun y => { y with ls1 := s.afterPc, le1 := e, lc1 := c }))))

/-- R75: LEXIT ends the innermost active level and goes on at its end; where level 1 ends at the end of level 0, level 0 is
counted down there and goes back to its start while trips are left; with no active level it has no effect. -/
def Clause.LoopExit : Prop :=
  ∀ g s, Ready s g [] [] none →
    (s.me.lc1 ≠ 0 → (s.me.lc0 = 0 ∨ s.me.le1 ≠ s.me.le0) → Sys2Proof.Machine.exec (.lexit g) s =
      .next (s.goTo (s.counted.modSlot s.cur (fun y => { y with lc1 := 0 })) s.me.le1)) ∧
    (s.me.lc1 ≠ 0 → s.me.lc0 ≠ 0 → s.me.le1 = s.me.le0 → Sys2Proof.Machine.exec (.lexit g) s =
      .next (s.goTo (s.counted.modSlot s.cur (fun y => { y with lc1 := 0, lc0 := s.me.lc0 - 1 }))
        (if s.me.lc0 = 1 then s.me.le1 else s.me.ls0))) ∧
    (s.me.lc1 = 0 → s.me.lc0 ≠ 0 → Sys2Proof.Machine.exec (.lexit g) s =
      .next (s.goTo (s.counted.modSlot s.cur (fun y => { y with lc0 := 0, lc1 := 0 })) s.me.le0)) ∧
    (s.me.lc1 = 0 → s.me.lc0 = 0 → Sys2Proof.Machine.exec (.lexit g) s = .next (s.goOn s.counted))

/-- R266, R330: TRAP raises BREAK (2) with its code as the subcode; ERET in S mode with ECAUSE busy clears ECAUSE and goes on
at EPC, without it raises ILLEGAL_OP (1) subcode 1, and in U mode raises PRIV (0x12) subcode 2. -/
def Obligations.TrapAndReturn : Prop :=
  (∀ g code s, Ready s g [] [] none → Sys2Proof.Machine.exec (.trap g code) s = .next (s.trapped ⟨2, code.toNat, 0, 0⟩)) ∧
  (∀ g s, Ready s g [] [] none → s.me.smode = true → 2 ^ 63 ≤ s.me.ecause.toNat → Sys2Proof.Machine.exec (.eret g) s =
    .next (s.goTo (s.counted.modSlot s.cur (fun y => { y with ecause := 0 })) s.me.epc)) ∧
  (∀ g s, Ready s g [] [] none → s.me.smode = true → s.me.ecause.toNat < 2 ^ 63 →
    Sys2Proof.Machine.exec (.eret g) s = .next (s.trapped ⟨1, 1, 0, 0⟩)) ∧
  (∀ g s, Ready s g [] [] none → s.me.smode = false → Sys2Proof.Machine.exec (.eret g) s = .next (s.trapped ⟨0x12, 2, 0, 0⟩))

/-- R332, R412: SREAD writes the selected register, as it stood at the start of the turn, to D; SWRITE writes FFLAGS, and in
S mode EPC, ECAUSE and EADDR, from a value of the range that the register has; a value outside it, FFLAGS with a bit above
bit 4 and ECAUSE with one of bits 62:24 raise ILLEGAL_OP (1) subcode 1. EPC, ECAUSE and EADDR in U mode raise PRIV (0x12)
subcode 2. A word of SREAD with a reserved or SLOTRD-only selector, or of SWRITE with a selector that it does not write, is
no instruction, with subcode 1. -/
def Obligations.RegistersBySelector : Prop :=
  (∀ g d sel v s st, Ready s g [d.ix] [] (some d) → s.me.intOk d.ix = true →
    (SelReg s (BitVec.toNat sel) v ∨ (SelPriv s (BitVec.toNat sel) v ∧ s.me.smode = true)) →
    WritesInt s s.counted d.ix v.toNat false st → Sys2Proof.Machine.exec (.sread g d sel) s = .next (s.goOn st)) ∧
  (∀ g a v s st, Ready s g [a.ix] [a] none → IntName s a.ix → ReadsInt s (s.emptied [a]) a.ix v false st → 0 ≤ v → v < 2 ^ 64 →
    (v < 32 → Sys2Proof.Machine.exec (.swrite g 0x09 a) s =
      .next (s.goOn (st.modSlot s.cur (fun y => { y with fflags := BitVec.ofInt 5 v })))) ∧
    (s.me.smode = true → Sys2Proof.Machine.exec (.swrite g 0x0A a) s =
      .next (s.goOn (st.modSlot s.cur (fun y => { y with epc := BitVec.ofInt 64 v })))) ∧
    (s.me.smode = true → v / 2 ^ 24 % 2 ^ 39 = 0 → Sys2Proof.Machine.exec (.swrite g 0x1A a) s =
      .next (s.goOn (st.modSlot s.cur (fun y => { y with ecause := BitVec.ofInt 64 v })))) ∧
    (s.me.smode = true → Sys2Proof.Machine.exec (.swrite g 0x1B a) s =
      .next (s.goOn (st.modSlot s.cur (fun y => { y with eaddr := BitVec.ofInt 64 v })))) ∧
    (32 ≤ v → Sys2Proof.Machine.exec (.swrite g 0x09 a) s = .next (s.trapped ⟨1, 1, 0, 0⟩)) ∧
    (s.me.smode = true → v / 2 ^ 24 % 2 ^ 39 ≠ 0 →
      Sys2Proof.Machine.exec (.swrite g 0x1A a) s = .next (s.trapped ⟨1, 1, 0, 0⟩))) ∧
  (∀ g a sel v s st, Ready s g [a.ix] [a] none → IntName s a.ix → ReadsInt s (s.emptied [a]) a.ix v false st →
    (v < 0 ∨ 2 ^ 64 ≤ v) → (sel = 0x09 ∨ (sel = 0x0A ∨ sel = 0x1A ∨ sel = 0x1B) ∧ s.me.smode = true) →
    Sys2Proof.Machine.exec (.swrite g sel a) s = .next (s.trapped ⟨1, 1, 0, 0⟩)) ∧
  (∀ g a sel s, Ready s g [a.ix] [a] none → IntName s a.ix → (sel = 0x0A ∨ sel = 0x1A ∨ sel = 0x1B) → s.me.smode = false →
    Sys2Proof.Machine.exec (.swrite g sel a) s = .next (s.trapped ⟨0x12, 2, 0, 0⟩)) ∧
  (∀ (sel : BitVec 14) (i : Ix), (sel = 0x18 ∨ sel = 0x19 ∨ 0x1C ≤ sel.toNat) →
    ∃ e, decodeBits (BitVec.ofNat 128 (sel.toNat * 2 ^ 50 + i.toNat * 2 ^ 14 + 0x90)) = .error e ∧ e.subcode = 1) ∧
  (∀ (sel : BitVec 14) (i : Ix), sel ≠ 0x09 → sel ≠ 0x0A → sel ≠ 0x1A → sel ≠ 0x1B →
    ∃ e, decodeBits (BitVec.ofNat 128 (sel.toNat * 2 ^ 50 + i.toNat * 2 ^ 23 + 0xA0)) = .error e ∧ e.subcode = 1) ∧
  (∀ g d sel s, Ready s g [d.ix] [] (some d) → s.me.intOk d.ix = true → (sel = 0x0A ∨ sel = 0x1A ∨ sel = 0x1B) →
    s.me.smode = false → Sys2Proof.Machine.exec (.sread g d sel) s = .next (s.trapped ⟨0x12, 2, 0, 0⟩))

/-- R275, R277, R374, R387, R439: RGN saves its live-ins and their P bits in the slot's save area, clears its semaphores and
sets the restart point at itself; RGNEND with no command outstanding sets it after itself; NOP and IFENCE only go on; YIELD
leaves its group, pushes the slot's work as the deque's top record, after the takes of the core's lower slots at the port, and
seeks, the slot's accesses being performed in its step (the model's choice: log entry 21), none of them being under way to
another device (log entry 15). -/
def Obligations.RegionsAndYield : Prop :=
  (∀ g f c (live : Option Word) ws s, Ready s g (liveIns (live.getD 0)) [] none → List.length ws = 8 →
    (∀ j, ∀ (h : j < ws.length), LiveIn s (live.getD 0) j ws[j].1 ws[j].2) →
    Sys2Proof.Machine.exec (.rgn g f c live) s = .next (s.goOn
      (((List.range (BitVec.toNat c)).foldl (fun st k => st.setSem (coreOf s.cur) (BitVec.toNat f + k) 0)
        (s.counted.lsPut (coreOf s.cur) (0x35C00 + 64 * (s.cur % 16)) true ws)).modSlot s.cur (fun y => { y with
          rgnpc := s.me.pc, rgntune := y.tuning, rgnframe := y.frame, rgnlist := live.getD 0,
          rgnsem := (BitVec.toNat f, BitVec.toNat c), rgnseq := y.rgnseq + 1, rcount := 0 })))) ∧
  (∀ g s, Ready s g [] [] none → s.me.rcount = 0 → Sys2Proof.Machine.exec (.rgnend g) s = .next (s.goOn
    (s.counted.modSlot s.cur (fun y => { y with
      rgnpc := s.me.pc + 8, rgntune := y.tuning, rgnframe := y.frame, rgnlist := 0, rgnsem := (0, 0) })))) ∧
  (∀ g pad s, Ready s g [] [] none → Sys2Proof.Machine.exec (.nop g pad) s = .next (s.goOn s.counted)) ∧
  (∀ g s, Ready s g [] [] none → Sys2Proof.Machine.exec (.ifence g) s = .next (s.goOn s.counted)) ∧
  (∀ g s, Ready s g [] [] none → s.me.frame ≠ 0 → (s.portBefore s.cur).dequeFull (coreOf s.cur) = false →
    Performed s s.counted →
    let st := ((s.counted.drain s.cur).portBefore s.cur).quit s.cur
    Sys2Proof.Machine.exec (.yield g) s = .next (((st.portServed (coreOf s.cur) s.cur).pushTop (coreOf s.cur)
      ((st.slot s.cur).recAt (s.me.pc + 8) true)).seek s.cur))

/-- R44, R51, R55: TUNE with an aligned descriptor that its slot can read, whose header and entries are well-formed and whose
names fit beside those of the core's other slots, applies the tuning and goes on, the slot's accesses being performed in its
step (the model's choice: log entry 21), none of them being under way to another device (log entry 15), unless placing the
names takes a repack that it may not begin yet. -/
def Clause.TuneAppliesDescriptor : Prop :=
  ∀ g src (va : Word) (ks : List NKind) h fs m st0 s, Ready s g fs m none →
    ((∃ a v, src = .name a ∧ fs = [a.ix] ∧ m = [a] ∧ IntName s a.ix ∧ ReadsInt s (s.emptied [a]) a.ix v false st0 ∧
        va = BitVec.ofInt 64 v) ∨
      (src = .x64 va ∧ fs = [] ∧ m = [] ∧ st0 = s.counted)) →
    let t := st0.drain s.cur
    va.toNat % 8 = 0 → DescWord s t va.toNat h → h.toNat = 0x7E3A0100 + ks.length → ks.length < 256 →
    (∀ j, ∀ (hj : j < ks.length), ∃ w, DescWord s t (va.toNat + 8 * (j + 1)) w ∧ parseEntry (coreOf s.cur) w = some ks[j]) →
    s.declaredOthers s.cur + costOf ks ≤ 262144 → Performed s st0 →
    (s.tuneMoves s.cur ks = false ∨ s.mayRepack s.cur = true) →
    Sys2Proof.Machine.exec (.tune g src) s = .next (s.goOn (t.applyTuning s.cur va ks))

/-- R45, R56: the entry of every kind declares that kind; vectors are declared with their granted shape. -/
def Clause.DescriptorEntries : Prop :=
  ∀ core : Nat,
    (∀ (sg : Bool) (w : Nat) (md : Mode), 1 ≤ w → w ≤ 64 →
      parseEntry core (BitVec.ofNat 64 ((if sg then 1 else 2) * 2 ^ 60 + (w - 1) * 2 ^ 54 + modeCode md * 2 ^ 52)) =
        some (.int sg w md)) ∧
    (∀ k : FK, parseEntry core (BitVec.ofNat 64 (3 * 2 ^ 60 + fkCode k * 2 ^ 57)) = some (.flt k)) ∧
    (∀ (sg : Bool) (w : Nat) (md : Mode) (r c cg rg : Nat), 1 ≤ w → w ≤ 64 → 1 ≤ r → r ≤ 1024 → 1 ≤ c → c ≤ 1024 →
      cg = min c (1024 / elemW w) → rg = min r (1024 / (cg * elemW w)) →
      parseEntry core (BitVec.ofNat 64 (4 * 2 ^ 60 + (if sg then 0 else 1) * 2 ^ 58 + (w - 1) * 2 ^ 52 + modeCode md * 2 ^ 50 +
        (r - 1) * 2 ^ 40 + (c - 1) * 2 ^ 30)) = some (.ivec sg w md rg cg)) ∧
    (∀ (k : FK) (r c cg rg : Nat), 1 ≤ r → r ≤ 1024 → 1 ≤ c → c ≤ 1024 →
      cg = min c (1024 / k.elemW) → rg = min r (1024 / (cg * k.elemW)) →
      parseEntry core (BitVec.ofNat 64 (4 * 2 ^ 60 + 2 * 2 ^ 58 + fkCode k * 2 ^ 52 + (r - 1) * 2 ^ 40 + (c - 1) * 2 ^ 30)) =
        some (.fvec k rg cg)) ∧
    (∀ q < 32, parseEntry core (BitVec.ofNat 64 (5 * 2 ^ 60 + q * 2 ^ 55)) = some (.queue core q))

/-- R48, R54: applying a tuning gives the slot the names that it declares, each zero, full and unpoisoned, and leaves every
other slot and all of memory alone. -/
def Clause.TuningDeclaresNames : Prop :=
  ∀ (s : State) (t : Tid) (va : Word) (ks : List NKind),
    let y := (s.applyTuning t va ks).slot t
    y.tuning = va ∧ y.bits = costOf ks ∧ y.names.length = ks.length ∧
    (∀ j, ∀ (hj : j < ks.length), ∃ n, y.names[j]? = some n ∧ Declares n ks[j]) ∧
    (∀ u, u ≠ t → (s.applyTuning t va ks).slot u = s.slot u) ∧
    (∃ nms p, y = { s.slot t with tuning := va, bits := p, names := nms }) ∧
    (s.applyTuning t va ks).mem = s.mem ∧ (s.applyTuning t va ks).lmem = s.lmem

/-- R58, R59, R61, R432: RESIZE and WIDTH give a full integer name its new width, with the value that its mode makes of the
old one; WIDTH counts core event 7. A `trap` name that cannot hold its value raises WIDTH (3) subcode 2, and one that does
not fit the register store TUNE_SPACE (0x0B) subcode 2 with its name index and the shortfall. An op that needs a repack which
it may not begin parks, with KIND 8 in WAITON. -/
def Clause.ResizeChangesWidth : Prop :=
  ∀ (s st : State) (i : Instr) (d : Ix) (w : Nat) n sg w0 md,
    s.me.nm d = some n → n.kind = .int sg w0 md → n.f = true →
    ((∃ g wm1, i = .resize g d wm1 ∧ Ready s g [d] [] none ∧ w = BitVec.toNat wm1 + 1 ∧ st = s.counted) ∨
      (∃ g a v st0, i = .width g d a ∧ Ready s g [d, a.ix] [a] none ∧ ReadsInt s (s.emptied [a]) a.ix v false st0 ∧
        1 ≤ v ∧ v ≤ 64 ∧ w = v.toNat ∧ st = st0.count 0 (coreOf s.cur) 7 s.me.smode 1)) →
    (∀ y, (w ≤ w0 ∨ s.declared (coreOf s.cur) - w0 + w ≤ 262144) → fitInt sg w md (n.vals.headD 0) = some y →
      (MayGrow s d n (.int sg w md) → Sys2Proof.Machine.exec i s = .next (s.goOn
        ((st.regrow s.cur (d.toNat - 1) n (.int sg w md)).modName s.cur d (fun q => { q with vals := [y] })))) ∧
      (¬ MayGrow s d n (.int sg w md) → Sys2Proof.Machine.exec i s =
        .next ((s.parkWait s.cur (BitVec.ofNat 64 (8 * 2 ^ 60)) false).count 0 (coreOf s.cur) 3 s.me.smode 1))) ∧
    ((w ≤ w0 ∨ s.declared (coreOf s.cur) - w0 + w ≤ 262144) → fitInt sg w md (n.vals.headD 0) = none →
      Sys2Proof.Machine.exec i s = .next (s.trapped ⟨3, 2, d.toNat, 0⟩)) ∧
    (w0 < w → 262144 < s.declared (coreOf s.cur) - w0 + w →
      Sys2Proof.Machine.exec i s = .next (s.trapped
        ⟨0x0B, 2, d.toNat, BitVec.ofNat 64 (s.declared (coreOf s.cur) - w0 + w - 262144)⟩))

/-- R59: an op of a slot may begin a repack of its core exactly when none is under way there and no other slot of the core has
been parked for one since an earlier cycle. -/
def Clause.RepacksTakeTurns : Prop :=
  ∀ (s : State) (t : Tid), s.mayRepack t = true ↔ (s.core (coreOf t)).repack = none ∧
    ∀ u, u ≠ t → coreOf u = coreOf t → (s.slot u).st = .parked → (s.slot u).waiton.toNat / 2 ^ 60 = 8 →
      (if (s.slot t).st = .parked ∧ (s.slot t).waiton.toNat / 2 ^ 60 = 8 then (s.slot t).waitSince else s.cycle) ≤
        (s.slot u).waitSince

/-- R53, R59: a name that changes its kind keeps its value, its bits and its place until a repack that it may cause has
ended; no other name changes before that. -/
def Clause.GrowingKeepsNames : Prop :=
  ∀ (s : State) (t : Tid) (ix : Nat) (n : NameSt) (k : NKind),
    let s' := s.regrow t ix n k
    (∀ u, u ≠ t → s'.slot u = s.slot u) ∧
    s'.slot t = { s.slot t with names := (s.slot t).names.modify ix (fun m => { m with kind := k }) } ∧
    s'.mem = s.mem ∧ s'.lmem = s.lmem ∧ (k.cost ≤ n.kind.cost → s'.cores = s.cores)

/-- R56, R57, R59, R61: SHAPE gives a vector name the grant of its request, keeps the elements that both shapes have, zeroes
the others, and writes the grant to D, unless it needs a repack that it may not begin yet; one that does not fit the register
store raises TUNE_SPACE (0x0B) subcode 3 with its name index and the shortfall. -/
def Clause.ShapeGrants : Prop :=
  ∀ g (d v : Ix) rq cq n q fs s, Ready s g fs [] none → s.me.nm v = some n → n.kind.isVec = true →
    (d = 0 ∨ IntName s d) → 1 ≤ rq → rq ≤ 1024 → 1 ≤ cq → cq ≤ 1024 →
    ((∃ b, q = .name b ∧ fs = [d, v, b] ∧ s.me.intNil b = true ∧
        ReadsInt s s.counted b ((rq * 65536 + cq : Nat) : Int) false s.counted) ∨
      (∃ x : BitVec 32, q = .x32 x ∧ fs = [d, v] ∧ x.toNat = rq * 65536 + cq)) →
    let sw := n.kind.sw
    let cg := min cq (1024 / sw)
    let rg := min rq (1024 / (cg * sw))
    let k := match n.kind with
      | .ivec sg w md _ _ => NKind.ivec sg w md rg cg
      | .fvec f _ _ => NKind.fvec f rg cg
      | o => o
    (s.declared (coreOf s.cur) - n.kind.cost + k.cost ≤ 262144 → MayGrow s v n k → ∀ st2,
      WritesInt s ((s.counted.regrow s.cur (v.toNat - 1) n k).modName s.cur v (fun y => { y with
        vals := (List.range (rg * cg)).map (fun e => if e / cg < n.kind.shape.1 ∧ e % cg < n.kind.shape.2 then
          (y.vals[e / cg * n.kind.shape.2 + e % cg]?).getD 0 else 0) })) d (rg * 65536 + cg : Nat) false st2 →
      Sys2Proof.Machine.exec (.shape g d v q) s = .next (s.goOn st2)) ∧
    (∀ sg w md, 262144 < s.declared (coreOf s.cur) - n.kind.cost + k.cost →
      (d = 0 ∨ ∃ y, s.me.nm d = some y ∧ y.kind = .int sg w md ∧ (fitInt sg w md (rg * 65536 + cg : Nat)).isSome = true) →
      Sys2Proof.Machine.exec (.shape g d v q) s = .next (s.trapped
        ⟨0x0B, 3, v.toNat, BitVec.ofNat 64 (s.declared (coreOf s.cur) - n.kind.cost + k.cost - 262144)⟩))

/-- R50: FSET and FCLR set and clear F of a name and drop its pending result, and do nothing to `nil`; FTEST writes F + 2 × P
of a name, 1 for `nil`. -/
def Obligations.NameBitOps : Prop :=
  (∀ c f, (c = Instr.fset ∧ f = true) ∨ (c = Instr.fclr ∧ f = false) → ∀ g (d : Ix) s, Ready s g [d] [] none → NoQueue s d →
    (d = 0 → Sys2Proof.Machine.exec (c g d) s = .next (s.goOn s.counted)) ∧
    (d ≠ 0 → Sys2Proof.Machine.exec (c g d) s =
      .next (s.goOn (s.counted.modName s.cur d (fun n => { n with f := f, pend := none }))))) ∧
  (∀ g (d a : Ix) v s st, Ready s g [d, a] [] none → NoQueue s a →
    ((a = 0 ∧ v = 1) ∨ (∃ n, s.me.nm a = some n ∧ v = (if n.f then 1 else 0) + 2 * (if n.p then 1 else 0))) →
    WritesInt s s.counted d v false st → Sys2Proof.Machine.exec (.ftest g d a) s = .next (s.goOn st))

/-- R163: LDL reads its name's bytes of the own local store, with `.w` and `.c` only from a full word, and with `.c` empties
it; STL writes them, with `.f` only to an empty word, and fills it. What must come before the access is performed first;
nothing of it is under way to another device (log entry 15). -/
def Clause.LocalLoadsAndStores : Prop :=
  (∀ g fe (d : Ix) a o n s st1 st2, Ready s g [d, a.ix] [a] none → ReadsInt s (s.emptied [a]) a.ix o false st1 →
    AccBytes s d n → InLocal s o n →
    let t := st1.drainFor (lsAccOf s (coreOf s.cur) o.toNat n false none)
    t.blocked (lsAccOf s (coreOf s.cur) o.toNat n false none) = false →
    (fe ≠ .plain → t.lsF (coreOf s.cur) o.toNat = true) →
    LoadsInto s t d n (t.lsRead (coreOf s.cur) o.toNat n) (t.lsP (coreOf s.cur) o.toNat) st2 →
    Sys2Proof.Machine.exec (.ldl g fe d a) s =
      .next (s.goOn (if fe = .c then st2.setLsF (coreOf s.cur) o.toNat false else st2))) ∧
  (∀ g f a b o n v p s st1 st2, Ready s g [a.ix, b.ix] [a, b] none → ReadsInt s (s.emptied [a, b]) a.ix o false st1 →
    AccBytes s b.ix n → InLocal s o n →
    let t := st1.drainFor (lsAccOf s (coreOf s.cur) o.toNat n true none)
    t.blocked (lsAccOf s (coreOf s.cur) o.toNat n true none) = false →
    (f = true → t.lsF (coreOf s.cur) o.toNat = false) → Reads s t b.ix v p st2 →
    let u := st2.lsWrite (coreOf s.cur) o.toNat n (umod (8 * n) v.toInt) p
    Sys2Proof.Machine.exec (.stl g f a b) s = .next (s.goOn (if f then u.setLsF (coreOf s.cur) o.toNat true else u)))

/-- R66, R67, R163: a load that waits for a full word and a store that waits for an empty one park, with KIND 1, name 0 and the
offset in WAITON, and nothing of the op takes effect. -/
def Clause.LocalWaitsPark : Prop :=
  (∀ g fe (d : Ix) a o n s st1, Ready s g [d, a.ix] [a] none → ReadsInt s (s.emptied [a]) a.ix o false st1 →
    AccBytes s d n → InLocal s o n → fe ≠ .plain →
    let t := st1.drainFor (lsAccOf s (coreOf s.cur) o.toNat n false none)
    t.blocked (lsAccOf s (coreOf s.cur) o.toNat n false none) = false → t.lsF (coreOf s.cur) o.toNat = false →
    Sys2Proof.Machine.exec (.ldl g fe d a) s =
      .next ((s.parkWait s.cur (BitVec.ofNat 64 (2 ^ 60 + o.toNat * 256)) false).count 0 (coreOf s.cur) 3 s.me.smode 1)) ∧
  (∀ g a b o n s st1, Ready s g [a.ix, b.ix] [a, b] none → ReadsInt s (s.emptied [a, b]) a.ix o false st1 →
    AccBytes s b.ix n → InLocal s o n →
    let t := st1.drainFor (lsAccOf s (coreOf s.cur) o.toNat n true none)
    t.blocked (lsAccOf s (coreOf s.cur) o.toNat n true none) = false → t.lsF (coreOf s.cur) o.toNat = true →
    Sys2Proof.Machine.exec (.stl g true a b) s =
      .next ((s.parkWait s.cur (BitVec.ofNat 64 (2 ^ 60 + o.toNat * 256 + 2 ^ 26)) false).count 0 (coreOf s.cur) 3 s.me.smode 1))

/-- R162, R163: what a local access leaves alone. A load changes no byte of memory or of a local store; a store changes only
its own bytes, and of P and F bits only those of its word. -/
def Clause.LocalAccessFrame : Prop :=
  (∀ g fe (d : Ix) a o n s st2 raw p, Ready s g [d, a.ix] [a] none →
    ReadsInt s (s.emptied [a]) a.ix o false (s.emptied [a]) → AccBytes s d n → InLocal s o n → s.inflight = [] → NoQueue s d →
    (fe ≠ .plain → s.lsF (coreOf s.cur) o.toNat = true) → raw = s.lsRead (coreOf s.cur) o.toNat n →
    p = s.lsP (coreOf s.cur) o.toNat → LoadsInto s (s.emptied [a]) d n raw p st2 →
    ∃ t, Sys2Proof.Machine.exec (.ldl g fe d a) s = .next t ∧ (∀ x, Memory.read t.mem x = Memory.read s.mem x) ∧
      (∀ x, Memory.read t.lmem x = Memory.read s.lmem x) ∧ (∀ c x, t.lsP c x = s.lsP c x) ∧
      (∀ c x, lsWord c x ≠ lsWord (coreOf s.cur) o.toNat → t.lsF c x = s.lsF c x) ∧
      (∀ u, u ≠ s.cur → t.slot u = s.slot u)) ∧
  (∀ g f a b o n v p s, Ready s g [a.ix, b.ix] [a, b] none →
    ReadsInt s (s.emptied [a, b]) a.ix o false (s.emptied [a, b]) → AccBytes s b.ix n → InLocal s o n → s.inflight = [] →
    (f = true → s.lsF (coreOf s.cur) o.toNat = false) → Reads s (s.emptied [a, b]) b.ix v p (s.emptied [a, b]) →
    ∃ t, Sys2Proof.Machine.exec (.stl g f a b) s = .next t ∧ (∀ x, Memory.read t.mem x = Memory.read s.mem x) ∧
      (∀ x, (∀ k < n, x ≠ coreOf s.cur * 2 ^ 18 + o.toNat + k) → Memory.read t.lmem x = Memory.read s.lmem x) ∧
      (∀ k < n, Memory.read t.lmem (coreOf s.cur * 2 ^ 18 + o.toNat + k) = BitVec.ofInt 8 (v.toInt / 256 ^ k)) ∧
      (∀ c x, lsWord c x ≠ lsWord (coreOf s.cur) o.toNat → t.lsP c x = s.lsP c x ∧ t.lsF c x = s.lsF c x) ∧
      (∀ u, u ≠ s.cur → t.slot u = s.slot u))

/-- R172, R173, R197, R200, R413: LDX leaves its name empty and pending and sends a read; STX sends its value; each through the
page of its address, or to a local store of its cluster; a release goes on only when what it releases has been performed.
While the fabric takes no further request of the cluster, they replay (how much it holds is the model's choice: log entry 70).
A FENCE goes on when no earlier access of its scope is under way, and else replays. -/
def Clause.FarAccessesIssue : Prop :=
  (∀ g cl acq (d : Ix) a v n acc s st1, Ready s g [d, a.ix] [a] none → NoQueue s d →
    ReadsInt s (s.emptied [a]) a.ix v false st1 → AccBytes s d n → FarAcc s st1 cl v n .rd false acq acc →
    (st1.fabricFull (cluOf (coreOf s.cur)) = false → Sys2Proof.Machine.exec (.ldx g cl acq d a) s =
      .next (s.goOn ((s.pending st1 d).send (.read acc (s.resultOf st1 d))))) ∧
    (st1.fabricFull (cluOf (coreOf s.cur)) = true → Sys2Proof.Machine.exec (.ldx g cl acq d a) s = .next s.replayedFar)) ∧
  (∀ g cl rel a b v n acc w p s st1 st2, Ready s g [a.ix, b.ix] [a, b] none → ReadsInt s (s.emptied [a, b]) a.ix v false st1 →
    (∀ sc, rel = some sc → st1.unreleased s.cur sc = false) → AccBytes s b.ix n → FarAcc s st1 cl v n .wr true none acc →
    Reads s st1 b.ix w p st2 → (p = false ∨ acc.tgt.isHostT = false) →
    (st1.fabricFull (cluOf (coreOf s.cur)) = false → Sys2Proof.Machine.exec (.stx g cl rel a b) s =
      .next (s.goOn (st2.send (.write acc (umod (8 * n) w.toInt) p)))) ∧
    (st1.fabricFull (cluOf (coreOf s.cur)) = true → Sys2Proof.Machine.exec (.stx g cl rel a b) s = .next s.replayedFar)) ∧
  (∀ g sc s, Ready s g [] [] none →
    (s.unperformed s.cur sc = false → Sys2Proof.Machine.exec (.fence g sc) s = .next (s.goOn s.counted)) ∧
    (s.unperformed s.cur sc = true → Sys2Proof.Machine.exec (.fence g sc) s = .next (s.modSlot s.cur Slot.run)))

/-- R175, R176, R334, R335, R337: an atomic reads its address, its operand and, for ACAS, its compare value, reduced to its
type, and acts on its word: at once in the own local store, at the owner of the word elsewhere; with a return its name is
empty until the old value lands. A plain one is ordered only per address, wherever its word lies. While the fabric takes
no further request of the cluster, one at an owner elsewhere replays (log entry 70). -/
def Clause.AtomicsIssue : Prop :=
  ∀ c op ty rm, AtomicOp c op ty rm → ∀ g f v bv b pb cv cc pc s st1 acc,
    Ready s g (if f.ret || decide (op = .cas) then [f.d, f.a.ix, f.b.ix] else [f.a.ix, f.b.ix]) [f.a, f.b] none →
    atomKinds f op ty s.me = true → NoQueue s f.d →
    ReadsInt s (s.emptied [f.a, f.b]) f.a.ix v false st1 → (∀ sc, AOrder.rel f.order = some sc → st1.unreleased s.cur sc = false) →
    Reads s st1 f.b.ix bv pb st1 → AtomIn ty rm bv b →
    ((op = .cas ∧ ReadsInt s st1 f.d cv pc st1 ∧ AtomIn ty rm (.int cv) cc) ∨ (op ≠ .cas ∧ pc = false ∧ cc = 0)) →
    let dst := if f.ret then some (s.resultOf st1 f.d) else none
    let st2 := if f.ret then s.pending st1 f.d else st1
    (f.space = .ls → InLocal s v ty.bytes →
      acc = { lsAccOf s (coreOf s.cur) v.toNat ty.bytes true (AOrder.acq f.order) with
        ord := if f.order = .plain then .uo else .rc } →
      (st2.drainFor acc).blocked acc = false →
      Sys2Proof.Machine.exec (c g f) s = .next (s.goOn ((st2.drainFor acc).doAtomic acc op ty rm b cc (pb || pc) dst))) ∧
    (f.space ≠ .ls → FarAcc s st1 (decide (f.space = .cl)) v ty.bytes .rw true (AOrder.acq f.order) acc →
      acc.tgt.isHostT = false →
      (st1.fabricFull (cluOf (coreOf s.cur)) = false → Sys2Proof.Machine.exec (c g f) s = .next (s.goOn (st2.send
        (.atomic { acc with ord := if f.order = .plain then .uo else acc.ord } op ty rm b cc (pb || pc) dst)))) ∧
      (st1.fabricFull (cluOf (coreOf s.cur)) = true → Sys2Proof.Machine.exec (c g f) s = .next s.replayedFar))

/-- R176: the new word of an integer atomic on the value m of its word, with the operand b and the compare value c. -/
def Clause.AtomicResults : Prop :=
  ∀ (t : ITy) (m : Nat) (b c : Int) (rm : Rm),
    let v := AtTy.load (.int t) m
    let w := ityBits t
    (atomNew .add (.int t) rm m b c : Int) = (v + b) % 2 ^ w ∧
    (atomNew .swap (.int t) rm m b c : Int) = b % 2 ^ w ∧
    (atomNew .max (.int t) rm m b c : Int) = max v b % 2 ^ w ∧
    (atomNew .min (.int t) rm m b c : Int) = min v b % 2 ^ w ∧
    (atomNew .cas (.int t) rm m b c : Int) = (if v = c then b else v) % 2 ^ w ∧
    (∀ k < w, (atomNew .and (.int t) rm m b c / 2 ^ k % 2 = 1 ↔ v / 2 ^ k % 2 = 1 ∧ b / 2 ^ k % 2 = 1) ∧
      (atomNew .or (.int t) rm m b c / 2 ^ k % 2 = 1 ↔ v / 2 ^ k % 2 = 1 ∨ b / 2 ^ k % 2 = 1) ∧
      (atomNew .xor (.int t) rm m b c / 2 ^ k % 2 = 1 ↔ ¬(v / 2 ^ k % 2 = 1 ↔ b / 2 ^ k % 2 = 1))) ∧
    (∀ k : FTy, atomNew .fadd (.flt k) rm m b c =
      ((fAdd rm ((ftyFk k).decode (m % 2 ^ (ftyFk k).width)) ((ftyFk k).decode b.toNat)).round (ftyFk k) rm false).1)

/-- R175, R188, R192 to R198: a far read, write or atomic is performed at its owner once no earlier access must come before
it: the read sends the bytes and their poison on their way to their name; the write changes its bytes; the atomic writes its
new word and sends the old one. Before that it leaves the state as it is. An access of a peer's memory asks the peer, which
performs it, once; it ends with the peer's reply (the model's way to the peer: log entries 15 and 44). -/
def Clause.PerformedAtOwner : Prop :=
  (∀ id s a dst, mfind id s.inflight = some (.read a dst) → s.mayPerform id (.read a dst) = true → a.far = false →
    Sys2Proof.Machine.exec (.readAtOwner id) s =
      .next ((s.unsend id).send (.land dst (.raw a.n (s.tgtRead a.tgt a.n).1) (s.tgtRead a.tgt a.n).2 0))) ∧
  (∀ id s a v p, mfind id s.inflight = some (.write a v p) → s.mayPerform id (.write a v p) = true → a.far = false →
    ∃ t, Sys2Proof.Machine.exec (.writeAtOwner id) s = .next t ∧ t.inflight = mdel id s.inflight ∧ t.slots = s.slots ∧
      t.mem = ((s.unsend id).tgtWrite a.tgt a.n v p).mem ∧ t.lmem = ((s.unsend id).tgtWrite a.tgt a.n v p).lmem ∧
      t.memP = ((s.unsend id).tgtWrite a.tgt a.n v p).memP ∧ t.lp = ((s.unsend id).tgtWrite a.tgt a.n v p).lp ∧
      t.lf = s.lf) ∧
  (∀ id s a op ty rm b c p dst, mfind id s.inflight = some (.atomic a op ty rm b c p dst) →
    s.mayPerform id (.atomic a op ty rm b c p dst) = true → a.far = false →
    ∃ t, Sys2Proof.Machine.exec (.atomicAtOwner id) s = .next t ∧ t.slots = s.slots ∧ t.lf = s.lf ∧
      t.tgtRead a.tgt a.n = (atomNew op ty rm (s.tgtRead a.tgt a.n).1 b c % 256 ^ a.n,
        if a.n = 8 then (s.tgtRead a.tgt a.n).2 || p else (s.tgtRead a.tgt a.n).2 || ((s.tgtRead a.tgt a.n).2 || p)) ∧
      t.inflight = (match dst with
        | none => mdel id s.inflight
        | some d => mset s.nextId (.land d (atomOld ty (s.tgtRead a.tgt a.n).1) (s.tgtRead a.tgt a.n).2 0) (mdel id s.inflight))) ∧
  (∀ id s a v p q ws, mfind id s.inflight = some (.write a v p) → s.mayPerform id (.write a v p) = true → a.far = true →
    s.asked.find? (fun q => decide (q.id = id)) = some q → q.ans = some ws →
    Sys2Proof.Machine.exec (.writeAtOwner id) s = .next (((s.unsend id).unask id).memWrite a.tgt.pa a.n v p)) ∧
  (∀ c ∈ [Instr.readAtOwner, Instr.writeAtOwner, Instr.atomicAtOwner], ∀ id s r, mfind id s.inflight = some r →
    s.mayPerform id r = false → Sys2Proof.Machine.exec (c id) s = .next s) ∧
  (∀ id s a dst, mfind id s.inflight = some (.read a dst) → s.mayPerform id (.read a dst) = true → a.far = true →
    let dev := peerDev a.tgt.pa
    (s.asked.find? (fun q => decide (q.id = id)) = none →
      Sys2Proof.Machine.exec (.readAtOwner id) s =
        .next (if s.reaches dev then s.ask id dev (askWords 17 a.n a.tid a.tgt.pa a.trace []) else s)) ∧
    (∀ q, s.asked.find? (fun q => decide (q.id = id)) = some q → q.ans = none →
      Sys2Proof.Machine.exec (.readAtOwner id) s = .next s) ∧
    (∀ q w p, s.asked.find? (fun q => decide (q.id = id)) = some q → q.ans = some [(w, p)] →
      Sys2Proof.Machine.exec (.readAtOwner id) s = .next (((s.unsend id).unask id).send
        (.land dst (.raw a.n (BitVec.toNat w % 2 ^ (8 * a.n))) p 0))))

/-- R192, R197, R198: an access waits for an earlier access of its slot to a common byte, for an earlier strongly ordered
access when it is one, and for an earlier acquire within whose scope it lies unless it is unordered. -/
def Clause.AccessOrder : Prop :=
  ∀ (s : State) (id e : Nat) (q r : Req) (x y : Acc), (e, r) ∈ s.inflight → e < id → r.acc = some x → q.acc = some y →
    x.tid = y.tid →
    (overlap x.tgt y.tgt x.n y.n = true ∨ (x.ord = .so ∧ y.ord = .so) ∨
      (∃ sc, x.acq = some sc ∧ y.ord ≠ .uo ∧ inScope sc (coreOf x.tid) y.tgt = true)) →
    s.mayPerform id q = false

/-- R162: what is written is read back, a narrower access ORs its poison into the word's, and other bytes keep their values. -/
def Obligations.MemoryReadsBack : Prop :=
  ∀ (s : State) (tg u : Tgt) (n m v : Nat) (p : Bool),
    (s.tgtWrite tg n v p).tgtRead tg n = (v % 256 ^ n, if n = 8 then p else (s.tgtRead tg n).2 || p) ∧
    ((∀ a b, tg = .mem a → u = .mem b → b + m ≤ a ∨ a + n ≤ b) →
      (∀ c a d b, tg = .ls c a → u = .ls d b → d * 2 ^ 18 + b + m ≤ c * 2 ^ 18 + a ∨ c * 2 ^ 18 + a + n ≤ d * 2 ^ 18 + b) →
      ((s.tgtWrite tg n v p).tgtRead u m).1 = (s.tgtRead u m).1)

/-- R174, R268: a result lands in a name that still waits for it, fitted to it: `trap` mode wraps and poisons. It is dropped
with its flags where the name waits for another, or its slot has moved on or ended; while the core's register store is being
repacked it waits. -/
def Obligations.ResultsLand : Prop :=
  ∀ id s d v p fl, mfind id s.inflight = some (.land d v p fl) →
    (s.repacking (coreOf d.tid) = true → Sys2Proof.Machine.exec (.landName id) s = .next s) ∧
    (s.repacking (coreOf d.tid) = false → ¬ Lives s d →
      Sys2Proof.Machine.exec (.landName id) s = .next (s.unsend id)) ∧
    (∀ y, s.repacking (coreOf d.tid) = false → Lives s d → d.ix ≠ 0 →
      (s.slot d.tid).names[d.ix - 1]? = some y →
      (y.pend ≠ some d.tk → Sys2Proof.Machine.exec (.landName id) s = .next (s.unsend id)) ∧
      (∀ (x : Int) sg w m, y.pend = some d.tk → v = .int x → y.kind = .int sg w m →
        ∃ t z, Sys2Proof.Machine.exec (.landName id) s = .next t ∧
          (t.slot d.tid).names[d.ix - 1]? = some z ∧ z.f = true ∧ z.pend = none ∧ z.kind = y.kind ∧
          ((∃ r, fitInt sg w m x = some r ∧ z.vals = [r] ∧ z.p = p) ∨
            (fitInt sg w m x = none ∧ z.vals = [wrapTo sg w x] ∧ z.p = true)) ∧
          (∀ u, u ≠ d.tid → t.slot u = s.slot u)) ∧
      (∀ n raw, y.pend = some d.tk → v = .raw n raw → ∃ t z, Sys2Proof.Machine.exec (.landName id) s = .next t ∧
          (t.slot d.tid).names[d.ix - 1]? = some z ∧ z.kind = y.kind ∧
          (∀ sg w m r, y.kind = .int sg w m → fitInt sg w m (if sg then sext (8 * n) raw else raw) = some r →
            z.vals = [r] ∧ z.p = p ∧ z.f = true ∧ z.pend = none) ∧
          (∀ sg w m, y.kind = .int sg w m → fitInt sg w m (if sg then sext (8 * n) raw else raw) = none →
            z.vals = [wrapTo sg w (if sg then sext (8 * n) raw else raw)] ∧ z.p = true ∧ z.f = true ∧ z.pend = none) ∧
          (∀ k, y.kind = .flt k → z.vals = [((raw % 2 ^ k.width : Nat) : Int)] ∧
            z.p = (p || decide (k = .a56 ∧ 2 ^ 56 ≤ raw)) ∧ z.f = true ∧ z.pend = none)) ∧
      (∀ (x : Nat) k, y.pend = some d.tk → v = .pat x → y.kind = .flt k → ∃ t z, Sys2Proof.Machine.exec (.landName id) s = .next t ∧
        (t.slot d.tid).names[d.ix - 1]? = some z ∧ z.kind = y.kind ∧ z.vals = [(x : Int)] ∧ z.p = p ∧ z.f = true ∧
        z.pend = none ∧ (t.slot d.tid).fflags = (s.slot d.tid).fflags ||| fl))

/-- R171: TRANSLATION_WALK with a good walk of a page that is not cached puts its leaf into the cluster's cache; a walk that
fails only takes the request out of flight. -/
def Clause.WalksFillTheCache : Prop :=
  ∀ id s cl part w va, mfind id s.inflight = some (.walk cl part w va) →
    (∀ l, (s.unsend id).walkVa part va = .ok l → backed (l.pa + (va - l.base)) = true → s.cached cl part va = none →
      Sys2Proof.Machine.exec (.translationWalk id) s = .next ((s.unsend id).fillCache cl part va l)) ∧
    (∀ sc, (s.unsend id).walkVa part va = .error sc →
      Sys2Proof.Machine.exec (.translationWalk id) s = .next (s.unsend id))

/-- R76, R77, R185, R186, R394, R395, R403: SEMWAIT goes on once the semaphore has reached its threshold, and takes it with
`.take`; else it parks. SEMSIG adds to the semaphore, up to 65,535, what it releases being performed in its step (the model's
choice: log entry 21; R195 and R197 only order it), none of it being under way to another device (log entry 15); SEMSET sets
it; SEMRD reads it. QCFG binds a queue name to a queue of a core of the partition; QCOUNT counts the entries of an own queue.
A remote push enters its queue once it has room and no earlier push of its slot to that queue is on its way. -/
def Clause.SemaphoresAndQueues : Prop :=
  (∀ g n t take s, Ready s g [] [] none →
    (BitVec.toNat t ≤ s.sem (coreOf s.cur) (BitVec.toNat n) → Sys2Proof.Machine.exec (.semwait g n t take) s = .next (s.goOn
      (if take then s.counted.setSem (coreOf s.cur) (BitVec.toNat n) (s.sem (coreOf s.cur) (BitVec.toNat n) - BitVec.toNat t)
        else s.counted))) ∧
    (s.sem (coreOf s.cur) (BitVec.toNat n) < BitVec.toNat t → Sys2Proof.Machine.exec (.semwait g n t take) s =
      .next ((s.parkWait s.cur (BitVec.ofNat 64 (2 * 2 ^ 60 + BitVec.toNat n + BitVec.toNat t * 256)) false).count 0
        (coreOf s.cur) 3 s.me.smode 1))) ∧
  (∀ g n i s, Ready s g [] [] none → Released s s.counted .sys → let t := s.counted.releaseAt s.cur .sys
    Sys2Proof.Machine.exec (.semsig g n i) s = .next (s.goOn (t.setSem (coreOf s.cur) (BitVec.toNat n)
      (min 65535 (t.sem (coreOf s.cur) (BitVec.toNat n) + BitVec.toNat i))))) ∧
  (∀ g n v k s, Ready s g [] [] none → ((∃ x, v = .i14 x ∧ k = BitVec.toNat x) ∨ (∃ x, v = .x32 x ∧ k = BitVec.toNat x)) →
    Sys2Proof.Machine.exec (.semset g n v) s = .next (s.goOn (s.counted.setSem (coreOf s.cur) (BitVec.toNat n) k))) ∧
  (∀ g d n s st, Ready s g [d.ix] [] (some d) →
    WritesInt s s.counted d.ix (s.sem (coreOf s.cur) (BitVec.toNat n)) false st →
    Sys2Proof.Machine.exec (.semrd g d n) s = .next (s.goOn st)) ∧
  (∀ g (d : Ix) a n c s st, Ready s g [d, a.ix] [a] none → s.me.isQ d = true →
    ((a.ix = 0 ∧ c = coreOf s.cur ∧ st = s.counted) ∨
      (IntName s a.ix ∧ ∃ v, ReadsInt s (s.emptied [a]) a.ix v false st ∧ CoreNamed s v c)) →
    Sys2Proof.Machine.exec (.qcfg g d a n) s =
      .next (s.goOn (st.modName s.cur d (fun y => { y with kind := .queue c (BitVec.toNat n) })))) ∧
  (∀ g d n s st, Ready s g [d.ix] [] (some d) → NoQueue s d.ix →
    WritesInt s s.counted d.ix (s.queue (coreOf s.cur) (BitVec.toNat n)).length false st →
    Sys2Proof.Machine.exec (.qcount g d n) s = .next (s.goOn st)) ∧
  (∀ id s t ep core q v p, mfind id s.inflight = some (.push t ep core q v p) → (s.queue core q).length < 16 →
    (∀ e ∈ s.inflight, e.1 < id → ∀ ep v p, e.2 ≠ .push t ep core q v p) →
    Sys2Proof.Machine.exec (.remotePush id) s = .next ((s.unsend id).setQueue core q (s.queue core q ++ [(v, p)])))

/-- R80, R384, R385: MSEND reads its core and its payload and sends the message to the core's inbound port, what it releases
being performed in its step (the model's choice: log entry 21), none of it being under way to another device (log entry 15);
in U mode handler entry 0 raises PRIV (0x12) subcode 4; a core outside the partition raises PERM (9) subcode 0x17. -/
def Clause.MessagesAreSent : Prop :=
  ∀ g k a pl v st s, Ready s g (a.ix :: pl) [a] none → ReadsInt s (s.emptied [a]) a.ix v false st →
    (∀ i ∈ pl, s.me.isVec i = false ∧ s.me.isQ i = false) →
    (∀ c ws, CoreNamed s v c → (BitVec.toNat k = 0 → s.me.smode = true) → Payload s pl ws →
      ((st.core c).inMsg.length < 4 ∨ st.switchUse (cluOf (coreOf s.cur)) < Config.switchHolds) → Released s st .dev →
      Sys2Proof.Machine.exec (.msend g k a pl) s = .next (s.goOn ((st.releaseAt s.cur .dev).send
        (.msg ⟨s.partNum (coreOf s.cur), BitVec.toNat k, ws, s.cur, c, false⟩)))) ∧
    (∀ c, CoreNamed s v c → BitVec.toNat k = 0 → s.me.smode = false →
      Sys2Proof.Machine.exec (.msend g k a pl) s = .next (s.trapped ⟨0x12, 4, 0, 0⟩)) ∧
    ((v < 0 ∨ 4095 < v ∨ s.samePart v.toNat (coreOf s.cur) = false) →
      Sys2Proof.Machine.exec (.msend g k a pl) s = .next (s.trapped ⟨9, 0x17, 0, 0⟩))

/-- R93 to R95, R359, R415: SPAWN sends INC for its frame and HDR for the child's, pushes the parent's continuation, after
the takes of the core's lower slots at the deque port, and goes on as the child; SYNC sends TEST and holds the slot until the reply; DONE without a frame seeks work, with one it sends DEC
and holds the slot. SYNC and DONE leave the slot's group. The slot's accesses, and the GLEAVE, are performed in the step (the
model's choice: log entry 21; R101 only orders them), none of them being under way to another device (log entry 15). -/
def Obligations.ThreadsSpawnJoinAndEnd : Prop :=
  (∀ g a t tgt v f c s st, Ready s g [a.ix] [a] none → IntName s a.ix → ReadsInt s (s.emptied [a]) a.ix v false st →
    let cf := BitVec.ofInt 64 v
    s.me.frame ≠ 0 → cf ≠ 0 → cf.toNat % 32 = 0 → FrameAcc s st s.me.frame f → FrameAcc s st cf c →
    (s.portBefore s.cur).dequeFull (coreOf s.cur) = false → Performed s st →
    ((∃ x, t = .i14 x ∧ tgt = s.me.pc + 4 * BitVec.signExtend 64 x) ∨
      (∃ x, t = .x32 x ∧ tgt = s.me.pc + 4 * BitVec.signExtend 64 x)) →
    Sys2Proof.Machine.exec (.spawn g a t) s = .next (s.goTo
      (((((((st.drain s.cur).portBefore s.cur).send (.inc f s.me.launch s.me.frame)).send
        (.hdr c s.me.frame s.me.tuning)).portServed (coreOf s.cur) s.cur).pushRec (coreOf s.cur)
          ⟨s.afterPc, s.me.frame, s.me.tuning, s.me.launch, s.me.bits, s.me.prio, false⟩).modSlot s.cur
            (fun y => { y with frame := cf, lc0 := 0, lc1 := 0 })) tgt)) ∧
  (∀ g f s, Ready s g [] [] none → s.me.frame ≠ 0 → FrameAcc s s.counted s.me.frame f → Performed s s.counted →
    Sys2Proof.Machine.exec (.sync g) s = .next
      ((((s.counted.drain s.cur).quit s.cur).send (.test f (s.me.pc + 8))).setSlot s.cur (heldSlot s.me
        (.test ⟨s.me.pc + 8, s.me.frame, s.me.tuning, s.me.launch, s.me.bits, s.me.prio, true⟩)))) ∧
  (∀ g s, Ready s g [] [] none → s.me.frame = 0 → (s.counted.drain s.cur).heldBuf s.cur = none →
    (s.reserved (coreOf s.cur) = true → s.cur % 16 < 14) → Performed s s.counted →
    ∃ t, Sys2Proof.Machine.exec (.done g) s = .next t ∧
      t = (((s.counted.drain s.cur).quit s.cur).seek s.cur) ∧ t.slot s.cur = { heldSlot s.me (.seek 0 false) with waitSince := s.cycle + 1 }) ∧
  (∀ g f s, Ready s g [] [] none → s.me.frame ≠ 0 → FrameAcc s s.counted s.me.frame f →
    (s.counted.drain s.cur).heldBuf s.cur = none → Performed s s.counted →
    Sys2Proof.Machine.exec (.done g) s = .next
      ((((s.counted.drain s.cur).quit s.cur).send (.dec f s.me.launch s.me.prio s.me.pc s.me.frame)).setSlot s.cur
        (heldSlot s.me (.dec s.me.launch s.me.prio))))

/-- R92: the frame operations at their bank. INC adds one to COUNT and acknowledges; HDR writes the child's header; DEC
without a parent ends, with one it forwards DEC'; DEC' takes one from COUNT and releases a suspended frame whose COUNT
becomes 0; TEST answers GO at COUNT 0, else suspends the frame and answers WAIT. -/
def Obligations.FrameOperations : Prop :=
  (∀ id s a pa l f, AtOwner s id (.inc a l f) → a.tgt = .mem pa → ∃ t, Sys2Proof.Machine.exec (.inc id) s = .next t ∧
    t.inflight = mset s.nextId (.incAck (coreOf a.tid) l f) (mdel id s.inflight) ∧
    wordAt t pa 0 = wordAt s pa 0 / 2 ^ 63 * 2 ^ 63 + (wordAt s pa 0 + 1) % 2 ^ 63 ∧
    (∀ x, (x < pa ∨ pa + 8 ≤ x) → Memory.read t.mem x = Memory.read s.mem x) ∧ t.slots = s.slots) ∧
  (∀ id s a pa (p tn : Word), AtOwner s id (.hdr a p tn) → a.tgt = .mem pa → ∃ t, Sys2Proof.Machine.exec (.hdr id) s = .next t ∧
    t.inflight = mdel id s.inflight ∧ wordAt t pa 0 = 0 ∧ wordAt t pa 1 = 0 ∧ wordAt t pa 2 = p.toNat ∧
    wordAt t pa 3 = tn.toNat ∧ (∀ x, (x < pa ∨ pa + 32 ≤ x) → Memory.read t.mem x = Memory.read s.mem x) ∧
    t.slots = s.slots) ∧
  (∀ id s a pa l pr pc f, AtOwner s id (.dec a l pr pc f) → a.tgt = .mem pa → (∀ k < 4, s.memPoison (pa + 8 * k) = false) →
    (wordAt s pa 2 = 0 → Sys2Proof.Machine.exec (.dec id) s = .next ((s.unsend id).send (.decReply a.tid a.ep none))) ∧
    (∀ q lf, wordAt s pa 2 ≠ 0 → s.xlatePart (launchPart l) false (wordAt s pa 2) .wr = .ok q lf → isDev q = true →
      Sys2Proof.Machine.exec (.dec id) s = .next ((s.unsend id).send
        (.decPrime a.tid a.ep l q lf.trace (BitVec.ofNat 64 (wordAt s pa 2)))))) ∧
  (∀ id s src ep l pa tr f, mfind id s.inflight = some (.decPrime src ep l pa tr f) →
    (wordAt s pa 0 % 2 ^ 63 = 0 → Sys2Proof.Machine.exec (.decPrime id) s =
      .next ((s.unsend id).send (.decReply src ep none))) ∧
    (wordAt s pa 0 % 2 ^ 63 ≠ 0 → ∃ t, Sys2Proof.Machine.exec (.decPrime id) s = .next t ∧
      wordAt t pa 0 = (if wordAt s pa 0 = 2 ^ 63 + 1 then 0 else wordAt s pa 0 - 1) ∧
      t.inflight = mset s.nextId (.decReply src ep (if wordAt s pa 0 = 2 ^ 63 + 1 then
        some (BitVec.ofNat 64 (wordAt s pa 1), f, BitVec.ofNat 64 (wordAt s pa 3)) else none)) (mdel id s.inflight))) ∧
  (∀ id s a pa (r : Word), AtOwner s id (.test a r) → a.tgt = .mem pa →
    (wordAt s pa 0 % 2 ^ 63 = 0 → Sys2Proof.Machine.exec (.test id) s =
      .next ((s.unsend id).send (.testReply a.tid a.ep true))) ∧
    (wordAt s pa 0 % 2 ^ 63 ≠ 0 → ∃ t, Sys2Proof.Machine.exec (.test id) s = .next t ∧
      wordAt t pa 0 = 2 ^ 63 + wordAt s pa 0 % 2 ^ 63 ∧ wordAt t pa 1 = r.toNat ∧
      t.inflight = mset s.nextId (.testReply a.tid a.ep false) (mdel id s.inflight)))

/-- R90, R93 to R96, R98 to R100, R440: the replies of frame operations and the search for work. The last acknowledgement
lets other cores take a frame's records; GO starts the record of the SYNC where it fits, WAIT seeks; a RELEASE pushes the
frame's record; a search begins in the next cycle and asks one deque port after another, takes the first record that it may,
and starts it; one of the own core that does not fit ends it. A port serves the requests of one cycle in the order of the own
slots and then of the other cores. The periodic search of a core of a partition with a live launch begins at the core's phase. -/
def Clause.WorkEvents : Prop :=
  (∀ id s c l f, mfind id s.inflight = some (.incAck c l f) →
    (∀ e ∈ mdel id s.inflight, (∀ a k, e.2 = .inc a k f → coreOf a.tid ≠ c) ∧ (∀ k, e.2 ≠ .incAck c k f)) →
    Sys2Proof.Machine.exec (.incAcknowledgement id) s =
      .next ((s.unsend id).setCore c ((s.core c).ackRecs l f))) ∧
  (∀ id s t ep go r, mfind id s.inflight = some (.testReply t ep go) → s.repacking (coreOf t) = false →
    (s.slot t).held = .test r → (s.slot t).epoch = ep →
    (go = false → Sys2Proof.Machine.exec (.testReply id) s = .next ((s.unsend id).seek t)) ∧
    (∀ ks, go = true → s.readTuning (s.partNum (coreOf t)) true (coreOf t) r.tuning = .ok ks →
      s.fits (coreOf t) (costOf ks) = true →
      Sys2Proof.Machine.exec (.testReply id) s = .next ((s.unsend id).startSlot t r.startOf ks))) ∧
  (∀ id s t ep l pr, (s.slot t).held = .dec l pr → (s.slot t).epoch = ep →
    (mfind id s.inflight = some (.decReply t ep none) →
      Sys2Proof.Machine.exec (.decReply id) s = .next ((s.unsend id).endThread t)) ∧
    (∀ pc fr tn ks, mfind id s.inflight = some (.decReply t ep (some (pc, fr, tn))) → s.dequeFull (coreOf t) = false →
      s.portServes (coreOf t) t = true → s.readTuning (s.partNum (coreOf t)) true (coreOf t) tn = .ok ks →
      Sys2Proof.Machine.exec (.decReply id) s = .next
        ((((s.unsend id).portServed (coreOf t) t).pushRec (coreOf t) ⟨pc, fr, tn, l, costOf ks, pr, true⟩).endThread t))) ∧
  (∀ id s t ep k v vs, mfind id s.inflight = some (.probe t ep k (v :: vs)) → (s.slot t).seeking ep k = true →
    s.portServes v t = true →
    (∀ r u, k = 0 → s.takeBottom v = some (r, u) → s.fits (coreOf t) r.bits = true →
      Sys2Proof.Machine.exec (.dequeTake id) s = .next ((u.portServed v t).resend id (.took t ep r))) ∧
    (∀ r u, k ≠ 0 → s.takeTop v = some (r, u) → s.samePart (coreOf t) v = true → (s.core v).offline = false →
      r.ack = true → s.fits (coreOf t) r.bits = true →
      Sys2Proof.Machine.exec (.dequeTake id) s = .next ((u.portServed v t).resend id (.took t ep r))) ∧
    (∀ r u, k = 0 → s.takeBottom v = some (r, u) → s.fits (coreOf t) r.bits = false →
      Sys2Proof.Machine.exec (.dequeTake id) s = .next (((s.portServed v t).unsend id).freeSlot t)) ∧
    ((k = 0 → s.takeBottom v = none) → (k ≠ 0 → ∀ r u, s.takeTop v = some (r, u) → s.samePart (coreOf t) v = false ∨
        (s.core v).offline = true ∨ r.ack = false ∨ s.fits (coreOf t) r.bits = false) →
      Sys2Proof.Machine.exec (.dequeTake id) s = .next ((s.portServed v t).resend id (.probe t ep k vs)))) ∧
  (∀ id s t ep k v vs, mfind id s.inflight = some (.probe t ep k (v :: vs)) → (s.slot t).seeking ep k = true →
    s.portServes v t = false → Sys2Proof.Machine.exec (.dequeTake id) s = .next s) ∧
  (∀ (s : State) (v : Nat) (t : Tid), let rank := fun (u : Tid) => if coreOf u = v then u % 16 else 16 + coreOf u
    (s.portServes v t = true ↔ (s.slot t).waitSince ≤ s.cycle ∧
      ((s.core v).portAt ≤ s.cycle ∨ (s.core v).portRank ≤ rank t) ∧
      ∀ e ∈ s.inflight, ∀ u ep k vs, e.2 = .probe u ep k (v :: vs) → (s.slot u).seeking ep k = true →
        (s.slot u).waitSince ≤ s.cycle → rank t ≤ rank u) ∧
    ((s.portServed v t).core v).portAt = s.cycle + 1 ∧ ((s.portServed v t).core v).portRank = rank t) ∧
  (∀ (s : State) (t : Tid), (∀ e ∈ s.inflight, ∀ u ep k v vs, e.2 = .probe u ep k (v :: vs) → coreOf u ≠ coreOf t ∨ t ≤ u) →
    s.portBefore t = s) ∧
  (∀ (s : State) (t : Tid) p, ((s.search t p).slot t).held = .seek 0 p ∧ ((s.search t p).slot t).waitSince = s.cycle + 1) ∧
  (∀ id s t ep k, mfind id s.inflight = some (.probe t ep k []) → (s.slot t).seeking ep k = true →
    Sys2Proof.Machine.exec (.seekProbe id) s = .next ((s.unsend id).issueProbe t (k + 1))) ∧
  (∀ s t id ep r ks, s.tookOf t = some (id, ep, r) → s.repacking (coreOf t) = false →
    (s.slot t).seeking ep (s.slot t).probeNo = true →
    s.readTuning (s.partNum (coreOf t)) true (coreOf t) r.tuning = .ok ks → s.fits (coreOf t) (costOf ks) = true →
    Sys2Proof.Machine.exec (.continuationStart t) s = .next ((s.unsend id).startSlot t r.startOf ks)) ∧
  (∀ s c t, s.cycle % 512 = 16 * (c % 32) → (s.core c).lastSeek ≤ s.cycle → (s.core c).offline = false →
    (s.partOf c).isSome = true → LiveLaunch s (s.partNum c) →
    (∀ u ∈ coreTids c, ∀ k, (s.slot u).held ≠ .seek k true) → s.headTakes c = false → s.freeSlotOf c false = some t →
    Sys2Proof.Machine.exec (.periodicSeek c) s =
      .next ((s.setCore c { s.core c with lastSeek := s.cycle + 1 }).search t true))

/-- R64, R90, R261: what starts a slot: the work's PC, mode, frame and launch, the names of its tuning, the next epoch, and
every other register as at a slot start. -/
def Clause.SlotStart : Prop :=
  ∀ (s : State) (t : Tid) (w : Start) (ks : List NKind),
    let y := (s.startSlot t w ks).slot t
    y.st = .runnable ∧ y.pc = w.pc ∧ y.smode = w.smode ∧ y.tuning = w.tuning ∧ y.frame = w.frame ∧ y.capbase = w.capbase ∧
    y.launch = w.launch ∧ y.prio = w.prio ∧ y.epoch = ((s.slot t).epoch + 1) % 65536 ∧ y.lc0 = 0 ∧ y.lc1 = 0 ∧ y.fflags = 0 ∧
    y.group = 0 ∧ y.marker = none ∧ y.rgnpc = 0 ∧ y.rgnlist = 0 ∧ y.rgnsem = (0, 0) ∧ y.ecause = 0 ∧ y.waiton = 0 ∧
    y.kept = none ∧ y.held = .none ∧ y.bits = costOf ks ∧ (y.names.map (fun n => n.kind)) = ks ∧
    (∀ u, u ≠ t → (s.startSlot t w ks).slot u = s.slot u)

/-- R86, R371 to R373: GENTER leaves its slot's group, sends its request and parks until the reply; then it goes on. GLEAVE
leaves the group; GBAR sends its arrival and parks until the release; then it goes on. GSIZE leaves its name empty and asks
for MEMBERS, 0 for no group. (The model's choices: that the request of a GENTER on a strongly ordered page counts as one of a
release-consistent page, log entry 14, since R201 and R335 can be read two ways; that the accesses of a slot that leaves its
group are performed in its step, log entry 21, none of them being under way to another device, log entry 15.) -/
def Clause.GroupOps : Prop :=
  (∀ g a v s, Ready s g [a.ix] [a] none → s.me.intNil a.ix = true →
    ReadsInt s (s.emptied [a]) a.ix v false (s.emptied [a]) →
    (s.me.greq = .genterDone → Sys2Proof.Machine.exec (.genter g a) s =
      .next (s.goOn ((s.emptied [a]).modSlot s.cur (fun y => { y with greq := .none })))) ∧
    (∀ va pa l, s.me.greq = .none → va = BitVec.ofInt 64 v → BitVec.toNat va % 32 = 0 →
      s.xlate (cluOf (coreOf s.cur)) (s.partNum (coreOf s.cur)) s.me.smode (BitVec.toNat va) .rw = .ok pa l → isHost pa = false →
      isPeer pa = false → (s.me.group = 0 ∨ Performed s (s.emptied [a])) →
      let t := ((s.leaveGroup s.cur).send (.genter
        ⟨s.cur, s.me.epoch, .mem pa, 32, true, if l.ord = .so then .rc else l.ord, none, l.trace⟩ va)).modSlot s.cur
        (fun y => { y with greq := .genterSent pa l.trace, marker := none })
      Sys2Proof.Machine.exec (.genter g a) s = .next ((t.parkWait s.cur
        (BitVec.ofNat 64 (6 * 2 ^ 60 + BitVec.toNat va / 32 % 2 ^ 51)) false).count 0 (coreOf s.cur) 3 s.me.smode 1))) ∧
  (∀ g s, Ready s g [] [] none → (s.me.group = 0 ∨ Performed s s.counted) → Sys2Proof.Machine.exec (.gleave g) s =
    .next (s.goOn ((if s.me.group = 0 then s.counted else s.counted.drain s.cur).leaveGroup s.cur))) ∧
  (∀ g s, Ready s g [] [] none →
    (s.me.group = 0 → Sys2Proof.Machine.exec (.gbar g) s = .next (s.goOn s.counted)) ∧
    (s.me.group ≠ 0 → s.me.greq = .gbarDone → (∀ m, s.me.marker = some m → m.1 = s.me.pc) →
      Sys2Proof.Machine.exec (.gbar g) s =
        .next (s.goOn (s.counted.modSlot s.cur (fun y => { y with greq := .none, marker := none })))) ∧
    (s.me.group ≠ 0 → s.me.greq = .none → s.me.marker = none →
      let t := (s.modSlot s.cur (fun y => { y with greq := .gbarSent, marker := none })).send
        (.gbar (s.me.groupAcc s.cur) s.me.pc)
      Sys2Proof.Machine.exec (.gbar g) s = .next ((t.parkWait s.cur
        (BitVec.ofNat 64 (5 * 2 ^ 60 + s.me.group.toNat / 32 % 2 ^ 51)) false).count 0 (coreOf s.cur) 3 s.me.smode 1))) ∧
  (∀ g d s, Ready s g [d.ix] [] (some d) → s.me.intOk d.ix = true → NoQueue s d.ix →
    (s.me.group ≠ 0 → Sys2Proof.Machine.exec (.gsize g d) s = .next (s.goOn
      ((s.pending s.counted d.ix).send (.gsize (s.me.groupAcc s.cur) (s.resultOf s.counted d.ix))))) ∧
    (∀ st, s.me.group = 0 → WritesInt s s.counted d.ix 0 false st →
      Sys2Proof.Machine.exec (.gsize g d) s = .next (s.goOn st)))

/-- R86, R372, R373: the group requests at the bank of their record, whose words are MEMBERS, NEED, ARRIVED and GEN. A GENTER
while no barrier is open adds a member and replies, else it is held; GLEAVE takes a member away, and while a barrier is open
for which the slot has not arrived counts as its arrival; a GBAR opens a barrier of all members; the last arrival closes it:
GEN rises, NEED and ARRIVED become 0, and every slot that waits in a GBAR of that record is released. GSIZE sends MEMBERS.
The reply of a GENTER sets GROUP; a withdrawal removes a held request. -/
def Clause.GroupsAtTheBank : Prop :=
  (∀ id s a pa va, AtOwner s id (.genter a va) → a.tgt = .mem pa →
    (wordAt s pa 1 = 0 → ∃ t, Sys2Proof.Machine.exec (.genterAtBank id) s = .next t ∧
      wordAt t pa 0 = (wordAt s pa 0 + 1) % 2 ^ 64 ∧ wordAt t pa 1 = 0 ∧
      t.inflight = mset s.nextId (.genterReply a.tid a.ep va pa a.ord a.trace) (mdel id s.inflight)) ∧
    (wordAt s pa 1 ≠ 0 → ∃ t, Sys2Proof.Machine.exec (.genterAtBank id) s = .next t ∧ t.mem = s.mem ∧
      t.inflight = mdel id s.inflight ∧ (t.bank (bankOf pa)).held = (s.bank (bankOf pa)).held ++ [(a, va)])) ∧
  (∀ id s a pa gen, AtOwner s id (.gleave a gen) → a.tgt = .mem pa → (gen = some (wordAt s pa 3) ∨ wordAt s pa 1 = 0) →
    ∃ t, Sys2Proof.Machine.exec (.gleaveAtBank id) s = .next t ∧ t.inflight = mdel id s.inflight ∧
      wordAt t pa 0 = (wordAt s pa 0 + (2 ^ 64 - 1)) % 2 ^ 64 ∧ (∀ k, 1 ≤ k → k ≤ 3 → wordAt t pa k = wordAt s pa k)) ∧
  (∀ id s a pa gen, AtOwner s id (.gleave a gen) → a.tgt = .mem pa → gen ≠ some (wordAt s pa 3) → wordAt s pa 1 ≠ 0 →
    (s.bank (bankOf pa)).held = [] → wordAt s pa 2 + 1 < 2 ^ 64 →
    ∃ t, Sys2Proof.Machine.exec (.gleaveAtBank id) s = .next t ∧ t.inflight = mdel id s.inflight ∧
      wordAt t pa 0 = (wordAt s pa 0 + (2 ^ 64 - 1)) % 2 ^ 64 ∧
      (wordAt s pa 2 + 1 ≠ wordAt s pa 1 → wordAt t pa 1 = wordAt s pa 1 ∧ wordAt t pa 2 = wordAt s pa 2 + 1 ∧
        wordAt t pa 3 = wordAt s pa 3 ∧ t.slots = s.slots) ∧
      (wordAt s pa 2 + 1 = wordAt s pa 1 → wordAt t pa 1 = 0 ∧ wordAt t pa 2 = 0 ∧
        wordAt t pa 3 = (wordAt s pa 3 + 1) % 2 ^ 64 ∧
        ∀ u, u ≠ a.tid → WaitsIn s pa u → (t.slot u).greq = .gbarDone)) ∧
  (∀ id s a pa pc, AtOwner s id (.gbar a pc) → a.tgt = .mem pa → (s.slot a.tid).epoch = a.ep →
    (s.bank (bankOf pa)).held = [] → (s.slot a.tid).greq = .gbarSent → (s.slot a.tid).group ≠ 0 →
    (s.slot a.tid).groupPa = pa →
    ∃ t, Sys2Proof.Machine.exec (.gbarArrival id) s = .next t ∧ t.inflight = mdel id s.inflight ∧
      (t.slot a.tid).marker = some (pc, wordAt s pa 3) ∧ wordAt t pa 0 = wordAt s pa 0 ∧
      let need := if wordAt s pa 1 = 0 then wordAt s pa 0 else wordAt s pa 1
      let arr := if wordAt s pa 1 = 0 then 1 else wordAt s pa 2 + 1
      (arr < 2 ^ 64 → arr ≠ need → wordAt t pa 1 = need ∧ wordAt t pa 2 = arr ∧ wordAt t pa 3 = wordAt s pa 3 ∧
        (t.slot a.tid).greq = .gbarSent) ∧
      (arr < 2 ^ 64 → arr = need → wordAt t pa 1 = 0 ∧ wordAt t pa 2 = 0 ∧ wordAt t pa 3 = (wordAt s pa 3 + 1) % 2 ^ 64 ∧
        (t.slot a.tid).greq = .gbarDone ∧ (∀ u, WaitsIn s pa u → (t.slot u).greq = .gbarDone) ∧
        ∀ u, u ≠ a.tid → (s.slot u).marker.map (·.2) ≠ some (wordAt s pa 3) → t.slot u = s.slot u)) ∧
  (∀ id s a pa dst, AtOwner s id (.gsize a dst) → a.tgt = .mem pa → Sys2Proof.Machine.exec (.gsizeAtBank id) s =
    .next ((s.unsend id).send (.land dst (.int (wordAt s pa 0)) false 0))) ∧
  (∀ id s t ep va pa ord tr, mfind id s.inflight = some (.genterReply t ep va pa ord tr) → (s.slot t).inGenter ep = true →
    Sys2Proof.Machine.exec (.genterReply id) s = .next ((s.unsend id).setSlot t { s.slot t with
      group := va, groupPa := pa, groupOrd := ord, groupTr := tr, greq := .genterDone })) ∧
  (∀ id s t ep pa tr h, mfind id s.inflight = some (.genterWd t ep pa tr false) → (∀ e ∈ s.inflight, e.2.genters t ep = false) →
    s.mustWait t = false →
    h ∈ (s.bank (bankOf pa)).held → h.1.tid = t → h.1.ep = ep → h.1.tgt = .mem pa →
    ∃ u, Sys2Proof.Machine.exec (.genterWithdrawal id) s = .next u ∧ u.mem = s.mem ∧ u.inflight = mdel id s.inflight ∧
      (∀ e ∈ (u.bank (bankOf pa)).held, ¬(e.1.tid = t ∧ e.1.ep = ep ∧ e.1.tgt = .mem pa)))

/-- R43, R195, R261, R262, R265: taking a trap of a slot that holds no capsule. The slot's accesses are performed first. In U
mode the slot parks with all its registers and its record goes to its partition's trap handler; in S mode with a vector and
ECAUSE not busy it goes on at SVEC with EPC, ECAUSE and EADDR saved; with ECAUSE busy or no vector it parks and the record,
NESTED, goes to partition 0's handler, or from there to the host. -/
def Obligations.TakingATrap : Prop :=
  ∀ (s : State) (t : Tid) (pc insn : Word) (i : TrapInfo) (inV : Bool), (s.drain t).heldBuf t = none →
    let d := s.drain t
    ((d.slot t).smode = false → ∀ g, (d.part (d.partNum (coreOf t))).cfg = some g →
      s.takeTrap t pc insn i inV = (d.setSlot t (parkedByTrap (d.slot t) pc i inV d.cycle)).send
        (.msg ⟨d.partNum (coreOf t), 0, (TrapRecordOf d d t pc insn i false).map (fun w => (w, false)), t, g.trapc, true⟩)) ∧
    ((d.slot t).smode = true → ∀ g, d.cfgOf (coreOf t) = some g → g.svec ≠ 0 → (d.slot t).ecause.toNat < 2 ^ 63 →
      s.takeTrap t pc insn i inV = d.setSlot t { d.slot t with
        st := .runnable, pc := g.svec, epc := pc, eaddr := i.addr, kept := none, waiton := 0, waitChecked := false,
        ecause := BitVec.ofNat 64 (2 ^ 63 + i.name % 256 * 2 ^ 16 + i.sub % 256 * 2 ^ 8 + i.cause) }) ∧
    ((d.slot t).smode = true → (2 ^ 63 ≤ (d.slot t).ecause.toNat ∨ ∀ g, d.cfgOf (coreOf t) = some g → g.svec = 0) →
      d.partNum (coreOf t) = 0 →
      s.takeTrap t pc insn i inV = (d.setSlot t (parkedByTrap (d.slot t) pc i inV d.cycle)).reportHost
        (TrapRecordOf d d t pc insn i true)) ∧
    ((d.slot t).smode = true → (2 ^ 63 ≤ (d.slot t).ecause.toNat ∨ ∀ g, d.cfgOf (coreOf t) = some g → g.svec = 0) →
      d.partNum (coreOf t) ≠ 0 → ∀ g, (d.part 0).cfg = some g →
      s.takeTrap t pc insn i inV = (d.setSlot t (parkedByTrap (d.slot t) pc i inV d.cycle)).send
        (.msg ⟨0, 0, (TrapRecordOf d d t pc insn i true).map (fun w => (w, false)), t, g.trapc, true⟩))

/-- R35, R36, R42, R48, R323, for every op: a name of its guard or fields that is not declared raises TUNE_BAD (0x0C) subcode 5
with the first such name; names of wrong kinds, a guard that is no integer name, and `!` on a queue name raise ILLEGAL_OP (1)
subcode 1; a guard that is empty or poisoned raises EMPTY_READ (5) or POISON (0x0A); a trap of its operation is taken, and
nothing of it takes effect. A read of an empty name raises EMPTY_READ: so do the sources of the integer, float and elementwise
vector ops. (NAME of EMPTY_READ and POISON is the model's choice: log entry 11.) -/
def Clause.NameChecksTrap : Prop :=
  (∀ i o, OpOf i o → ∀ s,
    (∀ k, (o.g.name :: o.fields).find? (fun k => decide (s.me.names.length < k.toNat)) = some k →
      Sys2Proof.Machine.exec i s = .next (s.trapped ⟨0x0C, 5, BitVec.toNat k, 0⟩)) ∧
    (Declared s o.g o.fields → (o.kinds s.me = false ∨ (o.g.name ≠ 0 ∧ s.me.isInt o.g.name = false) ∨
        ∃ q ∈ o.m ++ o.d.toList, q.sync = true ∧ s.me.isQ q.ix = true) →
      Sys2Proof.Machine.exec i s = .next (s.trapped ⟨1, 1, 0, 0⟩)) ∧
    (∀ n, WellNamed s o → s.me.nm o.g.name = some n →
      (n.f = false → Sys2Proof.Machine.exec i s = .next (s.trapped ⟨5, 0, o.g.name.toNat, 0⟩)) ∧
      (n.f = true → n.p = true → Sys2Proof.Machine.exec i s = .next (s.trapped ⟨0x0A, 0, o.g.name.toNat, 0⟩))) ∧
    (∀ e, Ready s o.g o.fields o.m o.d → o.kinds s.me = true → o.run s.ctx (s.emptied o.m) = .error (.trap e) →
      Sys2Proof.Machine.exec i s = .next (s.trapped e))) ∧
  (∀ c r, IntOp1 c r → ∀ g d a s, Declared s g [d.ix, a.ix] → g.name = 0 ∨ IntName s g.name → (∃ k, FltName s a.ix k) →
    Sys2Proof.Machine.exec (c g d a) s = .next (s.trapped ⟨1, 1, 0, 0⟩)) ∧
  (∀ c r, IntOp2 c r → ∀ g d a b s, Declared s g [d.ix, a.ix, b.ix] → g.name = 0 ∨ IntName s g.name →
    ((∃ k, FltName s a.ix k) ∨ ∃ k, FltName s b.ix k) → Sys2Proof.Machine.exec (c g d a b) s = .next (s.trapped ⟨1, 1, 0, 0⟩)) ∧
  (∀ c r, IntOp1 c r → ∀ g d a s n, Ready s g [d.ix, a.ix] [a] (some d) → s.me.intOk d.ix = true → IntName s a.ix →
    s.me.nm a.ix = some n → n.f = false → Sys2Proof.Machine.exec (c g d a) s = .next (s.trapped ⟨5, 0, a.ix.toNat, 0⟩)) ∧
  (∀ c r, IntOp2 c r → ∀ g d a b s n, Ready s g [d.ix, a.ix, b.ix] [a, b] (some d) → s.me.intOk d.ix = true →
    s.me.intOk a.ix = true → s.me.intOk b.ix = true →
    (IntName s a.ix → s.me.nm a.ix = some n → n.f = false →
      Sys2Proof.Machine.exec (c g d a b) s = .next (s.trapped ⟨5, 0, a.ix.toNat, 0⟩)) ∧
    (∀ va p st, ReadsInt s (s.emptied [a, b]) a.ix va p st → IntName s b.ix → s.me.nm b.ix = some n → n.f = false →
      Sys2Proof.Machine.exec (c g d a b) s = .next (s.trapped ⟨5, 0, b.ix.toNat, 0⟩))) ∧
  (∀ c f, FltOp2 c f → ∀ g rm sat d a b s k l n m, Ready s g [d.ix, a.ix, b.ix] [a, b] (some d) → s.me.fltDst d.ix = true →
    s.me.nm a.ix = some n → n.kind = .flt k → s.me.nm b.ix = some m → m.kind = .flt l →
    (n.f = false → Sys2Proof.Machine.exec (c g rm sat d a b) s = .next (s.trapped ⟨5, 0, a.ix.toNat, 0⟩)) ∧
    (n.f = true → m.f = false → Sys2Proof.Machine.exec (c g rm sat d a b) s = .next (s.trapped ⟨5, 0, b.ix.toNat, 0⟩))) ∧
  (∀ c cls u f, VElemOp c cls u f → ∀ h d a b s n, Ready s h.g [d.ix, a.ix, b.ix, h.msk] [a, b] (some d) →
    cls d.ix a.ix b.ix s.me = true → (h.msk = 0 ∨ s.me.isIVec h.msk = true) → s.me.nm a.ix = some n → n.f = false →
    Sys2Proof.Machine.exec (c h d a b) s = .next (s.trapped ⟨5, 0, a.ix.toNat, 0⟩))

/-- R35, R36, R43, R66, R67, for every op: one whose guard is off only goes on; one whose `!` condition fails parks with KIND 1
and the index of the first name that it waits for, its sources in their order and then its destination, and has no effect. -/
def Clause.GuardsAndWaits : Prop :=
  (∀ i o, OpOf i o → ∀ s, WellNamed s o →
    (GuardOff s o.g → Sys2Proof.Machine.exec i s = .next (s.goOn s.counted)) ∧
    (∀ k, GuardOn s o.g → WaitsFor s o k →
      Sys2Proof.Machine.exec i s = .next (s.parksAt (BitVec.ofNat 64 (2 ^ 60 + k.toNat)) false))) ∧
  (∀ i o, OpOf i o → ∀ s w, Ready s o.g o.fields o.m o.d → o.kinds s.me = true →
    o.run s.ctx (s.emptied o.m) = .error (.park w) → Sys2Proof.Machine.exec i s = .next (s.parksAt w false)) ∧
  (∀ (s : State) (t : Tid) (w : Word) (v : Bool), ∃ since chk, s.parkWait t w v = s.setSlot t { s.slot t with
    st := .parked, waiton := w, waitSince := since, kept := some (s.insn, s.ilen), keptV := v, waitChecked := chk } ∧
    ((s.slot t).st ≠ .parked → since = s.cycle ∧ chk = false))

/-- R79 to R84, R312, R313: a message enters its port when no earlier one of its order is on its way and the port has room;
the head starts its handler in the lowest free slot where its tuning fits, with the payload in the first names and S mode for
entry 0; where one of those names is no 64-bit scalar integer the handler raises TUNE_BAD (0x0C) subcode 4 with that name; an
entry that cannot be used reports CODE_GONE (0x10) subcode 2; a head that waits longer than the limit is dropped and reported
as QUEUE (0x11) subcode 5. Trap messages start handler entry 0 and go before. (That a trap message enters a port which holds
four ordinary messages is the model's choice: log entry 30.) -/
def Obligations.MessagesStart : Prop :=
  (∀ id s m, mfind id s.inflight = some (.msg m) →
    (∀ e ∈ s.inflight, e.1 < id → ∀ q, e.2 = .msg q → q.before m = false) → s.portOpen m.dst = true →
    (m.trap = true ∨ (s.core m.dst).inMsg.length < 4) →
    ∃ t, Sys2Proof.Machine.exec (.messageArrival id) s = .next t ∧ t.inflight = mdel id s.inflight ∧
      (t.core m.dst).inTrap = (if m.trap then (s.core m.dst).inTrap ++ [m] else (s.core m.dst).inTrap) ∧
      (t.core m.dst).inMsg = (if m.trap then (s.core m.dst).inMsg else (s.core m.dst).inMsg ++ [m]) ∧ t.slots = s.slots) ∧
  (∀ c s m ms pc tn ks t, HeadMsg s c m ms → s.msgFirst c = true → s.handler m.part c m.k = some (pc, tn, ks) →
    s.freeSlotOf c true = some t → payloadOk ks m.pl.length = true →
    Sys2Proof.Machine.exec (.messageStart c) s = .next
      (((s.popMsg c).startSlot t ⟨pc, decide (m.k = 0), tn, 0, 0, 0, 0, false⟩ ks).putPayload t m.pl)) ∧
  (∀ c s m ms, HeadMsg s c m ms → s.msgFirst c = true → s.handler m.part c m.k = none →
    Sys2Proof.Machine.exec (.messageStart c) s = .next ((s.popMsg c).sendTrap m.part { TrapRec.zero 0x10 2 m.part s.cycle with
      tid := m.src, addr := BitVec.ofNat 64 m.k })) ∧
  (∀ c s m ms pc tn ks t, (s.core c).inTrap = m :: ms → s.handler m.part c 0 = some (pc, tn, ks) → payloadOk ks 8 = true →
    m.pl.length = 8 → s.msgFirst c = true → s.freeSlotOf c true = some t →
    Sys2Proof.Machine.exec (.trapMessageStart c) s = .next
      (((s.popMsg c).startSlot t ⟨pc, decide (m.k = 0), tn, 0, 0, 0, 0, false⟩ ks).putPayload t m.pl)) ∧
  (∀ c s m ms pc tn ks t k, HeadMsg s c m ms → s.msgFirst c = true → s.handler m.part c m.k = some (pc, tn, ks) →
    s.freeSlotOf c true = some t → payloadBad ks m.pl.length = some k →
    Sys2Proof.Machine.exec (.messageStart c) s = .next
      (((s.popMsg c).startSlot t ⟨pc, decide (m.k = 0), tn, 0, 0, 0, 0, false⟩ ks).takeTrap t pc 0 ⟨0x0C, 4, k, 0⟩ false)) ∧
  (∀ c s m ms g, HeadMsg s c m ms → s.msgFits c = false → s.cfgOf c = some g →
    (s.core c).msgSince + 16 * 2 ^ g.wle ≤ s.cycle →
    Sys2Proof.Machine.exec (.messageDrop c) s = .next ((s.popMsg c).sendTrap m.part { TrapRec.zero 0x11 5 m.part s.cycle with
      name := m.k, tid := m.src, addr := BitVec.ofNat 64 c }))

/-- R60, R68, R373: a parked slot whose op has failed again at the wait limit raises WAIT_TIMEOUT (6) with KIND as the
subcode and WAITON as the address; one that waits in GENTER first withdraws its request. A repack that has run its rotations
puts the names at their new places. -/
def Clause.WaitLimitAndRepack : Prop :=
  (∀ s t w n, (s.slot t).st = .parked → (s.slot t).waitChecked = true → (s.slot t).kept = some (w, n) →
    ((s.slot t).waiton.toNat / 2 ^ 60 = 5 → (s.slot t).greq ≠ .gbarDone) →
    ((s.slot t).waiton.toNat / 2 ^ 60 = 6 → (s.slot t).greq ≠ .genterDone ∧ ∀ pa tr, (s.slot t).greq ≠ .genterSent pa tr) →
    s.mustWait t = false →
    Sys2Proof.Machine.exec (.waitTimeout t) s = .next (s.takeTrap t (s.slot t).pc (BitVec.ofNat 64 w)
      ⟨6, (s.slot t).waiton.toNat / 2 ^ 60, 0, (s.slot t).waiton⟩ (s.slot t).keptV)) ∧
  (∀ s t pa tr, (s.slot t).st = .parked → (s.slot t).waitChecked = true → (s.slot t).waiton.toNat / 2 ^ 60 = 6 →
    (s.slot t).greq = .genterSent pa tr → s.mustWait t = false →
    (∀ e ∈ s.inflight, ∀ q b o, e.2 ≠ .genterWd t (s.slot t).epoch q b o) →
    Sys2Proof.Machine.exec (.waitTimeout t) s = .next (s.send (.genterWd t (s.slot t).epoch pa tr true))) ∧
  (∀ s c r, (s.core c).repack = some r → r.until_ ≤ s.cycle → ∃ t, Sys2Proof.Machine.exec (.repack c) s = .next t ∧
    (t.core c).repack = none ∧ t.mem = s.mem ∧
    (∀ u, (t.slot u).names.map (fun n => (n.kind, n.vals, n.f, n.p, n.pend)) =
      (s.slot u).names.map (fun n => (n.kind, n.vals, n.f, n.p, n.pend))))

/-- R242 to R250, R348, R349: the capsule instructions. CMAKE routes the capsule of a well-formed image, with status 0, or 1
where no buffer is free; CSEND lets the capsule go and routes it to its next stop, if it has one; CSTOP reads a stop or
header word; CINS, CDEL and CSETP change the live itinerary; CSPLIT sends the tail on and keeps the head; CDIVERT diverts the
capsule. CINS and CDEL raise CAPSULE (0x0F) subcode 4 or 3, and 2 or 5, as R246 and R247 say; without a capsule CSEND raises
subcode 1. What CSEND and CSPLIT release is performed in their step (the model's choice: log entry 21), none of it being
under way to another device (log entry 15); the words of a deleted stop and of the record of CDIVERT are log entry 32. -/
def Obligations.CapsuleOps : Prop :=
  (∀ g (d : Ix) a (v : Nat) st st2 s, Ready s g [d, a.ix] [a] none → s.me.intNil d = true → s.me.intNil a.ix = true →
    ReadsInt s (s.emptied [a]) a.ix v false st → v % 64 = 0 →
    let core := coreOf s.cur
    let hd := (st.lsWords core v 8).map (·.1)
    let its := (st.lsWords core (v + 64) 32).map (·.1)
    v + 320 + hTb hd ≤ (if s.me.smode then 2 ^ 18 else 0x36000) →
    (∀ w ∈ st.lsWords core v 8 ++ st.lsWords core (v + 64) 32, w.2 = false) → capsuleOk hd its = true → capsuleFresh hd = true →
    (∀ b, st.capCoreOk (s.partNum core) core = true → (st.core core).freeBuf = some b →
      WritesInt s ((st.lsPut core (bufOff b) false (st.lsWords core (v + 320) (hTb hd / 8))).route
        (madeCapsule s.ctx st v hd its)) d 0 false st2 →
      Sys2Proof.Machine.exec (.cmake g d a) s = .next (s.goOn st2)) ∧
    ((st.core core).freeBuf = none → WritesInt s st d 1 false st2 →
      Sys2Proof.Machine.exec (.cmake g d a) s = .next (s.goOn st2))) ∧
  (∀ g b x s, Ready s g [] [] none → (s.heldBuf s.cur).isSome = true →
    let t := s.counted.releaseAt s.cur .sys
    Released s s.counted .sys → Holds s t b x →
    let c := t.bufCapsule (coreOf s.cur) b x
    Sys2Proof.Machine.exec (.csend g) s = .next (s.goOn
      (if hCur c.hdr + 1 < hNstop c.hdr then (s.lettingGo t b).route c.next else s.lettingGo t b))) ∧
  (∀ g (d : Ix) k b x v st s, Ready s g [d] [] none → s.me.intNil d = true → Holds s s b x →
    ((BitVec.toNat k < 32 ∧ (BitVec.toNat k / 2 < hNstop x.hdr ∨
        (hDiverted x.hdr = true ∧ 2 ≤ BitVec.toNat k ∧ BitVec.toNat k ≤ 9)) ∧ v = nthW x.its (BitVec.toNat k)) ∨
      (32 ≤ BitVec.toNat k ∧ v = nthW x.hdr (BitVec.toNat k - 32))) →
    WritesInt s s.counted d v.toNat false st → Sys2Proof.Machine.exec (.cstop g d k) s = .next (s.goOn st)) ∧
  (∀ g a b k x v w st s, Ready s g [a.ix, b.ix] [a, b] none → IntName s a.ix → IntName s b.ix →
    ReadsInt s (s.emptied [a, b]) a.ix v false st → ReadsInt s st b.ix w false st → Holds s s k x →
    stopOk (BitVec.ofInt 64 v) (BitVec.ofInt 64 w) = true → hNstop x.hdr ≠ 16 →
    Sys2Proof.Machine.exec (.cins g a b) s = .next (s.goOn (st.setBuf (coreOf s.cur) k { x with
      hdr := if hCur x.hdr < hFstop x.hdr then setH0 (setH0 x.hdr 55 51 (hNstop x.hdr + 1)) 46 43 (hFstop x.hdr + 1)
        else setH0 x.hdr 55 51 (hNstop x.hdr + 1),
      its := x.its.take (2 * hCur x.hdr + 2) ++ [BitVec.ofInt 64 v, BitVec.ofInt 64 w] ++
        (x.its.take (2 * hNstop x.hdr)).drop (2 * hCur x.hdr + 2) ++ x.its.drop (2 * hNstop x.hdr + 2) }))) ∧
  (∀ g n k x s, Ready s g [] [] none → Holds s s k x → hCur x.hdr + BitVec.toNat n < hNstop x.hdr →
    ¬(hCur x.hdr + 1 ≤ hFstop x.hdr ∧ hFstop x.hdr ≤ hCur x.hdr + BitVec.toNat n) →
    Sys2Proof.Machine.exec (.cdel g n) s = .next (s.goOn (s.counted.setBuf (coreOf s.cur) k { x with
      hdr := if hCur x.hdr + BitVec.toNat n < hFstop x.hdr then
          setH0 (setH0 x.hdr 55 51 (hNstop x.hdr - BitVec.toNat n)) 46 43 (hFstop x.hdr - BitVec.toNat n)
        else setH0 x.hdr 55 51 (hNstop x.hdr - BitVec.toNat n),
      its := x.its.take (2 * hCur x.hdr + 2) ++
        (x.its.take (2 * hNstop x.hdr)).drop (2 * (hCur x.hdr + BitVec.toNat n) + 2) ++
        List.replicate (2 * BitVec.toNat n) 0 ++ x.its.drop (2 * hNstop x.hdr) }))) ∧
  (∀ g n a k x v st s, Ready s g [a.ix] [a] none → IntName s a.ix → ReadsInt s (s.emptied [a]) a.ix v false st → Holds s s k x →
    hCur x.hdr + BitVec.toNat n < hNstop x.hdr → 0 ≤ v → v < 2 ^ 32 →
    let p := 2 * (hCur x.hdr + BitVec.toNat n)
    stopOk (setBits (nthW x.its p) 63 32 v.toNat) (nthW x.its (p + 1)) = true →
    Sys2Proof.Machine.exec (.csetp g n a) s = .next (s.goOn (st.setBuf (coreOf s.cur) k { x with
      its := x.its.set p (setBits (nthW x.its p) 63 32 v.toNat) }))) ∧
  (∀ g a b k x (o : Nat) w st s, Ready s g [a.ix, b.ix] [a, b] none → IntName s a.ix → IntName s b.ix →
    ReadsInt s (s.emptied [a, b]) a.ix o false st → ReadsInt s st b.ix w false st → Holds s s k x →
    o % 64 = 0 → 0 < o → o < hTb x.hdr → hCur x.hdr + 1 < hNstop x.hdr → Released s st .sys →
    let t := st.releaseAt s.cur .sys
    let tile := t.lsWords (coreOf s.cur) (bufOff k + o) ((hTb x.hdr - o) / 8)
    Sys2Proof.Machine.exec (.csplit g a b) s = .next (s.goOn
      ((t.setBuf (coreOf s.cur) k { x with hdr := setH0 x.hdr 34 28 (o / 64 - 1) }).route
        ⟨setH0 (setH0 ((setH0 x.hdr 34 28 ((hTb x.hdr - o) / 64 - 1)).set 2 (BitVec.ofInt 64 w)) 15 15
            (if tileP tile then 1 else 0)) 50 47 (hCur x.hdr + 1), x.its, tile, x.part, x.snap.bears,
          some (coreOf s.cur)⟩))) ∧
  (∀ g a k x v p st s, Ready s g [a.ix] [a] none → s.me.intNil a.ix = true → ReadsInt s (s.emptied [a]) a.ix v p st →
    Holds s s k x →
    let c := st.bufCapsule (coreOf s.cur) k x
    Sys2Proof.Machine.exec (.cdivert g a) s = .next (s.goOn ((s.lettingGo st k).divert
      (if p then { c with hdr := setH0 c.hdr 15 15 1 } else c)
      [BitVec.ofNat 64 (0x0F + 0x15 * 256), BitVec.ofNat 64 s.cur, s.me.pc, 0, BitVec.ofInt 64 v, 0, 0, 0]))) ∧
  (∀ g a b k x v w st st2 s, Ready s g [a.ix, b.ix] [a, b] none → IntName s a.ix → IntName s b.ix →
    ReadsInt s (s.emptied [a, b]) a.ix v false st → ReadsInt s st b.ix w false st2 → Holds s s k x →
    (stopOk (BitVec.ofInt 64 v) (BitVec.ofInt 64 w) = false →
      Sys2Proof.Machine.exec (.cins g a b) s = .next (s.trapped ⟨0x0F, 4, 0, 0⟩)) ∧
    (stopOk (BitVec.ofInt 64 v) (BitVec.ofInt 64 w) = true → hNstop x.hdr = 16 →
      Sys2Proof.Machine.exec (.cins g a b) s = .next (s.trapped ⟨0x0F, 3, 0, 0⟩))) ∧
  (∀ g n k x s, Ready s g [] [] none → Holds s s k x →
    (hNstop x.hdr ≤ hCur x.hdr + BitVec.toNat n →
      Sys2Proof.Machine.exec (.cdel g n) s = .next (s.trapped ⟨0x0F, 2, 0, 0⟩)) ∧
    (hCur x.hdr + BitVec.toNat n < hNstop x.hdr → hCur x.hdr + 1 ≤ hFstop x.hdr → hFstop x.hdr ≤ hCur x.hdr + BitVec.toNat n →
      Sys2Proof.Machine.exec (.cdel g n) s = .next (s.trapped ⟨0x0F, 5, 0, 0⟩))) ∧
  (∀ g s, Ready s g [] [] none → s.heldBuf s.cur = none →
    Sys2Proof.Machine.exec (.csend g) s = .next (s.trapped ⟨0x0F, 1, 0, 0⟩))

/-- R236, R237, R252, R254: routing a capsule counts a hop and sends it to the place of its current stop: a core, the member
of a class, a bank, a peer, its home or a sink. Where that place is unavailable (a core that cannot take it, a class without
a member that can, a peer that no port reaches) the capsule is diverted, with the record of subcode 0x11 and the place, and
is routed once more, to its fault stop; a diverted one goes to the default sink. Beyond 255 hops it goes to the default sink.
Stop 0 of a diverted capsule is its fault stop (log entry 32). -/
def Clause.CapsulesAreRouted : Prop :=
  ∀ (s : State) (c : Capsule) (w0 w1 : Word), stopAt c.its (hCur c.hdr) = (w0, w1) →
    let up : Capsule := { c with hdr := setH0 c.hdr 42 35 (hHops c.hdr + 1) }
    let tgt := w0.toNat / 2 ^ 32 % 2 ^ 28
    (hHops c.hdr < 255 → w0.toNat / 2 ^ 60 = 0 → s.capCoreOk c.part tgt = true →
      s.route c = s.send (.capCore tgt up s.cycle)) ∧
    (∀ k, hHops c.hdr < 255 → w0.toNat / 2 ^ 60 = 1 → s.classPick c.part tgt = some k →
      s.route c = s.send (.capCore k up s.cycle)) ∧
    (hHops c.hdr < 255 → w0.toNat / 2 ^ 60 = 2 → s.route c = s.send (.capBank up)) ∧
    (hHops c.hdr < 255 → w0.toNat / 2 ^ 60 = 3 → s.peerUp tgt = true → s.route c = s.send (.capEgress up tgt)) ∧
    (hHops c.hdr < 255 → w0.toNat / 2 ^ 60 = 4 → hOdev c.hdr = s.devNum → s.capCoreOk c.part (hOtid c.hdr / 16) = true →
      s.route c = s.send (.capHome up)) ∧
    (hHops c.hdr < 255 → w0.toNat / 2 ^ 60 = 4 → hOdev c.hdr ≠ s.devNum → s.peerUp (hOdev c.hdr) = true →
      s.route c = s.send (.capEgress up (hOdev c.hdr))) ∧
    (hHops c.hdr < 255 → w0.toNat / 2 ^ 60 = 5 → s.route c = s.send (.capSink up false)) ∧
    (hHops c.hdr < 254 → hDiverted c.hdr = false → NoPlace s c w0 →
      let d := up.diverted [BitVec.ofNat 64 0x110F, 0, 0, 0, BitVec.ofNat 64 (w0.toNat / 2 ^ 32), 0, 0, 0]
      let up2 : Capsule := { d with hdr := setH0 d.hdr 42 35 (hHops d.hdr + 1) }
      (∀ r, s.placeReq up2 = some r → s.route c = s.send r) ∧
      (s.placeReq up2 = none → s.route c = s.toDefaultSink up2)) ∧
    (hHops c.hdr < 255 → hDiverted c.hdr = true → NoPlace s c w0 → s.route c = s.toDefaultSink up) ∧
    (hHops c.hdr = 255 → hDiverted c.hdr = false → ∀ g, (s.part c.part).cfg = some g → g.capen = true →
      s.route c = s.send (.capSink (c.diverted (capRecord 0x12 0 0 0)) true)) ∧
    (∀ rec, c.hdr.length = 8 → hDiverted c.hdr = false → (rec : List Word).length = 8 →
      let d := c.diverted rec
      hNstop d.hdr = 1 ∧ hCur d.hdr = 0 ∧ hFstop d.hdr = 0 ∧ hDiverted d.hdr = true ∧
      stopAt d.its 0 = stopAt c.its (hFstop c.hdr) ∧ (d.its.drop 2).take 8 = rec ∧ (∀ w ∈ d.its.drop 10, w = 0) ∧
      d.tile = c.tile ∧ hHops d.hdr = hHops c.hdr ∧ hOtid d.hdr = hOtid c.hdr ∧ hLaunch d.hdr = hLaunch c.hdr)

/-- R237: the place of a class is its member with the fewest occupied buffers, the lowest core among those; its members are
the cores of the partition whose bit is set in the class's entry of the place table and that can take a capsule. -/
def Clause.ClassPlaces : Prop :=
  ∀ (s : State) (part k : Nat),
    (∀ c, s.classPick part k = some c ↔ c ∈ s.classMembers part k ∧
      ∀ d ∈ s.classMembers part k, s.bufsUsed c < s.bufsUsed d ∨ (s.bufsUsed c = s.bufsUsed d ∧ c ≤ d)) ∧
    (∀ g ws, (s.part part).cfg = some g → g.ptab ≠ 0 → s.devWords part true (g.ptab.toNat + 512 * k) 64 = .ok ws →
      ∀ c, c ∈ s.classMembers part k ↔ g.first ≤ c ∧ c ≤ g.first + g.ncm1 ∧
        (nthW ws (c / 64)).toNat / 2 ^ (c % 64) % 2 = 1 ∧ s.capCoreOk part c = true)

/-- R234, R235, R238 to R241, R253: capsules at their places. One takes a free buffer of its core with its tile full; the one
that has waited longest starts its stop entry in the lowest free slot, which holds it; a bank stop writes its lines and goes
on; a home stop writes the tile into the origin core's local store and signals; a sink stop counts and writes the image and
may signal; a capsule bound for a peer leaves over a link, in pieces that are handed to the port of that peer, where the link
keeps them for replay; one that came from a peer takes the launch that its egress stop names and is routed on; one that waits
too long goes to the default sink. -/
def Clause.CapsulesAtPlaces : Prop :=
  (∀ id s core c since b, mfind id s.inflight = some (.capCore core c since) →
    (∀ e ∈ s.inflight, e.1 < id → e.2.capBefore core c.src = false) → s.capCoreOk c.part core = true →
    (s.core core).freeBuf = some b → Sys2Proof.Machine.exec (.capsuleEntry id) s = .next ((s.unsend id).enterCapsule core b c)) ∧
  (∀ (s : State) core b c, ∃ o, mfind b ((s.enterCapsule core b c).core core).capBufs =
    some ⟨c.hdr, c.its, c.part, c, none, true, s.cycle, o⟩ ∧
    (∀ k, ∀ (h : k < c.tile.length), (s.enterCapsule core b c).lsF core (bufOff b + 8 * k) = true ∧
      (s.enterCapsule core b c).lsP core (bufOff b + 8 * k) = c.tile[k].2 ∧
      (s.enterCapsule core b c).lsRead core (bufOff b + 8 * k) 8 = c.tile[k].1.toNat)) ∧
  (∀ s core b x pc tn ks t, (s.core core).capHead = some (b, x) → s.capFirst core = true → s.capCoreOk x.part core = true →
    s.stopEntry x.part core ((stopAt x.its (hCur x.hdr)).1.toNat / 2 ^ 16 % 2 ^ 16) = some (pc, tn, ks) →
    s.freeSlotOf core true = some t →
    Sys2Proof.Machine.exec (.capsuleStopStart core) s = .next
      (((s.startSlot t ⟨pc, false, tn, 0, bufOff b, hLaunch x.hdr, 0, x.snap.bears⟩ ks).setBuf core b
        { x with holder := some t, waiting := false }).popCap core)) ∧
  (∀ id s c st, mfind id s.inflight = some (.capBank c) →
    let w := stopAt c.its (hCur c.hdr)
    let acc := decide (w.1.toNat / 2 ^ 16 % 2 ^ 16 = 1)
    ¬(acc = true ∧ hTfmt c.hdr = 15) →
    (s.unsend id).bankLines c.part acc (hTfmt c.hdr) 130 w.2.toNat c.tile = (none, st) →
    Sys2Proof.Machine.exec (.bankStop id) s = .next
      (if hCur c.hdr + 1 < hNstop c.hdr then st.route { c.next with src := none } else st)) ∧
  (∀ id s c, mfind id s.inflight = some (.capHome c) →
    let arg := (stopAt c.its (hCur c.hdr)).2.toNat
    arg % 2 ^ 18 + hTb c.hdr ≤ 0x36000 → Sys2Proof.Machine.exec (.homeStop id) s = .next
      (((s.unsend id).lsPut (hOtid c.hdr / 16) (arg % 2 ^ 18) true c.tile).signal (hOtid c.hdr / 16) (arg / 2 ^ 18 % 256) 1)) ∧
  (∀ id s c pa st, mfind id s.inflight = some (.capSink c false) →
    let w := stopAt c.its (hCur c.hdr)
    let tgt := w.1.toNat / 2 ^ 32 % 2 ^ 28
    let u := s.unsend id
    u.capPa c.part w.2.toNat .rw = some pa →
    (u.memWrite pa 8 ((u.memRead pa 8 + 1) % 2 ^ 64) (u.memPoison pa)).imageWords c.part
      ((w.2.toNat + 64 + u.memRead pa 8 % 2 ^ (tgt % 32) * 8512) % 2 ^ 64) c.image = (none, st) →
    Sys2Proof.Machine.exec (.sinkStop id) s = .next
      (if tgt / 2 ^ 13 % 2 = 1 ∧ hOdev c.hdr = st.devNum then st.signal (hOtid c.hdr / 16) (tgt / 2 ^ 5 % 256) 1 else st)) ∧
  (∀ id s c dev, mfind id s.inflight = some (.capEgress c dev) → dev ≠ s.devNum → s.peerUp dev = true →
    ∃ t, Sys2Proof.Machine.exec (.egressArrival id) s = .next t ∧
      t = (capsulePieces s.devNum dev s.nextId c).foldl State.sendKept { s.unsend id with nextId := s.nextId + 1 } ∧
      t.mem = s.mem ∧ t.slots = s.slots ∧ t.inflight = mdel id s.inflight) ∧
  (∀ (s : State) dev i p k, s.portTo dev = some (i, p) → k.flit.dst = dev → s.sendKept k = s.setPort i (p.offer s.cycle k)) ∧
  (∀ (p : Port) cyc k, ∃ f, f.words = k.flit.words ∧ f.dst = k.flit.dst ∧ f.kind = k.flit.kind ∧
    ((p.offer cyc k).unacked = p.unacked ++ [{ k with flit := f }] ∨
      ((p.offer cyc k).unacked = p.unacked ∧ (p.offer cyc k).queue = p.queue ++ [k]))) ∧
  (∀ id s c l x, mfind id s.inflight = some (.capEgress c s.devNum) →
    let w := stopAt c.its (hCur c.hdr)
    w.1.toNat / 2 ^ 60 ≠ 4 → l = w.2.toNat % 2 ^ 32 → mfind l s.launches = some x → x.susp = false →
    hCur c.hdr + 1 < hNstop c.hdr →
    Sys2Proof.Machine.exec (.egressArrival id) s = .next ((s.unsend id).route { c with
      hdr := setH0 (setH1 c.hdr 31 0 l) 50 47 (hCur c.hdr + 1), part := launchPart l, bears := true, src := none })) ∧
  (∀ id s core c since, mfind id s.inflight = some (.capCore core c since) → since + s.limitCycles c.part < s.cycle →
    Sys2Proof.Machine.exec (.capsuleWaitTimeout (2 * id)) s = .next
      ((s.unsend id).toDefaultSink (c.diverted (capRecord 0x13 0 0 0))))

/-- R179 to R182, R345, R352, R353, R360, R376, R433, R435: COPY, GATHER, SCATTER, SCATADD, the BANKOPs, DTLOAD, LAUNCH,
XREDUCE, XGATHER, XBCAST and XLOG enter the engine command FIFO of their core, with their operands as they then are; their
local-store destination becomes empty, unless `.keepf` says otherwise. XLOG reads its request at its turn, after the accesses
of its slot that come before. The slot's accesses are performed in the step of the acceptance (the model's choice: log entry
21; R204 only orders them). -/
def Obligations.EngineCommandsEnter : Prop :=
  (∀ g m (d : Ix) a b (n : BitVec 32) ws s va vb da db st st2, Ready s g [d, a.ix, b.ix] [a, b] none →
    s.me.intNil d = true → s.me.intNil a.ix = true → s.me.intNil b.ix = true →
    ReadsInt s (s.emptied [a, b]) a.ix va false st → ReadsInt s st b.ix vb false st2 →
    let ext := if m.fmt && decide (m.ck = .none) then BitVec.toNat n + BitVec.toNat n / 4 else BitVec.toNat n
    CopyPlace s m.dsp va ext da → CopyPlace s m.ssp vb (BitVec.toNat n) db →
    Takes (.copy g m d a b n ws) s st2 d m.try_ ws (.copy m da db (BitVec.toNat n)) (fun t =>
      if m.keepf then t else match m.dsp with
        | .va => t
        | .loc => emptyArea t (coreOf s.cur) da ext
        | .clu => emptyArea t (cluOf (coreOf s.cur) * 8 + da / 2 ^ 18 % 8) (da % 2 ^ 18) ext)) ∧
  (∀ (mk : Guard → PlkMods → Ix → Opd → Option Ws → Instr) op, ((mk = .gather ∧ op = PlkOp.gather) ∨
      (mk = .scatter ∧ op = .scatter) ∨ (mk = .scatadd ∧ op = .scatadd)) →
    ∀ g m (d : Ix) a ws s n sg w md r c, Ready s g [d, a.ix] [a] none → s.me.intNil d = true →
    s.me.nm a.ix = some n → n.kind = .ivec sg w md r c → elemW w = 64 → 4 ≤ c → n.f = true → n.p = false →
    let req := (n.vals.take 4).map (BitVec.ofInt 64)
    Takes (mk g m d a ws) s (s.emptied [a]) d m.try_ ws (op.kind req m.psn m.keepf) (fun t =>
      if m.keepf || ((plkReq req).check op s.me.smode).isSome then t
      else ((plkReq req).dests op).foldl (fun u q => emptyArea u (coreOf s.cur) q.1 q.2) t)) ∧
  (∀ (mk : Guard → Bool → Ix → Opd → Option Ws → Instr) (kind : Nat → CmdKind) len,
      ((mk = .bankopFill ∧ kind = .bankop 0 ∧ len = 32) ∨ (mk = .bankopAxpy ∧ kind = .bankop 1 ∧ len = 32) ∨
      (mk = .bankopCvt ∧ kind = .bankop 2 ∧ len = 32) ∨ (mk = .bankopSum ∧ kind = .bankop 3 ∧ len = 32) ∨
      (∃ l : BitVec 2, mk = (fun g tr => .launch g tr l) ∧ kind = (fun o => .launch o l.toNat) ∧ len = 64) ∨
      (∃ q, mk = (fun g tr => .xreduce g tr q) ∧ kind = (fun o => .xreduce o q) ∧ len = 32) ∨
      (∃ q, mk = (fun g tr => .xgather g tr q) ∧ kind = (fun o => .xgather o q) ∧ len = 32) ∨
      (∃ q, mk = (fun g tr => .xbcast g tr q) ∧ kind = (fun o => .xbcast o q) ∧ len = 32)) →
    ∀ g tr (d : Ix) a ws s v o st, Ready s g [d, a.ix] [a] none → s.me.intNil d = true → s.me.intOk a.ix = true →
    ReadsInt s (s.emptied [a]) a.ix v false st → ReqPlace s v len o → Takes (mk g tr d a ws) s st d tr ws (kind o) id) ∧
  (∀ g tr (d : Ix) a ws s v st, Ready s g [d, a.ix] [a] none → s.me.intNil d = true → s.me.intOk a.ix = true →
    ReadsInt s (s.emptied [a]) a.ix v false st → Takes (.dtload g tr d a ws) s st d tr ws (.dtload (umod 64 v)) id) ∧
  (∀ g tr keepf (d : Ix) a ws s v o st w0 w1, Ready s g [d, a.ix] [a] none → s.me.intNil d = true → s.me.intOk a.ix = true →
    ReadsInt s (s.emptied [a]) a.ix v false st → ReqPlace s v 16 o →
    let acc := lsAccOf s (coreOf s.cur) o 16 false none
    (st.drainFor acc).blocked acc = false → (st.drainFor acc).lsWords (coreOf s.cur) o 2 = [(w0, false), (w1, false)] →
    let n := BitVec.toNat w1 / 2 ^ 32 % 2 ^ 13
    let loff := BitVec.toNat w1 % 2 ^ 18
    BitVec.toNat w0 / 2 ^ 42 % 2 ^ 6 = 0 → BitVec.toNat w1 / 2 ^ 45 = 0 → BitVec.toNat w1 / 2 ^ 18 % 2 ^ 14 = 0 →
    1 ≤ n → n ≤ 4096 → loff % 64 = 0 → loff + 64 * n ≤ (if s.me.smode then 2 ^ 18 else 0x3E000) →
    Takes (.xlog g tr keepf d a ws) s (st.drainFor acc) d tr ws (.xlog [w0, w1] keepf) (fun t =>
      if keepf then t else emptyArea t (coreOf s.cur) loff (64 * n))) ∧
  (∀ (s : State) (core off n c o : Nat), 0 < n → off + n ≤ 2 ^ 18 → o < 2 ^ 18 → core ≤ 4095 → c ≤ 4095 →
    (emptyArea s core off n).lsF c o =
      if c = core ∧ off / 8 ≤ o / 8 ∧ o / 8 ≤ (off + n - 1) / 8 then false else s.lsF c o)

/-- R140 to R142, R145, R379, R381: MMA, MMAP, MDRAIN and MCLR enter the FIFO with the MCONF of their slot, where their core
is of the partition of the cluster's first core; elsewhere they raise PERM subcode 0x13. The slot's accesses are performed in
the step of the acceptance (the model's choice: log entry 21; R204 only orders them). MCFG sets MCONF to a valid
configuration, and raises ILLEGAL_OP subcode 1 for any other. MCLR is deprecated and counts as such (R317). -/
def Clause.MatrixCommandsEnter : Prop :=
  (∀ g tr z gg t (d : Ix) a ws s v o st, Ready s g [d, a.ix] [a] none → s.me.intNil d = true → s.me.intOk a.ix = true →
    s.samePart (coreOf s.cur) (cluOf (coreOf s.cur) * 8) = true → ReadsInt s (s.emptied [a]) a.ix v false st → ReqPlace s v 32 o →
    Takes (.mma g tr z gg t d a ws) s st d tr ws (.mma o z gg t s.me.mconf) id ∧
    Takes (.mmap g tr d a ws) s st d tr ws (.mmap o s.me.mconf) id) ∧
  (∀ g tr acc (d : Ix) ws s, Ready s g [d] [] none → s.me.intNil d = true →
    s.samePart (coreOf s.cur) (cluOf (coreOf s.cur) * 8) = true →
    Takes (.mdrain g tr acc d ws) s s.counted d tr ws (.mdrain acc s.me.mconf) id ∧
    (s.counted.fifoUse (coreOf s.cur) < 16 → Sys2Proof.Machine.exec (.mclr g tr d ws) s = .next (s.goOn
      ((s.accepted s.counted d ws (.mclr s.me.mconf) id).count 0 (coreOf s.cur) 7 s.me.smode 1)))) ∧
  (∀ g tr acc (d : Ix) ws s, Ready s g [d] [] none → s.me.intNil d = true →
    s.samePart (coreOf s.cur) (cluOf (coreOf s.cur) * 8) = false →
    Sys2Proof.Machine.exec (.mdrain g tr acc d ws) s = .next (s.trapped ⟨9, 0x13, 0, 0⟩) ∧
    Sys2Proof.Machine.exec (.mclr g tr d ws) s = .next (s.trapped ⟨9, 0x13, 0, 0⟩)) ∧
  (∀ g tr z gg t (d : Ix) a ws s, Ready s g [d, a.ix] [a] none → s.me.intNil d = true → s.me.intOk a.ix = true →
    s.samePart (coreOf s.cur) (cluOf (coreOf s.cur) * 8) = false →
    Sys2Proof.Machine.exec (.mma g tr z gg t d a ws) s = .next (s.trapped ⟨9, 0x13, 0, 0⟩) ∧
    Sys2Proof.Machine.exec (.mmap g tr d a ws) s = .next (s.trapped ⟨9, 0x13, 0, 0⟩)) ∧
  (∀ g a s v st, Ready s g [a.ix] [a] none → s.me.intOk a.ix = true → ReadsInt s (s.emptied [a]) a.ix v false st →
    let w := BitVec.ofInt 64 v
    Sys2Proof.Machine.exec (.mcfg g (.name a)) s = .next (if mcfgOk w then
      s.goOn (st.modSlot s.cur (fun y => { y with mconf := w })) else s.trapped ⟨1, 1, 0, 0⟩)) ∧
  (∀ g w s, Ready s g [] [] none → mcfgOk w = true →
    Sys2Proof.Machine.exec (.mcfg g (.x64 w)) s = .next (s.goOn (s.counted.modSlot s.cur (fun y => { y with mconf := w }))))

/-- R436, R437: XMEMBER.create, .shrink, .join and .leave read their values and their list or mask, leave D empty and
pending, and send the request; what other devices must hear of it is sent to them. A value out of its range raises ILLEGAL_OP
subcode 1. (The model's choice, log entry 33: XMEMBER.create reads its list as far as its count says, at most 1,024 entries, and
a bad count or list is sent and answered, where R437 could be read to trap.) -/
def Clause.MembershipRequests : Prop :=
  (∀ g (d a b : Ix) s v o h ws, Ready s g [d, a, b] [] none → s.me.intNil d = true → IntName s a → IntName s b →
    ReadsInt s s.counted a v false s.counted → ReadsInt s s.counted b o false s.counted → 0 ≤ v → v < 2 ^ 17 →
    let acc := lsAccOf s (coreOf s.cur) o.toNat 8 false none
    let u := s.counted.drainFor acc
    u.blocked acc = false → u.lsWords (coreOf s.cur) o.toNat 1 = [(h, false)] →
    let n : Nat := (min (BitVec.toNat h % 2 ^ 11) 1024 + 3) / 4
    let all := lsAccOf s (coreOf s.cur) o.toNat (8 * (1 + n)) false none
    let t := u.drainFor all
    t.blocked all = false →
    0 ≤ o → o % 8 = 0 → o + 8 * (1 + (n : Int)) ≤ (if s.me.smode then 2 ^ 18 else 0x3E000) →
    t.lsWords (coreOf s.cur) o.toNat (1 + n) = ws.map (fun w => (w, false)) →
    let op := XmOp.create (v.toNat % 65536) (decide (v.toNat / 65536 = 1)) ws
    Sys2Proof.Machine.exec (.xmemberCreate g d a b) s = .next (s.goOn (((s.pending t d).send
      (.xmember (s.resultOf t d) (s.partNum (coreOf s.cur)) op s.cycle)).announce (s.partNum (coreOf s.cur)) op))) ∧
  (∀ g (d a b : Ix) s v o ws, Ready s g [d, a, b] [] none → s.me.intNil d = true → IntName s a → IntName s b →
    ReadsInt s s.counted a v false s.counted → ReadsInt s s.counted b o false s.counted → 0 ≤ v → v < 2 ^ 16 →
    0 ≤ o → o % 8 = 0 → o + 128 ≤ (if s.me.smode then 2 ^ 18 else 0x3E000) →
    let acc := lsAccOf s (coreOf s.cur) o.toNat 128 false none
    let t := s.counted.drainFor acc
    t.blocked acc = false → t.lsWords (coreOf s.cur) o.toNat 16 = ws.map (fun w => (w, false)) →
    let op := XmOp.shrink v.toNat ws
    Sys2Proof.Machine.exec (.xmemberShrink g d a b) s = .next (s.goOn (((s.pending t d).send
      (.xmember (s.resultOf t d) (s.partNum (coreOf s.cur)) op s.cycle)).announce (s.partNum (coreOf s.cur)) op))) ∧
  (∀ g (d a b : Ix) s v w, Ready s g [d, a, b] [] none → s.me.intNil d = true → IntName s a → IntName s b →
    ReadsInt s s.counted a v false s.counted → ReadsInt s s.counted b w false s.counted → 0 ≤ v → v < 2 ^ 26 →
    0 ≤ w → w < 2 ^ 32 →
    let op := XmOp.join (v.toNat % 65536) (v.toNat / 65536) w.toNat
    Sys2Proof.Machine.exec (.xmemberJoin g d a b) s = .next (s.goOn (((s.pending s.counted d).send
      (.xmember (s.resultOf s.counted d) (s.partNum (coreOf s.cur)) op s.cycle)).announce (s.partNum (coreOf s.cur)) op))) ∧
  (∀ g (d a : Ix) s v, Ready s g [d, a] [] none → s.me.intNil d = true → IntName s a → ReadsInt s s.counted a v false s.counted →
    Sys2Proof.Machine.exec (.xmemberLeave g d a) s = .next (if 0 ≤ v ∧ v < 2 ^ 16 then
      s.goOn ((s.pending s.counted d).send
        (.xmember (s.resultOf s.counted d) (s.partNum (coreOf s.cur)) (.leave v.toNat) s.cycle))
      else s.trapped ⟨1, 1, 0, 0⟩))

/-- R59, R184, R275: a command that ends leaves the queue of commands and its FIFO; its status word goes to its status name,
RCOUNT of its slot falls where the slot still runs the region of the command, and then its one Signal follows. While the
register store of its core is being repacked, its status word is held, and lands at an event of the command after that. -/
def Clause.CommandEnds : Prop :=
  (∀ (s : State) (id : Nat) (c : Cmd) (code sub det : Nat), mfind id s.cmds = some c → s.repacking c.core = true →
    ∃ u : State, s.endCmd id c code sub det = u ∧ id ∉ (u.clu c.clu).mfifo ∧ u.mem = s.mem ∧ u.lmem = s.lmem ∧
      u.slots = s.slots ∧ (∀ k n, u.sem k n = s.sem k n) ∧
      u.cmds = mset id { c with prog := 0, aux := [], ended := some (code, sub, det) } s.cmds) ∧
  (∀ (s : State) (id : Nat) (c : Cmd) (i : Instr) code sub det, EngineEvent id i → mfind id s.cmds = some c →
    c.ended = some (code, sub, det) →
    (s.repacking c.core = true → Sys2Proof.Machine.exec i s = .next s) ∧
    (s.repacking c.core = false → Sys2Proof.Machine.exec i s = .next (s.landCmd id c code sub det))) ∧
  (∀ (s : State) (id : Nat) (c : Cmd) (code sub det : Nat), s.repacking c.core = false →
    ∃ u : State, s.endCmd id c code sub det = u.landCmd id c code sub det ∧ id ∉ (u.clu c.clu).mfifo ∧ u.cmds = s.cmds ∧
      u.mem = s.mem ∧ u.lmem = s.lmem ∧ u.slots = s.slots ∧ (∀ k n, u.sem k n = s.sem k n)) ∧
  ∀ (s : State) (id : Nat) (c : Cmd) (code sub det : Nat), mfind id s.cmds = some c →
    ∃ u : State, s.landCmd id c code sub det = (match c.ws with
        | none => u
        | some w => if w.sinc = 0 then u else u.signal c.core w.ssem.toNat w.sinc.toNat) ∧
      u.cmds = mdel id s.cmds ∧ u.mem = s.mem ∧ u.lmem = s.lmem ∧ (∀ k n, u.sem k n = s.sem k n) ∧
      (∀ t, t ≠ c.tid → (∀ d, c.dst = some d → d.tid ≠ t) → u.slot t = s.slot t) ∧
      (∀ d n, c.dst = some d → Lives s d → d.ix ≠ 0 → (s.slot d.tid).names[d.ix - 1]? = some n →
        n.pend = some d.tk → (u.slot d.tid).names[d.ix - 1]? =
          some (n.land (.int (code % 2 ^ 16 + det % 2 ^ 32 * 2 ^ 16 + sub % 2 ^ 16 * 2 ^ 48 : Nat)) false)) ∧
      (u.slot c.tid).rcount = if (s.slot c.tid).epoch = c.ep ∧ (s.slot c.tid).rgnseq = c.rgnseq then (s.slot c.tid).rcount - 1
        else (s.slot c.tid).rcount

/-- R140, R180 to R182, R204, R307: a command that has not begun, of an engine other than the matrix engine and the Plectrum,
may start when the accesses that its slot made before it are performed, its wait holds and no earlier command of its engine
and core waits to begin with its wait holding; a DTLOAD not in a rotation that the current limiter inserts, and no command
while it waits for a peer (log entry 15). While a command may not run, its event leaves the machine as it is. -/
def Clause.CommandsStartInOrder : Prop :=
  (∀ (s : State) (id : Nat) (c : Cmd), mfind id s.cmds = some c → c.begun = false → c.kind.engine ≠ 1 → c.kind.engine ≠ 5 →
    (s.canRun id c = true ↔ ((∀ w, c.ws = some w → w.wthr.toNat ≤ s.sem c.core w.wsem.toNat) ∧
      (∀ e ∈ s.inflight, e.1 < id → ∀ a, e.2.acc = some a → a.tid ≠ c.tid) ∧ (c.kind.engine = 3 → s.skips c = false) ∧
      s.asking c = false ∧ ∀ e ∈ s.cmds, e.1 < id → e.2.kind.engine = c.kind.engine → e.2.core = c.core → e.2.begun = false →
        ∃ w, e.2.ws = some w ∧ s.sem e.2.core w.wsem.toNat < w.wthr.toNat))) ∧
  (∀ (s : State) (id : Id) (i : Instr) (c : Cmd), EngineEvent id i → mfind id s.cmds = some c → c.ended = none →
    s.canRun id c = false → Sys2Proof.Machine.exec i s = .next s)

/-- R354, R360: COPY_TRANSFER moves the words of a plain copy of at most one sector, between places of the local store or
from mapped memory, with their poison, fills the destination words, and ends the command with status 0; a source that does
not translate ends it with 0x0101, or 0x0102 for a permission fault, and nothing lands. A source in the window of a peer is
read by that peer, which is asked for one word after the other while the command waits (log entries 15, 44). DTLOAD_EXECUTE takes up the table of
a coded page, which leaves the Pegbox, and loads up to 4 KiB of it and of its chunk index at a time; after the last ones the
table is resident. It ends with 0x0101 and SUB 0x23 for a page that is not coded. -/
def Obligations.CopiesMove : Prop :=
  (∀ s id c m da db k, AtEngine s id c → c.kind = .copy m da db (8 * k) → m.fmt = false → m.dsp = .loc → m.ssp = .loc →
    c.prog = 0 → 0 < k → 8 * k ≤ 4096 → da % 8 = 0 → db % 8 = 0 → da + 8 * k ≤ 2 ^ 18 → db + 8 * k ≤ 2 ^ 18 →
    Sys2Proof.Machine.exec (.copyTransfer id none) s =
      .next ((s.lsPut c.core da true (s.lsWords c.core db k)).endCmd id c.started 0 0 0)) ∧
  (∀ s id c m da db k pa, AtEngine s id c → c.kind = .copy m da db (8 * k) → m.fmt = false → m.dsp = .loc → m.ssp = .va →
    c.prog = 0 → 0 < k → 8 * k ≤ 4096 → da % 8 = 0 → db % 8 = 0 → da + 8 * k ≤ 2 ^ 18 → Mapped s c db pa (8 * k) .rd →
    Sys2Proof.Machine.exec (.copyTransfer id none) s = .next ((s.lsPut c.core da true
      ((List.range k).map (fun j => (s.memWord (pa + 8 * j), s.memPoison (pa + 8 * j))))).endCmd id c.started 0 0 0)) ∧
  (∀ s id c m da db k pa, AtEngine s id c → c.kind = .copy m da db (8 * k) → m.fmt = false → m.dsp = .loc → m.ssp = .va →
    c.prog = 0 → 0 < k → 8 * k ≤ 4096 → db % 8 = 0 → db + 8 * k ≤ 2 ^ 64 →
    (∀ j < 8 * k, canonical (db + j) = true ∧ ∃ l, s.cached c.clu c.part (db + j) = some l ∧
      throughLeaf l (db + j) c.smode .rd = .ok (pa + j) l) →
    let dev := pa / 2 ^ 42 % 1024
    isPeer pa = true → s.reaches dev = true → dev ≠ s.devNum → (∀ a ∈ s.asked, a.id ≠ c.key) →
    Sys2Proof.Machine.exec (.copyTransfer id none) s = .next ((s.ask c.key dev
      [(BitVec.ofNat 64 (17 * 2 ^ 8 + 8 * 2 ^ 16 + c.tid % 65536 * 2 ^ 48), false), (BitVec.ofNat 64 (pa % 2 ^ 42), false)]).setCmd
        id c.started)) ∧
  (∀ s id c m da db n q sc s', AtEngine s id c → c.kind = .copy m da db n → m.fmt = false → m.ssp = .va → c.prog = 0 → 0 < n →
    db < 2 ^ 64 → s.xlateNow c.clu c.part c.smode db .rd = (.fault q sc, s') → (q = 8 ∨ q = 9) →
    Sys2Proof.Machine.exec (.copyTransfer id none) s =
      .next ({ s with clus := s'.clus }.endCmd id c.started (if q = 9 then 0x0102 else 0x0101) sc 0)) ∧
  (∀ s id c va e s1, AtEngine s id c → c.kind = .dtload va → c.aux = [] → s.pegBusy id c.clu = false →
    (dtEntry c.started va).run s = .ok (e, s1) → ∃ u : State,
    Sys2Proof.Machine.exec (.dtloadExecute id) s = .next (u.setCmd id { c.started with aux := [e.ptab, e.nch] }) ∧
      u.mem = s.mem ∧ u.lmem = s.lmem ∧ u.slots = s.slots ∧
      ∀ v, v ∈ (u.clu c.clu).peg ↔ v ∈ (s1.clu c.clu).peg ∧ (v.part ≠ c.part ∨ v.tag ≠ e.ptab)) ∧
  (∀ s id c va ptab nch ws pa, AtEngine s id c → c.kind = .dtload va → c.aux = ptab :: nch :: ws →
    let n := 2048 + 4 * (nch + 1)
    let lo := 4096 * c.prog
    let k := min 4096 (n - lo)
    lo < n → ptab % 8 = 0 → Mapped s c (ptab + lo) pa k .rd → (∀ j < k, isDev (pa + j) = true) →
    (∀ j < k, s.memPoison (pa + j) = false) →
    let got := ws ++ (List.range (k / 4)).map (fun j => s.memRead (pa + 4 * j) 4)
    (lo + k < n → Sys2Proof.Machine.exec (.dtloadExecute id) s =
      .next ((s.unask c.key).setCmd id { c.started with prog := c.prog + 1, aux := ptab :: nch :: got })) ∧
    let t : PegTab := ⟨c.part, ptab, (got.take 512).map (BitVec.ofNat 64), (got.drop 512).map (BitVec.ofNat 64)⟩
    (lo + k = n → increasing t.idx = true → ∃ u : State,
      Sys2Proof.Machine.exec (.dtloadExecute id) s = .next (u.endCmd id c.started 0 0 0) ∧
      t ∈ (u.clu c.clu).peg ∧ (u.clu c.clu).peg.length ≤ 4 ∧
      ∀ v ∈ (u.clu c.clu).peg, v = t ∨ v.part ≠ t.part ∨ v.tag ≠ t.tag) ∧
    (lo + k = n → increasing t.idx = false →
      Sys2Proof.Machine.exec (.dtloadExecute id) s = .next (s.endCmd id c.started 0x0406 0 0))) ∧
  (∀ s id c va pa l s', AtEngine s id c → c.kind = .dtload va → c.aux = [] → s.pegBusy id c.clu = false → va < 2 ^ 64 →
    s.xlateNow c.clu c.part c.smode va .rd = (.ok pa l, s') → s'.fdtEntry c.part l.fdx = some none →
    Sys2Proof.Machine.exec (.dtloadExecute id) s = .next ({ s with clus := s'.clus }.endCmd id c.started 0x0101 0x23 0))

/-- R216, R218, R221 to R224: a Plectrum command whose request fails its check ends with the code of the first failing row.
On a request of one element of eight bytes, GATHER_EXECUTE brings the word of memory to the slot of the element,
SCATTER_EXECUTE writes the word of the slot with its poison to memory, and SCATADD_EXECUTE adds it there modulo 2^64; the
bitmap is 0 and the status 0. A poisoned index entry fails its element: bitmap bit 1, status 0x0501 with one failed element,
FKIND 4, and GATHER writes zeros with the poison that `.psn` asks for. -/
def Obligations.GathersAndScatters : Prop :=
  (∀ s id u c req psn keepf op code sub, AtEngine s id c → c.kind = op.kind req psn keepf →
    (plkReq req).check op c.smode = some (code, sub) →
    Sys2Proof.Machine.exec (match op with
      | .gather => .gatherExecute id u
      | .scatter => .scatterExecute id u
      | .scatadd => .scataddExecute id u) s = .next (s.endCmd id c.started code sub 0)) ∧
  (∀ s id c req psn keepf a pa, AtEngine s id c → c.kind = .gather req psn keepf → OneRow s c req .gather a pa .rd →
    (plkReq req).sce = false → s.memPoison pa = false →
    Sys2Proof.Machine.exec (.gatherExecute id none) s = .next
      (((s.lsSet c.core (plkReq req).loff (s.memRead pa 8) false).lsSet c.core (plkReq req).bmoff 0 false).endCmd
        id c.started 0 0 0)) ∧
  (∀ s id c req psn keepf, AtEngine s id c → c.kind = .gather req psn keepf → (plkReq req).check .gather c.smode = none →
    (plkReq req).n = 1 → (plkReq req).rb = 8 → (plkReq req).sce = false → c.aux = [] → s.lsP c.core (plkReq req).ioff = true →
    Sys2Proof.Machine.exec (.gatherExecute id none) s = .next
      (((s.lsSet c.core (plkReq req).loff 0 psn).lsSet c.core (plkReq req).bmoff 1 false).endCmd id c.started 0x0501 0
        (2 ^ 16 + 4 * 2 ^ 12))) ∧
  (∀ s id c req psn keepf a pa, AtEngine s id c → c.kind = .scatter req psn keepf → OneRow s c req .scatter a pa .wr →
    (s.lsP c.core (plkReq req).loff = false ∨ psn = true) →
    Sys2Proof.Machine.exec (.scatterExecute id none) s = .next
      (((s.memWrite pa 8 (s.lsRead c.core (plkReq req).loff 8) (s.lsP c.core (plkReq req).loff)).lsSet c.core
        (plkReq req).bmoff 0 false).endCmd id c.started 0 0 0)) ∧
  (∀ s id c req psn keepf a pa, AtEngine s id c → c.kind = .scatadd req psn keepf → OneRow s c req .scatadd a pa .rw →
    (plkReq req).ek = 9 → isHost pa = false → (s.lsP c.core (plkReq req).loff = false ∨ psn = true) →
    Sys2Proof.Machine.exec (.scataddExecute id none) s = .next
      (((s.memWrite pa 8 ((s.memRead pa 8 + s.lsRead c.core (plkReq req).loff 8) % 2 ^ 64)
        (s.memPoison pa || s.lsP c.core (plkReq req).loff)).lsSet c.core (plkReq req).bmoff 0 false).endCmd
          id c.started 0 0 0)) ∧
  (∀ s id c req psn keepf, AtEngine s id c → c.kind = .scatter req psn keepf → (plkReq req).check .scatter c.smode = none →
    (plkReq req).n = 1 → c.aux = [] → c.prog = 0 → s.lsP c.core (plkReq req).ioff = true →
    Sys2Proof.Machine.exec (.scatterExecute id none) s = .next
      ((s.lsSet c.core (plkReq req).bmoff 1 false).endCmd id c.started 0x0501 0 (2 ^ 16 + 4 * 2 ^ 12)))

/-- R178, R346: BANKOP_EXECUTE reads the request when the command begins: a poisoned one ends with 0x0103, one that fails its
checks with 0x0601. On one line of mapped memory of the device it writes each element the value of its transform, and no other
byte; `.sum` writes the A56 sum of its elements, rounded after each one. -/
def Obligations.BankTransforms : Prop :=
  (∀ s id u c op off, AtEngine s id c → c.kind = .bankop op off → c.aux = [] →
    (∃ w ∈ s.lsWords c.core off 4, w.2 = true) →
    Sys2Proof.Machine.exec (.bankopExecute id u) s = .next (s.endCmd id c.started 0x0103 0 0)) ∧
  (∀ s id u c op off ws, AtEngine s id c → c.kind = .bankop op off → c.aux = [] →
    s.lsWords c.core off 4 = ws.map (fun w => (w, false)) → bankReq op ws = none →
    Sys2Proof.Machine.exec (.bankopExecute id u) s = .next (s.endCmd id c.started 0x0601 0 0)) ∧
  (∀ s id c op off ws r pa pb, AtEngine s id c → c.kind = .bankop op off → c.aux = [] → c.prog = 0 → op < 3 →
    s.lsWords c.core off 4 = ws.map (fun w => (w, false)) → bankReq op ws = some r → r.n * r.dk.bytes ≤ 128 →
    Mapped s c r.dva pa (r.n * r.dk.bytes) .wr → (∀ j < r.n * r.dk.bytes, isDev (pa + j) = true) →
    (op ≠ 0 → Mapped s c r.sva pb (r.n * r.sk.bytes) .rd ∧ ∀ j < r.n * r.sk.bytes, isDev (pb + j) = true) →
    ∃ u : State, Sys2Proof.Machine.exec (.bankopExecute id none) s = .next (u.endCmd id c.started 0 0 0) ∧
      (∀ i < r.n, u.memRead (pa + i * r.dk.bytes) r.dk.bytes = bankElem s r pa pb i) ∧
      (∀ a, (∀ j < r.n * r.dk.bytes, a ≠ pa + j) → Memory.read u.mem a = Memory.read s.mem a) ∧
      u.lmem = s.lmem ∧ u.slots = s.slots ∧ u.cmds = s.cmds) ∧
  (∀ s id c off ws r pa pb, AtEngine s id c → c.kind = .bankop 3 off → c.aux = [] → c.prog = 0 →
    s.lsWords c.core off 4 = ws.map (fun w => (w, false)) → bankReq 3 ws = some r → r.n * r.sk.bytes ≤ 128 →
    Mapped s c r.dva pa 8 .wr → isDev pa = true → Mapped s c r.sva pb (r.n * r.sk.bytes) .rd →
    (∀ j < r.n * r.sk.bytes, isDev (pb + j) = true) →
    ∃ u : State, Sys2Proof.Machine.exec (.bankopExecute id none) s = .next (u.endCmd id c.started 0 0 0) ∧
      u.memRead pa 8 = (List.range r.n).foldl (fun a i =>
        ((fAdd .rne (FK.a56.decode a) (r.sk.decode (elemAt s r.sk pb i))).round .a56 .rne r.sat).1) 0 ∧
      (∀ a, (∀ j < 8, a ≠ pa + j) → Memory.read u.mem a = Memory.read s.mem a))

/-- R140, R147, R148, R151, R153, R154: the matrix engine. A command enters the cluster FIFO after the earlier ones of its
core and, of those accepted in its cycle, of lower cores (that R140's ready in the same cycle is accepted in the same cycle is
the model's choice: log entry 61). An MMA in INT56 mode adds the products of its int8 operands to each element of its
tile modulo 2^56, and no other element changes; a descriptor that does not fit ends with 0x0301. MCLR clears the set. MMAP
loads a valid map. MDRAIN delivers a row raw to the place its map names, full, with the poison of each element, and signals
DSEM there; without a map it ends with 0x0304; an inbox word not full within the wait limit ends it with 0x0305 and the row,
and the flag word, where one is asked for, tells of the elements converted before it. A row of an operand, or an inbox, in the
local store of another partition's core ends its command with 0x0102 and SUB 0x14 (R164; that this is its status word is the
model's choice, log entry 61). -/
def Obligations.MatrixCommandsRun : Prop :=
  (∀ (s : State) (id : Id) (c : Cmd), mfind id s.cmds = some c → c.kind.engine = 5 → c.inFifo = false →
    (s.clu c.clu).mfifo.length < 32 →
    (∀ e ∈ s.cmds, e.1 ≠ id → e.2.inFifo = false → e.2.kind.engine = 5 → e.2.clu = c.clu →
      if e.2.core = c.core then id < e.1 else (e.2.since = c.since → c.core < e.2.core)) →
    Sys2Proof.Machine.exec (.clusterFifoEntry id) s = .next ((s.setClu c.clu { s.clu c.clu with
      mfifo := (s.clu c.clu).mfifo ++ [id] }).setCmd id { c with inFifo := true })) ∧
  (∀ s id c off z t gg conf a b d, AtEngine s id c → c.kind = .mma off z gg t conf → c.aux = [] → c.prog = 0 → gg = false →
    t = false → s.lsWords c.core off 4 = d.map (fun w => (w, false)) → mmaOpds (mcfgOf conf) false false d [] = some (a, b) →
    (mcfgOf conf).int = true → (mcfgOf conf).af = 4 → (mcfgOf conf).bf = 4 → (mcfgOf conf).ags = 0 → (mcfgOf conf).bgs = 0 →
    (mcfgOf conf).k ≤ 256 → rowsClean s c.clu a (mcfgOf conf).k → rowsClean s c.clu b (mcfgOf conf).k →
    (∀ r ∈ a.rows ++ b.rows, s.partOf (c.clu * 8 + r.1 / 2 ^ 18) = some c.part) →
    ∃ u : State, Sys2Proof.Machine.exec (.mmaExecute id none) s = .next (u.endCmd id { c.started with aux := mmaAux d [] } 0 0 0) ∧
      u.mem = s.mem ∧ u.lmem = s.lmem ∧ u.slots = s.slots ∧
      (∀ i < (mcfgOf conf).m, ∀ j < (mcfgOf conf).n, ∀ ra rb, a.rows[i]? = some (ra, false) → b.rows[j]? = some (rb, false) →
        mget 0 (accKey i j) (u.acc c.clu (mcfgOf conf).set).vals = umod 56
          (sext 56 (if z then 0 else (mget 0 (accKey i j) (s.acc c.clu (mcfgOf conf).set).vals).toNat) +
            ((List.range (mcfgOf conf).k).map (fun k => intAt s c.clu (ra + k) * intAt s c.clu (rb + k))).sum)) ∧
      (∀ i j, i < 256 → j < 256 → ¬(i < (mcfgOf conf).m ∧ j < (mcfgOf conf).n) →
        mget 0 (accKey i j) (u.acc c.clu (mcfgOf conf).set).vals =
          if z then 0 else mget 0 (accKey i j) (s.acc c.clu (mcfgOf conf).set).vals)) ∧
  (∀ s id u c off z t conf a b d, AtEngine s id c → c.kind = .mma off z false t conf → c.aux = [] →
    s.lsWords c.core off 4 = d.map (fun w => (w, false)) → mmaOpds (mcfgOf conf) false t d [] = some (a, b) →
    (∃ r ∈ a.rows ++ b.rows, s.partOf (c.clu * 8 + r.1 / 2 ^ 18) ≠ some c.part) →
    Sys2Proof.Machine.exec (.mmaExecute id u) s = .next (s.endCmd id c.started 0x0102 0x14 0)) ∧
  (∀ s id u c off z gg t conf d, AtEngine s id c → c.kind = .mma off z gg t conf → c.aux = [] → gg = false →
    s.lsWords c.core off 4 = d.map (fun w => (w, false)) → mmaOpds (mcfgOf conf) false t d [] = none →
    Sys2Proof.Machine.exec (.mmaExecute id u) s = .next (s.endCmd id c.started 0x0301 0 0)) ∧
  (∀ s id c conf, AtEngine s id c → c.kind = .mclr conf →
    ∃ u : State, Sys2Proof.Machine.exec (.mclrExecute id) s = .next (u.endCmd id c.started 0 0 0) ∧ u.mem = s.mem ∧ u.slots = s.slots ∧
      u.acc c.clu (mcfgOf conf).set = { AccSet.reset with map := (s.acc c.clu (mcfgOf conf).set).map }) ∧
  (∀ s id c off conf h es, AtEngine s id c → c.kind = .mmap off conf → s.lsWords c.core off 4 = h.map (fun w => (w, false)) →
    mapHeaderOk h = true → off + 32 + 4 * mapRows h ≤ (if c.smode then 2 ^ 18 else 0x3E000) →
    (∀ k < mapRows h, s.lsP c.core (off + 32 + 4 * k) = false) →
    es = (List.range (mapRows h)).map (fun k => s.lsRead c.core (off + 32 + 4 * k) 4) → (∀ e ∈ es, e < 2 ^ 30 ∧ e % 8 = 0) →
    Sys2Proof.Machine.exec (.mmapExecute id) s = .next ((s.setAcc c.clu (mcfgOf conf).set
      { s.acc c.clu (mcfgOf conf).set with map := h ++ es.map (BitVec.ofNat 64) }).endCmd id c.started 0 0 0)) ∧
  (∀ s id c conf core off, AtEngine s id c → c.kind = .mdrain false conf → c.aux = [] → c.prog = 0 →
    let mc := mcfgOf conf
    let t := s.acc c.clu mc.set
    t.map ≠ [] → mc.m = 1 → 1 ≤ mapRows t.map → mc.ok = 0 → mapEntry t.map 0 = (core, off) → s.partOf core = some c.part →
    off % 8 = 0 → off + 8 * mc.n ≤ 0x3E000 → wbits (nthW t.map 2) 18 18 = 0 →
    ∃ c', Sys2Proof.Machine.exec (.mdrainExecute id none) s = .next
      (((s.lsPut core off true ((List.range mc.n).map (fun j =>
        (BitVec.ofNat 64 ((mget 0 (accKey 0 j) t.vals).toNat % 2 ^ 56), mget false (accKey 0 j) t.psn)))).signal core
          (wbits (nthW t.map 0) 7 0) 1).endCmd id c' 0 0 0) ∧
      c'.tid = c.tid ∧ c'.dst = c.dst ∧ c'.ws = c.ws ∧ c'.ep = c.ep ∧ c'.rgnseq = c.rgnseq) ∧
  (∀ s id u c acc conf, AtEngine s id c → c.kind = .mdrain acc conf → (s.acc c.clu (mcfgOf conf).set).map = [] →
    Sys2Proof.Machine.exec (.mdrainExecute id u) s = .next (s.endCmd id c.started 0x0304 0 0)) ∧
  (∀ s id c acc conf, AtEngine s id c → c.kind = .mdrain acc conf →
    let d := mdrainSt c
    let t := s.acc c.clu (mcfgOf conf).set
    let box := wbits (nthW t.map 0) 39 19
    d.since ≠ 0 → d.since - 1 + 16 * s.waitLimit c.core < s.cycle → wbits (nthW t.map 2) 18 18 = 0 →
    s.lsF (c.clu * 8 + box / 2 ^ 18) (box % 2 ^ 18 + 8 * (mcfgOf conf).n * c.prog + 8 * d.got.length) = false →
    Sys2Proof.Machine.exec (.mdrainInboxTimeout id) s = .next (s.endCmd id c.started 0x0305 0 c.prog)) ∧
  (∀ s id c conf core off, AtEngine s id c → c.kind = .mdrain true conf → c.aux = [] → c.prog = 0 →
    let mc := mcfgOf conf
    let t := s.acc c.clu mc.set
    let box := wbits (nthW t.map 0) 39 19
    1 ≤ mc.m → mc.m ≤ mapRows t.map → t.map ≠ [] → mapEntry t.map 0 = (core, off) → s.partOf core = some c.part →
    off + mc.n * outBytes mc.ok ≤ 0x3E000 → box % 2 ^ 18 + 8 * mc.n ≤ 0x3E000 →
    s.partOf (c.clu * 8 + box / 2 ^ 18) ≠ some c.part → wbits (nthW t.map 2) 18 18 = 0 →
    Sys2Proof.Machine.exec (.mdrainExecute id none) s = .next (s.endCmd id c.started 0x0102 0x14 0)) ∧
  (∀ s id c acc conf, AtEngine s id c → c.kind = .mdrain acc conf →
    let d := mdrainSt c
    let t := s.acc c.clu (mcfgOf conf).set
    let box := wbits (nthW t.map 0) 39 19
    let row := drainRow { mcfgOf conf with n := d.got.length } t c.prog d.got
    d.since ≠ 0 → d.since - 1 + 16 * s.waitLimit c.core < s.cycle → wbits (nthW t.map 2) 18 18 = 1 →
    (wbits (nthW t.map 2) 17 0 < 0x3E000 ∨ c.smode = true) →
    s.lsF (c.clu * 8 + box / 2 ^ 18) (box % 2 ^ 18 + 8 * (mcfgOf conf).n * c.prog + 8 * d.got.length) = false →
    Sys2Proof.Machine.exec (.mdrainInboxTimeout id) s = .next ((s.lsSet c.core (wbits (nthW t.map 2) 17 0)
      ((d.fl ||| row.2.toNat) % 32 + 32 * (if d.anyp || row.1.any (·.2) then 1 else 0)) false).endCmd id c.started 0x0305 0 c.prog))

/-- R299 to R303, R434: the collectives. A set that is unknown, or of which AUTO has removed this device, ends the command with
0x0703, another generation with 0x0701 and the set's; a poisoned descriptor with 0x0103. Otherwise the descriptor is recorded as
the next event of the set, the members get notice of it, and this member's contribution is read and goes to every member, one of
XBCAST only from its root. Where none is missing the result is written and the command ends with 0; else the command ends with
0x0702 and the lowest missing logical number. XREDUCE adds integers modulo 2^64. (The model's choices, log entry 69: the device
of logical number 0 decides, and tells all which contributions are missing, none once every one is there, at the deadline of the
set's first descriptor those that are not; a member that learns nothing, or lacks a contribution that is not missing, gives up at
twice the deadline with 0x0702 and writes nothing.) -/
def Obligations.Collectives : Prop :=
  (∀ mk kind ck, Collective mk kind ck → ∀ s id c off q, AtEngine s id c → c.kind = ck off q →
    (c.aux = [] → (∃ w ∈ s.lsWords c.core off 4, w.2 = true) →
      Sys2Proof.Machine.exec (mk id) s = .next (s.endCmd id c.started 0x0103 0 0)) ∧
    (∀ ws, CollDesc s c kind off ws →
      let d := XDesc.of ws
      let key := setKey c.part d.set
      let u := if s.xBusy key then s else s.xSettle key
      (mfind key u.xsets = none → Sys2Proof.Machine.exec (mk id) s = .next (u.endCmd id c.started 0x0703 0 0)) ∧
      (∀ x, mfind key u.xsets = some x → x.num u.devNum = none →
        Sys2Proof.Machine.exec (mk id) s = .next (u.endCmd id c.started 0x0703 0 0)) ∧
      (∀ x, mfind key u.xsets = some x → x.num u.devNum ≠ none → d.gen ≠ x.gen % 65536 →
        Sys2Proof.Machine.exec (mk id) s = .next (u.endCmd id c.started 0x0701 0 (x.gen % 65536))) ∧
      (∀ x n, mfind key u.xsets = some x → x.num u.devNum = some n → d.gen = x.gen % 65536 → s.xBusy key = false →
        u.leaving key = false → u.pledged key = false →
        (∀ p ∈ u.xin, ¬(p.kind = 13 ∧ p.key = key ∧ p.lseq = x.lseq)) → (kind = 3 → d.root < x.devs.length) →
        Sys2Proof.Machine.exec (mk id) s = .next (((u.setX key (x.event kind ws)).tellAll key 13 x.lseq x.devs
          ((BitVec.ofNat 64 kind :: ws).map (fun w => (w, false)))).setCmd id
            { c.started with aux := [key, x.lseq, u.cycle, 0] ++ ws.map (·.toNat), prog := kind })))) ∧
  (∀ (s : State) key, (∀ p ∈ s.xin, p.key ≠ key) → s.xSettle key = s) ∧
  (∀ (s : State) key x me mask, mfind key s.xsets = some x → x.devs.Nodup → x.auto_ = true → x.num s.devNum = some me →
    s.left key = none → s.verdict key x.lseq x = some mask → maskBit mask me = true →
    ∃ y, mfind key (s.xSettle key).xsets = some y ∧ y.num s.devNum = none ∧ y.gen = (x.gen + 1) % 2 ^ 32) ∧
  (∀ mk kind ck, Collective mk kind ck → ∀ s id c off q key lseq first ws x, AtEngine s id c → c.kind = ck off q →
    CollUnder s c kind key lseq first false ws x →
    let d := XDesc.of ws
    let c' : Cmd := { c.started with aux := [key, lseq, first, 1] ++ ws.map (·.toNat) }
    (kind = 3 → x.num s.devNum ≠ some d.root → Sys2Proof.Machine.exec (mk id) s = .next (s.setCmd id c')) ∧
    (∀ bs s', (kind = 3 → x.num s.devNum = some d.root) → (engRead c.started (.va d.sva) (d.n * d.sz)).run s = .ok (bs, s') →
      Sys2Proof.Machine.exec (mk id) s =
        .next (((s'.unask c.key).tellAll key kind lseq x.devs (asWords d.words bs)).setCmd id c'))) ∧
  (∀ mk kind ck, Collective mk kind ck → ∀ s id c off q key lseq first ws x, AtEngine s id c → c.kind = ck off q →
    CollUnder s c kind key lseq first true ws x → (∀ p ∈ s.xin, ¬(p.kind = 14 ∧ p.key = key ∧ p.lseq = lseq)) →
    let d := XDesc.of ws
    let by_ := first + s.dlineOf c.part d
    let last := first + 2 * s.dlineOf c.part d
    let miss := s.missingBy x kind key lseq by_ d
    (x.devs.head? ≠ some s.devNum → Sys2Proof.Machine.exec (mk id) s = .next s ∧
      (s.cycle < last → Sys2Proof.Machine.exec (.collectiveDeadline id) s = .next s) ∧
      (last ≤ s.cycle → ∃ l, Sys2Proof.Machine.exec (.collectiveDeadline id) s =
        .next ((s.xWithdraw c.started).endCmd id c.started 0x0702 0 l))) ∧
    (x.devs.head? = some s.devNum →
      let u := s.tellAll key 14 lseq x.devs ((maskWords miss).map (fun w => (w, false)))
      (miss = [] → Sys2Proof.Machine.exec (mk id) s = Sys2Proof.Machine.exec (mk id) u) ∧
      (miss ≠ [] → Sys2Proof.Machine.exec (mk id) s = .next s) ∧
      (miss ≠ [] → s.cycle < by_ → Sys2Proof.Machine.exec (.collectiveDeadline id) s = .next s) ∧
      (miss ≠ [] → by_ ≤ s.cycle →
        Sys2Proof.Machine.exec (.collectiveDeadline id) s = Sys2Proof.Machine.exec (.collectiveDeadline id) u))) ∧
  (∀ mk kind ck, Collective mk kind ck → ∀ s id c off key lseq first given ws x mask (f : Nat → List (Word × Bool)) i, AtEngine s id c →
    c.kind = ck off false → CollUnder s c kind key lseq first given ws x → s.verdict key lseq x = some mask →
    ((i = mk id ∧ given = true) ∨ i = .collectiveDeadline id) →
    let d := XDesc.of ws
    (∀ l ∈ needed kind x d, maskBit mask l = false → s.broughtBy x kind key lseq s.cycle d l = some (f l)) →
    (∀ s', needed kind x d ≠ [] → (∀ l ∈ needed kind x d, maskBit mask l = false) →
      (xWrite c.started d.dva (xPlaces kind d ((needed kind x d).map (fun l => (l, (tileBytes (f l)).take (d.n * d.sz)))))).run s =
        .ok ((), s') →
      Sys2Proof.Machine.exec i s = .next (((s'.unask c.key).xClose key lseq [] []).endCmd id c.started 0 0 0)) ∧
    (∀ m, (needed kind x d).find? (maskBit mask) = some m →
      Sys2Proof.Machine.exec i s = .next ((s.xClose key lseq [] []).endCmd id c.started 0x0702 0 m))) ∧
  (∀ mk kind ck, Collective mk kind ck → ∀ s id c off key lseq first given ws x mask l i, AtEngine s id c →
    c.kind = ck off false → CollUnder s c kind key lseq first given ws x → s.verdict key lseq x = some mask →
    ((i = mk id ∧ given = true) ∨ i = .collectiveDeadline id) →
    let d := XDesc.of ws
    let last := first + 2 * s.dlineOf c.part d
    l ∈ needed kind x d → maskBit mask l = false → s.broughtBy x kind key lseq s.cycle d l = none →
    (i = mk id ∨ s.cycle < last → Sys2Proof.Machine.exec i s = .next s) ∧
    (i = .collectiveDeadline id → last ≤ s.cycle → ∃ m, Sys2Proof.Machine.exec i s =
      .next ((s.xWithdraw c.started).endCmd id c.started 0x0702 0 m))) ∧
  (∀ (d : XDesc) (cs : List PBytes) i, d.sk = 9 → d.dk = 9 → i < d.n → cs ≠ [] → (∀ bs ∈ cs, bs.length = 8 * d.n) →
    pval (((xReduce d cs).drop (8 * i)).take 8) = (cs.map (fun bs => pval ((bs.drop (8 * i)).take 8))).sum % 2 ^ 64 ∧
    ppsn (((xReduce d cs).drop (8 * i)).take 8) = cs.any (fun bs => ppsn ((bs.drop (8 * i)).take 8)))

/-- R299, R303, R435 to R437: XLOG_EXECUTE copies the entries of the own log into the area, full, 64 zero bytes for one that is
not held, and ends with 0; an unknown set ends it with 0x0703. MEMBERSHIP_CHANGE makes a set of this device alone, with GEN 0;
shrinks a set to it, with GEN one higher and the members that remain in their order; forgets a set that it leaves; and answers
with the generation, the logical number and the code. Without agreement within the wait limit the code is 3. What another device
says of a set takes effect once it can: a device that joins becomes the last member, with GEN one higher, at its sponsor and at
every member (that they vote on it first is the model's choice: log entry 74). -/
def Obligations.SetsAndTheirLogs : Prop :=
  (∀ s id c r0 r1 q, AtEngine s id c → c.kind = .xlog [r0, r1] q → (XlogReq.of [r0, r1]).bad = false →
    let r := XlogReq.of [r0, r1]
    r.dev = s.devNum →
    (mfind (setKey c.part r.set) s.xsets = none →
      Sys2Proof.Machine.exec (.xlogExecute id none) s = .next (s.endCmd id c.started 0x0703 0 0)) ∧
    (∀ x : XSet, mfind (setKey c.part r.set) s.xsets = some x → x.num r.dev ≠ none → c.prog = 0 →
      s.piecesOf 11 r.dev (setKey c.part r.set) 0 s.cycle = [] → (∀ e ∈ x.log, e.data.length = 8) →
      Sys2Proof.Machine.exec (.xlogExecute id none) s = .next ((s.lsPut c.core r.loff true ((List.range r.n).flatMap (fun m =>
        (match x.log.find? (fun (e : XLogEnt) => decide (e.lseq = r.fst + m)) with
          | some e => e.data
          | none => List.replicate 8 0).map (fun w => (w, false))))).endCmd id { c.started with prog := r.n - 1 } 0 0 0))) ∧
  (∀ s id d part set au ws since, OneChange s id d part (.create set au ws) since → mfind (setKey part set) s.xsets = none →
    listOk ws s.devNum = true → listDevs ws = [s.devNum] →
    ∃ t x k, Sys2Proof.Machine.exec (.membershipChange (setKey part set)) s = .next t ∧
      mfind (setKey part set) t.xsets = some x ∧ x.auto_ = au ∧ x.gen = 0 ∧ x.devs = [s.devNum] ∧ x.lseq = 1 ∧
      t.inflight = [(k, .land d (.int 0) false 0)]) ∧
  (∀ s id d part set mask since x n, OneChange s id d part (.shrink set mask) since → mfind (setKey part set) s.xsets = some x →
    x.num s.devNum = some n → (∀ l < 1024, maskBit mask l = true ↔ l < x.devs.length ∧ l ≠ n) → x.devs.length ≤ 1024 →
    ∃ t y k, Sys2Proof.Machine.exec (.membershipChange (setKey part set)) s = .next t ∧
      mfind (setKey part set) t.xsets = some y ∧ y.gen = (x.gen + 1) % 2 ^ 32 ∧ y.devs = [s.devNum] ∧ y.lseq = x.lseq + 1 ∧
      t.inflight = [(k, .land d (.int ((x.gen + 1) % 2 ^ 32 * 2 ^ 32 : Nat)) false 0)]) ∧
  (∀ s id d part set since x, OneChange s id d part (.leave set) since → mfind (setKey part set) s.xsets = some x →
    x.num s.devNum ≠ none →
    ∃ t k, Sys2Proof.Machine.exec (.membershipChange (setKey part set)) s = .next t ∧ mfind (setKey part set) t.xsets = none ∧
      t.inflight = [(k, .land d (.int ((x.gen + 1) % 2 ^ 32 * 2 ^ 32 : Nat)) false 0)]) ∧
  (∀ s id d part set au ws since x, OneChange s id d part (.create set au ws) since → mfind (setKey part set) s.xsets = some x →
    Sys2Proof.Machine.exec (.membershipChange (setKey part set)) s = .next ((s.unsend id).send (.land d
      (.int (x.gen % 2 ^ 32 * 2 ^ 32 + (x.num s.devNum).getD 0 % 1024 * 2 ^ 16 + 1 : Nat)) false 0))) ∧
  (∀ (s : State) (id : Id) d part op since, mfind id s.inflight = some (.xmember d part op since) →
    mfind (setKey part op.set) s.xsets = none → since + s.limitCycles part ≤ s.cycle →
    Sys2Proof.Machine.exec (.membershipAgreementTimeout id) s = .next ((s.unsend id).send (.land d (.int 3) false 0))) ∧
  (∀ (s : State) key x pre p post t, s.xBusy key = false → (∀ e ∈ s.inflight, ∀ d part op since, e.2 ≠ .xmember d part op since) →
    mfind key s.xsets = some x → s.xin = pre ++ p :: post → (∀ q ∈ pre, s.heard key x q = none) → s.heard key x p = some t →
    Sys2Proof.Machine.exec (.membershipChange key) s = .next t) ∧
  (∀ (s : State) key x p, p.key = key → let dv := p.num 2 % 1024
    ((p.kind = 17 ∧ p.num 3 = 1 ∧ x.lseq = p.num 0 + 1 ∧ dv ∉ x.devs) ∨
      (p.kind = 6 ∧ p.num 1 = s.devNum ∧ s.devNum ∈ x.devs ∧
        ∀ m ∈ x.devs, ∃ v, s.voteOf key m (p.num 0) dv = some v ∧ v.num 2 = 1)) →
    ∃ t y, s.heard key x p = some t ∧ mfind key t.xsets = some y ∧ y.devs = x.devs ++ [dv] ∧ y.gen = (x.gen + 1) % 2 ^ 32 ∧
      y.lseq = x.lseq + 1)

/-- R102, R105, R109, R376: TAIL_WRITE_SEEN takes note of a new TAIL and its cycle; a ring that holds more than it can stops
the queue with ECODE 7, and a good header starts it. LAUNCH_APPEND writes the record at the place that TAIL names and raises
TAIL by 1, with status 0; a full ring gives 0x0201, a stopped queue 0x0202, a poisoned record 0x0203, a partition without
queues 0x0105. (That a TAIL below HEAD counts as nothing to do is the model's choice: log entry 29.) -/
def Clause.LaunchQueues : Prop :=
  (∀ s part lev ring logn head tail, s.hasQueues part = true → lev < 4 →
    let q := (s.part part).q lev
    HeaderIs s q.pa ring logn head tail → q.stop ≠ 1 →
    (tail = q.tail → Sys2Proof.Machine.exec (.tailWriteSeen part lev) s = .next s) ∧
    (tail ≠ q.tail → ∃ t, Sys2Proof.Machine.exec (.tailWriteSeen part lev) s = .next t ∧
      ((t.part part).q lev).tail = tail ∧ ((t.part part).q lev).seen = q.seen ++ [(tail, s.cycle)] ∧
      ((t.part part).q lev).pa = q.pa ∧ ((t.part part).q lev).stop = (if tail - head ≤ 2 ^ logn then 0 else 7) ∧
      (tail - head ≤ 2 ^ logn → t.mem = s.mem) ∧
      (2 ^ logn < tail - head → q.stop ≠ 7 → wordAt s q.pa 4 % 256 = 0 →
        wordAt t q.pa 4 = tail % 2 ^ 56 * 256 + 7))) ∧
  (∀ s id c off lev g (ws : List Word) ring logn head tail h pb, AtEngine s id c → c.kind = .launch off lev →
    (s.part c.part).cfg = some g → g.lqb ≠ 0 →
    s.lsWords c.core off 8 = ws.map (fun w => (w, false)) →
    let va := BitVec.toNat g.lqb + 64 * lev
    HeaderIs s h ring logn head tail → Mapped s c va h 64 .rw →
    (((s.part c.part).q lev).stop ≠ 0 → Sys2Proof.Machine.exec (.launchAppend id) s = .next (s.endCmd id c.started 0x0202 0 0)) ∧
    (((s.part c.part).q lev).stop = 0 → tail - head = 2 ^ logn →
      Sys2Proof.Machine.exec (.launchAppend id) s = .next (s.endCmd id c.started 0x0201 0 0)) ∧
    (((s.part c.part).q lev).stop = 0 → tail - head ≠ 2 ^ logn → ring % 64 = 0 → va % 64 = 0 → tail + 1 < 2 ^ 64 →
      Mapped s c (ring + 64 * (tail % 2 ^ logn)) pb 64 .wr → (∀ j < 64, ∀ k < 64, pb + j ≠ h + k) →
      ∃ u : State, Sys2Proof.Machine.exec (.launchAppend id) s = .next (u.endCmd id c.started 0 0 0) ∧
        (∀ k < 8, u.memWord (pb + 8 * k) = nthW ws k ∧ u.memPoison (pb + 8 * k) = false) ∧
        wordAt u h 3 = tail + 1 ∧
        (∀ a, (∀ j < 64, a ≠ pb + j) → (∀ j < 8, a ≠ h + 24 + j) → Memory.read u.mem a = Memory.read s.mem a))) ∧
  (∀ s id c off lev, AtEngine s id c → c.kind = .launch off lev → (∃ w ∈ s.lsWords c.core off 8, w.2 = true) →
    Sys2Proof.Machine.exec (.launchAppend id) s = .next (s.endCmd id c.started 0x0203 0 0)) ∧
  (∀ s id c off lev (ws : List Word) g, AtEngine s id c → c.kind = .launch off lev → s.lsWords c.core off 8 = ws.map (fun w => (w, false)) →
    (s.part c.part).cfg = some g → g.lqb = 0 →
    Sys2Proof.Machine.exec (.launchAppend id) s = .next (s.endCmd id c.started 0x0105 0 0))

/-- R107, R108, R286, R440: THREAD_PLACEMENT starts the next thread of the launch that the dispatcher chooses, in the lowest
free slot of its core, at ENTRY, with the frame of its index, whose header is first written as zeros and TUNING; a descriptor
that has grown and does not fit is not applied (log entry 67); a quarter places one thread in a cycle. LAUNCH_COMPLETION of a launch of which nothing is left writes
CVAL at CADDR, where that is not 0, and the launch is gone; in a peer window the owner is asked to write it (R188, R202).
RESTART_ENTRY_START starts the first restart entry of a core that can go, with its live-ins. (The root header and CVAL are
written in S mode: the model's choice, log entry 66; the layout of a request is log entry 44.) -/
def Clause.LaunchesPlaceAndComplete : Prop :=
  (∀ s qn p r lid l c ks t pa lf, s.reachAll = s → (s.qtr qn).placed ≤ s.cycle → s.servedPart qn = some (p, r) →
    s.chooseHead (s.placeable p qn) = some (lid, l, c) →
    s.launchTuning l.part c (nthW l.words 1) = .ok ks → s.fits c (costOf ks) = true → s.freeSlotOf c false = some t →
    s.xlatePart l.part true (BitVec.toNat (frameOf l l.next)) .wr = .ok pa lf → isDev pa = true → l.next + 1 < l.count →
    let u := { s.setQtr qn { s.qtr qn with round := r, placed := s.cycle + 1 } with
      launches := mset lid { l with next := l.next + 1, last := some c } s.launches }
    Sys2Proof.Machine.exec (.threadPlacement qn) s = .next ((u.rootFrame pa (nthW l.words 1)).startSlot t
      ⟨nthW l.words 0, false, nthW l.words 1, frameOf l l.next, 0, lid, l.prio, true⟩ ks)) ∧
  (∀ s qn, s.reachAll = s → s.cycle < (s.qtr qn).placed → Sys2Proof.Machine.exec (.threadPlacement qn) s = .next s) ∧
  (∀ s qn p r lid l c ks, s.reachAll = s → (s.qtr qn).placed ≤ s.cycle → s.servedPart qn = some (p, r) →
    s.chooseHead (s.placeable p qn) = some (lid, l, c) → s.launchTuning l.part c (nthW l.words 1) = .ok ks →
    s.fits c (costOf ks) = false → Sys2Proof.Machine.exec (.threadPlacement qn) s =
      .next { s with launches := mset lid { l with bits := costOf ks } s.launches }) ∧
  (∀ s lid l pa lf, mfind lid s.launches = some l → l.susp = false → l.count ≤ l.next → s.borne l.part lid = false →
    let u := { s with launches := mdel lid s.launches }
    (nthW l.words 6 = 0 → Sys2Proof.Machine.exec (.launchCompletion lid) s = .next u) ∧
    (nthW l.words 6 ≠ 0 → u.xlatePart l.part true (BitVec.toNat (nthW l.words 6)) .wr = .ok pa lf →
      Sys2Proof.Machine.exec (.launchCompletion lid) s = .next (u.putWord pa (BitVec.toNat (nthW l.words 7))))) ∧
  (∀ (s : State) pa v, (isPeer pa = false → s.putWord pa v = s.memWrite pa 8 (v % 2 ^ 64) false) ∧
    (isPeer pa = true → pa / 2 ^ 42 % 1024 ≠ s.devNum →
      s.putWord pa v = { s.memWrite pa 8 (v % 2 ^ 64) false with nextId := s.nextId + 1 }.sendFlit (pa / 2 ^ 42 % 1024) 1 none
        [(BitVec.ofNat 64 (16 * 2 ^ 8 + 8 * 2 ^ 16 + s.nextId % 65536 * 2 ^ 32), false), (BitVec.ofNat 64 (pa % 2 ^ 42), false),
          (BitVec.ofNat 64 v, false)])) ∧
  (∀ s lid l, mfind lid s.launches = some l → (l.susp = true ∨ l.next < l.count ∨ s.borne l.part lid = true) →
    Sys2Proof.Machine.exec (.launchCompletion lid) s = .next s) ∧
  (∀ s c t k (r : Restart) ks, s.repacking c = false → s.headTakes c = false → (s.core c).offline = false →
    s.freeSlotOf c false = some t → s.nextRestart c = some (k, r) →
    let u := s.setCore c { s.core c with restart := (s.core c).restart.eraseIdx k }
    u.readTuning (u.partNum c) true c r.cont.tuning = .ok ks →
    Sys2Proof.Machine.exec (.restartEntryStart c) s = .next ((u.startSlot t r.cont.startOf ks).liveIn t r)) ∧
  (∀ (s : State) (t : Tid) (r : Restart) (j : Nat) (n : NameSt) sg w m, r.expl = true →
    (s.slot t).names[j]? = some n → n.kind = .int sg w m →
    (∀ k < 8, (liveIx r.list k).toNat ≠ j + 1) →
    ∃ y, ((s.liveIn t r).slot t).names[j]? = some y ∧ y.f = false ∧ y.kind = n.kind)

/-- R273, R274: LAUNCH_WATCHDOG_EXPIRY of a live launch whose budget has passed, and QUEUE_STALL_WATCHDOG of a queue whose
HEAD has not moved within its budget while records wait, report WATCHDOG (0x20) with subcode 0 and 1 to partition 0, once. A
launch's budget counts once its record is accepted (the model's choice: log entry 68). -/
def Clause.LaunchAndQueueWatchdogs : Prop :=
  (∀ s lid l, mfind lid s.launches = some l →
    (l.wdog ≠ 0 → l.wdSent = false → l.susp = false → l.wdStart + l.wdog * Config.cyclesPerUs ≤ s.cycle →
      Sys2Proof.Machine.exec (.launchWatchdogExpiry lid) s =
        .next ({ s with launches := mset lid { l with wdSent := true } s.launches }.sendTrap 0
          { TrapRec.zero 0x20 0 l.part s.cycle with addr := BitVec.ofNat 64 l.wdog, launch := lid })) ∧
    (l.wdog = 0 ∨ l.wdSent = true ∨ s.cycle < l.wdStart + l.wdog * Config.cyclesPerUs →
      Sys2Proof.Machine.exec (.launchWatchdogExpiry lid) s = .next s)) ∧
  (∀ s part lev, s.hasQueues part = true →
    let q := (s.part part).q lev
    (q.wdBudget ≠ 0 → q.wdSent = false → wordAt s q.pa 3 ≠ wordAt s q.pa 2 →
      q.wdSince + q.wdBudget * Config.cyclesPerUs ≤ s.cycle →
      Sys2Proof.Machine.exec (.queueStallWatchdog part lev) s =
        .next ((s.modQ part lev (fun y => { y with wdSent := true })).sendTrap 0
          { TrapRec.zero 0x20 1 part s.cycle with name := lev, addr := BitVec.ofNat 64 q.wdBudget })) ∧
    (q.wdBudget = 0 ∨ q.wdSent = true ∨ wordAt s q.pa 3 = wordAt s q.pa 2 →
      Sys2Proof.Machine.exec (.queueStallWatchdog part lev) s = .next s))

/-- R260, R281, R330, R389, R393, R408: in U mode the supervisor-only operations PDRAIN, PRESET, SLOTRD, SLOTWR, SLOTKILL,
TLBINV, WDSET, PMCFG, PMRD and TRACERD raise PRIV (0x12) subcode 1 and have no other effect. -/
def Clause.SupervisorOpsNeedSMode : Prop :=
  ∀ s i g fs m, Supervisor s i g fs m → Ready s g fs m none → s.me.smode = false →
    Sys2Proof.Machine.exec i s = .next (s.trapped ⟨0x12, 1, 0, 0⟩)

/-- R88, R278, R283 to R286: save areas. A pre-emption captures the launch's record and NEXT, its cores with a block for each
of data and F bits, a restart entry for each of its slots without a capsule (a region, or the restart point), its deque
records and its capsules; the area holds them as R284 and R285 lay them out. A resume refuses an area that is none, is not
suspended, whose launch is live, or that names a core outside the partition, and else restores the local stores, the deques
and the restart entries, and the launch is live again with its record and NEXT. -/
def Clause.SaveAreaContents : Prop :=
  (∀ (s u : State) lid (l : Launch) a, (s.slots.map (·.1)).Nodup → (s.cores.map (·.1)).Nodup → s.capture lid l = (a, u) →
    a.lid = lid ∧ a.next = l.next ∧ a.recd = l.words ∧ (∀ g, (s.part l.part).cfg = some g → a.cores = placeSet g (nthW l.words 4)) ∧
    (∀ c r, (c, r) ∈ a.rest ↔ (r ∈ (s.core c).restart ∧ r.cont.launch = lid) ∨
      ∃ t, coreOf t = c ∧ (s.slot t).ofLaunch lid = true ∧ s.heldBuf t = none ∧ r = s.restartOf t) ∧
    (∀ c r, (c, r) ∈ a.deq ↔ (r ∈ (s.readAll c).1 ∨ r ∈ (s.readAll c).2) ∧ r.launch = lid) ∧
    (∀ id q c, mfind id s.inflight = some q → q.capsule = some c → c.ofLaunch l.part lid = true → c ∈ a.caps)) ∧
  (∀ (s : State) (t : Tid), let x := s.slot t
    (x.rgnpc = 0 → ∀ r, x.start = some r → s.restartOf t = r) ∧
    (x.rgnpc ≠ 0 → ∃ b, s.restartOf t = ⟨⟨x.rgnpc, x.rgnframe, x.rgntune, x.launch, b, x.prio, true⟩, true, x.rgnsem, x.rgnlist,
      s.lsWords (coreOf t) (0x35C00 + 64 * (t % 16)) 8⟩)) ∧
  (∀ (a : SaveArea) (n st : Nat), (a.header n st).map (fun w => (w.1.toNat, w.2)) =
    [0x5A7E * 2 ^ 48 + 1 * 2 ^ 40, a.lid % 2 ^ 64, a.cores.length % 2 ^ 64, a.rest.length % 2 ^ 64, a.deq.length % 2 ^ 64,
      n % 2 ^ 64, a.next % 2 ^ 64, st % 2 ^ 64].map (fun v => (v, false))) ∧
  (∀ (a : SaveArea), a.recd.length = 8 → (∀ b ∈ a.blocks, b.length = 28080) → (∀ e ∈ a.rest, e.2.save.length = 8) →
    (a.body.take 8 = a.header 0 0) ∧ ((a.body.drop 8).take 8 = a.recd.map (fun w => (w, false))) ∧
    (∀ w ∈ (a.body.drop 16).take 16, w = (0, false)) ∧
    (∀ j, ∀ (h : j < a.blocks.length), (a.body.drop (32 + 28080 * j)).take 28080 = a.blocks[j]) ∧
    (∀ j, ∀ (h : j < a.rest.length), (a.body.drop (32 + 28080 * a.blocks.length + 16 * j)).take 16 = a.rest[j].2.words a.rest[j].1) ∧
    (∀ j, ∀ (h : j < a.deq.length), (a.body.drop (32 + 28080 * a.blocks.length + 16 * a.rest.length + 8 * j)).take 8 =
      a.deq[j].2.areaWords a.deq[j].1) ∧
    a.body.length = 32 + 28080 * a.blocks.length + 16 * a.rest.length + 8 * a.deq.length) ∧
  (∀ (s : State) core, (s.coreBlock core).take 27648 = s.lsWords core 0 27648 ∧ (s.coreBlock core).length = 28080 ∧
    ∀ k < 27648, ∃ w, (s.coreBlock core)[27648 + k / 64]? = some (w, false) ∧ w.getLsbD (k % 64) = s.lsF core (8 * k)) ∧
  (∀ (r : Restart) core, r.cont.launch < 2 ^ 32 → r.cont.bits < 2 ^ 19 → r.cont.prio < 4 → r.cont.ack = true → r.sem.1 < 256 →
    r.sem.2 < 64 → core < 4096 → r.save.length = 8 → Restart.ofWords (r.words core) = r ∧ entryCore (r.words core) = core ∧
      recOk (r.words core) 27 [6, 7] = true) ∧
  (∀ (s : State) part va ws, s.areaGet part 32 va none = some ws →
    (ws.any (·.2) = true ∨ (nthW (ws.map (·.1)) 0).toNat ≠ 0x5A7E * 2 ^ 48 + 2 ^ 40 ∨ (∃ w ∈ ws.drop 16, w.1 ≠ 0) →
      s.readArea part va = .error 3) ∧
    (areaHeadOk ws = true → nthW (ws.map (·.1)) 7 ≠ 1 → s.readArea part va = .error 1) ∧
    (areaHeadOk ws = true → nthW (ws.map (·.1)) 7 = 1 →
      (∀ l, mfind (nthW (ws.map (·.1)) 1).toNat s.launches = some l → l.susp = false → s.readArea part va = .error 1) ∧
      (mfind (nthW (ws.map (·.1)) 1).toNat s.launches = none →
        s.saveCores (nthW (ws.map (·.1)) 1).toNat (nthW (ws.map (·.1)) 2).toNat (((ws.map (·.1)).drop 8).take 8) = none →
        s.readArea part va = .error 4))) ∧
  (∀ (s : State) lid n recd cs, s.saveCores lid n recd = some cs → cs.length = n ∧
    ∃ g, (s.part (lid / 2 ^ 26 % 64)).cfg = some g ∧ ∀ c ∈ cs, g.has c = true) ∧
  (∀ (s : State) part va (a : SaveArea), (∀ c, (s.core c).deque.length + a.deq.length ≤ 256) → a.cores.Nodup →
    a.blocks.length = a.cores.length → (∀ c ∈ a.cores, c < 4096) → (∀ e ∈ a.deq, e.1 < 4096) →
    let u := s.resume part va a
    (∀ j, ∀ (h : j < a.cores.length), ∀ (h' : j < a.blocks.length), a.blocks[j].length = 28080 →
      u.lsWords a.cores[j] 0 27648 = a.blocks[j].take 27648 ∧
      ∀ k < 27648, ∃ w, a.blocks[j][27648 + k / 64]? = some w ∧ u.lsF a.cores[j] (8 * k) = w.1.getLsbD (k % 64)) ∧
    (∃ l, mfind a.lid u.launches = some l ∧ l.susp = false ∧ l.words = a.recd ∧ l.next = a.next) ∧
    (∀ c, (u.core c).deque = (s.core c).deque ++ (a.deq.filter (fun e => decide (e.1 = c))).map (·.2) ∧
      (u.core c).restart = (s.core c).restart ++ (a.rest.filter (fun e => decide (e.1 = c))).map (·.2)) ∧
    (∀ pa lf, s.xlatePart part true ((va + 56) % 2 ^ 64) .wr = .ok pa lf → u.memRead pa 8 = 2))

/-- R271, R281 to R286, R289, R292, R389, R393: the results of PDRAIN and PRESET, and what they do with them. PDRAIN drains a
live launch, which is then gone with its commands, but for those that still end, or a partition; saves a launch; resumes a
save area. PRESET of a partition configures it anew: its cores have free slots, semaphores and local stores of zeros, and the
headers of its queues begin at 0; without a block it is gone. A core that fails its test gives result 4 and leaves the
partition without a configuration (log entry 31). A PDRAIN or PRESET acts as a whole in its turn (the model's choice: log
entry 34), once no core repacks and no command that it pre-empts stands within a unit of its work; its result lands when what it
ended is performed. (Which result a resume gives is the model's choice too, log entry 34: 3 for an area that is poisoned or has
reserved words, 4 for a wrong NCORE, 1 where the launch is live.) -/
def Obligations.PartitionsAreDrainedAndReset : Prop :=
  (∀ g (d : Ix) a s v st, Ready s g [d, a.ix] [a] none → s.me.intNil d = true → s.me.intNil a.ix = true → s.me.smode = true →
    ReadsInt s (s.emptied [a]) a.ix v false st →
    let lid := umod 32 v
    ((s.partNum (coreOf s.cur) ≠ 0 ∧ lid / 2 ^ 26 ≠ s.partNum (coreOf s.cur)) →
      Sys2Proof.Machine.exec (.pdrainDrain g d a) s = .next (s.trapped ⟨0x12, 3, 0, 0⟩)) ∧
    ((s.partNum (coreOf s.cur) = 0 ∨ lid / 2 ^ 26 = s.partNum (coreOf s.cur)) →
      (mfind lid st.launches = none → Sys2Proof.Machine.exec (.pdrainDrain g d a) s = .next (s.gives st d 1)) ∧
      (∀ l, mfind lid st.launches = some l → l.susp = false → (∀ e ∈ s.cores, e.2.repack = none) →
        s.goesOnIn (st.drainLaunch lid) →
        Sys2Proof.Machine.exec (.pdrainDrain g d a) s = .next (s.gives (st.drainLaunch lid) d 0)))) ∧
  (∀ (s : State) lid l, mfind lid s.launches = some l → mfind lid (s.drainLaunch lid).launches = none ∧
    ((s.cmds.map (·.1)).Nodup → ∀ e ∈ (s.drainLaunch lid).cmds, e.2.bears = true → e.2.launch = lid →
      e.2.stopping = true ∨ e.2.ended ≠ none)) ∧
  (∀ g (d : Ix) a s v st, Ready s g [d, a.ix] [a] none → s.me.intNil d = true → s.me.intNil a.ix = true → s.me.smode = true →
    s.partNum (coreOf s.cur) = 0 → ReadsInt s (s.emptied [a]) a.ix v false st →
    (v ≤ 0 ∨ 63 < v → Sys2Proof.Machine.exec (.pdrainDrainPart g d a) s = .next (s.gives st d 2) ∧
      Sys2Proof.Machine.exec (.presetKeep g d a) s = .next (s.gives st d 2)) ∧
    (0 < v → v ≤ 63 → (st.part v.toNat).cfg = none →
      Sys2Proof.Machine.exec (.pdrainDrainPart g d a) s = .next (s.gives st d 1) ∧
      Sys2Proof.Machine.exec (.presetKeep g d a) s = .next (s.gives st d 1)) ∧
    (∀ c, 0 < v → v ≤ 63 → (st.part v.toNat).cfg = some c →
      ((∀ e ∈ s.cores, e.2.repack = none) → s.goesOnIn (st.drainPart v.toNat c) →
        Sys2Proof.Machine.exec (.pdrainDrainPart g d a) s = .next (s.gives (st.drainPart v.toNat c) d 0)) ∧
      (∀ pas u, Settled s (fun k => k.part = v.toNat) → st.overlaps v.toNat c = false → st.headerPas c = some pas →
        ∀ good, st.testCores c.cores = (good, u) →
          let w := u.preset v.toNat (if good then some c else none) (if good then pas else [])
          s.goesOnIn w → Sys2Proof.Machine.exec (.presetKeep g d a) s = .next (s.gives w d (if good then 0 else 4))))) ∧
  (∀ g (d : Ix) a b s v (va : Nat) st st2, Ready s g [d, a.ix, b.ix] [a, b] none → s.me.intNil d = true → s.me.intNil a.ix = true →
    s.me.intNil b.ix = true → s.me.smode = true → ReadsInt s (s.emptied [a, b]) a.ix v false st →
    ReadsInt s st b.ix va false st2 → va < 2 ^ 64 → s.partNum (coreOf s.cur) = 0 →
    (va % 4096 ≠ 0 → Sys2Proof.Machine.exec (.pdrainSave g d a b) s = .next (s.gives st2 d 3)) ∧
    (∀ l code u, va % 4096 = 0 → mfind (umod 32 v) st2.launches = some l → l.susp = false →
      Settled s (fun k => k.bears = true ∧ k.launch = umod 32 v) → st2.saveLaunch 0 va (umod 32 v) l = (code, u) → s.goesOnIn u →
      Sys2Proof.Machine.exec (.pdrainSave g d a b) s = .next (s.gives u d code)) ∧
    (0 < v → v ≤ 63 → va = 0 → Settled s (fun k => k.part = v.toNat) → s.goesOnIn (st2.preset v.toNat none []) →
      Sys2Proof.Machine.exec (.preset g d a b) s = .next (s.gives (st2.preset v.toNat none []) d 0)) ∧
    (0 < v → v ≤ 63 → va % 128 ≠ 0 → Sys2Proof.Machine.exec (.preset g d a b) s = .next (s.gives st2 d 3)) ∧
    (∀ ws, 0 < v → v ≤ 63 → va % 128 = 0 → va ≠ 0 → st2.devWords 0 true va 16 = .ok ws →
      (parsePcb ws = none → Sys2Proof.Machine.exec (.preset g d a b) s = .next (s.gives st2 d 3)) ∧
      (∀ c, parsePcb ws = some c → st2.overlaps v.toNat c = true →
        Sys2Proof.Machine.exec (.preset g d a b) s = .next (s.gives st2 d 4)) ∧
      (∀ c pas u, parsePcb ws = some c → st2.overlaps v.toNat c = false → st2.headerPas c = some pas →
        Settled s (fun k => k.part = v.toNat) →
        ∀ good, st2.testCores c.cores = (good, u) →
          let w := u.preset v.toNat (if good then some c else none) (if good then pas else [])
          s.goesOnIn w → Sys2Proof.Machine.exec (.preset g d a b) s = .next (s.gives w d (if good then 0 else 4))))) ∧
  (∀ g (d : Ix) b s (va : Nat) st, Ready s g [d, b.ix] [b] none → s.me.intNil d = true → s.me.intNil b.ix = true →
    s.me.smode = true → ReadsInt s (s.emptied [b]) b.ix va false st → va < 2 ^ 64 → s.partNum (coreOf s.cur) = 0 →
    (va % 4096 ≠ 0 → Sys2Proof.Machine.exec (.pdrainResume g d b) s = .next (s.gives st d 3)) ∧
    (∀ code, va % 4096 = 0 → st.readArea 0 va = .error code →
      Sys2Proof.Machine.exec (.pdrainResume g d b) s = .next (s.gives st d code)) ∧
    (∀ ar, va % 4096 = 0 → st.readArea 0 va = .ok ar → s.goesOnIn (st.resume 0 va ar) →
      Sys2Proof.Machine.exec (.pdrainResume g d b) s = .next (s.gives (st.resume 0 va ar) d 0))) ∧
  (∀ (s : State) p g pas c, c ∈ g.cores → 0 < p →
    let u := s.preset p (some g) pas
    (u.part p).cfg = some g ∧ (∀ t, coreOf t = c → (u.slot t).st = .free) ∧ (∀ k, u.sem c k = 0) ∧ (∀ k, u.queue c k = []) ∧
    (∀ o < 2 ^ 18, Memory.read u.lmem (c * 2 ^ 18 + o) = 0 ∧ u.lsF c o = false ∧ u.lsP c o = false) ∧
    (∀ pa ∈ pas, wordAt u pa 2 = 0 ∧ wordAt u pa 3 = 0 ∧ wordAt u pa 4 = 0)) ∧
  (∀ (s : State) p, 0 < p → ((s.preset p none []).part p).cfg = none) ∧
  (∀ (s : State) (cs : List Nat), (∀ c ∈ cs, (s.core c).offline = false) → s.testCores cs = (true, s)) ∧
  (∀ (s : State) id d v, mfind id s.inflight = some (.landAfter d v) → s.repacking (coreOf d.tid) = false →
    (s.lingers id = true → Sys2Proof.Machine.exec (.landName id) s = .next s) ∧
    (s.lingers id = false → Sys2Proof.Machine.exec (.landName id) s = .next ((s.unsend id).landName d (.int v) false 0))) ∧
  Clause.SaveAreaContents

/-- R267, R407 to R411: SLOTRD, SLOTWR and SLOTKILL send their request to the target's core and leave D empty and pending. At
the target SLOTRD answers a name's value, or its F and P bits, or 0 and 4 for a name that is none; SLOTWR writes a name of a
slot that a trap parked and answers 1, and 0 without effect for any other slot; SLOTKILL discards the slot and answers 1, and
0 for a free slot; an EPOCH that differs answers 0. SLOTWR.run performs the earlier accesses of its slot within its step:
R195 only orders them, and their place is the model's choice (log entry 21). -/
def Obligations.SlotsAreReadWrittenAndKilled : Prop :=
  (∀ g (d : Ix) a sp (sel : BitVec 8) s v w st, Ready s g [d, a.ix] [a] none → s.me.intNil d = true → s.me.intNil a.ix = true →
    s.me.smode = true → ReadsInt s (s.emptied [a]) a.ix v false st → TargetIs s v w →
    Sys2Proof.Machine.exec (.slotrd g d a sp sel) s = .next (s.goOn ((s.pending st d).send
      (.slotrd s.cur (s.partNum (coreOf s.cur)) ⟨w, sp, sel.toNat⟩ (s.resultOf st d)))) ∧
    Sys2Proof.Machine.exec (.slotkill g d a) s = .next (s.goOn ((s.pending st d).send
      (.slotkill s.cur (s.partNum (coreOf s.cur)) w (s.resultOf st d))))) ∧
  (∀ g (d : Ix) a b sp (sel : BitVec 8) run s v w x st st2, Ready s g [d, a.ix, b.ix] [a, b] none → s.me.intNil d = true →
    s.me.intNil a.ix = true → s.me.intNil b.ix = true → s.me.smode = true → ReadsInt s (s.emptied [a, b]) a.ix v false st →
    ReadsInt s st b.ix x false st2 → TargetIs s v w → (sp = .reg → selValueOk sel.toNat x = true) →
    (run = true → Performed s st2) →
    let t := if run then st2.drain s.cur else st2
    Sys2Proof.Machine.exec (.slotwr g d a b sp sel run) s = .next (s.goOn ((s.pending t d).send
      (.slotwr s.cur (s.partNum (coreOf s.cur)) ⟨w, sp, sel.toNat⟩ x run (s.resultOf t d))))) ∧
  (∀ id s src part o dst, AtTarget s id (.slotrd src part o dst) (tgtTid o.tgt) →
    let u := s.slot (tgtTid o.tgt)
    (s.epochOk o.tgt = false → Sys2Proof.Machine.exec (.slotrdAtTarget id) s =
      .next ((s.unsend id).send (.land dst (.int 0) false 0))) ∧
    (∀ n sg wd m, s.epochOk o.tgt = true → u.names[o.sel - 1]? = some n → n.kind = .int sg wd m →
      (o.sp = .nv → Sys2Proof.Machine.exec (.slotrdAtTarget id) s =
        .next ((s.unsend id).send (.land dst (.int (umod 64 (n.vals.headD 0))) false 0))) ∧
      (o.sp = .nf → Sys2Proof.Machine.exec (.slotrdAtTarget id) s = .next ((s.unsend id).send
        (.land dst (.int ((if n.f then 1 else 0) + (if n.p then 2 else 0))) false 0)))) ∧
    (s.epochOk o.tgt = true → u.names[o.sel - 1]? = none →
      (o.sp = .nv → Sys2Proof.Machine.exec (.slotrdAtTarget id) s =
        .next ((s.unsend id).send (.land dst (.int 0) false 0))) ∧
      (o.sp = .nf → Sys2Proof.Machine.exec (.slotrdAtTarget id) s =
        .next ((s.unsend id).send (.land dst (.int 4) false 0))))) ∧
  (∀ id s src part o v run dst, AtTarget s id (.slotwr src part o v run dst) (tgtTid o.tgt) →
    let t := tgtTid o.tgt
    ((s.slot t).st ≠ .trapped ∨ s.epochOk o.tgt = false → Sys2Proof.Machine.exec (.slotwrAtTarget id) s =
      .next ((s.unsend id).send (.land dst (.int 0) false 0))) ∧
    (∀ n sg wd m y, (s.slot t).st = .trapped → s.epochOk o.tgt = true → o.sp = .nv → (s.slot t).names[o.sel - 1]? = some n →
      n.kind = .int sg wd m → fitInt sg wd m v = some y →
      let x := { s.slot t with names := (s.slot t).names.set (o.sel - 1) { n with vals := [y], f := true, p := false, pend := none } }
      Sys2Proof.Machine.exec (.slotwrAtTarget id) s =
        .next (((s.unsend id).setSlot t (if run then x.run else x)).send (.land dst (.int 1) false 0)))) ∧
  (∀ id s src part w dst, AtTarget s id (.slotkill src part w dst) (tgtTid w) →
    ((s.slot (tgtTid w)).st = .free ∨ s.epochOk w = false → Sys2Proof.Machine.exec (.slotkillAtTarget id) s =
      .next ((s.unsend id).send (.land dst (.int 0) false 0))) ∧
    ((s.slot (tgtTid w)).st ≠ .free → s.epochOk w = true → s.heldBuf (tgtTid w) = none →
      Sys2Proof.Machine.exec (.slotkillAtTarget id) s =
        .next (((s.unsend id).discard (tgtTid w)).send (.land dst (.int 1) false 0)))) ∧
  (∀ (s : State) (t : Tid), (s.slot t).st ≠ .free → ((s.discard t).slot t).st = .free)

/-- R274, R308, R390, R391, R416 to R418: TLBINV removes the cached translations it names, with result 0, once every earlier
access of its slot has been performed; the result lands when no access that used one of them is outstanding; it is 1 for a bad
address; WDSET arms a queue's watchdog; PMCFG configures a
counter and PMRD reads its configuration; a bad target, selector or configuration gives result 2 or ILLEGAL_OP subcode 1;
TRACERD answers the words of a bank's ring and its count. Result 2 of WDSET for a budget out of range is the model's choice
(log entry 52): R274 gives it for the target. -/
def Clause.SupervisorUnits : Prop :=
  (∀ g (d : Ix) a s v st, Ready s g [d, a.ix] [a] none → s.me.intNil d = true → s.me.intNil a.ix = true → s.me.smode = true →
    ReadsInt s (s.emptied [a]) a.ix v false st →
    (canonical (umod 64 v) = false → Sys2Proof.Machine.exec (.tlbinvPage g d a) s = .next (s.givesAtOnce st d 1)) ∧
    (canonical (umod 64 v) = true → s.inflight = [] → s.asked = [] → ∃ t k, Sys2Proof.Machine.exec (.tlbinvPage g d a) s = .next t ∧
      (∀ cl, t.cached cl (s.partNum (coreOf s.cur)) (umod 64 v) = none) ∧ t.mem = s.mem ∧
      mfind k t.inflight = some (.land (s.resultOf st d) (.int 0) false 0))) ∧
  (∀ (s : State) id d uses, mfind id s.inflight = some (.landUses d uses) → s.repacking (coreOf d.tid) = false →
    ((∃ e ∈ s.inflight, e.1 ∈ uses) ∨ (∃ a ∈ s.asked, a.ans = none ∧ a.tag ∈ uses) →
      Sys2Proof.Machine.exec (.landName id) s = .next s) ∧
    ((∀ e ∈ s.inflight, e.1 ∉ uses) → (∀ a ∈ s.asked, a.ans = none → a.tag ∉ uses) →
      Sys2Proof.Machine.exec (.landName id) s = .next ((s.unsend id).landName d (.int 0) false 0))) ∧
  (∀ g (d : Ix) a b s v w st st2, Ready s g [d, a.ix, b.ix] [a, b] none → s.me.intNil d = true → s.me.intNil a.ix = true →
    s.me.intNil b.ix = true → s.me.smode = true → ReadsInt s (s.emptied [a, b]) a.ix v false st → ReadsInt s st b.ix w false st2 →
    (canonical (umod 64 v) = false ∨ w < 1 ∨ 2 ^ 56 ≤ w →
      Sys2Proof.Machine.exec (.tlbinvRange g d a b) s = .next (s.givesAtOnce st2 d 1)) ∧
    (canonical (umod 64 v) = true → 1 ≤ w → w < 2 ^ 56 → s.inflight = [] → s.asked = [] →
      ∃ t k, Sys2Proof.Machine.exec (.tlbinvRange g d a b) s = .next t ∧
      (∀ cl va, umod 64 v ≤ va → va < umod 64 v + w → t.cached cl (s.partNum (coreOf s.cur)) va = none) ∧
      mfind k t.inflight = some (.land (s.resultOf st2 d) (.int 0) false 0))) ∧
  (∀ g (d : Ix) s, Ready s g [d] [] none → s.me.intNil d = true → s.me.smode = true →
    (s.inflight = [] → s.asked = [] → ∃ t k, Sys2Proof.Machine.exec (.tlbinvCtx g d) s = .next t ∧
      (∀ cl va, t.cached cl (s.partNum (coreOf s.cur)) va = none) ∧
      mfind k t.inflight = some (.land (s.resultOf s.counted d) (.int 0) false 0)) ∧
    (s.inflight = [] → s.asked = [] → s.partNum (coreOf s.cur) = 0 → ∃ t k, Sys2Proof.Machine.exec (.tlbinvAll g d) s = .next t ∧
      (∀ cl p va, t.cached cl p va = none) ∧ mfind k t.inflight = some (.land (s.resultOf s.counted d) (.int 0) false 0)) ∧
    (s.partNum (coreOf s.cur) ≠ 0 → Sys2Proof.Machine.exec (.tlbinvAll g d) s = .next (s.trapped ⟨0x12, 3, 0, 0⟩))) ∧
  (∀ g (d : Ix) a b s (p lev w : Nat) st st2 st3, Ready s g [d, a.ix, b.ix] [a, b] none → s.me.intNil d = true → s.me.intNil a.ix = true →
    s.me.intNil b.ix = true → s.me.smode = true → p < 64 → lev < 4 → w < 2 ^ 32 →
    (s.partNum (coreOf s.cur) = 0 ∨ p = s.partNum (coreOf s.cur)) →
    ReadsInt s (s.emptied [a, b]) a.ix (p + 256 * lev : Nat) false st → ReadsInt s st b.ix w false st2 →
    WritesInt s (st2.modQ p lev (fun q => { q with wdBudget := w, wdSince := st2.cycle, wdSent := false })) d 0 false st3 →
    Sys2Proof.Machine.exec (.wdset g d a b) s = .next (s.goOn st3)) ∧
  (∀ g (d : Ix) a b s v w st st2 st3, Ready s g [d, a.ix, b.ix] [a, b] none → s.me.intNil d = true → s.me.intNil a.ix = true →
    s.me.intNil b.ix = true → s.me.smode = true → s.partNum (coreOf s.cur) = 0 →
    ReadsInt s (s.emptied [a, b]) a.ix v false st → ReadsInt s st b.ix w false st2 →
    (v / 2 ^ 10 ≠ 0 ∨ v / 2 ^ 6 % 4 ≠ 0 ∨ w < 0 ∨ 2 ^ 32 ≤ w) → WritesInt s st2 d 2 false st3 →
    Sys2Proof.Machine.exec (.wdset g d a b) s = .next (s.goOn st3)) ∧
  (∀ g a b z s v w unit idx k st st2, Ready s g [a.ix, b.ix] [a, b] none → IntName s a.ix → IntName s b.ix → s.me.smode = true →
    ReadsInt s (s.emptied [a, b]) a.ix v false st → ReadsInt s st b.ix w false st2 → CounterIs s v unit idx k →
    let c := BitVec.toNat (BitVec.ofInt 64 w)
    let old := st2.ctr unit idx k
    Sys2Proof.Machine.exec (.pmcfg g a b z) s = .next
      (if c / 2 ^ 10 % 2 ^ 50 = 0 ∧ c / 2 ^ 60 % 4 ≠ 3 ∧ evtOk (c % 2 ^ 10) = true then
        s.goOn (st2.setCtr unit idx k ⟨decide (c / 2 ^ 62 % 2 = 1), c / 2 ^ 60 % 4, c % 2 ^ 10,
          old.ovf && decide (c / 2 ^ 63 = 0), if z then 0 else old.count, some (st2.cycle, old.cfgAt st2.cycle)⟩)
      else s.trapped ⟨1, 1, 0, 0⟩)) ∧
  (∀ g (d : Ix) a s v unit idx k st st2, Ready s g [d, a.ix] [a] none → s.me.intNil d = true → IntName s a.ix → s.me.smode = true →
    ReadsInt s (s.emptied [a]) a.ix v false st → CounterIs s v unit idx k →
    let c := s.ctr unit idx k
    c.evt < 2 ^ 10 → c.modef < 4 →
    (WritesInt s st d ((if c.ovf then 2 ^ 63 else 0) + (if c.en then 2 ^ 62 else 0) + c.modef * 2 ^ 60 + c.evt : Nat) false st2 →
      Sys2Proof.Machine.exec (.pmrd g d a true) s = .next (s.goOn st2)) ∧
    ((unit = 0 → c.evt ≠ 1) → c.count < 2 ^ 48 → WritesInt s st d c.count false st2 →
      Sys2Proof.Machine.exec (.pmrd g d a false) s = .next (s.goOn st2))) ∧
  (∀ g (d : Ix) a b s (p bk n : Nat) st st2, Ready s g [d, a.ix, b.ix] [a, b] none → s.me.intNil d = true → s.me.intNil a.ix = true →
    s.me.intNil b.ix = true → s.me.smode = true → s.partNum (coreOf s.cur) = 0 → p < 64 → bk < 4096 → n < 512 →
    ReadsInt s (s.emptied [a, b]) a.ix (bk + 4096 * p : Nat) false st → ReadsInt s st b.ix n false st2 →
    Sys2Proof.Machine.exec (.tracerd g d a (some b)) s = .next (s.givesAtOnce st2 d (st2.traceSeen bk p (n / 2) (n % 2)))) ∧
  (∀ g (d : Ix) a s (p bk : Nat) st, Ready s g [d, a.ix] [a] none → s.me.intNil d = true → s.me.intNil a.ix = true →
    s.me.smode = true → s.partNum (coreOf s.cur) = 0 → p < 64 → bk < 4096 →
    ReadsInt s (s.emptied [a]) a.ix (bk + 4096 * p : Nat) false st →
    Sys2Proof.Machine.exec (.tracerd g d a none) s = .next (s.givesAtOnce st d (mget 0 p (st.bank bk).logged))) ∧
  (∀ (s : State) bk p n w e, (s.bank bk).ring[n]? = some e →
    s.traceSeen bk p n w = if p = 0 ∨ (e.1.toNat / 2 ^ 56 % 4 ≤ 1 ∧ s.partOf (e.2.toNat / 2 ^ 48 / 16) = some p)
      then (if w = 0 then e.1 else e.2).toNat else 0)

/-- R21, R290 to R292, R307, R308: UNCORRECTABLE_ERROR poisons the data at its site, takes the core of a control fault
offline, and reports a fault of the host link to the host; CORRECTED_ERROR changes no value; each counts in its quarter, an
uncorrectable error as event 0x22 and a corrected one as 0x21; a counter counts the events of a cycle in which PMCFG changes it
under its old configuration (R391). SCRUB changes nothing (the model's choice: what it finds is an
event of its own, log entry 9). CORE_OFFLINE marks the core, reports POISON (0x0A) subcode 0x30 to partition 0, and does
nothing a second time; while a repack runs on the core it waits for its end (R280). The current limiter of a quarter, engaged
or released, acts from the next rotation on: no slot of the quarter has a turn in a rotation that it inserts, each second
one (that these are the odd ones is the model's choice: log entry 10). COUNTER_WRAP brings a count back below 2^48 and sets OVF. (The quarter that counts an error at a site, and the cores
that a fault takes offline, are the model's choice: log entry 46.) -/
def Obligations.ErrorsAndLimits : Prop :=
  (∀ (s : State) (pa : Nat), isDev pa = true →
    ∃ t : State, Sys2Proof.Machine.exec (.uncorrectableError (.mem pa)) s = .next t ∧
      (∀ k < 16, t.memPoison (pa / 128 * 128 + 8 * k) = true) ∧ (∀ a, a / 128 ≠ pa / 128 → t.memPoison a = s.memPoison a) ∧
      t.mem = s.mem ∧ t.slots = s.slots ∧ t.lmem = s.lmem) ∧
  (∀ (s : State) (c o : Nat), c < 4096 → o < 2 ^ 18 →
    ∃ t : State, Sys2Proof.Machine.exec (.uncorrectableError (.lstore c o)) s = .next t ∧ t.lsP c o = true ∧
      (∀ d x, lsWord d x ≠ lsWord c o → t.lsP d x = s.lsP d x) ∧ t.lmem = s.lmem ∧ t.mem = s.mem ∧ t.slots = s.slots) ∧
  (∀ (s : State) (t : Tid) (j : Nat) n, coreOf t < 4096 → (s.slot t).names[j]? = some n →
    ∃ u : State, Sys2Proof.Machine.exec (.uncorrectableError (.name t (j + 1))) s = .next u ∧
      (u.slot t).names[j]? = some { n with p := true } ∧ (∀ v, v ≠ t → u.slot v = s.slot v) ∧ u.mem = s.mem) ∧
  (∀ (s : State) (c : Nat), c < 4096 → (s.core c).offline = false →
    ((∀ e ∈ s.cores, e.2.repack = none) →
      ∃ t : State, Sys2Proof.Machine.exec (.uncorrectableError (.logic c)) s = .next t ∧ (t.core c).offline = true) ∧
    (s.repacking c = true → ∃ t : State, Sys2Proof.Machine.exec (.uncorrectableError (.logic c)) s = .next t ∧
      (t.core c).offline = false ∧ (t.core c).failing = true)) ∧
  (∀ (s : State) site, siteHere site = true →
    (site ≠ .hostLink → Sys2Proof.Machine.exec (.uncorrectableError site) s = .next
      ((siteHits site).foldl (fun st c => st.goOffline c) ((s.count 2 (siteQuarter site) 0x22 false 1).poisonSite site))) ∧
    (site = .hostLink → ∃ ws t, Sys2Proof.Machine.exec (.uncorrectableError site) s = .next t ∧ t.mchkq = s.mchkq ++ [ws] ∧
      t.mem = s.mem ∧ t.slots = s.slots)) ∧
  (∀ (s : State) q k evt c, ((s.qtr q).ctrs.map (·.1)).Nodup → s.ctr 2 q k = c → c.count = 0 →
    ((c.old = none ∧ c.en = true ∧ c.modef = 0 ∧ c.evt = evt) ∨ c.old = some (s.cycle, true, 0, evt)) →
    (s.count 2 q evt false 1).ctr 2 q k = { c with count := 1 }) ∧
  (∀ (s : State) site, siteHere site = true → ∃ t : State, Sys2Proof.Machine.exec (.correctedError site) s = .next t ∧
    t.mem = s.mem ∧ t.memP = s.memP ∧ t.lmem = s.lmem ∧ t.lp = s.lp ∧ t.lf = s.lf ∧ t.slots = s.slots ∧ t.clus = s.clus ∧
    t = s.count 2 (siteQuarter site) 0x21 false 1) ∧
  (∀ (s : State) site, Sys2Proof.Machine.exec (.scrub site) s = .next s) ∧
  (∀ (s : State) c, c < 4096 → ((s.core c).offline = true → Sys2Proof.Machine.exec (.coreOffline c) s = .next s) ∧
    ((s.core c).offline = false → s.launches = [] → (s.core c).repack = none → ∃ t, Sys2Proof.Machine.exec (.coreOffline c) s =
      .next t ∧ ((s.part 0).cfg.isSome = true → ToPartition0
        (s.setCore c { s.core c with offline := true, failing := false, inTrap := [], inMsg := [] })
        { TrapRec.zero 0x0A 0x30 (s.partNum c) s.cycle with addr := BitVec.ofNat 64 c } t))) ∧
  (∀ (s : State) q, q < 4 → (s.qtr q).limAt ≤ s.cycle / 16 + 1 →
    (∃ t, Sys2Proof.Machine.exec (.currentLimiterEngage q) s = .next t ∧
      (t.qtr q).inserts (s.cycle / 16) = (s.qtr q).inserts (s.cycle / 16) ∧
      (∀ r, s.cycle / 16 < r → (t.qtr q).inserts r = decide (r % 2 = 1)) ∧ (t.qtr q).ctrs = (s.qtr q).ctrs ∧
      (∀ j, j ≠ q → t.qtr j = s.qtr j) ∧ t.slots = s.slots ∧ t.mem = s.mem) ∧
    (∃ t, Sys2Proof.Machine.exec (.currentLimiterRelease q) s = .next t ∧
      (t.qtr q).inserts (s.cycle / 16) = (s.qtr q).inserts (s.cycle / 16) ∧
      (∀ r, s.cycle / 16 < r → (t.qtr q).inserts r = false) ∧ (t.qtr q).ctrs = (s.qtr q).ctrs ∧
      (∀ j, j ≠ q → t.qtr j = s.qtr j) ∧ t.slots = s.slots ∧ t.mem = s.mem)) ∧
  (∀ (s : State) t c, s.turnOf t = some c → (s.qtr (qtrOf (coreOf t))).inserts (c / 16) = false) ∧
  (∀ (s : State) u n k, ∃ t : State, Sys2Proof.Machine.exec (.counterWrap u n k) s = .next t ∧
    t.ctr u n k = if 2 ^ 48 ≤ (s.ctr u n k).count then
      { s.ctr u n k with count := (s.ctr u n k).count % 2 ^ 48, ovf := true } else s.ctr u n k)

/-- R240, R294, R296 to R298: a flit is 256 bytes, from which it reads back; FLIT_RECEIVED discards a bad flit, and one out
of order. One in order is accepted: the number expected goes up by one, an acknowledgement goes out, and the flit has its
effect; what it acknowledges leaves the replay buffer. A flit is sent with the next number while fewer than 512 are kept, and
else waits. REPLAY_TIMEOUT sends every kept flit again after 2 µs, and takes the port down when the oldest was replayed 8
times. PORT_DOWN takes the port down; its flits go to another port to the same peer, and without one a capsule is diverted
with subcode 0x11. PORT_RETRAIN brings the port back with numbers that start anew, and what has waited goes out. (The model's
choices: the places of the fields of ROUTE and the payload words of kinds 1 and 4, log entry 44; the numbers of a retrained
port, when a bad flit is answered, and what waits while every port is down, log entry 47.) -/
def Obligations.PeerPorts : Prop :=
  (∀ f : Flit, f.seq < 4096 → f.kind < 16 → f.ack < 4096 → f.src < 1024 → f.dst < 1024 → f.vc < 4 → f.words.length ≤ 29 →
    f.bytes.length = 256 ∧ Flit.of f.bytes = some f ∧ (f.bytes.drop 248) = toBytes 8 (Config.crc64 (f.bytes.take 248)).toNat ∧
    (∀ k w, f.words[k]? = some w → leBytes ((f.bytes.drop (16 + 8 * k)).take 8) = w.1.toNat)) ∧
  (∀ bs f, Flit.of bs = some f → bs.length = 256 ∧ leBytes (bs.drop 248) = (Config.crc64 (bs.take 248)).toNat ∧
    f.seq = leBytes (bs.take 2) % 4096 ∧ f.kind = leBytes (bs.take 2) / 4096) ∧
  (∀ (s : State) p bs, (s.port p).up = false → Sys2Proof.Machine.exec (.flitReceived p bs) s = .next s) ∧
  (∀ (s : State) p bs, (s.port p).up = true → Flit.of bs = none → ∃ t : State,
    Sys2Proof.Machine.exec (.flitReceived p bs) s = .next t ∧ (t.port p).rxSeq = (s.port p).rxSeq ∧
      (t.port p).wire.head? = some ⟨(s.port p).txSeq, 5, ((s.port p).rxSeq + 4095) % 4096, s.devNum, (s.port p).peer, 0, []⟩ ∧
      t.xin = s.xin ∧ t.mem = s.mem ∧ t.inflight = s.inflight) ∧
  (∀ (s : State) p bs f, (s.port p).up = true → Flit.of bs = some f → f.kind ≠ 0 → f.kind ≠ 5 → f.seq ≠ (s.port p).rxSeq →
    ∃ t : State, Sys2Proof.Machine.exec (.flitReceived p bs) s = .next t ∧ (t.port p).rxSeq = (s.port p).rxSeq ∧
      (t.port p).unacked = ((s.port p).acked f.ack s.cycle).unacked ∧ t.xin = s.xin ∧ t.mem = s.mem ∧ t.inflight = s.inflight) ∧
  (∀ (s : State) p bs f, (s.port p).up = true → Flit.of bs = some f → f.kind = 4 → f.seq = (s.port p).rxSeq → f.dst = s.devNum →
    ∃ t : State, Sys2Proof.Machine.exec (.flitReceived p bs) s = .next t ∧ (t.port p).rxSeq = (f.seq + 1) % 4096 ∧
      (∃ a, (t.port p).wire.head? = some a ∧ a.kind = 5 ∧ a.ack = ((f.seq + 1) % 4096 + 4095) % 4096 ∧ a.dst = (s.port p).peer) ∧
      t.xin = s.xin ++ [pieceOf f.words f.src s.cycle] ∧ t.mem = s.mem) ∧
  (∀ (s : State) p bs f w0 w1 v, (s.port p).up = true → Flit.of bs = some f → f.kind = 1 → f.seq = (s.port p).rxSeq →
    f.dst = s.devNum → f.words = [(w0, false), (w1, false), v] → BitVec.toNat w0 / 2 ^ 8 % 2 ^ 8 = 16 →
    BitVec.toNat w0 / 2 ^ 6 % 2 = 0 → BitVec.toNat w0 / 2 ^ 16 % 2 ^ 16 = 8 → BitVec.toNat w1 % 8 = 0 → isDev (BitVec.toNat w1) = true →
    ∃ t : State, Sys2Proof.Machine.exec (.flitReceived p bs) s = .next t ∧ t.memWord (BitVec.toNat w1) = v.1 ∧
      t.memPoison (BitVec.toNat w1) = v.2 ∧
      (∀ a, (∀ j < 8, a ≠ BitVec.toNat w1 + j) → Memory.read t.mem a = Memory.read s.mem a)) ∧
  (∀ (p : Port) k cyc f, p.unacked[k]? = some f → (∀ j g, j < k → p.unacked[j]? = some g → g.flit.seq ≠ f.flit.seq) →
    p.queue = [] → (p.acked f.flit.seq cyc).unacked = p.unacked.drop (k + 1)) ∧
  (∀ (p : Port) cyc k, (p.up = true → p.queue = [] → p.unacked.length < 512 →
      (p.offer cyc k).txSeq = (p.txSeq + 1) % 4096 ∧ (p.offer cyc k).unacked = p.unacked ++
        [{ k with flit := { k.flit with seq := p.txSeq, ack := (p.rxSeq + 4095) % 4096 } }] ∧
      (p.offer cyc k).wire.head? = some { k.flit with seq := p.txSeq, ack := (p.rxSeq + 4095) % 4096 }) ∧
    (512 ≤ p.unacked.length → p.offer cyc k = { p with queue := p.queue ++ [k] })) ∧
  (∀ (s : State) k, (∀ i p, s.portTo k.flit.dst = some (i, p) → s.sendKept k = s.setPort i (p.offer s.cycle k)) ∧
    (∀ c, s.portTo k.flit.dst = none → k.capsule = some c → s.sendKept k = s.divert c (capRecord 0x11 0 0 c.place))) ∧
  (∀ (s : State) p k ks, (s.port p).up = true → (s.port p).unacked = k :: ks →
    (s.cycle < (s.port p).since + 2 * Config.cyclesPerUs → Sys2Proof.Machine.exec (.replayTimeout p) s = .next s) ∧
    ((s.port p).since + 2 * Config.cyclesPerUs ≤ s.cycle →
      (k.replays < 8 → ∃ t : State, Sys2Proof.Machine.exec (.replayTimeout p) s = .next t ∧ (t.port p).since = s.cycle ∧
        (t.port p).unacked.map (fun u => (u.flit.seq, u.flit.words, u.replays)) =
          (k :: ks).map (fun u => (u.flit.seq, u.flit.words, u.replays + 1)) ∧
        (ks.length < 512 → ∀ u ∈ (t.port p).unacked, u.flit ∈ (t.port p).wire)) ∧
      (8 ≤ k.replays → Sys2Proof.Machine.exec (.replayTimeout p) s = Sys2Proof.Machine.exec (.portDown p) s))) ∧
  (∀ (s : State) p, (s.port p).up = true → ∃ t : State, Sys2Proof.Machine.exec (.portDown p) s = .next t ∧
    t = ((s.port p).unacked ++ (s.port p).queue).foldl (fun st k => st.sendKept { k with replays := 0 })
      (s.setPort p { s.port p with up := false, unacked := [], queue := [] }) ∧ (t.port p).up = false ∧ (t.port p).unacked = []) ∧
  (∀ (s : State) p, p < 36 → (s.port p).up = false → let ks := (s.waiting (s.port p).peer).1
    ∃ t : State, Sys2Proof.Machine.exec (.portRetrain p) s = .next t ∧ (t.port p).up = true ∧ (t.port p).peer = (s.port p).peer ∧
      (t.port p).rxSeq = 0 ∧ (t.port p).unacked.map (fun u => (u.flit.seq, u.flit.words)) =
        (ks.take 512).zipIdx.map (fun e => (e.2, e.1.flit.words)) ∧ (t.port p).queue = ks.drop 512)

/-- R202, R265, R294, R304 to R306: the host reads and writes memory with its poison, and reads the register block; a record
that waits goes to MCHKREC, sets MCHKSTAT and raises the interrupt, and a 1 written to bit 0 clears MCHKSTAT. SPDM answers
each request of the boot protocol in its order, ERROR before its time, and ERROR UnsupportedRequest to a session request;
GET_DIGESTS and CHALLENGE give the digest of the one chain in slot 0, of which GET_CERTIFICATE gives the portion asked for;
GET_MEASUREMENTS gives the digests of the boot ROM, the image and partition 0's handler table, those that it asks for, signed
if it asks. DEVICE_RESET leaves FWSTAT 1 until the next step ends boot: with an image whose signatures do not verify in
FWSTAT 3 and a record, with a good one in FWSTAT 2 with partition 0 configured. (The model's choices: the order, codes and
lengths of SPDM responses, log entry 48; that boot takes one step and what a reset keeps, log entries 9 and 3; where the
register block stands among the places the host reads, and that the interrupt is a count, log entry 53.) -/
def Obligations.HostInterface : Prop :=
  (∀ (s : State) pa n, 0 < n → isDev pa = true → isDev (pa + (n - 1)) = true →
    Sys2Proof.Machine.exec (.hostRead pa n) s =
      .next { s with hostRd := (List.range n).map (fun k => (Memory.read s.mem (pa + k), s.memPoison (pa + k))) }) ∧
  (∀ (s : State) off (v : Word), ((off = 0 ∧ v.toNat % 2 ^ 16 = 0x5709 ∧ v.toNat / 2 ^ 16 = 0xC0) ∨
      (off = 8 ∧ v.toNat = s.fwstat % 16) ∨ (off = 16 ∧ v = s.mchkstat) ∨ (∃ k < 8, off = 64 + 8 * k ∧ v = nthW s.mchkrec k)) →
    ∃ t : State, Sys2Proof.Machine.exec (.hostRead (2 ^ 56 + off) 8) s = .next t ∧ leBytes (t.hostRd.map (·.1)) = v.toNat ∧
      t.hostRd.any (·.2) = false ∧ t = { s with hostRd := t.hostRd }) ∧
  (∀ (s : State) pa bs p, bs ≠ [] → isDev pa = true → isDev (pa + (bs.length - 1)) = true →
    ∃ t : State, Sys2Proof.Machine.exec (.hostWrite pa bs p) s = .next t ∧
      (∀ k b, bs[k]? = some b → Memory.read t.mem (pa + k) = b) ∧
      (∀ a, (∀ k < bs.length, a ≠ pa + k) → Memory.read t.mem a = Memory.read s.mem a) ∧
      (∀ w, pa ≤ 8 * w → 8 * w + 8 ≤ pa + bs.length → t.memPoison (8 * w) = p) ∧ t.lmem = s.lmem ∧ t.slots = s.slots) ∧
  (∀ (s : State) ws rest, s.mchkq = ws :: rest → Sys2Proof.Machine.exec .machineCheckReport s =
    .next { s with mchkq := rest, mchkrec := ws, mchkstat := 1, msix := s.msix + 1 }) ∧
  (∀ (s : State) v, Sys2Proof.Machine.exec (.mchkstatWrite v) s =
    .next (if v.getLsbD 0 then { s with mchkstat := 0 } else s)) ∧
  (∀ (s : State) q, Answers (.getVersion q) s 1 [0x10, 0x04] 8 ∧
    (1 ≤ s.spdm.state → ∃ c, Answers (.getCapabilities q) s 2 [0x13, 0x61, 0, 0, 0, c, 0, 0, 0x16, 0, 0, 0] 20) ∧
    (2 ≤ s.spdm.state → Answers (.negotiateAlgorithms q) s 3 [0x13, 0x63] 36) ∧
    (3 ≤ s.spdm.state → Answers (.getDigests q) s s.spdm.state ([0x13, 0x01, 0, 1] ++ sha384 certChain) 52) ∧
    (3 ≤ s.spdm.state →
      let off := ((q[4]?).getD 0).toNat + 256 * ((q[5]?).getD 0).toNat
      let rest := certChain.length - off
      let k := min (((q[6]?).getD 0).toNat + 256 * ((q[7]?).getD 0).toNat) rest
      ((q[2]?).getD 0 = 0 → 0 < rest → Answers (.getCertificate q) s s.spdm.state
        ([0x13, 0x02, 0, 0, BitVec.ofNat 8 k, BitVec.ofNat 8 (k / 256), BitVec.ofNat 8 (rest - k),
          BitVec.ofNat 8 ((rest - k) / 256)] ++ (certChain.drop off).take k) (8 + k)) ∧
      ((q[2]?).getD 0 ≠ 0 ∨ rest = 0 → Answers (.getCertificate q) s s.spdm.state [0x13, 0x7F, 0x01] 4)) ∧
    (3 ≤ s.spdm.state →
      let op := ((q[3]?).getD 0).toNat
      ((q[2]?).getD 0 = 0 → op = 0 → Answers (.challenge q) s s.spdm.state ([0x13, 0x03, 0, 1] ++ sha384 certChain) 190) ∧
      ((q[2]?).getD 0 = 0 → op = 1 ∨ op = 0xFF →
        Answers (.challenge q) s s.spdm.state ([0x13, 0x03, 0, 1] ++ sha384 certChain) 238) ∧
      ((q[2]?).getD 0 ≠ 0 ∨ (1 < op ∧ op ≠ 0xFF) → Answers (.challenge q) s s.spdm.state [0x13, 0x7F, 0x01] 4)) ∧
    (3 ≤ s.spdm.state → s.spdm.meas.length = 144 →
      let sign := if ((q[2]?).getD 0).toNat % 2 = 1 then 96 else 0
      let op := ((q[3]?).getD 0).toNat
      (op = 0 → Answers (.getMeasurements q) s s.spdm.state [0x13, 0x60, 3, 0, 0] (50 + sign)) ∧
      (op = 0xFF → Answers (.getMeasurements q) s s.spdm.state ([0x13, 0x60, 0, 0, 3, 165, 0, 0] ++
        [1, 1, 51, 0, 0, 48, 0] ++ s.spdm.meas.take 48 ++ [2, 1, 51, 0, 1, 48, 0] ++ (s.spdm.meas.drop 48).take 48 ++
        [3, 1, 51, 0, 2, 48, 0] ++ s.spdm.meas.drop 96) (215 + sign)) ∧
      (∀ k, op = k → 1 ≤ k → k ≤ 3 → Answers (.getMeasurements q) s s.spdm.state ([0x13, 0x60, 0, 0, 1, 55, 0, 0] ++
        [BitVec.ofNat 8 k, 1, 51, 0, BitVec.ofNat 8 (k - 1), 48, 0] ++ (s.spdm.meas.drop (48 * (k - 1))).take 48) (105 + sign)) ∧
      (3 < op → op ≠ 0xFF → Answers (.getMeasurements q) s s.spdm.state [0x13, 0x7F, 0x01] 4)) ∧
    (s.spdm.state = 0 → Answers (.getCapabilities q) s 0 [0x13, 0x7F, 0x04] 4 ∧ Answers (.challenge q) s 0 [0x13, 0x7F, 0x04] 4) ∧
    Answers (.spdmSessionRequest q) s s.spdm.state [0x13, 0x7F, 0x07] 4) ∧
  (∀ (s : State) img, ∃ t : State, Sys2Proof.Machine.exec (.deviceReset img) s = .next t ∧ t.fwstat = 1 ∧ t.boot = some img ∧
    t.slots = [] ∧ t.lmem = State.reset.lmem ∧ t.parts = State.reset.parts ∧ t.cycle = 0 ∧ t.turnCore = 0 ∧ t.inputs = s.inputs) ∧
  (∀ (s : State) img, s.boot = some img → s.turnCore = 0 → (∀ pa n rest, s.inputs ≠ .hostRead pa n :: rest) →
    ((img = none ∨ ∃ m, img = some m ∧ (m.edOk = false ∨ m.mlOk = false ∨ parsePcb m.pcb = none)) →
      ∃ t ws, Sys2Proof.Machine.step s = .next t ∧ t.fwstat = 3 ∧ t.boot = none ∧ t.mchkq = s.mchkq ++ [ws] ∧ t.parts = s.parts) ∧
    (∀ m g, img = some m → m.edOk = true → m.mlOk = true → parsePcb m.pcb = some g →
      ∃ t : State, Sys2Proof.Machine.step s = .next t ∧ t.fwstat = 2 ∧ t.boot = none ∧ t.devNum = m.devNum.toNat ∧
        (t.part 0).cfg = some g ∧ t.slots = s.slots ∧
        t.spdm.meas.take 48 = (List.range 48).map Config.romDigest ∧
        (t.spdm.meas.drop 48).take 48 = (m.digest ++ List.replicate 48 0).take 48)) ∧
  (∀ (s : State) dig g ws, (s.part 0).cfg = some g → g.htab ≠ 0 → s.devWords 0 true g.htab.toNat 128 = .ok ws →
    (s.measure dig).spdm.meas.drop 96 = sha384 (ws.flatMap (fun w => toBytes 8 w.toNat)))

/-- R305, R65, R67, R120, R121, R143, R159, R261, R308, R332: after device reset every slot is free, waits on nothing, has
FFLAGS, MCONF and EPOCH 0; CYCLE is 0, no FPE bit is enabled, no partition but the one that boot configures has a
configuration (none has before boot), the accumulator sets are clear, and every counter of every core, cluster and quarter is
disabled, without OVF, with EVT and MODEF 0 and a count of 0 (R308 gives the configuration; the count is the model's choice:
log entry 5). -/
def Obligations.ResetState : Prop :=
  (∀ t, (State.reset.slot t).st = .free ∧ (State.reset.slot t).waiton = 0 ∧ (State.reset.slot t).fflags = 0 ∧
    (State.reset.slot t).mconf = 0 ∧ (State.reset.slot t).epoch = 0) ∧
  State.reset.cycle = 0 ∧ State.reset.fpeMask = 0 ∧ (∀ p, (State.reset.part p).cfg = none) ∧
  (∀ c, (State.reset.clu c).acc0.vals = [] ∧ (State.reset.clu c).acc1.vals = [] ∧ (State.reset.clu c).acc0.sflags = 0 ∧
    (State.reset.clu c).acc1.sflags = 0) ∧
  ∀ u k j, (State.reset.ctr u k j).en = false ∧ (State.reset.ctr u k j).modef = 0 ∧ (State.reset.ctr u k j).evt = 0 ∧
    (State.reset.ctr u k j).ovf = false ∧ (State.reset.ctr u k j).count = 0

/-- The invariant holds after reset. -/
def Obligations.ResetMeetsInvariant : Prop := Machine.Inv State.reset

/-- R160 to R166: every step keeps the canonical form of memory, of the local stores and of their P and F bits. -/
def Obligations.StepKeepsInvariant : Prop :=
  ∀ s t, Machine.Inv s → Sys2Proof.Machine.step s = .next t → Machine.Inv t

/-- No instruction, no event and no step stops the machine: traps, status words, records and P bits report every fault. -/
def Clause.EveryStepGoesOn : Prop :=
  (∀ i s, Goes (Sys2Proof.Machine.exec i s)) ∧ ∀ s, Goes (Sys2Proof.Machine.step s)

/-- R321, R318, R331: at the turn of a slot, the step executes the instruction to which the bytes at its PC decode, in the
state of the turn with the word and its length noted; a parked op keeps the word it fetched; a word that is no instruction,
fetched or kept, raises ILLEGAL_OP with the subcode of R331. The turns of a cycle come before the events of that cycle; then
inputs, each as its event, then events of the device. (The model's choices: a fetch sees memory as it stands, log entry 56,
which R318 does not require; inputs before events, and their order, log entries 1 and 8.) -/
def Obligations.StepRunsDecoded : Prop :=
  (∀ s c t pa tr s2 i n, TurnComes s c t →
    ¬ (((s.turnAt c t).slot t).st = .parked ∧ ((s.turnAt c t).slot t).kept.isSome = true) →
    ((s.turnAt c t).slot t).pc.toNat % 4 = 0 →
    (s.turnAt c t).xlateNow (cluOf (coreOf t)) ((s.turnAt c t).partNum (coreOf t)) ((s.turnAt c t).slot t).smode
      ((s.turnAt c t).slot t).pc.toNat .fetch = (.ok pa tr, s2) →
    decode (Memory.reads s2.mem pa (32 - ((s.turnAt c t).slot t).pc.toNat % 32)) = .ok (i, n) →
    (∀ k, k < n → s2.memPoison (pa + k) = false) →
    Sys2Proof.Machine.step s =
      Sys2Proof.Machine.exec i { s2 with insn := leBytes (Memory.reads s2.mem pa n), ilen := n }) ∧
  (∀ s c t pa tr s2, TurnComes s c t →
    ¬ (((s.turnAt c t).slot t).st = .parked ∧ ((s.turnAt c t).slot t).kept.isSome = true) →
    ((s.turnAt c t).slot t).pc.toNat % 4 = 0 →
    (s.turnAt c t).xlateNow (cluOf (coreOf t)) ((s.turnAt c t).partNum (coreOf t)) ((s.turnAt c t).slot t).smode
      ((s.turnAt c t).slot t).pc.toNat .fetch = (.ok pa tr, s2) → s2.memPoison pa = false →
    let pc := ((s.turnAt c t).slot t).pc
    let lo := leBytes (Memory.reads s2.mem pa 1) % 4
    (∀ n e, n = (if lo = 0 then 8 else if lo = 1 then 12 else 16) → lo ≠ 3 → pc.toNat % 32 + n ≤ 32 →
      (∀ k, k < n → s2.memPoison (pa + k) = false) →
      decodeBits (BitVec.ofNat 128 (leBytes (Memory.reads s2.mem pa n))) = .error e → Sys2Proof.Machine.step s =
        .next ({ s2 with insn := leBytes (Memory.reads s2.mem pa n), ilen := n }.trapAt t pc
          (BitVec.ofNat 64 (leBytes (Memory.reads s2.mem pa n))) (.of 1 e.subcode)
          (faultsV (BitVec.ofNat 128 (leBytes (Memory.reads s2.mem pa n)))))) ∧
    (lo = 3 → pc.toNat % 32 ≤ 24 → (∀ k, k < 8 → s2.memPoison (pa + k) = false) → Sys2Proof.Machine.step s =
      .next (s2.trapAt t pc (BitVec.ofNat 64 (leBytes (Memory.reads s2.mem pa 8))) (.of 1 2) false))) ∧
  (∀ s c t w n, TurnComes s c t → ((s.turnAt c t).slot t).st = .parked → ((s.turnAt c t).slot t).kept = some (w, n) →
    (∀ i, decodeBits (BitVec.ofNat 128 w) = .ok i →
      Sys2Proof.Machine.step s = Sys2Proof.Machine.exec i { s.turnAt c t with insn := w, ilen := n }) ∧
    (∀ e, decodeBits (BitVec.ofNat 128 w) = .error e → Sys2Proof.Machine.step s =
      .next ({ s.turnAt c t with insn := w, ilen := n }.trapAt t ((s.turnAt c t).slot t).pc (BitVec.ofNat 64 w)
        (.of 1 e.subcode) (faultsV (BitVec.ofNat 128 w))))) ∧
  (∀ s i rest, s.turnCore = 0 → s.boot = none → s.inputs = i :: rest → isEvent i = true →
    Sys2Proof.Machine.step s = Sys2Proof.Machine.exec i { s with inputs := rest }) ∧
  (∀ s t, s.turnCore = 0 → s.boot = none → s.inputs = [] → s.autoEvent = some t → Sys2Proof.Machine.step s = .next t)

/-- R320, R322, R326, R328, R363, R373, R384, R404, R429: words of every opcode group as the spec prints them, and the
instructions for which they stand: `TRAP 1`, `MUL d, a, b`, `LDX.acq.dev a, [pf]`, `FMUL y, xv, w!`, `VADD acc, acc, x
mask=m`, `MDRAIN.acc st sig=s5+1`, `MSEND t, 5, v1, v2`, `VTOPK t, a`, `RGN s6, 1, src`, and the pair of N20. -/
def Obligations.DecodeWords : Prop :=
  decodeTableWord 64 0x0004000000000070 = some (.trap ⟨0, false⟩ 1) ∧
  decodeTableWord 64 0x0000000301004830 = some (.mul ⟨0, false⟩ ⟨1, false⟩ ⟨2, false⟩ ⟨3, false⟩) ∧
  decodeTableWord 64 0x0C00000001005020 = some (.ldx ⟨0, false⟩ false (some .dev) 1 ⟨2, false⟩) ∧
  decodeTableWord 64 0x0000010603821820 = some (.fmul ⟨0, false⟩ .rne false ⟨8, false⟩ ⟨7, false⟩ ⟨6, true⟩) ∧
  decodeTableWord 64 0x0300000402816000 =
    some (.vadd ⟨⟨0, false⟩, 3, false⟩ .rne false ⟨5, false⟩ ⟨5, false⟩ ⟨4, false⟩) ∧
  decodeTableWord 96 0x105000004000000000016825 = some (.mdrain ⟨0, false⟩ false true 5 (some ⟨0, 0, 5, 1⟩)) ∧
  decodeTableWord 96 0x000002010214000001803061 = some (.msend ⟨0, false⟩ 5 ⟨3, false⟩ [1, 2]) ∧
  decodeTableWord 64 0x0000000001007800 = some (.vtopk ⟨0, false⟩ false ⟨1, false⟩ ⟨2, false⟩) ∧
  decodeTableWord 128 0x000000000000000204180000000000B6 = some (.rgn ⟨0, false⟩ 6 1 (some 2)) ∧
  decodeTableWord 128 0x00000007040220000200000000804812 = some (.instructionPair
    (.addi ⟨0, false⟩ ⟨1, false⟩ ⟨1, false⟩ (.i14 128)) (.vadd ⟨⟨0, false⟩, 0, false⟩ .rne false ⟨8, false⟩ ⟨8, false⟩ ⟨7, false⟩))

/-- R320 to R326, R331: the bytes of every well-formed instruction decode to it, whatever bytes follow, with the length of
its word. -/
def Obligations.DecodeEncode : Prop :=
  ∀ i rest, i.wf = true → isEvent i = false → decode (encode i ++ rest) = .ok (i, (encode i).length)

/-- R331: what is no instruction is refused with the subcode that its order gives: length code 11 (2), an illegal form (1), a
pair with bits 67:64 nonzero (2), an opcode that is not assigned (1), a wrong class or an excluded op in a pair (3). -/
def Clause.ReservedEncodingsAreRefused : Prop :=
  ∀ w : BitVec 128, ∀ l f, l = (w.extractLsb' 0 2).toNat → f = (w.extractLsb' 2 2).toNat →
    (l = 3 → ∃ e, decodeBits w = .error e ∧ e.subcode = 2) ∧
    ((l = 0 ∧ f ≠ 0) ∨ (l = 1 ∧ 2 ≤ f) ∨ (l = 2 ∧ f = 3) → ∃ e, decodeBits w = .error e ∧ e.subcode = 1) ∧
    (l = 2 → f = 0 → w.extractLsb' 64 4 ≠ 0 → ∃ e, decodeBits w = .error e ∧ e.subcode = 2) ∧
    ((l = 0 ∧ f = 0) ∨ (l = 1 ∧ f ≤ 1) ∨ (l = 2 ∧ (f = 1 ∨ f = 2)) → assigned (w.extractLsb' 4 10) = false →
      ∃ e, decodeBits w = .error e ∧ e.subcode = 1) ∧
    (l = 2 → f = 0 → w.extractLsb' 64 4 = 0 →
      (assigned (w.extractLsb' 4 10) = false ∨ assigned (w.extractLsb' 68 10) = false →
        ∃ e, decodeBits w = .error e ∧ e.subcode = 1) ∧
      (assigned (w.extractLsb' 4 10) = true → assigned (w.extractLsb' 68 10) = true →
        (vClass (w.extractLsb' 4 10) = true ∨ excludedSlot0 (w.extractLsb' 4 10) = true ∨ vClass (w.extractLsb' 68 10) = false) →
        ∃ e, decodeBits w = .error e ∧ e.subcode = 3))

/-- R37, R328: a pair of an integer op and an elementwise vector op, whose names, guards and `!` conditions all let it take
effect, reads every source as it stands at the start of the turn, writes the result of slot 0 and then that of slot 1 (which
is kept where both write one name), and goes on after the pair. A condition of either op that fails, of its `!` names, and then
of a queue, of the engine FIFO or of a fence at the start of the turn, parks or replays the pair and neither takes effect,
whatever trap either would raise; a trap of either op leaves every effect of both undone; the slot keeps which op it was. An op
whose guard is off leaves the other its effect and its conditions. -/
def Obligations.PairsTakeEffectAsAUnit : Prop :=
  (∀ c r, IntOp2 c r → ∀ cv cls u f, VElemOp cv cls u f →
    ∀ g d a b h dv av bv s st1 st2 st3 va vb vr p q v1 v2 m pa pb pm st,
      Ready s g [d.ix, a.ix, b.ix] [a, b] (some d) → ReadsInt s (s.emptied [a, b]) a.ix va p st1 →
      ReadsInt s st1 b.ix vb q st2 → r s.me d.ix a.ix va vb vr → WritesInt s st2 d.ix vr (p || q) st3 →
      HoldAll s [(.pop a.ix, false), (.pop b.ix, false), (.push d.ix, false)] →
      Ready s h.g [dv.ix, av.ix, bv.ix, h.msk] [av, bv] (some dv) → cls dv.ix av.ix bv.ix s.me = true →
      VReads s av.ix v1 pa → VReads s bv.ix v2 pb → VMasks s h m pm →
      VWrites s (s.emptyOn st3 [av, bv]) dv.ix u (pa || pb || pm)
        (fun n i j => if i < (extent s.ctx [dv.ix, av.ix, bv.ix]).1 ∧ j < (extent s.ctx [dv.ix, av.ix, bv.ix]).2 ∧
            activeAt h m i j = true then
          some (f n.kind v1 v2 ((n.vals[i * n.kind.shape.2 + j]?).getD 0) i j) else none) st →
      Sys2Proof.Machine.exec (.instructionPair (c g d a b) (cv h dv av bv)) s = .next (s.goOn st)) ∧
  (∀ a b o v s, specOf a = some o → specOf b = some v → Ready s o.g o.fields o.m o.d → o.kinds s.me = true →
    Ready s v.g v.fields v.m v.d → v.kinds s.me = true →
    (∀ e w t, FailsFirst s (o.conds false ++ v.conds true) e w → Stopped s w e t →
      Sys2Proof.Machine.exec (.instructionPair a b) s = .next t) ∧
    (HoldAll s (o.conds false ++ v.conds true) →
      (∀ i, o.run s.ctx (s.emptied o.m) = .error (.trap i) →
        Sys2Proof.Machine.exec (.instructionPair a b) s = .next (s.trapped i)) ∧
      (∀ i n st, o.run s.ctx (s.emptied o.m) = .ok (n, st) → v.run s.ctx (s.emptyOn st v.m) = .error (.trap i) →
        Sys2Proof.Machine.exec (.instructionPair a b) s =
          .next (s.trapAt s.cur s.me.pc (BitVec.ofNat 64 s.insn) i true)) ∧
      (∀ w, o.run s.ctx (s.emptied o.m) = .error (.park w) →
        Sys2Proof.Machine.exec (.instructionPair a b) s = .next (s.parksAt w false)) ∧
      (∀ w n st, o.run s.ctx (s.emptied o.m) = .ok (n, st) → v.run s.ctx (s.emptyOn st v.m) = .error (.park w) →
        Sys2Proof.Machine.exec (.instructionPair a b) s = .next (s.parksAt w true)))) ∧
  (∀ a b o v s i, specOf a = some o → specOf b = some v → WellNamed s o → WellNamed s v →
    (GuardOn s o.g → WaitsFor s o i → (GuardOn s v.g ∨ GuardOff s v.g) →
      Sys2Proof.Machine.exec (.instructionPair a b) s = .next (s.parksAt (BitVec.ofNat 64 (2 ^ 60 + i.toNat)) false)) ∧
    (GuardOn s v.g → WaitsFor s v i → (GuardOff s o.g ∨ (GuardOn s o.g ∧ WaitsForNone s o)) →
      Sys2Proof.Machine.exec (.instructionPair a b) s = .next (s.parksAt (BitVec.ofNat 64 (2 ^ 60 + i.toNat)) true)) ∧
    (GuardOff s o.g → Ready s v.g v.fields v.m v.d →
      (∀ st, HoldAll s (v.conds true) → v.run s.ctx (s.emptied v.m) = .ok (.seq, st) →
        Sys2Proof.Machine.exec (.instructionPair a b) s = .next (s.goOn st)) ∧
      (∀ e w t, FailsFirst s (v.conds true) e w → Stopped s w e t →
        Sys2Proof.Machine.exec (.instructionPair a b) s = .next t)) ∧
    (GuardOff s v.g → Ready s o.g o.fields o.m o.d →
      (∀ st, HoldAll s (o.conds false) → o.run s.ctx (s.emptied o.m) = .ok (.seq, st) →
        Sys2Proof.Machine.exec (.instructionPair a b) s = .next (s.goOn st)) ∧
      (∀ e w t, FailsFirst s (o.conds false) e w → Stopped s w e t →
        Sys2Proof.Machine.exec (.instructionPair a b) s = .next t))) ∧
  ((∀ c r, IntOp2 c r → ∀ (g : Guard) (d a b : Opd), ∃ o, specOf (c g d a b) = some o ∧
      o.needs = [.pop a.ix, .pop b.ix, .push d.ix]) ∧
    (∀ c cls u f, VElemOp c cls u f → ∀ (h : VH) (d a b : Opd), ∃ o, specOf (c h d a b) = some o ∧ o.needs = []) ∧
    (∀ g sc, ∃ o, specOf (.fence g sc) = some o ∧ o.needs = [.fence sc]) ∧
    (∀ g tr z gg t d (a : Opd) ws, ∃ o, specOf (.mma g tr z gg t d a ws) = some o ∧ o.needs = [.pop a.ix, .cmd tr]) ∧
    (∀ g tr acc d ws, ∃ o, specOf (.mdrain g tr acc d ws) = some o ∧ o.needs = [.cmd tr]) ∧
    (∀ g tr d (a : Opd) ws, ∃ o, specOf (.bankopFill g tr d a ws) = some o ∧ o.needs = [.pop a.ix, .cmd tr]))

/-! ### Statements of several clauses -/

/-- Integer ops give their exact results, and DIV and REM theirs (R111): its clauses are those named here. -/
def Obligations.IntegerOps : Prop :=
  Clause.IntegerTwoSourceOps ∧ Clause.IntegerOneSourceOps ∧ Clause.IntegerMovesAndMultiplyAdd ∧
    Clause.DivideByZero ∧ Clause.ResultTooWideTraps

/-- Bits of the bitwise ops and exact shifts (R338, R341, R400, R406): its clauses are those named here. -/
def Obligations.BitwiseAndShiftResults : Prop :=
  Clause.BitwiseResults ∧ Clause.ShiftCountsAreExact

/-- Float arithmetic rounds once; FCMP, FMIN, FMAX and FSGN (R120, R121, R363, R364, R365, R366, R367, R370): its
clauses are those named here. -/
def Obligations.FloatOps : Prop :=
  Clause.FloatArithmeticRoundsOnce ∧ Clause.FloatCompareMinMaxSign

/-- CVT rounds once, and a held value rounds to itself (R116, R118, R121, R123, R124, R357); the flags of a float converted to
`nil` are the model's choice (log entry 42): its clauses are those named here. -/
def Obligations.Conversions : Prop :=
  Clause.ConversionsRoundOnce ∧ Clause.RoundingKeepsHeldValues

/-- Elementwise vector ops (R419, R420, R421, R422): its clauses are those named here. -/
def Obligations.VectorElementwiseOps : Prop :=
  Clause.VectorElementwiseRule ∧ Clause.VectorElementPlaces

/-- VLD, VLDT and VST in the local store, and what a store leaves alone (R162, R425, R426): its clauses are those
named here. -/
def Obligations.VectorLocalStore : Prop :=
  Clause.VectorLoadsAndStores ∧ Clause.VectorStorePlaces

/-- VDEQ, VQUANT, VMOVS, VSFU and VTOPK (R424, R427, R428, R430, R431): its clauses are those named here. -/
def Obligations.VectorQuantizeRankAndSpecial : Prop :=
  Clause.VectorQuantizeRules ∧ Clause.ColumnRank ∧ Clause.TopColumnsAreRanked

/-- B, BL, BX and RET, and the loops that they end (R71, R74, R343, R347, R397): its clauses are those named here. -/
def Obligations.BranchesGoToTheirTarget : Prop :=
  Clause.BranchTargets ∧ Clause.BranchesEndLoops

/-- LOOP, LEXIT and the check at a loop end (R72, R73, R75): its clauses are those named here. -/
def Obligations.HardwareLoops : Prop :=
  Clause.LoopEndCheck ∧ Clause.LoopArms ∧ Clause.LoopExit

/-- TUNE applies a descriptor and declares its names (R44, R45, R48, R51, R54, R55, R56): its clauses are those named
here. -/
def Obligations.Tuning : Prop :=
  Clause.TuneAppliesDescriptor ∧ Clause.DescriptorEntries ∧ Clause.TuningDeclaresNames

/-- RESIZE, WIDTH and SHAPE (R53, R56, R57, R58, R59, R432): its clauses are those named here. -/
def Obligations.ResizeShapeAndRepack : Prop :=
  Clause.ResizeChangesWidth ∧ Clause.RepacksTakeTurns ∧ Clause.GrowingKeepsNames ∧ Clause.ShapeGrants

/-- LDL and STL: results, waits and frame (R66, R67, R162, R163): its clauses are those named here. -/
def Obligations.LocalAccesses : Prop :=
  Clause.LocalLoadsAndStores ∧ Clause.LocalWaitsPark ∧ Clause.LocalAccessFrame

/-- LDX, STX, FENCE, and the walks that serve them (R171, R172, R173, R197, R200): its clauses are those named here. -/
def Obligations.FarAccesses : Prop :=
  Clause.FarAccessesIssue ∧ Clause.WalksFillTheCache

/-- The atomics at issue, and their results (R175, R176, R334, R335, R337): its clauses are those named here. -/
def Obligations.Atomics : Prop :=
  Clause.AtomicsIssue ∧ Clause.AtomicResults

/-- Reads, writes and atomics at their owner, in the order of R198 (R175, R188, R192, R194, R197, R198): its clauses
are those named here. -/
def Obligations.AccessesAtTheirOwner : Prop :=
  Clause.PerformedAtOwner ∧ Clause.AccessOrder

/-- Semaphores, queues, remote pushes and MSEND (R76, R77, R80, R185, R186, R384, R385, R394, R395, R403): its clauses
are those named here. -/
def Obligations.SemaphoresQueuesAndMessages : Prop :=
  Clause.SemaphoresAndQueues ∧ Clause.MessagesAreSent

/-- Replies of frame operations, the search for work, and the start of a slot (R64, R90, R93, R94, R95, R96, R98, R99,
R100, R261): its clauses are those named here. -/
def Obligations.WorkIsFound : Prop :=
  Clause.WorkEvents ∧ Clause.SlotStart

/-- GENTER, GLEAVE, GBAR and GSIZE, and their requests at the bank (R86, R87, R371, R372, R373; the order kind of a GENTER and the
step of GLEAVE are log entries 14 and 21): its clauses are those named here. -/
def Obligations.Groups : Prop :=
  Clause.GroupOps ∧ Clause.GroupsAtTheBank

/-- Name checks, guards and ! conditions (R35, R36, R42, R43, R48, R66, R67, R323): its clauses are those named here.
-/
def Obligations.ChecksGuardsAndWaits : Prop :=
  Clause.NameChecksTrap ∧ Clause.GuardsAndWaits

/-- WAIT_TIMEOUT, the end of a repack, and the watchdogs (R60, R68, R273, R274, R373): its clauses are those named
here. -/
def Obligations.WaitsWatchdogsAndRepack : Prop :=
  Clause.WaitLimitAndRepack ∧ Clause.LaunchAndQueueWatchdogs

/-- Capsules on their way and at their places (R234, R235, R236, R237, R238, R239, R240, R241, R252, R253, R254; the words of a
capsule's flits are log entry 44): its clauses are those named here. -/
def Obligations.CapsulesAtTheirPlaces : Prop :=
  Clause.CapsulesAreRouted ∧ Clause.ClassPlaces ∧ Clause.CapsulesAtPlaces

/-- MMA, MMAP, MDRAIN, MCLR, MCFG and XMEMBER at issue (R140, R141, R142, R145, R379, R381, R436, R437; how much of its list
XMEMBER.create reads, and a bad count that is sent, are log entry 33): its clauses are those named here. -/
def Obligations.MatrixAndMembershipCommandsEnter : Prop :=
  Clause.MatrixCommandsEnter ∧ Clause.MembershipRequests

/-- Commands start in their order and end with status and signal (R140, R180, R181, R182, R184, R275): its clauses are
those named here. -/
def Obligations.CommandsStartAndEnd : Prop :=
  Clause.CommandEnds ∧ Clause.CommandsStartInOrder

/-- Launch queues, placement and completion (R102, R105, R106, R107, R108, R109, R286, R376, R440; the S mode of the writes of the
root header and of CVAL is log entry 66, a TAIL below HEAD log entry 29): its clauses are those named here. -/
def Obligations.LaunchQueuesAndThreads : Prop :=
  Clause.LaunchQueues ∧ Clause.LaunchesPlaceAndComplete

/-- TLBINV, WDSET, PMCFG, PMRD and TRACERD, and the mode they need (R171, R260, R274, R308, R330, R390, R391, R416,
R418): its clauses are those named here. -/
def Obligations.SupervisorOps : Prop :=
  Clause.SupervisorOpsNeedSMode ∧ Clause.SupervisorUnits

/-- Reserved words are refused with their subcode, and nothing stops the machine (R331): its clauses are those named
here. -/
def Obligations.EveryWordHasAnOutcome : Prop :=
  Clause.ReservedEncodingsAreRefused ∧ Clause.EveryStepGoesOn
end

