-- ==== Sys2Proof/Laws/Maps.lean ====
section
/-! SUPPORT. Sparse maps: reading after writing, and the canonical form, which every write keeps. -/

namespace Sys2Proof.Machine

variable {α : Type}

@[simp] theorem mget_nil (d : α) (k : Nat) : mget d k [] = d := rfl

theorem mget_mins_self (d : α) (k : Nat) (v : α) (m : SMap α) (h : ∀ e ∈ m, e.1 ≠ k) : mget d k (mins k v m) = v := by
  induction m with
  | nil => simp [mins, mget]
  | cons e m ih =>
    obtain ⟨a, w⟩ := e
    have ha : a ≠ k := h (a, w) (by simp)
    by_cases c : a < k
    · simp [mins, c, mget, ha, ih (fun e he => h e (by simp [he]))]
    · simp [mins, c, mget]

theorem mget_mins_ne (d : α) (k j : Nat) (v : α) (m : SMap α) (h : j ≠ k) : mget d j (mins k v m) = mget d j m := by
  induction m with
  | nil => simp [mins, mget, Ne.symm h]
  | cons e m ih =>
    obtain ⟨a, w⟩ := e
    by_cases c : a < k
    · simp [mins, c, mget, ih]
    · simp [mins, c, mget, Ne.symm h]

theorem mget_mdel_self (d : α) (k : Nat) (m : SMap α) : mget d k (mdel k m) = d := by
  induction m with
  | nil => rfl
  | cons e m ih =>
    obtain ⟨a, w⟩ := e
    by_cases c : a = k
    · simpa [mdel, c] using ih
    · simpa [mdel, c, mget] using ih

theorem mget_mdel_ne (d : α) (k j : Nat) (m : SMap α) (h : j ≠ k) : mget d j (mdel k m) = mget d j m := by
  induction m with
  | nil => rfl
  | cons e m ih =>
    obtain ⟨a, w⟩ := e
    by_cases c : a = k
    · simpa [mdel, c, mget, Ne.symm h] using ih
    · by_cases b : a = j
      · simp [mdel, mget, b, h]
      · simpa [mdel, c, mget, b] using ih

theorem mdel_ne (k : Nat) (m : SMap α) : ∀ e ∈ mdel k m, e.1 ≠ k := by
  intro e he
  simpa using (List.mem_filter.mp he).2

/-- Reading an index after writing it gives what was written. -/
@[simp] theorem mget_mput_self [DecidableEq α] (d : α) (k : Nat) (v : α) (m : SMap α) : mget d k (mput d k v m) = v := by
  by_cases h : v = d
  · simp [mput, h, mget_mdel_self]
  · simp [mput, h, mget_mins_self d k v _ (mdel_ne k m)]

/-- Writing an index leaves every other index alone. -/
theorem mget_mput_ne [DecidableEq α] (d : α) (k j : Nat) (v : α) (m : SMap α) (h : j ≠ k) :
    mget d j (mput d k v m) = mget d j m := by
  by_cases c : v = d
  · simp [mput, c, mget_mdel_ne d k j m h]
  · simp [mput, c, mget_mins_ne d k j v _ h, mget_mdel_ne d k j m h]

theorem mget_mput [DecidableEq α] (d : α) (k j : Nat) (v : α) (m : SMap α) :
    mget d j (mput d k v m) = if j = k then v else mget d j m := by
  by_cases h : j = k
  · simp [h]
  · simp [h, mget_mput_ne d k j v m h]

/-! ### The canonical form -/

/-- The form as facts about the list: strictly rising indices, and no default value. -/
theorem mwf_iff [DecidableEq α] (d : α) (m : SMap α) :
    mwf d m = true ↔ m.Pairwise (fun a b => a.1 < b.1) ∧ ∀ e ∈ m, e.2 ≠ d := by
  induction m with
  | nil => simp [mwf]
  | cons e m ih =>
    obtain ⟨a, v⟩ := e
    cases m with
    | nil => simp [mwf]
    | cons f m =>
      obtain ⟨b, w⟩ := f
      simp only [mwf, Bool.and_eq_true, decide_eq_true_eq, ih, List.pairwise_cons, List.mem_cons]
      constructor
      · rintro ⟨⟨hv, hab⟩, ⟨hb, hp⟩, hd⟩
        refine ⟨⟨?_, hb, hp⟩, ?_⟩
        · rintro e (rfl | he)
          · exact hab
          · exact Nat.lt_trans hab (hb e he)
        · rintro e (rfl | he)
          · exact hv
          · exact hd e he
      · rintro ⟨⟨h1, hb, hp⟩, hd⟩
        exact ⟨⟨hd (a, v) (.inl rfl), h1 (b, w) (.inl rfl)⟩, ⟨hb, hp⟩, fun e he => hd e (.inr he)⟩

theorem mdel_wf [DecidableEq α] (d : α) (k : Nat) (m : SMap α) (h : mwf d m = true) : mwf d (mdel k m) = true := by
  rw [mwf_iff] at *
  exact ⟨h.1.filter _, fun e he => h.2 e (List.mem_filter.mp he).1⟩

theorem mem_mins (k : Nat) (v : α) (m : SMap α) (e : Nat × α) : e ∈ mins k v m ↔ e = (k, v) ∨ e ∈ m := by
  induction m with
  | nil => simp [mins]
  | cons f m ih =>
    obtain ⟨a, w⟩ := f
    by_cases c : a < k
    · simp only [mins, c, if_true, List.mem_cons, ih]
      exact or_left_comm
    · simp [mins, c]

theorem mins_wf [DecidableEq α] (d : α) (k : Nat) (v : α) (m : SMap α) (hv : v ≠ d) (hk : ∀ e ∈ m, e.1 ≠ k)
    (h : mwf d m = true) : mwf d (mins k v m) = true := by
  rw [mwf_iff] at h ⊢
  refine ⟨?_, fun e he => ?_⟩
  · obtain ⟨hp, -⟩ := h
    induction m with
    | nil => simp [mins]
    | cons f m ih =>
      have hf := hk f (by simp)
      rw [List.pairwise_cons] at hp
      by_cases c : f.1 < k
      · simp only [mins, c, if_true, List.pairwise_cons]
        refine ⟨fun e he => ?_, ih (fun e he => hk e (by simp [he])) hp.2⟩
        rcases (mem_mins k v m e).mp he with rfl | he
        · exact c
        · exact hp.1 e he
      · simp only [mins, c, if_false, List.pairwise_cons]
        refine ⟨fun e he => ?_, hp⟩
        rcases List.mem_cons.mp he with rfl | he
        · show k < _
          omega
        · have := hp.1 e he
          show k < _
          omega
  · rcases (mem_mins k v m e).mp he with rfl | he
    · exact hv
    · exact h.2 e he

/-- A write keeps the canonical form. -/
theorem mput_wf [DecidableEq α] (d : α) (k : Nat) (v : α) (m : SMap α) (h : mwf d m = true) :
    mwf d (mput d k v m) = true := by
  by_cases c : v = d
  · simp only [mput, c, if_true]; exact mdel_wf d k m h
  · simp only [mput, c, if_false]; exact mins_wf d k v _ c (mdel_ne k m) (mdel_wf d k m h)

/-- Maps in canonical form that read alike are equal. -/
theorem mwf_ext [DecidableEq α] (d : α) (m n : SMap α) (hm : mwf d m = true) (hn : mwf d n = true)
    (h : ∀ k, mget d k m = mget d k n) : m = n := by
  induction m generalizing n with
  | nil =>
    cases n with
    | nil => rfl
    | cons e n =>
      have := h e.1
      rw [mwf_iff] at hn
      exact absurd (by simpa [mget] using this.symm) (hn.2 e (by simp))
  | cons e m ih =>
    obtain ⟨a, v⟩ := e
    cases n with
    | nil =>
      have := h a
      rw [mwf_iff] at hm
      exact absurd (by simpa [mget] using this) (hm.2 (a, v) (by simp))
    | cons f n =>
      obtain ⟨b, w⟩ := f
      have hm' := (mwf_iff d _).mp hm
      have hn' := (mwf_iff d _).mp hn
      rw [List.pairwise_cons] at hm' hn'
      have above : ∀ (k : Nat) (l : SMap α), (∀ e ∈ l, k < e.1) → mget d k l = d := by
        intro k l hl
        induction l with
        | nil => rfl
        | cons g l ih =>
          have := hl g (by simp)
          simp [mget, show g.1 ≠ k by omega, ih (fun e he => hl e (by simp [he]))]
      have hab : a = b := by
        rcases Nat.lt_trichotomy a b with c | c | c
        · have := h a
          rw [above a ((b, w) :: n) (by
            intro e he
            rcases List.mem_cons.mp he with rfl | he
            · exact c
            · exact Nat.lt_trans c (hn'.1.1 e he))] at this
          exact absurd (by simpa [mget] using this) (hm'.2 (a, v) (by simp))
        · exact c
        · have := h b
          rw [above b ((a, v) :: m) (by
            intro e he
            rcases List.mem_cons.mp he with rfl | he
            · exact c
            · exact Nat.lt_trans c (hm'.1.1 e he))] at this
          exact absurd (by simpa [mget] using this.symm) (hn'.2 (b, w) (by simp))
      subst hab
      have hvw : v = w := by simpa [mget] using h a
      subst hvw
      have tail : ∀ (l : SMap α), mwf d ((a, v) :: l) = true → mwf d l = true := by
        intro l hl
        rw [mwf_iff] at hl ⊢
        exact ⟨(List.pairwise_cons.mp hl.1).2, fun e he => hl.2 e (by simp [he])⟩
      rw [ih n (tail m hm) (tail n hn) (fun k => by
        by_cases c : a = k
        · subst c
          rw [above a m hm'.1.1, above a n hn'.1.1]
        · simpa [mget, c] using h k)]

end Sys2Proof.Machine
end

