-- ==== Sys2Proof/Laws/State.lean ====
section
/-! SUPPORT. What each update of the state leaves alone: one lemma for each field and update. -/

namespace Sys2Proof.Machine

variable (s : State)

/-! ### setSlot -/

@[simp] theorem State.setSlot_mem (t : Tid) (x : Slot) : (s.setSlot t x).mem = s.mem := rfl
@[simp] theorem State.setSlot_memP (t : Tid) (x : Slot) : (s.setSlot t x).memP = s.memP := rfl
@[simp] theorem State.setSlot_lmem (t : Tid) (x : Slot) : (s.setSlot t x).lmem = s.lmem := rfl
@[simp] theorem State.setSlot_lf (t : Tid) (x : Slot) : (s.setSlot t x).lf = s.lf := rfl
@[simp] theorem State.setSlot_lp (t : Tid) (x : Slot) : (s.setSlot t x).lp = s.lp := rfl
@[simp] theorem State.setSlot_cores (t : Tid) (x : Slot) : (s.setSlot t x).cores = s.cores := rfl
@[simp] theorem State.setSlot_clus (t : Tid) (x : Slot) : (s.setSlot t x).clus = s.clus := rfl
@[simp] theorem State.setSlot_qtrs (t : Tid) (x : Slot) : (s.setSlot t x).qtrs = s.qtrs := rfl
@[simp] theorem State.setSlot_banks (t : Tid) (x : Slot) : (s.setSlot t x).banks = s.banks := rfl
@[simp] theorem State.setSlot_parts (t : Tid) (x : Slot) : (s.setSlot t x).parts = s.parts := rfl
@[simp] theorem State.setSlot_launches (t : Tid) (x : Slot) : (s.setSlot t x).launches = s.launches := rfl
@[simp] theorem State.setSlot_saved (t : Tid) (x : Slot) : (s.setSlot t x).saved = s.saved := rfl
@[simp] theorem State.setSlot_xsets (t : Tid) (x : Slot) : (s.setSlot t x).xsets = s.xsets := rfl
@[simp] theorem State.setSlot_xin (t : Tid) (x : Slot) : (s.setSlot t x).xin = s.xin := rfl
@[simp] theorem State.setSlot_ports (t : Tid) (x : Slot) : (s.setSlot t x).ports = s.ports := rfl
@[simp] theorem State.setSlot_asked (t : Tid) (x : Slot) : (s.setSlot t x).asked = s.asked := rfl
@[simp] theorem State.setSlot_inflight (t : Tid) (x : Slot) : (s.setSlot t x).inflight = s.inflight := rfl
@[simp] theorem State.setSlot_cmds (t : Tid) (x : Slot) : (s.setSlot t x).cmds = s.cmds := rfl
@[simp] theorem State.setSlot_nextId (t : Tid) (x : Slot) : (s.setSlot t x).nextId = s.nextId := rfl
@[simp] theorem State.setSlot_fwstat (t : Tid) (x : Slot) : (s.setSlot t x).fwstat = s.fwstat := rfl
@[simp] theorem State.setSlot_boot (t : Tid) (x : Slot) : (s.setSlot t x).boot = s.boot := rfl
@[simp] theorem State.setSlot_mchkstat (t : Tid) (x : Slot) : (s.setSlot t x).mchkstat = s.mchkstat := rfl
@[simp] theorem State.setSlot_mchkrec (t : Tid) (x : Slot) : (s.setSlot t x).mchkrec = s.mchkrec := rfl
@[simp] theorem State.setSlot_mchkq (t : Tid) (x : Slot) : (s.setSlot t x).mchkq = s.mchkq := rfl
@[simp] theorem State.setSlot_msix (t : Tid) (x : Slot) : (s.setSlot t x).msix = s.msix := rfl
@[simp] theorem State.setSlot_spdm (t : Tid) (x : Slot) : (s.setSlot t x).spdm = s.spdm := rfl
@[simp] theorem State.setSlot_devNum (t : Tid) (x : Slot) : (s.setSlot t x).devNum = s.devNum := rfl
@[simp] theorem State.setSlot_hostRd (t : Tid) (x : Slot) : (s.setSlot t x).hostRd = s.hostRd := rfl
@[simp] theorem State.setSlot_cycle (t : Tid) (x : Slot) : (s.setSlot t x).cycle = s.cycle := rfl
@[simp] theorem State.setSlot_lfsr (t : Tid) (x : Slot) : (s.setSlot t x).lfsr = s.lfsr := rfl
@[simp] theorem State.setSlot_turnCore (t : Tid) (x : Slot) : (s.setSlot t x).turnCore = s.turnCore := rfl
@[simp] theorem State.setSlot_cur (t : Tid) (x : Slot) : (s.setSlot t x).cur = s.cur := rfl
@[simp] theorem State.setSlot_insn (t : Tid) (x : Slot) : (s.setSlot t x).insn = s.insn := rfl
@[simp] theorem State.setSlot_ilen (t : Tid) (x : Slot) : (s.setSlot t x).ilen = s.ilen := rfl
@[simp] theorem State.setSlot_free (t : Tid) (x : Slot) : (s.setSlot t x).free = s.free := rfl
@[simp] theorem State.setSlot_inputs (t : Tid) (x : Slot) : (s.setSlot t x).inputs = s.inputs := rfl

/-! ### modSlot -/

@[simp] theorem State.modSlot_mem (t : Tid) (f : Slot → Slot) : (s.modSlot t f).mem = s.mem := rfl
@[simp] theorem State.modSlot_memP (t : Tid) (f : Slot → Slot) : (s.modSlot t f).memP = s.memP := rfl
@[simp] theorem State.modSlot_lmem (t : Tid) (f : Slot → Slot) : (s.modSlot t f).lmem = s.lmem := rfl
@[simp] theorem State.modSlot_lf (t : Tid) (f : Slot → Slot) : (s.modSlot t f).lf = s.lf := rfl
@[simp] theorem State.modSlot_lp (t : Tid) (f : Slot → Slot) : (s.modSlot t f).lp = s.lp := rfl
@[simp] theorem State.modSlot_cores (t : Tid) (f : Slot → Slot) : (s.modSlot t f).cores = s.cores := rfl
@[simp] theorem State.modSlot_clus (t : Tid) (f : Slot → Slot) : (s.modSlot t f).clus = s.clus := rfl
@[simp] theorem State.modSlot_qtrs (t : Tid) (f : Slot → Slot) : (s.modSlot t f).qtrs = s.qtrs := rfl
@[simp] theorem State.modSlot_banks (t : Tid) (f : Slot → Slot) : (s.modSlot t f).banks = s.banks := rfl
@[simp] theorem State.modSlot_parts (t : Tid) (f : Slot → Slot) : (s.modSlot t f).parts = s.parts := rfl
@[simp] theorem State.modSlot_launches (t : Tid) (f : Slot → Slot) : (s.modSlot t f).launches = s.launches := rfl
@[simp] theorem State.modSlot_saved (t : Tid) (f : Slot → Slot) : (s.modSlot t f).saved = s.saved := rfl
@[simp] theorem State.modSlot_xsets (t : Tid) (f : Slot → Slot) : (s.modSlot t f).xsets = s.xsets := rfl
@[simp] theorem State.modSlot_xin (t : Tid) (f : Slot → Slot) : (s.modSlot t f).xin = s.xin := rfl
@[simp] theorem State.modSlot_ports (t : Tid) (f : Slot → Slot) : (s.modSlot t f).ports = s.ports := rfl
@[simp] theorem State.modSlot_asked (t : Tid) (f : Slot → Slot) : (s.modSlot t f).asked = s.asked := rfl
@[simp] theorem State.modSlot_inflight (t : Tid) (f : Slot → Slot) : (s.modSlot t f).inflight = s.inflight := rfl
@[simp] theorem State.modSlot_cmds (t : Tid) (f : Slot → Slot) : (s.modSlot t f).cmds = s.cmds := rfl
@[simp] theorem State.modSlot_nextId (t : Tid) (f : Slot → Slot) : (s.modSlot t f).nextId = s.nextId := rfl
@[simp] theorem State.modSlot_fwstat (t : Tid) (f : Slot → Slot) : (s.modSlot t f).fwstat = s.fwstat := rfl
@[simp] theorem State.modSlot_boot (t : Tid) (f : Slot → Slot) : (s.modSlot t f).boot = s.boot := rfl
@[simp] theorem State.modSlot_mchkstat (t : Tid) (f : Slot → Slot) : (s.modSlot t f).mchkstat = s.mchkstat := rfl
@[simp] theorem State.modSlot_mchkrec (t : Tid) (f : Slot → Slot) : (s.modSlot t f).mchkrec = s.mchkrec := rfl
@[simp] theorem State.modSlot_mchkq (t : Tid) (f : Slot → Slot) : (s.modSlot t f).mchkq = s.mchkq := rfl
@[simp] theorem State.modSlot_msix (t : Tid) (f : Slot → Slot) : (s.modSlot t f).msix = s.msix := rfl
@[simp] theorem State.modSlot_spdm (t : Tid) (f : Slot → Slot) : (s.modSlot t f).spdm = s.spdm := rfl
@[simp] theorem State.modSlot_devNum (t : Tid) (f : Slot → Slot) : (s.modSlot t f).devNum = s.devNum := rfl
@[simp] theorem State.modSlot_hostRd (t : Tid) (f : Slot → Slot) : (s.modSlot t f).hostRd = s.hostRd := rfl
@[simp] theorem State.modSlot_cycle (t : Tid) (f : Slot → Slot) : (s.modSlot t f).cycle = s.cycle := rfl
@[simp] theorem State.modSlot_lfsr (t : Tid) (f : Slot → Slot) : (s.modSlot t f).lfsr = s.lfsr := rfl
@[simp] theorem State.modSlot_turnCore (t : Tid) (f : Slot → Slot) : (s.modSlot t f).turnCore = s.turnCore := rfl
@[simp] theorem State.modSlot_cur (t : Tid) (f : Slot → Slot) : (s.modSlot t f).cur = s.cur := rfl
@[simp] theorem State.modSlot_insn (t : Tid) (f : Slot → Slot) : (s.modSlot t f).insn = s.insn := rfl
@[simp] theorem State.modSlot_ilen (t : Tid) (f : Slot → Slot) : (s.modSlot t f).ilen = s.ilen := rfl
@[simp] theorem State.modSlot_free (t : Tid) (f : Slot → Slot) : (s.modSlot t f).free = s.free := rfl
@[simp] theorem State.modSlot_inputs (t : Tid) (f : Slot → Slot) : (s.modSlot t f).inputs = s.inputs := rfl

/-! ### modName -/

@[simp] theorem State.modName_mem (t : Tid) (k : Ix) (f : NameSt → NameSt) : (s.modName t k f).mem = s.mem := rfl
@[simp] theorem State.modName_memP (t : Tid) (k : Ix) (f : NameSt → NameSt) : (s.modName t k f).memP = s.memP := rfl
@[simp] theorem State.modName_lmem (t : Tid) (k : Ix) (f : NameSt → NameSt) : (s.modName t k f).lmem = s.lmem := rfl
@[simp] theorem State.modName_lf (t : Tid) (k : Ix) (f : NameSt → NameSt) : (s.modName t k f).lf = s.lf := rfl
@[simp] theorem State.modName_lp (t : Tid) (k : Ix) (f : NameSt → NameSt) : (s.modName t k f).lp = s.lp := rfl
@[simp] theorem State.modName_cores (t : Tid) (k : Ix) (f : NameSt → NameSt) : (s.modName t k f).cores = s.cores := rfl
@[simp] theorem State.modName_clus (t : Tid) (k : Ix) (f : NameSt → NameSt) : (s.modName t k f).clus = s.clus := rfl
@[simp] theorem State.modName_qtrs (t : Tid) (k : Ix) (f : NameSt → NameSt) : (s.modName t k f).qtrs = s.qtrs := rfl
@[simp] theorem State.modName_banks (t : Tid) (k : Ix) (f : NameSt → NameSt) : (s.modName t k f).banks = s.banks := rfl
@[simp] theorem State.modName_parts (t : Tid) (k : Ix) (f : NameSt → NameSt) : (s.modName t k f).parts = s.parts := rfl
@[simp] theorem State.modName_launches (t : Tid) (k : Ix) (f : NameSt → NameSt) : (s.modName t k f).launches = s.launches := rfl
@[simp] theorem State.modName_saved (t : Tid) (k : Ix) (f : NameSt → NameSt) : (s.modName t k f).saved = s.saved := rfl
@[simp] theorem State.modName_xsets (t : Tid) (k : Ix) (f : NameSt → NameSt) : (s.modName t k f).xsets = s.xsets := rfl
@[simp] theorem State.modName_xin (t : Tid) (k : Ix) (f : NameSt → NameSt) : (s.modName t k f).xin = s.xin := rfl
@[simp] theorem State.modName_ports (t : Tid) (k : Ix) (f : NameSt → NameSt) : (s.modName t k f).ports = s.ports := rfl
@[simp] theorem State.modName_asked (t : Tid) (k : Ix) (f : NameSt → NameSt) : (s.modName t k f).asked = s.asked := rfl
@[simp] theorem State.modName_inflight (t : Tid) (k : Ix) (f : NameSt → NameSt) : (s.modName t k f).inflight = s.inflight := rfl
@[simp] theorem State.modName_cmds (t : Tid) (k : Ix) (f : NameSt → NameSt) : (s.modName t k f).cmds = s.cmds := rfl
@[simp] theorem State.modName_nextId (t : Tid) (k : Ix) (f : NameSt → NameSt) : (s.modName t k f).nextId = s.nextId := rfl
@[simp] theorem State.modName_fwstat (t : Tid) (k : Ix) (f : NameSt → NameSt) : (s.modName t k f).fwstat = s.fwstat := rfl
@[simp] theorem State.modName_boot (t : Tid) (k : Ix) (f : NameSt → NameSt) : (s.modName t k f).boot = s.boot := rfl
@[simp] theorem State.modName_mchkstat (t : Tid) (k : Ix) (f : NameSt → NameSt) : (s.modName t k f).mchkstat = s.mchkstat := rfl
@[simp] theorem State.modName_mchkrec (t : Tid) (k : Ix) (f : NameSt → NameSt) : (s.modName t k f).mchkrec = s.mchkrec := rfl
@[simp] theorem State.modName_mchkq (t : Tid) (k : Ix) (f : NameSt → NameSt) : (s.modName t k f).mchkq = s.mchkq := rfl
@[simp] theorem State.modName_msix (t : Tid) (k : Ix) (f : NameSt → NameSt) : (s.modName t k f).msix = s.msix := rfl
@[simp] theorem State.modName_spdm (t : Tid) (k : Ix) (f : NameSt → NameSt) : (s.modName t k f).spdm = s.spdm := rfl
@[simp] theorem State.modName_devNum (t : Tid) (k : Ix) (f : NameSt → NameSt) : (s.modName t k f).devNum = s.devNum := rfl
@[simp] theorem State.modName_hostRd (t : Tid) (k : Ix) (f : NameSt → NameSt) : (s.modName t k f).hostRd = s.hostRd := rfl
@[simp] theorem State.modName_cycle (t : Tid) (k : Ix) (f : NameSt → NameSt) : (s.modName t k f).cycle = s.cycle := rfl
@[simp] theorem State.modName_lfsr (t : Tid) (k : Ix) (f : NameSt → NameSt) : (s.modName t k f).lfsr = s.lfsr := rfl
@[simp] theorem State.modName_turnCore (t : Tid) (k : Ix) (f : NameSt → NameSt) : (s.modName t k f).turnCore = s.turnCore := rfl
@[simp] theorem State.modName_cur (t : Tid) (k : Ix) (f : NameSt → NameSt) : (s.modName t k f).cur = s.cur := rfl
@[simp] theorem State.modName_insn (t : Tid) (k : Ix) (f : NameSt → NameSt) : (s.modName t k f).insn = s.insn := rfl
@[simp] theorem State.modName_ilen (t : Tid) (k : Ix) (f : NameSt → NameSt) : (s.modName t k f).ilen = s.ilen := rfl
@[simp] theorem State.modName_free (t : Tid) (k : Ix) (f : NameSt → NameSt) : (s.modName t k f).free = s.free := rfl
@[simp] theorem State.modName_inputs (t : Tid) (k : Ix) (f : NameSt → NameSt) : (s.modName t k f).inputs = s.inputs := rfl

/-! ### setCore -/

@[simp] theorem State.setCore_mem (c : Nat) (x : Core) : (s.setCore c x).mem = s.mem := rfl
@[simp] theorem State.setCore_memP (c : Nat) (x : Core) : (s.setCore c x).memP = s.memP := rfl
@[simp] theorem State.setCore_lmem (c : Nat) (x : Core) : (s.setCore c x).lmem = s.lmem := rfl
@[simp] theorem State.setCore_lf (c : Nat) (x : Core) : (s.setCore c x).lf = s.lf := rfl
@[simp] theorem State.setCore_lp (c : Nat) (x : Core) : (s.setCore c x).lp = s.lp := rfl
@[simp] theorem State.setCore_slots (c : Nat) (x : Core) : (s.setCore c x).slots = s.slots := rfl
@[simp] theorem State.setCore_clus (c : Nat) (x : Core) : (s.setCore c x).clus = s.clus := rfl
@[simp] theorem State.setCore_qtrs (c : Nat) (x : Core) : (s.setCore c x).qtrs = s.qtrs := rfl
@[simp] theorem State.setCore_banks (c : Nat) (x : Core) : (s.setCore c x).banks = s.banks := rfl
@[simp] theorem State.setCore_parts (c : Nat) (x : Core) : (s.setCore c x).parts = s.parts := rfl
@[simp] theorem State.setCore_launches (c : Nat) (x : Core) : (s.setCore c x).launches = s.launches := rfl
@[simp] theorem State.setCore_saved (c : Nat) (x : Core) : (s.setCore c x).saved = s.saved := rfl
@[simp] theorem State.setCore_xsets (c : Nat) (x : Core) : (s.setCore c x).xsets = s.xsets := rfl
@[simp] theorem State.setCore_xin (c : Nat) (x : Core) : (s.setCore c x).xin = s.xin := rfl
@[simp] theorem State.setCore_ports (c : Nat) (x : Core) : (s.setCore c x).ports = s.ports := rfl
@[simp] theorem State.setCore_asked (c : Nat) (x : Core) : (s.setCore c x).asked = s.asked := rfl
@[simp] theorem State.setCore_inflight (c : Nat) (x : Core) : (s.setCore c x).inflight = s.inflight := rfl
@[simp] theorem State.setCore_cmds (c : Nat) (x : Core) : (s.setCore c x).cmds = s.cmds := rfl
@[simp] theorem State.setCore_nextId (c : Nat) (x : Core) : (s.setCore c x).nextId = s.nextId := rfl
@[simp] theorem State.setCore_fwstat (c : Nat) (x : Core) : (s.setCore c x).fwstat = s.fwstat := rfl
@[simp] theorem State.setCore_boot (c : Nat) (x : Core) : (s.setCore c x).boot = s.boot := rfl
@[simp] theorem State.setCore_mchkstat (c : Nat) (x : Core) : (s.setCore c x).mchkstat = s.mchkstat := rfl
@[simp] theorem State.setCore_mchkrec (c : Nat) (x : Core) : (s.setCore c x).mchkrec = s.mchkrec := rfl
@[simp] theorem State.setCore_mchkq (c : Nat) (x : Core) : (s.setCore c x).mchkq = s.mchkq := rfl
@[simp] theorem State.setCore_msix (c : Nat) (x : Core) : (s.setCore c x).msix = s.msix := rfl
@[simp] theorem State.setCore_spdm (c : Nat) (x : Core) : (s.setCore c x).spdm = s.spdm := rfl
@[simp] theorem State.setCore_devNum (c : Nat) (x : Core) : (s.setCore c x).devNum = s.devNum := rfl
@[simp] theorem State.setCore_hostRd (c : Nat) (x : Core) : (s.setCore c x).hostRd = s.hostRd := rfl
@[simp] theorem State.setCore_cycle (c : Nat) (x : Core) : (s.setCore c x).cycle = s.cycle := rfl
@[simp] theorem State.setCore_lfsr (c : Nat) (x : Core) : (s.setCore c x).lfsr = s.lfsr := rfl
@[simp] theorem State.setCore_turnCore (c : Nat) (x : Core) : (s.setCore c x).turnCore = s.turnCore := rfl
@[simp] theorem State.setCore_cur (c : Nat) (x : Core) : (s.setCore c x).cur = s.cur := rfl
@[simp] theorem State.setCore_insn (c : Nat) (x : Core) : (s.setCore c x).insn = s.insn := rfl
@[simp] theorem State.setCore_ilen (c : Nat) (x : Core) : (s.setCore c x).ilen = s.ilen := rfl
@[simp] theorem State.setCore_free (c : Nat) (x : Core) : (s.setCore c x).free = s.free := rfl
@[simp] theorem State.setCore_inputs (c : Nat) (x : Core) : (s.setCore c x).inputs = s.inputs := rfl

/-! ### setSem -/

@[simp] theorem State.setSem_mem (c n v : Nat) : (s.setSem c n v).mem = s.mem := rfl
@[simp] theorem State.setSem_memP (c n v : Nat) : (s.setSem c n v).memP = s.memP := rfl
@[simp] theorem State.setSem_lmem (c n v : Nat) : (s.setSem c n v).lmem = s.lmem := rfl
@[simp] theorem State.setSem_lf (c n v : Nat) : (s.setSem c n v).lf = s.lf := rfl
@[simp] theorem State.setSem_lp (c n v : Nat) : (s.setSem c n v).lp = s.lp := rfl
@[simp] theorem State.setSem_slots (c n v : Nat) : (s.setSem c n v).slots = s.slots := rfl
@[simp] theorem State.setSem_clus (c n v : Nat) : (s.setSem c n v).clus = s.clus := rfl
@[simp] theorem State.setSem_qtrs (c n v : Nat) : (s.setSem c n v).qtrs = s.qtrs := rfl
@[simp] theorem State.setSem_banks (c n v : Nat) : (s.setSem c n v).banks = s.banks := rfl
@[simp] theorem State.setSem_parts (c n v : Nat) : (s.setSem c n v).parts = s.parts := rfl
@[simp] theorem State.setSem_launches (c n v : Nat) : (s.setSem c n v).launches = s.launches := rfl
@[simp] theorem State.setSem_saved (c n v : Nat) : (s.setSem c n v).saved = s.saved := rfl
@[simp] theorem State.setSem_xsets (c n v : Nat) : (s.setSem c n v).xsets = s.xsets := rfl
@[simp] theorem State.setSem_xin (c n v : Nat) : (s.setSem c n v).xin = s.xin := rfl
@[simp] theorem State.setSem_ports (c n v : Nat) : (s.setSem c n v).ports = s.ports := rfl
@[simp] theorem State.setSem_asked (c n v : Nat) : (s.setSem c n v).asked = s.asked := rfl
@[simp] theorem State.setSem_inflight (c n v : Nat) : (s.setSem c n v).inflight = s.inflight := rfl
@[simp] theorem State.setSem_cmds (c n v : Nat) : (s.setSem c n v).cmds = s.cmds := rfl
@[simp] theorem State.setSem_nextId (c n v : Nat) : (s.setSem c n v).nextId = s.nextId := rfl
@[simp] theorem State.setSem_fwstat (c n v : Nat) : (s.setSem c n v).fwstat = s.fwstat := rfl
@[simp] theorem State.setSem_boot (c n v : Nat) : (s.setSem c n v).boot = s.boot := rfl
@[simp] theorem State.setSem_mchkstat (c n v : Nat) : (s.setSem c n v).mchkstat = s.mchkstat := rfl
@[simp] theorem State.setSem_mchkrec (c n v : Nat) : (s.setSem c n v).mchkrec = s.mchkrec := rfl
@[simp] theorem State.setSem_mchkq (c n v : Nat) : (s.setSem c n v).mchkq = s.mchkq := rfl
@[simp] theorem State.setSem_msix (c n v : Nat) : (s.setSem c n v).msix = s.msix := rfl
@[simp] theorem State.setSem_spdm (c n v : Nat) : (s.setSem c n v).spdm = s.spdm := rfl
@[simp] theorem State.setSem_devNum (c n v : Nat) : (s.setSem c n v).devNum = s.devNum := rfl
@[simp] theorem State.setSem_hostRd (c n v : Nat) : (s.setSem c n v).hostRd = s.hostRd := rfl
@[simp] theorem State.setSem_cycle (c n v : Nat) : (s.setSem c n v).cycle = s.cycle := rfl
@[simp] theorem State.setSem_lfsr (c n v : Nat) : (s.setSem c n v).lfsr = s.lfsr := rfl
@[simp] theorem State.setSem_turnCore (c n v : Nat) : (s.setSem c n v).turnCore = s.turnCore := rfl
@[simp] theorem State.setSem_cur (c n v : Nat) : (s.setSem c n v).cur = s.cur := rfl
@[simp] theorem State.setSem_insn (c n v : Nat) : (s.setSem c n v).insn = s.insn := rfl
@[simp] theorem State.setSem_ilen (c n v : Nat) : (s.setSem c n v).ilen = s.ilen := rfl
@[simp] theorem State.setSem_free (c n v : Nat) : (s.setSem c n v).free = s.free := rfl
@[simp] theorem State.setSem_inputs (c n v : Nat) : (s.setSem c n v).inputs = s.inputs := rfl

/-! ### signal -/

@[simp] theorem State.signal_mem (c n v : Nat) : (s.signal c n v).mem = s.mem := rfl
@[simp] theorem State.signal_memP (c n v : Nat) : (s.signal c n v).memP = s.memP := rfl
@[simp] theorem State.signal_lmem (c n v : Nat) : (s.signal c n v).lmem = s.lmem := rfl
@[simp] theorem State.signal_lf (c n v : Nat) : (s.signal c n v).lf = s.lf := rfl
@[simp] theorem State.signal_lp (c n v : Nat) : (s.signal c n v).lp = s.lp := rfl
@[simp] theorem State.signal_slots (c n v : Nat) : (s.signal c n v).slots = s.slots := rfl
@[simp] theorem State.signal_clus (c n v : Nat) : (s.signal c n v).clus = s.clus := rfl
@[simp] theorem State.signal_qtrs (c n v : Nat) : (s.signal c n v).qtrs = s.qtrs := rfl
@[simp] theorem State.signal_banks (c n v : Nat) : (s.signal c n v).banks = s.banks := rfl
@[simp] theorem State.signal_parts (c n v : Nat) : (s.signal c n v).parts = s.parts := rfl
@[simp] theorem State.signal_launches (c n v : Nat) : (s.signal c n v).launches = s.launches := rfl
@[simp] theorem State.signal_saved (c n v : Nat) : (s.signal c n v).saved = s.saved := rfl
@[simp] theorem State.signal_xsets (c n v : Nat) : (s.signal c n v).xsets = s.xsets := rfl
@[simp] theorem State.signal_xin (c n v : Nat) : (s.signal c n v).xin = s.xin := rfl
@[simp] theorem State.signal_ports (c n v : Nat) : (s.signal c n v).ports = s.ports := rfl
@[simp] theorem State.signal_asked (c n v : Nat) : (s.signal c n v).asked = s.asked := rfl
@[simp] theorem State.signal_inflight (c n v : Nat) : (s.signal c n v).inflight = s.inflight := rfl
@[simp] theorem State.signal_cmds (c n v : Nat) : (s.signal c n v).cmds = s.cmds := rfl
@[simp] theorem State.signal_nextId (c n v : Nat) : (s.signal c n v).nextId = s.nextId := rfl
@[simp] theorem State.signal_fwstat (c n v : Nat) : (s.signal c n v).fwstat = s.fwstat := rfl
@[simp] theorem State.signal_boot (c n v : Nat) : (s.signal c n v).boot = s.boot := rfl
@[simp] theorem State.signal_mchkstat (c n v : Nat) : (s.signal c n v).mchkstat = s.mchkstat := rfl
@[simp] theorem State.signal_mchkrec (c n v : Nat) : (s.signal c n v).mchkrec = s.mchkrec := rfl
@[simp] theorem State.signal_mchkq (c n v : Nat) : (s.signal c n v).mchkq = s.mchkq := rfl
@[simp] theorem State.signal_msix (c n v : Nat) : (s.signal c n v).msix = s.msix := rfl
@[simp] theorem State.signal_spdm (c n v : Nat) : (s.signal c n v).spdm = s.spdm := rfl
@[simp] theorem State.signal_devNum (c n v : Nat) : (s.signal c n v).devNum = s.devNum := rfl
@[simp] theorem State.signal_hostRd (c n v : Nat) : (s.signal c n v).hostRd = s.hostRd := rfl
@[simp] theorem State.signal_cycle (c n v : Nat) : (s.signal c n v).cycle = s.cycle := rfl
@[simp] theorem State.signal_lfsr (c n v : Nat) : (s.signal c n v).lfsr = s.lfsr := rfl
@[simp] theorem State.signal_turnCore (c n v : Nat) : (s.signal c n v).turnCore = s.turnCore := rfl
@[simp] theorem State.signal_cur (c n v : Nat) : (s.signal c n v).cur = s.cur := rfl
@[simp] theorem State.signal_insn (c n v : Nat) : (s.signal c n v).insn = s.insn := rfl
@[simp] theorem State.signal_ilen (c n v : Nat) : (s.signal c n v).ilen = s.ilen := rfl
@[simp] theorem State.signal_free (c n v : Nat) : (s.signal c n v).free = s.free := rfl
@[simp] theorem State.signal_inputs (c n v : Nat) : (s.signal c n v).inputs = s.inputs := rfl

/-! ### setQueue -/

@[simp] theorem State.setQueue_mem (c q : Nat) (l : List (Word × Bool)) : (s.setQueue c q l).mem = s.mem := rfl
@[simp] theorem State.setQueue_memP (c q : Nat) (l : List (Word × Bool)) : (s.setQueue c q l).memP = s.memP := rfl
@[simp] theorem State.setQueue_lmem (c q : Nat) (l : List (Word × Bool)) : (s.setQueue c q l).lmem = s.lmem := rfl
@[simp] theorem State.setQueue_lf (c q : Nat) (l : List (Word × Bool)) : (s.setQueue c q l).lf = s.lf := rfl
@[simp] theorem State.setQueue_lp (c q : Nat) (l : List (Word × Bool)) : (s.setQueue c q l).lp = s.lp := rfl
@[simp] theorem State.setQueue_slots (c q : Nat) (l : List (Word × Bool)) : (s.setQueue c q l).slots = s.slots := rfl
@[simp] theorem State.setQueue_clus (c q : Nat) (l : List (Word × Bool)) : (s.setQueue c q l).clus = s.clus := rfl
@[simp] theorem State.setQueue_qtrs (c q : Nat) (l : List (Word × Bool)) : (s.setQueue c q l).qtrs = s.qtrs := rfl
@[simp] theorem State.setQueue_banks (c q : Nat) (l : List (Word × Bool)) : (s.setQueue c q l).banks = s.banks := rfl
@[simp] theorem State.setQueue_parts (c q : Nat) (l : List (Word × Bool)) : (s.setQueue c q l).parts = s.parts := rfl
@[simp] theorem State.setQueue_launches (c q : Nat) (l : List (Word × Bool)) : (s.setQueue c q l).launches = s.launches := rfl
@[simp] theorem State.setQueue_saved (c q : Nat) (l : List (Word × Bool)) : (s.setQueue c q l).saved = s.saved := rfl
@[simp] theorem State.setQueue_xsets (c q : Nat) (l : List (Word × Bool)) : (s.setQueue c q l).xsets = s.xsets := rfl
@[simp] theorem State.setQueue_xin (c q : Nat) (l : List (Word × Bool)) : (s.setQueue c q l).xin = s.xin := rfl
@[simp] theorem State.setQueue_ports (c q : Nat) (l : List (Word × Bool)) : (s.setQueue c q l).ports = s.ports := rfl
@[simp] theorem State.setQueue_asked (c q : Nat) (l : List (Word × Bool)) : (s.setQueue c q l).asked = s.asked := rfl
@[simp] theorem State.setQueue_inflight (c q : Nat) (l : List (Word × Bool)) : (s.setQueue c q l).inflight = s.inflight := rfl
@[simp] theorem State.setQueue_cmds (c q : Nat) (l : List (Word × Bool)) : (s.setQueue c q l).cmds = s.cmds := rfl
@[simp] theorem State.setQueue_nextId (c q : Nat) (l : List (Word × Bool)) : (s.setQueue c q l).nextId = s.nextId := rfl
@[simp] theorem State.setQueue_fwstat (c q : Nat) (l : List (Word × Bool)) : (s.setQueue c q l).fwstat = s.fwstat := rfl
@[simp] theorem State.setQueue_boot (c q : Nat) (l : List (Word × Bool)) : (s.setQueue c q l).boot = s.boot := rfl
@[simp] theorem State.setQueue_mchkstat (c q : Nat) (l : List (Word × Bool)) : (s.setQueue c q l).mchkstat = s.mchkstat := rfl
@[simp] theorem State.setQueue_mchkrec (c q : Nat) (l : List (Word × Bool)) : (s.setQueue c q l).mchkrec = s.mchkrec := rfl
@[simp] theorem State.setQueue_mchkq (c q : Nat) (l : List (Word × Bool)) : (s.setQueue c q l).mchkq = s.mchkq := rfl
@[simp] theorem State.setQueue_msix (c q : Nat) (l : List (Word × Bool)) : (s.setQueue c q l).msix = s.msix := rfl
@[simp] theorem State.setQueue_spdm (c q : Nat) (l : List (Word × Bool)) : (s.setQueue c q l).spdm = s.spdm := rfl
@[simp] theorem State.setQueue_devNum (c q : Nat) (l : List (Word × Bool)) : (s.setQueue c q l).devNum = s.devNum := rfl
@[simp] theorem State.setQueue_hostRd (c q : Nat) (l : List (Word × Bool)) : (s.setQueue c q l).hostRd = s.hostRd := rfl
@[simp] theorem State.setQueue_cycle (c q : Nat) (l : List (Word × Bool)) : (s.setQueue c q l).cycle = s.cycle := rfl
@[simp] theorem State.setQueue_lfsr (c q : Nat) (l : List (Word × Bool)) : (s.setQueue c q l).lfsr = s.lfsr := rfl
@[simp] theorem State.setQueue_turnCore (c q : Nat) (l : List (Word × Bool)) : (s.setQueue c q l).turnCore = s.turnCore := rfl
@[simp] theorem State.setQueue_cur (c q : Nat) (l : List (Word × Bool)) : (s.setQueue c q l).cur = s.cur := rfl
@[simp] theorem State.setQueue_insn (c q : Nat) (l : List (Word × Bool)) : (s.setQueue c q l).insn = s.insn := rfl
@[simp] theorem State.setQueue_ilen (c q : Nat) (l : List (Word × Bool)) : (s.setQueue c q l).ilen = s.ilen := rfl
@[simp] theorem State.setQueue_free (c q : Nat) (l : List (Word × Bool)) : (s.setQueue c q l).free = s.free := rfl
@[simp] theorem State.setQueue_inputs (c q : Nat) (l : List (Word × Bool)) : (s.setQueue c q l).inputs = s.inputs := rfl

/-! ### setClu -/

@[simp] theorem State.setClu_mem (c : Nat) (x : Cluster) : (s.setClu c x).mem = s.mem := rfl
@[simp] theorem State.setClu_memP (c : Nat) (x : Cluster) : (s.setClu c x).memP = s.memP := rfl
@[simp] theorem State.setClu_lmem (c : Nat) (x : Cluster) : (s.setClu c x).lmem = s.lmem := rfl
@[simp] theorem State.setClu_lf (c : Nat) (x : Cluster) : (s.setClu c x).lf = s.lf := rfl
@[simp] theorem State.setClu_lp (c : Nat) (x : Cluster) : (s.setClu c x).lp = s.lp := rfl
@[simp] theorem State.setClu_slots (c : Nat) (x : Cluster) : (s.setClu c x).slots = s.slots := rfl
@[simp] theorem State.setClu_cores (c : Nat) (x : Cluster) : (s.setClu c x).cores = s.cores := rfl
@[simp] theorem State.setClu_qtrs (c : Nat) (x : Cluster) : (s.setClu c x).qtrs = s.qtrs := rfl
@[simp] theorem State.setClu_banks (c : Nat) (x : Cluster) : (s.setClu c x).banks = s.banks := rfl
@[simp] theorem State.setClu_parts (c : Nat) (x : Cluster) : (s.setClu c x).parts = s.parts := rfl
@[simp] theorem State.setClu_launches (c : Nat) (x : Cluster) : (s.setClu c x).launches = s.launches := rfl
@[simp] theorem State.setClu_saved (c : Nat) (x : Cluster) : (s.setClu c x).saved = s.saved := rfl
@[simp] theorem State.setClu_xsets (c : Nat) (x : Cluster) : (s.setClu c x).xsets = s.xsets := rfl
@[simp] theorem State.setClu_xin (c : Nat) (x : Cluster) : (s.setClu c x).xin = s.xin := rfl
@[simp] theorem State.setClu_ports (c : Nat) (x : Cluster) : (s.setClu c x).ports = s.ports := rfl
@[simp] theorem State.setClu_asked (c : Nat) (x : Cluster) : (s.setClu c x).asked = s.asked := rfl
@[simp] theorem State.setClu_inflight (c : Nat) (x : Cluster) : (s.setClu c x).inflight = s.inflight := rfl
@[simp] theorem State.setClu_cmds (c : Nat) (x : Cluster) : (s.setClu c x).cmds = s.cmds := rfl
@[simp] theorem State.setClu_nextId (c : Nat) (x : Cluster) : (s.setClu c x).nextId = s.nextId := rfl
@[simp] theorem State.setClu_fwstat (c : Nat) (x : Cluster) : (s.setClu c x).fwstat = s.fwstat := rfl
@[simp] theorem State.setClu_boot (c : Nat) (x : Cluster) : (s.setClu c x).boot = s.boot := rfl
@[simp] theorem State.setClu_mchkstat (c : Nat) (x : Cluster) : (s.setClu c x).mchkstat = s.mchkstat := rfl
@[simp] theorem State.setClu_mchkrec (c : Nat) (x : Cluster) : (s.setClu c x).mchkrec = s.mchkrec := rfl
@[simp] theorem State.setClu_mchkq (c : Nat) (x : Cluster) : (s.setClu c x).mchkq = s.mchkq := rfl
@[simp] theorem State.setClu_msix (c : Nat) (x : Cluster) : (s.setClu c x).msix = s.msix := rfl
@[simp] theorem State.setClu_spdm (c : Nat) (x : Cluster) : (s.setClu c x).spdm = s.spdm := rfl
@[simp] theorem State.setClu_devNum (c : Nat) (x : Cluster) : (s.setClu c x).devNum = s.devNum := rfl
@[simp] theorem State.setClu_hostRd (c : Nat) (x : Cluster) : (s.setClu c x).hostRd = s.hostRd := rfl
@[simp] theorem State.setClu_cycle (c : Nat) (x : Cluster) : (s.setClu c x).cycle = s.cycle := rfl
@[simp] theorem State.setClu_lfsr (c : Nat) (x : Cluster) : (s.setClu c x).lfsr = s.lfsr := rfl
@[simp] theorem State.setClu_turnCore (c : Nat) (x : Cluster) : (s.setClu c x).turnCore = s.turnCore := rfl
@[simp] theorem State.setClu_cur (c : Nat) (x : Cluster) : (s.setClu c x).cur = s.cur := rfl
@[simp] theorem State.setClu_insn (c : Nat) (x : Cluster) : (s.setClu c x).insn = s.insn := rfl
@[simp] theorem State.setClu_ilen (c : Nat) (x : Cluster) : (s.setClu c x).ilen = s.ilen := rfl
@[simp] theorem State.setClu_free (c : Nat) (x : Cluster) : (s.setClu c x).free = s.free := rfl
@[simp] theorem State.setClu_inputs (c : Nat) (x : Cluster) : (s.setClu c x).inputs = s.inputs := rfl

/-! ### setQtr -/

@[simp] theorem State.setQtr_mem (c : Nat) (x : Quarter) : (s.setQtr c x).mem = s.mem := rfl
@[simp] theorem State.setQtr_memP (c : Nat) (x : Quarter) : (s.setQtr c x).memP = s.memP := rfl
@[simp] theorem State.setQtr_lmem (c : Nat) (x : Quarter) : (s.setQtr c x).lmem = s.lmem := rfl
@[simp] theorem State.setQtr_lf (c : Nat) (x : Quarter) : (s.setQtr c x).lf = s.lf := rfl
@[simp] theorem State.setQtr_lp (c : Nat) (x : Quarter) : (s.setQtr c x).lp = s.lp := rfl
@[simp] theorem State.setQtr_slots (c : Nat) (x : Quarter) : (s.setQtr c x).slots = s.slots := rfl
@[simp] theorem State.setQtr_cores (c : Nat) (x : Quarter) : (s.setQtr c x).cores = s.cores := rfl
@[simp] theorem State.setQtr_clus (c : Nat) (x : Quarter) : (s.setQtr c x).clus = s.clus := rfl
@[simp] theorem State.setQtr_banks (c : Nat) (x : Quarter) : (s.setQtr c x).banks = s.banks := rfl
@[simp] theorem State.setQtr_parts (c : Nat) (x : Quarter) : (s.setQtr c x).parts = s.parts := rfl
@[simp] theorem State.setQtr_launches (c : Nat) (x : Quarter) : (s.setQtr c x).launches = s.launches := rfl
@[simp] theorem State.setQtr_saved (c : Nat) (x : Quarter) : (s.setQtr c x).saved = s.saved := rfl
@[simp] theorem State.setQtr_xsets (c : Nat) (x : Quarter) : (s.setQtr c x).xsets = s.xsets := rfl
@[simp] theorem State.setQtr_xin (c : Nat) (x : Quarter) : (s.setQtr c x).xin = s.xin := rfl
@[simp] theorem State.setQtr_ports (c : Nat) (x : Quarter) : (s.setQtr c x).ports = s.ports := rfl
@[simp] theorem State.setQtr_asked (c : Nat) (x : Quarter) : (s.setQtr c x).asked = s.asked := rfl
@[simp] theorem State.setQtr_inflight (c : Nat) (x : Quarter) : (s.setQtr c x).inflight = s.inflight := rfl
@[simp] theorem State.setQtr_cmds (c : Nat) (x : Quarter) : (s.setQtr c x).cmds = s.cmds := rfl
@[simp] theorem State.setQtr_nextId (c : Nat) (x : Quarter) : (s.setQtr c x).nextId = s.nextId := rfl
@[simp] theorem State.setQtr_fwstat (c : Nat) (x : Quarter) : (s.setQtr c x).fwstat = s.fwstat := rfl
@[simp] theorem State.setQtr_boot (c : Nat) (x : Quarter) : (s.setQtr c x).boot = s.boot := rfl
@[simp] theorem State.setQtr_mchkstat (c : Nat) (x : Quarter) : (s.setQtr c x).mchkstat = s.mchkstat := rfl
@[simp] theorem State.setQtr_mchkrec (c : Nat) (x : Quarter) : (s.setQtr c x).mchkrec = s.mchkrec := rfl
@[simp] theorem State.setQtr_mchkq (c : Nat) (x : Quarter) : (s.setQtr c x).mchkq = s.mchkq := rfl
@[simp] theorem State.setQtr_msix (c : Nat) (x : Quarter) : (s.setQtr c x).msix = s.msix := rfl
@[simp] theorem State.setQtr_spdm (c : Nat) (x : Quarter) : (s.setQtr c x).spdm = s.spdm := rfl
@[simp] theorem State.setQtr_devNum (c : Nat) (x : Quarter) : (s.setQtr c x).devNum = s.devNum := rfl
@[simp] theorem State.setQtr_hostRd (c : Nat) (x : Quarter) : (s.setQtr c x).hostRd = s.hostRd := rfl
@[simp] theorem State.setQtr_cycle (c : Nat) (x : Quarter) : (s.setQtr c x).cycle = s.cycle := rfl
@[simp] theorem State.setQtr_lfsr (c : Nat) (x : Quarter) : (s.setQtr c x).lfsr = s.lfsr := rfl
@[simp] theorem State.setQtr_turnCore (c : Nat) (x : Quarter) : (s.setQtr c x).turnCore = s.turnCore := rfl
@[simp] theorem State.setQtr_cur (c : Nat) (x : Quarter) : (s.setQtr c x).cur = s.cur := rfl
@[simp] theorem State.setQtr_insn (c : Nat) (x : Quarter) : (s.setQtr c x).insn = s.insn := rfl
@[simp] theorem State.setQtr_ilen (c : Nat) (x : Quarter) : (s.setQtr c x).ilen = s.ilen := rfl
@[simp] theorem State.setQtr_free (c : Nat) (x : Quarter) : (s.setQtr c x).free = s.free := rfl
@[simp] theorem State.setQtr_inputs (c : Nat) (x : Quarter) : (s.setQtr c x).inputs = s.inputs := rfl

/-! ### setBank -/

@[simp] theorem State.setBank_mem (c : Nat) (x : Bank) : (s.setBank c x).mem = s.mem := rfl
@[simp] theorem State.setBank_memP (c : Nat) (x : Bank) : (s.setBank c x).memP = s.memP := rfl
@[simp] theorem State.setBank_lmem (c : Nat) (x : Bank) : (s.setBank c x).lmem = s.lmem := rfl
@[simp] theorem State.setBank_lf (c : Nat) (x : Bank) : (s.setBank c x).lf = s.lf := rfl
@[simp] theorem State.setBank_lp (c : Nat) (x : Bank) : (s.setBank c x).lp = s.lp := rfl
@[simp] theorem State.setBank_slots (c : Nat) (x : Bank) : (s.setBank c x).slots = s.slots := rfl
@[simp] theorem State.setBank_cores (c : Nat) (x : Bank) : (s.setBank c x).cores = s.cores := rfl
@[simp] theorem State.setBank_clus (c : Nat) (x : Bank) : (s.setBank c x).clus = s.clus := rfl
@[simp] theorem State.setBank_qtrs (c : Nat) (x : Bank) : (s.setBank c x).qtrs = s.qtrs := rfl
@[simp] theorem State.setBank_parts (c : Nat) (x : Bank) : (s.setBank c x).parts = s.parts := rfl
@[simp] theorem State.setBank_launches (c : Nat) (x : Bank) : (s.setBank c x).launches = s.launches := rfl
@[simp] theorem State.setBank_saved (c : Nat) (x : Bank) : (s.setBank c x).saved = s.saved := rfl
@[simp] theorem State.setBank_xsets (c : Nat) (x : Bank) : (s.setBank c x).xsets = s.xsets := rfl
@[simp] theorem State.setBank_xin (c : Nat) (x : Bank) : (s.setBank c x).xin = s.xin := rfl
@[simp] theorem State.setBank_ports (c : Nat) (x : Bank) : (s.setBank c x).ports = s.ports := rfl
@[simp] theorem State.setBank_asked (c : Nat) (x : Bank) : (s.setBank c x).asked = s.asked := rfl
@[simp] theorem State.setBank_inflight (c : Nat) (x : Bank) : (s.setBank c x).inflight = s.inflight := rfl
@[simp] theorem State.setBank_cmds (c : Nat) (x : Bank) : (s.setBank c x).cmds = s.cmds := rfl
@[simp] theorem State.setBank_nextId (c : Nat) (x : Bank) : (s.setBank c x).nextId = s.nextId := rfl
@[simp] theorem State.setBank_fwstat (c : Nat) (x : Bank) : (s.setBank c x).fwstat = s.fwstat := rfl
@[simp] theorem State.setBank_boot (c : Nat) (x : Bank) : (s.setBank c x).boot = s.boot := rfl
@[simp] theorem State.setBank_mchkstat (c : Nat) (x : Bank) : (s.setBank c x).mchkstat = s.mchkstat := rfl
@[simp] theorem State.setBank_mchkrec (c : Nat) (x : Bank) : (s.setBank c x).mchkrec = s.mchkrec := rfl
@[simp] theorem State.setBank_mchkq (c : Nat) (x : Bank) : (s.setBank c x).mchkq = s.mchkq := rfl
@[simp] theorem State.setBank_msix (c : Nat) (x : Bank) : (s.setBank c x).msix = s.msix := rfl
@[simp] theorem State.setBank_spdm (c : Nat) (x : Bank) : (s.setBank c x).spdm = s.spdm := rfl
@[simp] theorem State.setBank_devNum (c : Nat) (x : Bank) : (s.setBank c x).devNum = s.devNum := rfl
@[simp] theorem State.setBank_hostRd (c : Nat) (x : Bank) : (s.setBank c x).hostRd = s.hostRd := rfl
@[simp] theorem State.setBank_cycle (c : Nat) (x : Bank) : (s.setBank c x).cycle = s.cycle := rfl
@[simp] theorem State.setBank_lfsr (c : Nat) (x : Bank) : (s.setBank c x).lfsr = s.lfsr := rfl
@[simp] theorem State.setBank_turnCore (c : Nat) (x : Bank) : (s.setBank c x).turnCore = s.turnCore := rfl
@[simp] theorem State.setBank_cur (c : Nat) (x : Bank) : (s.setBank c x).cur = s.cur := rfl
@[simp] theorem State.setBank_insn (c : Nat) (x : Bank) : (s.setBank c x).insn = s.insn := rfl
@[simp] theorem State.setBank_ilen (c : Nat) (x : Bank) : (s.setBank c x).ilen = s.ilen := rfl
@[simp] theorem State.setBank_free (c : Nat) (x : Bank) : (s.setBank c x).free = s.free := rfl
@[simp] theorem State.setBank_inputs (c : Nat) (x : Bank) : (s.setBank c x).inputs = s.inputs := rfl

/-! ### setPart -/

@[simp] theorem State.setPart_mem (c : Nat) (x : Part) : (s.setPart c x).mem = s.mem := rfl
@[simp] theorem State.setPart_memP (c : Nat) (x : Part) : (s.setPart c x).memP = s.memP := rfl
@[simp] theorem State.setPart_lmem (c : Nat) (x : Part) : (s.setPart c x).lmem = s.lmem := rfl
@[simp] theorem State.setPart_lf (c : Nat) (x : Part) : (s.setPart c x).lf = s.lf := rfl
@[simp] theorem State.setPart_lp (c : Nat) (x : Part) : (s.setPart c x).lp = s.lp := rfl
@[simp] theorem State.setPart_slots (c : Nat) (x : Part) : (s.setPart c x).slots = s.slots := rfl
@[simp] theorem State.setPart_cores (c : Nat) (x : Part) : (s.setPart c x).cores = s.cores := rfl
@[simp] theorem State.setPart_clus (c : Nat) (x : Part) : (s.setPart c x).clus = s.clus := rfl
@[simp] theorem State.setPart_qtrs (c : Nat) (x : Part) : (s.setPart c x).qtrs = s.qtrs := rfl
@[simp] theorem State.setPart_banks (c : Nat) (x : Part) : (s.setPart c x).banks = s.banks := rfl
@[simp] theorem State.setPart_launches (c : Nat) (x : Part) : (s.setPart c x).launches = s.launches := rfl
@[simp] theorem State.setPart_saved (c : Nat) (x : Part) : (s.setPart c x).saved = s.saved := rfl
@[simp] theorem State.setPart_xsets (c : Nat) (x : Part) : (s.setPart c x).xsets = s.xsets := rfl
@[simp] theorem State.setPart_xin (c : Nat) (x : Part) : (s.setPart c x).xin = s.xin := rfl
@[simp] theorem State.setPart_ports (c : Nat) (x : Part) : (s.setPart c x).ports = s.ports := rfl
@[simp] theorem State.setPart_asked (c : Nat) (x : Part) : (s.setPart c x).asked = s.asked := rfl
@[simp] theorem State.setPart_inflight (c : Nat) (x : Part) : (s.setPart c x).inflight = s.inflight := rfl
@[simp] theorem State.setPart_cmds (c : Nat) (x : Part) : (s.setPart c x).cmds = s.cmds := rfl
@[simp] theorem State.setPart_nextId (c : Nat) (x : Part) : (s.setPart c x).nextId = s.nextId := rfl
@[simp] theorem State.setPart_fwstat (c : Nat) (x : Part) : (s.setPart c x).fwstat = s.fwstat := rfl
@[simp] theorem State.setPart_boot (c : Nat) (x : Part) : (s.setPart c x).boot = s.boot := rfl
@[simp] theorem State.setPart_mchkstat (c : Nat) (x : Part) : (s.setPart c x).mchkstat = s.mchkstat := rfl
@[simp] theorem State.setPart_mchkrec (c : Nat) (x : Part) : (s.setPart c x).mchkrec = s.mchkrec := rfl
@[simp] theorem State.setPart_mchkq (c : Nat) (x : Part) : (s.setPart c x).mchkq = s.mchkq := rfl
@[simp] theorem State.setPart_msix (c : Nat) (x : Part) : (s.setPart c x).msix = s.msix := rfl
@[simp] theorem State.setPart_spdm (c : Nat) (x : Part) : (s.setPart c x).spdm = s.spdm := rfl
@[simp] theorem State.setPart_devNum (c : Nat) (x : Part) : (s.setPart c x).devNum = s.devNum := rfl
@[simp] theorem State.setPart_hostRd (c : Nat) (x : Part) : (s.setPart c x).hostRd = s.hostRd := rfl
@[simp] theorem State.setPart_cycle (c : Nat) (x : Part) : (s.setPart c x).cycle = s.cycle := rfl
@[simp] theorem State.setPart_lfsr (c : Nat) (x : Part) : (s.setPart c x).lfsr = s.lfsr := rfl
@[simp] theorem State.setPart_turnCore (c : Nat) (x : Part) : (s.setPart c x).turnCore = s.turnCore := rfl
@[simp] theorem State.setPart_cur (c : Nat) (x : Part) : (s.setPart c x).cur = s.cur := rfl
@[simp] theorem State.setPart_insn (c : Nat) (x : Part) : (s.setPart c x).insn = s.insn := rfl
@[simp] theorem State.setPart_ilen (c : Nat) (x : Part) : (s.setPart c x).ilen = s.ilen := rfl
@[simp] theorem State.setPart_free (c : Nat) (x : Part) : (s.setPart c x).free = s.free := rfl
@[simp] theorem State.setPart_inputs (c : Nat) (x : Part) : (s.setPart c x).inputs = s.inputs := rfl

/-! ### setPort -/

@[simp] theorem State.setPort_mem (c : Nat) (x : Port) : (s.setPort c x).mem = s.mem := rfl
@[simp] theorem State.setPort_memP (c : Nat) (x : Port) : (s.setPort c x).memP = s.memP := rfl
@[simp] theorem State.setPort_lmem (c : Nat) (x : Port) : (s.setPort c x).lmem = s.lmem := rfl
@[simp] theorem State.setPort_lf (c : Nat) (x : Port) : (s.setPort c x).lf = s.lf := rfl
@[simp] theorem State.setPort_lp (c : Nat) (x : Port) : (s.setPort c x).lp = s.lp := rfl
@[simp] theorem State.setPort_slots (c : Nat) (x : Port) : (s.setPort c x).slots = s.slots := rfl
@[simp] theorem State.setPort_cores (c : Nat) (x : Port) : (s.setPort c x).cores = s.cores := rfl
@[simp] theorem State.setPort_clus (c : Nat) (x : Port) : (s.setPort c x).clus = s.clus := rfl
@[simp] theorem State.setPort_qtrs (c : Nat) (x : Port) : (s.setPort c x).qtrs = s.qtrs := rfl
@[simp] theorem State.setPort_banks (c : Nat) (x : Port) : (s.setPort c x).banks = s.banks := rfl
@[simp] theorem State.setPort_parts (c : Nat) (x : Port) : (s.setPort c x).parts = s.parts := rfl
@[simp] theorem State.setPort_launches (c : Nat) (x : Port) : (s.setPort c x).launches = s.launches := rfl
@[simp] theorem State.setPort_saved (c : Nat) (x : Port) : (s.setPort c x).saved = s.saved := rfl
@[simp] theorem State.setPort_xsets (c : Nat) (x : Port) : (s.setPort c x).xsets = s.xsets := rfl
@[simp] theorem State.setPort_xin (c : Nat) (x : Port) : (s.setPort c x).xin = s.xin := rfl
@[simp] theorem State.setPort_asked (c : Nat) (x : Port) : (s.setPort c x).asked = s.asked := rfl
@[simp] theorem State.setPort_inflight (c : Nat) (x : Port) : (s.setPort c x).inflight = s.inflight := rfl
@[simp] theorem State.setPort_cmds (c : Nat) (x : Port) : (s.setPort c x).cmds = s.cmds := rfl
@[simp] theorem State.setPort_nextId (c : Nat) (x : Port) : (s.setPort c x).nextId = s.nextId := rfl
@[simp] theorem State.setPort_fwstat (c : Nat) (x : Port) : (s.setPort c x).fwstat = s.fwstat := rfl
@[simp] theorem State.setPort_boot (c : Nat) (x : Port) : (s.setPort c x).boot = s.boot := rfl
@[simp] theorem State.setPort_mchkstat (c : Nat) (x : Port) : (s.setPort c x).mchkstat = s.mchkstat := rfl
@[simp] theorem State.setPort_mchkrec (c : Nat) (x : Port) : (s.setPort c x).mchkrec = s.mchkrec := rfl
@[simp] theorem State.setPort_mchkq (c : Nat) (x : Port) : (s.setPort c x).mchkq = s.mchkq := rfl
@[simp] theorem State.setPort_msix (c : Nat) (x : Port) : (s.setPort c x).msix = s.msix := rfl
@[simp] theorem State.setPort_spdm (c : Nat) (x : Port) : (s.setPort c x).spdm = s.spdm := rfl
@[simp] theorem State.setPort_devNum (c : Nat) (x : Port) : (s.setPort c x).devNum = s.devNum := rfl
@[simp] theorem State.setPort_hostRd (c : Nat) (x : Port) : (s.setPort c x).hostRd = s.hostRd := rfl
@[simp] theorem State.setPort_cycle (c : Nat) (x : Port) : (s.setPort c x).cycle = s.cycle := rfl
@[simp] theorem State.setPort_lfsr (c : Nat) (x : Port) : (s.setPort c x).lfsr = s.lfsr := rfl
@[simp] theorem State.setPort_turnCore (c : Nat) (x : Port) : (s.setPort c x).turnCore = s.turnCore := rfl
@[simp] theorem State.setPort_cur (c : Nat) (x : Port) : (s.setPort c x).cur = s.cur := rfl
@[simp] theorem State.setPort_insn (c : Nat) (x : Port) : (s.setPort c x).insn = s.insn := rfl
@[simp] theorem State.setPort_ilen (c : Nat) (x : Port) : (s.setPort c x).ilen = s.ilen := rfl
@[simp] theorem State.setPort_free (c : Nat) (x : Port) : (s.setPort c x).free = s.free := rfl
@[simp] theorem State.setPort_inputs (c : Nat) (x : Port) : (s.setPort c x).inputs = s.inputs := rfl

/-! ### send -/

@[simp] theorem State.send_mem (r : Req) : (s.send r).mem = s.mem := rfl
@[simp] theorem State.send_memP (r : Req) : (s.send r).memP = s.memP := rfl
@[simp] theorem State.send_lmem (r : Req) : (s.send r).lmem = s.lmem := rfl
@[simp] theorem State.send_lf (r : Req) : (s.send r).lf = s.lf := rfl
@[simp] theorem State.send_lp (r : Req) : (s.send r).lp = s.lp := rfl
@[simp] theorem State.send_slots (r : Req) : (s.send r).slots = s.slots := rfl
@[simp] theorem State.send_cores (r : Req) : (s.send r).cores = s.cores := rfl
@[simp] theorem State.send_clus (r : Req) : (s.send r).clus = s.clus := rfl
@[simp] theorem State.send_qtrs (r : Req) : (s.send r).qtrs = s.qtrs := rfl
@[simp] theorem State.send_banks (r : Req) : (s.send r).banks = s.banks := rfl
@[simp] theorem State.send_parts (r : Req) : (s.send r).parts = s.parts := rfl
@[simp] theorem State.send_launches (r : Req) : (s.send r).launches = s.launches := rfl
@[simp] theorem State.send_saved (r : Req) : (s.send r).saved = s.saved := rfl
@[simp] theorem State.send_xsets (r : Req) : (s.send r).xsets = s.xsets := rfl
@[simp] theorem State.send_xin (r : Req) : (s.send r).xin = s.xin := rfl
@[simp] theorem State.send_ports (r : Req) : (s.send r).ports = s.ports := rfl
@[simp] theorem State.send_asked (r : Req) : (s.send r).asked = s.asked := rfl
@[simp] theorem State.send_cmds (r : Req) : (s.send r).cmds = s.cmds := rfl
@[simp] theorem State.send_fwstat (r : Req) : (s.send r).fwstat = s.fwstat := rfl
@[simp] theorem State.send_boot (r : Req) : (s.send r).boot = s.boot := rfl
@[simp] theorem State.send_mchkstat (r : Req) : (s.send r).mchkstat = s.mchkstat := rfl
@[simp] theorem State.send_mchkrec (r : Req) : (s.send r).mchkrec = s.mchkrec := rfl
@[simp] theorem State.send_mchkq (r : Req) : (s.send r).mchkq = s.mchkq := rfl
@[simp] theorem State.send_msix (r : Req) : (s.send r).msix = s.msix := rfl
@[simp] theorem State.send_spdm (r : Req) : (s.send r).spdm = s.spdm := rfl
@[simp] theorem State.send_devNum (r : Req) : (s.send r).devNum = s.devNum := rfl
@[simp] theorem State.send_hostRd (r : Req) : (s.send r).hostRd = s.hostRd := rfl
@[simp] theorem State.send_cycle (r : Req) : (s.send r).cycle = s.cycle := rfl
@[simp] theorem State.send_lfsr (r : Req) : (s.send r).lfsr = s.lfsr := rfl
@[simp] theorem State.send_turnCore (r : Req) : (s.send r).turnCore = s.turnCore := rfl
@[simp] theorem State.send_cur (r : Req) : (s.send r).cur = s.cur := rfl
@[simp] theorem State.send_insn (r : Req) : (s.send r).insn = s.insn := rfl
@[simp] theorem State.send_ilen (r : Req) : (s.send r).ilen = s.ilen := rfl
@[simp] theorem State.send_free (r : Req) : (s.send r).free = s.free := rfl
@[simp] theorem State.send_inputs (r : Req) : (s.send r).inputs = s.inputs := rfl

/-! ### unsend -/

@[simp] theorem State.unsend_mem (n : Nat) : (s.unsend n).mem = s.mem := rfl
@[simp] theorem State.unsend_memP (n : Nat) : (s.unsend n).memP = s.memP := rfl
@[simp] theorem State.unsend_lmem (n : Nat) : (s.unsend n).lmem = s.lmem := rfl
@[simp] theorem State.unsend_lf (n : Nat) : (s.unsend n).lf = s.lf := rfl
@[simp] theorem State.unsend_lp (n : Nat) : (s.unsend n).lp = s.lp := rfl
@[simp] theorem State.unsend_slots (n : Nat) : (s.unsend n).slots = s.slots := rfl
@[simp] theorem State.unsend_cores (n : Nat) : (s.unsend n).cores = s.cores := rfl
@[simp] theorem State.unsend_clus (n : Nat) : (s.unsend n).clus = s.clus := rfl
@[simp] theorem State.unsend_qtrs (n : Nat) : (s.unsend n).qtrs = s.qtrs := rfl
@[simp] theorem State.unsend_banks (n : Nat) : (s.unsend n).banks = s.banks := rfl
@[simp] theorem State.unsend_parts (n : Nat) : (s.unsend n).parts = s.parts := rfl
@[simp] theorem State.unsend_launches (n : Nat) : (s.unsend n).launches = s.launches := rfl
@[simp] theorem State.unsend_saved (n : Nat) : (s.unsend n).saved = s.saved := rfl
@[simp] theorem State.unsend_xsets (n : Nat) : (s.unsend n).xsets = s.xsets := rfl
@[simp] theorem State.unsend_xin (n : Nat) : (s.unsend n).xin = s.xin := rfl
@[simp] theorem State.unsend_ports (n : Nat) : (s.unsend n).ports = s.ports := rfl
@[simp] theorem State.unsend_asked (n : Nat) : (s.unsend n).asked = s.asked := rfl
@[simp] theorem State.unsend_cmds (n : Nat) : (s.unsend n).cmds = s.cmds := rfl
@[simp] theorem State.unsend_nextId (n : Nat) : (s.unsend n).nextId = s.nextId := rfl
@[simp] theorem State.unsend_fwstat (n : Nat) : (s.unsend n).fwstat = s.fwstat := rfl
@[simp] theorem State.unsend_boot (n : Nat) : (s.unsend n).boot = s.boot := rfl
@[simp] theorem State.unsend_mchkstat (n : Nat) : (s.unsend n).mchkstat = s.mchkstat := rfl
@[simp] theorem State.unsend_mchkrec (n : Nat) : (s.unsend n).mchkrec = s.mchkrec := rfl
@[simp] theorem State.unsend_mchkq (n : Nat) : (s.unsend n).mchkq = s.mchkq := rfl
@[simp] theorem State.unsend_msix (n : Nat) : (s.unsend n).msix = s.msix := rfl
@[simp] theorem State.unsend_spdm (n : Nat) : (s.unsend n).spdm = s.spdm := rfl
@[simp] theorem State.unsend_devNum (n : Nat) : (s.unsend n).devNum = s.devNum := rfl
@[simp] theorem State.unsend_hostRd (n : Nat) : (s.unsend n).hostRd = s.hostRd := rfl
@[simp] theorem State.unsend_cycle (n : Nat) : (s.unsend n).cycle = s.cycle := rfl
@[simp] theorem State.unsend_lfsr (n : Nat) : (s.unsend n).lfsr = s.lfsr := rfl
@[simp] theorem State.unsend_turnCore (n : Nat) : (s.unsend n).turnCore = s.turnCore := rfl
@[simp] theorem State.unsend_cur (n : Nat) : (s.unsend n).cur = s.cur := rfl
@[simp] theorem State.unsend_insn (n : Nat) : (s.unsend n).insn = s.insn := rfl
@[simp] theorem State.unsend_ilen (n : Nat) : (s.unsend n).ilen = s.ilen := rfl
@[simp] theorem State.unsend_free (n : Nat) : (s.unsend n).free = s.free := rfl
@[simp] theorem State.unsend_inputs (n : Nat) : (s.unsend n).inputs = s.inputs := rfl

/-! ### setLsF -/

@[simp] theorem State.setLsF_mem (c o : Nat) (f : Bool) : (s.setLsF c o f).mem = s.mem := rfl
@[simp] theorem State.setLsF_memP (c o : Nat) (f : Bool) : (s.setLsF c o f).memP = s.memP := rfl
@[simp] theorem State.setLsF_lmem (c o : Nat) (f : Bool) : (s.setLsF c o f).lmem = s.lmem := rfl
@[simp] theorem State.setLsF_lp (c o : Nat) (f : Bool) : (s.setLsF c o f).lp = s.lp := rfl
@[simp] theorem State.setLsF_slots (c o : Nat) (f : Bool) : (s.setLsF c o f).slots = s.slots := rfl
@[simp] theorem State.setLsF_cores (c o : Nat) (f : Bool) : (s.setLsF c o f).cores = s.cores := rfl
@[simp] theorem State.setLsF_clus (c o : Nat) (f : Bool) : (s.setLsF c o f).clus = s.clus := rfl
@[simp] theorem State.setLsF_qtrs (c o : Nat) (f : Bool) : (s.setLsF c o f).qtrs = s.qtrs := rfl
@[simp] theorem State.setLsF_banks (c o : Nat) (f : Bool) : (s.setLsF c o f).banks = s.banks := rfl
@[simp] theorem State.setLsF_parts (c o : Nat) (f : Bool) : (s.setLsF c o f).parts = s.parts := rfl
@[simp] theorem State.setLsF_launches (c o : Nat) (f : Bool) : (s.setLsF c o f).launches = s.launches := rfl
@[simp] theorem State.setLsF_saved (c o : Nat) (f : Bool) : (s.setLsF c o f).saved = s.saved := rfl
@[simp] theorem State.setLsF_xsets (c o : Nat) (f : Bool) : (s.setLsF c o f).xsets = s.xsets := rfl
@[simp] theorem State.setLsF_xin (c o : Nat) (f : Bool) : (s.setLsF c o f).xin = s.xin := rfl
@[simp] theorem State.setLsF_ports (c o : Nat) (f : Bool) : (s.setLsF c o f).ports = s.ports := rfl
@[simp] theorem State.setLsF_asked (c o : Nat) (f : Bool) : (s.setLsF c o f).asked = s.asked := rfl
@[simp] theorem State.setLsF_inflight (c o : Nat) (f : Bool) : (s.setLsF c o f).inflight = s.inflight := rfl
@[simp] theorem State.setLsF_cmds (c o : Nat) (f : Bool) : (s.setLsF c o f).cmds = s.cmds := rfl
@[simp] theorem State.setLsF_nextId (c o : Nat) (f : Bool) : (s.setLsF c o f).nextId = s.nextId := rfl
@[simp] theorem State.setLsF_fwstat (c o : Nat) (f : Bool) : (s.setLsF c o f).fwstat = s.fwstat := rfl
@[simp] theorem State.setLsF_boot (c o : Nat) (f : Bool) : (s.setLsF c o f).boot = s.boot := rfl
@[simp] theorem State.setLsF_mchkstat (c o : Nat) (f : Bool) : (s.setLsF c o f).mchkstat = s.mchkstat := rfl
@[simp] theorem State.setLsF_mchkrec (c o : Nat) (f : Bool) : (s.setLsF c o f).mchkrec = s.mchkrec := rfl
@[simp] theorem State.setLsF_mchkq (c o : Nat) (f : Bool) : (s.setLsF c o f).mchkq = s.mchkq := rfl
@[simp] theorem State.setLsF_msix (c o : Nat) (f : Bool) : (s.setLsF c o f).msix = s.msix := rfl
@[simp] theorem State.setLsF_spdm (c o : Nat) (f : Bool) : (s.setLsF c o f).spdm = s.spdm := rfl
@[simp] theorem State.setLsF_devNum (c o : Nat) (f : Bool) : (s.setLsF c o f).devNum = s.devNum := rfl
@[simp] theorem State.setLsF_hostRd (c o : Nat) (f : Bool) : (s.setLsF c o f).hostRd = s.hostRd := rfl
@[simp] theorem State.setLsF_cycle (c o : Nat) (f : Bool) : (s.setLsF c o f).cycle = s.cycle := rfl
@[simp] theorem State.setLsF_lfsr (c o : Nat) (f : Bool) : (s.setLsF c o f).lfsr = s.lfsr := rfl
@[simp] theorem State.setLsF_turnCore (c o : Nat) (f : Bool) : (s.setLsF c o f).turnCore = s.turnCore := rfl
@[simp] theorem State.setLsF_cur (c o : Nat) (f : Bool) : (s.setLsF c o f).cur = s.cur := rfl
@[simp] theorem State.setLsF_insn (c o : Nat) (f : Bool) : (s.setLsF c o f).insn = s.insn := rfl
@[simp] theorem State.setLsF_ilen (c o : Nat) (f : Bool) : (s.setLsF c o f).ilen = s.ilen := rfl
@[simp] theorem State.setLsF_free (c o : Nat) (f : Bool) : (s.setLsF c o f).free = s.free := rfl
@[simp] theorem State.setLsF_inputs (c o : Nat) (f : Bool) : (s.setLsF c o f).inputs = s.inputs := rfl

/-! ### setLsP -/

@[simp] theorem State.setLsP_mem (c o : Nat) (p : Bool) : (s.setLsP c o p).mem = s.mem := rfl
@[simp] theorem State.setLsP_memP (c o : Nat) (p : Bool) : (s.setLsP c o p).memP = s.memP := rfl
@[simp] theorem State.setLsP_lmem (c o : Nat) (p : Bool) : (s.setLsP c o p).lmem = s.lmem := rfl
@[simp] theorem State.setLsP_lf (c o : Nat) (p : Bool) : (s.setLsP c o p).lf = s.lf := rfl
@[simp] theorem State.setLsP_slots (c o : Nat) (p : Bool) : (s.setLsP c o p).slots = s.slots := rfl
@[simp] theorem State.setLsP_cores (c o : Nat) (p : Bool) : (s.setLsP c o p).cores = s.cores := rfl
@[simp] theorem State.setLsP_clus (c o : Nat) (p : Bool) : (s.setLsP c o p).clus = s.clus := rfl
@[simp] theorem State.setLsP_qtrs (c o : Nat) (p : Bool) : (s.setLsP c o p).qtrs = s.qtrs := rfl
@[simp] theorem State.setLsP_banks (c o : Nat) (p : Bool) : (s.setLsP c o p).banks = s.banks := rfl
@[simp] theorem State.setLsP_parts (c o : Nat) (p : Bool) : (s.setLsP c o p).parts = s.parts := rfl
@[simp] theorem State.setLsP_launches (c o : Nat) (p : Bool) : (s.setLsP c o p).launches = s.launches := rfl
@[simp] theorem State.setLsP_saved (c o : Nat) (p : Bool) : (s.setLsP c o p).saved = s.saved := rfl
@[simp] theorem State.setLsP_xsets (c o : Nat) (p : Bool) : (s.setLsP c o p).xsets = s.xsets := rfl
@[simp] theorem State.setLsP_xin (c o : Nat) (p : Bool) : (s.setLsP c o p).xin = s.xin := rfl
@[simp] theorem State.setLsP_ports (c o : Nat) (p : Bool) : (s.setLsP c o p).ports = s.ports := rfl
@[simp] theorem State.setLsP_asked (c o : Nat) (p : Bool) : (s.setLsP c o p).asked = s.asked := rfl
@[simp] theorem State.setLsP_inflight (c o : Nat) (p : Bool) : (s.setLsP c o p).inflight = s.inflight := rfl
@[simp] theorem State.setLsP_cmds (c o : Nat) (p : Bool) : (s.setLsP c o p).cmds = s.cmds := rfl
@[simp] theorem State.setLsP_nextId (c o : Nat) (p : Bool) : (s.setLsP c o p).nextId = s.nextId := rfl
@[simp] theorem State.setLsP_fwstat (c o : Nat) (p : Bool) : (s.setLsP c o p).fwstat = s.fwstat := rfl
@[simp] theorem State.setLsP_boot (c o : Nat) (p : Bool) : (s.setLsP c o p).boot = s.boot := rfl
@[simp] theorem State.setLsP_mchkstat (c o : Nat) (p : Bool) : (s.setLsP c o p).mchkstat = s.mchkstat := rfl
@[simp] theorem State.setLsP_mchkrec (c o : Nat) (p : Bool) : (s.setLsP c o p).mchkrec = s.mchkrec := rfl
@[simp] theorem State.setLsP_mchkq (c o : Nat) (p : Bool) : (s.setLsP c o p).mchkq = s.mchkq := rfl
@[simp] theorem State.setLsP_msix (c o : Nat) (p : Bool) : (s.setLsP c o p).msix = s.msix := rfl
@[simp] theorem State.setLsP_spdm (c o : Nat) (p : Bool) : (s.setLsP c o p).spdm = s.spdm := rfl
@[simp] theorem State.setLsP_devNum (c o : Nat) (p : Bool) : (s.setLsP c o p).devNum = s.devNum := rfl
@[simp] theorem State.setLsP_hostRd (c o : Nat) (p : Bool) : (s.setLsP c o p).hostRd = s.hostRd := rfl
@[simp] theorem State.setLsP_cycle (c o : Nat) (p : Bool) : (s.setLsP c o p).cycle = s.cycle := rfl
@[simp] theorem State.setLsP_lfsr (c o : Nat) (p : Bool) : (s.setLsP c o p).lfsr = s.lfsr := rfl
@[simp] theorem State.setLsP_turnCore (c o : Nat) (p : Bool) : (s.setLsP c o p).turnCore = s.turnCore := rfl
@[simp] theorem State.setLsP_cur (c o : Nat) (p : Bool) : (s.setLsP c o p).cur = s.cur := rfl
@[simp] theorem State.setLsP_insn (c o : Nat) (p : Bool) : (s.setLsP c o p).insn = s.insn := rfl
@[simp] theorem State.setLsP_ilen (c o : Nat) (p : Bool) : (s.setLsP c o p).ilen = s.ilen := rfl
@[simp] theorem State.setLsP_free (c o : Nat) (p : Bool) : (s.setLsP c o p).free = s.free := rfl
@[simp] theorem State.setLsP_inputs (c o : Nat) (p : Bool) : (s.setLsP c o p).inputs = s.inputs := rfl

/-! ### lsWrite -/

@[simp] theorem State.lsWrite_mem (c o n v : Nat) (p : Bool) : (s.lsWrite c o n v p).mem = s.mem := rfl
@[simp] theorem State.lsWrite_memP (c o n v : Nat) (p : Bool) : (s.lsWrite c o n v p).memP = s.memP := rfl
@[simp] theorem State.lsWrite_lf (c o n v : Nat) (p : Bool) : (s.lsWrite c o n v p).lf = s.lf := rfl
@[simp] theorem State.lsWrite_slots (c o n v : Nat) (p : Bool) : (s.lsWrite c o n v p).slots = s.slots := rfl
@[simp] theorem State.lsWrite_cores (c o n v : Nat) (p : Bool) : (s.lsWrite c o n v p).cores = s.cores := rfl
@[simp] theorem State.lsWrite_clus (c o n v : Nat) (p : Bool) : (s.lsWrite c o n v p).clus = s.clus := rfl
@[simp] theorem State.lsWrite_qtrs (c o n v : Nat) (p : Bool) : (s.lsWrite c o n v p).qtrs = s.qtrs := rfl
@[simp] theorem State.lsWrite_banks (c o n v : Nat) (p : Bool) : (s.lsWrite c o n v p).banks = s.banks := rfl
@[simp] theorem State.lsWrite_parts (c o n v : Nat) (p : Bool) : (s.lsWrite c o n v p).parts = s.parts := rfl
@[simp] theorem State.lsWrite_launches (c o n v : Nat) (p : Bool) : (s.lsWrite c o n v p).launches = s.launches := rfl
@[simp] theorem State.lsWrite_saved (c o n v : Nat) (p : Bool) : (s.lsWrite c o n v p).saved = s.saved := rfl
@[simp] theorem State.lsWrite_xsets (c o n v : Nat) (p : Bool) : (s.lsWrite c o n v p).xsets = s.xsets := rfl
@[simp] theorem State.lsWrite_xin (c o n v : Nat) (p : Bool) : (s.lsWrite c o n v p).xin = s.xin := rfl
@[simp] theorem State.lsWrite_ports (c o n v : Nat) (p : Bool) : (s.lsWrite c o n v p).ports = s.ports := rfl
@[simp] theorem State.lsWrite_asked (c o n v : Nat) (p : Bool) : (s.lsWrite c o n v p).asked = s.asked := rfl
@[simp] theorem State.lsWrite_inflight (c o n v : Nat) (p : Bool) : (s.lsWrite c o n v p).inflight = s.inflight := rfl
@[simp] theorem State.lsWrite_cmds (c o n v : Nat) (p : Bool) : (s.lsWrite c o n v p).cmds = s.cmds := rfl
@[simp] theorem State.lsWrite_nextId (c o n v : Nat) (p : Bool) : (s.lsWrite c o n v p).nextId = s.nextId := rfl
@[simp] theorem State.lsWrite_fwstat (c o n v : Nat) (p : Bool) : (s.lsWrite c o n v p).fwstat = s.fwstat := rfl
@[simp] theorem State.lsWrite_boot (c o n v : Nat) (p : Bool) : (s.lsWrite c o n v p).boot = s.boot := rfl
@[simp] theorem State.lsWrite_mchkstat (c o n v : Nat) (p : Bool) : (s.lsWrite c o n v p).mchkstat = s.mchkstat := rfl
@[simp] theorem State.lsWrite_mchkrec (c o n v : Nat) (p : Bool) : (s.lsWrite c o n v p).mchkrec = s.mchkrec := rfl
@[simp] theorem State.lsWrite_mchkq (c o n v : Nat) (p : Bool) : (s.lsWrite c o n v p).mchkq = s.mchkq := rfl
@[simp] theorem State.lsWrite_msix (c o n v : Nat) (p : Bool) : (s.lsWrite c o n v p).msix = s.msix := rfl
@[simp] theorem State.lsWrite_spdm (c o n v : Nat) (p : Bool) : (s.lsWrite c o n v p).spdm = s.spdm := rfl
@[simp] theorem State.lsWrite_devNum (c o n v : Nat) (p : Bool) : (s.lsWrite c o n v p).devNum = s.devNum := rfl
@[simp] theorem State.lsWrite_hostRd (c o n v : Nat) (p : Bool) : (s.lsWrite c o n v p).hostRd = s.hostRd := rfl
@[simp] theorem State.lsWrite_cycle (c o n v : Nat) (p : Bool) : (s.lsWrite c o n v p).cycle = s.cycle := rfl
@[simp] theorem State.lsWrite_lfsr (c o n v : Nat) (p : Bool) : (s.lsWrite c o n v p).lfsr = s.lfsr := rfl
@[simp] theorem State.lsWrite_turnCore (c o n v : Nat) (p : Bool) : (s.lsWrite c o n v p).turnCore = s.turnCore := rfl
@[simp] theorem State.lsWrite_cur (c o n v : Nat) (p : Bool) : (s.lsWrite c o n v p).cur = s.cur := rfl
@[simp] theorem State.lsWrite_insn (c o n v : Nat) (p : Bool) : (s.lsWrite c o n v p).insn = s.insn := rfl
@[simp] theorem State.lsWrite_ilen (c o n v : Nat) (p : Bool) : (s.lsWrite c o n v p).ilen = s.ilen := rfl
@[simp] theorem State.lsWrite_free (c o n v : Nat) (p : Bool) : (s.lsWrite c o n v p).free = s.free := rfl
@[simp] theorem State.lsWrite_inputs (c o n v : Nat) (p : Bool) : (s.lsWrite c o n v p).inputs = s.inputs := rfl

/-! ### memWrite -/

@[simp] theorem State.memWrite_lmem (a n v : Nat) (p : Bool) : (s.memWrite a n v p).lmem = s.lmem := rfl
@[simp] theorem State.memWrite_lf (a n v : Nat) (p : Bool) : (s.memWrite a n v p).lf = s.lf := rfl
@[simp] theorem State.memWrite_lp (a n v : Nat) (p : Bool) : (s.memWrite a n v p).lp = s.lp := rfl
@[simp] theorem State.memWrite_slots (a n v : Nat) (p : Bool) : (s.memWrite a n v p).slots = s.slots := rfl
@[simp] theorem State.memWrite_cores (a n v : Nat) (p : Bool) : (s.memWrite a n v p).cores = s.cores := rfl
@[simp] theorem State.memWrite_clus (a n v : Nat) (p : Bool) : (s.memWrite a n v p).clus = s.clus := rfl
@[simp] theorem State.memWrite_qtrs (a n v : Nat) (p : Bool) : (s.memWrite a n v p).qtrs = s.qtrs := rfl
@[simp] theorem State.memWrite_banks (a n v : Nat) (p : Bool) : (s.memWrite a n v p).banks = s.banks := rfl
@[simp] theorem State.memWrite_parts (a n v : Nat) (p : Bool) : (s.memWrite a n v p).parts = s.parts := rfl
@[simp] theorem State.memWrite_launches (a n v : Nat) (p : Bool) : (s.memWrite a n v p).launches = s.launches := rfl
@[simp] theorem State.memWrite_saved (a n v : Nat) (p : Bool) : (s.memWrite a n v p).saved = s.saved := rfl
@[simp] theorem State.memWrite_xsets (a n v : Nat) (p : Bool) : (s.memWrite a n v p).xsets = s.xsets := rfl
@[simp] theorem State.memWrite_xin (a n v : Nat) (p : Bool) : (s.memWrite a n v p).xin = s.xin := rfl
@[simp] theorem State.memWrite_ports (a n v : Nat) (p : Bool) : (s.memWrite a n v p).ports = s.ports := rfl
@[simp] theorem State.memWrite_asked (a n v : Nat) (p : Bool) : (s.memWrite a n v p).asked = s.asked := rfl
@[simp] theorem State.memWrite_inflight (a n v : Nat) (p : Bool) : (s.memWrite a n v p).inflight = s.inflight := rfl
@[simp] theorem State.memWrite_cmds (a n v : Nat) (p : Bool) : (s.memWrite a n v p).cmds = s.cmds := rfl
@[simp] theorem State.memWrite_nextId (a n v : Nat) (p : Bool) : (s.memWrite a n v p).nextId = s.nextId := rfl
@[simp] theorem State.memWrite_fwstat (a n v : Nat) (p : Bool) : (s.memWrite a n v p).fwstat = s.fwstat := rfl
@[simp] theorem State.memWrite_boot (a n v : Nat) (p : Bool) : (s.memWrite a n v p).boot = s.boot := rfl
@[simp] theorem State.memWrite_mchkstat (a n v : Nat) (p : Bool) : (s.memWrite a n v p).mchkstat = s.mchkstat := rfl
@[simp] theorem State.memWrite_mchkrec (a n v : Nat) (p : Bool) : (s.memWrite a n v p).mchkrec = s.mchkrec := rfl
@[simp] theorem State.memWrite_mchkq (a n v : Nat) (p : Bool) : (s.memWrite a n v p).mchkq = s.mchkq := rfl
@[simp] theorem State.memWrite_msix (a n v : Nat) (p : Bool) : (s.memWrite a n v p).msix = s.msix := rfl
@[simp] theorem State.memWrite_spdm (a n v : Nat) (p : Bool) : (s.memWrite a n v p).spdm = s.spdm := rfl
@[simp] theorem State.memWrite_devNum (a n v : Nat) (p : Bool) : (s.memWrite a n v p).devNum = s.devNum := rfl
@[simp] theorem State.memWrite_hostRd (a n v : Nat) (p : Bool) : (s.memWrite a n v p).hostRd = s.hostRd := rfl
@[simp] theorem State.memWrite_cycle (a n v : Nat) (p : Bool) : (s.memWrite a n v p).cycle = s.cycle := rfl
@[simp] theorem State.memWrite_lfsr (a n v : Nat) (p : Bool) : (s.memWrite a n v p).lfsr = s.lfsr := rfl
@[simp] theorem State.memWrite_turnCore (a n v : Nat) (p : Bool) : (s.memWrite a n v p).turnCore = s.turnCore := rfl
@[simp] theorem State.memWrite_cur (a n v : Nat) (p : Bool) : (s.memWrite a n v p).cur = s.cur := rfl
@[simp] theorem State.memWrite_insn (a n v : Nat) (p : Bool) : (s.memWrite a n v p).insn = s.insn := rfl
@[simp] theorem State.memWrite_ilen (a n v : Nat) (p : Bool) : (s.memWrite a n v p).ilen = s.ilen := rfl
@[simp] theorem State.memWrite_free (a n v : Nat) (p : Bool) : (s.memWrite a n v p).free = s.free := rfl
@[simp] theorem State.memWrite_inputs (a n v : Nat) (p : Bool) : (s.memWrite a n v p).inputs = s.inputs := rfl

/-! ### reportHost -/

@[simp] theorem State.reportHost_mem (ws : List Word) : (s.reportHost ws).mem = s.mem := rfl
@[simp] theorem State.reportHost_memP (ws : List Word) : (s.reportHost ws).memP = s.memP := rfl
@[simp] theorem State.reportHost_lmem (ws : List Word) : (s.reportHost ws).lmem = s.lmem := rfl
@[simp] theorem State.reportHost_lf (ws : List Word) : (s.reportHost ws).lf = s.lf := rfl
@[simp] theorem State.reportHost_lp (ws : List Word) : (s.reportHost ws).lp = s.lp := rfl
@[simp] theorem State.reportHost_slots (ws : List Word) : (s.reportHost ws).slots = s.slots := rfl
@[simp] theorem State.reportHost_cores (ws : List Word) : (s.reportHost ws).cores = s.cores := rfl
@[simp] theorem State.reportHost_clus (ws : List Word) : (s.reportHost ws).clus = s.clus := rfl
@[simp] theorem State.reportHost_qtrs (ws : List Word) : (s.reportHost ws).qtrs = s.qtrs := rfl
@[simp] theorem State.reportHost_banks (ws : List Word) : (s.reportHost ws).banks = s.banks := rfl
@[simp] theorem State.reportHost_parts (ws : List Word) : (s.reportHost ws).parts = s.parts := rfl
@[simp] theorem State.reportHost_launches (ws : List Word) : (s.reportHost ws).launches = s.launches := rfl
@[simp] theorem State.reportHost_saved (ws : List Word) : (s.reportHost ws).saved = s.saved := rfl
@[simp] theorem State.reportHost_xsets (ws : List Word) : (s.reportHost ws).xsets = s.xsets := rfl
@[simp] theorem State.reportHost_xin (ws : List Word) : (s.reportHost ws).xin = s.xin := rfl
@[simp] theorem State.reportHost_ports (ws : List Word) : (s.reportHost ws).ports = s.ports := rfl
@[simp] theorem State.reportHost_asked (ws : List Word) : (s.reportHost ws).asked = s.asked := rfl
@[simp] theorem State.reportHost_inflight (ws : List Word) : (s.reportHost ws).inflight = s.inflight := rfl
@[simp] theorem State.reportHost_cmds (ws : List Word) : (s.reportHost ws).cmds = s.cmds := rfl
@[simp] theorem State.reportHost_nextId (ws : List Word) : (s.reportHost ws).nextId = s.nextId := rfl
@[simp] theorem State.reportHost_fwstat (ws : List Word) : (s.reportHost ws).fwstat = s.fwstat := rfl
@[simp] theorem State.reportHost_boot (ws : List Word) : (s.reportHost ws).boot = s.boot := rfl
@[simp] theorem State.reportHost_mchkstat (ws : List Word) : (s.reportHost ws).mchkstat = s.mchkstat := rfl
@[simp] theorem State.reportHost_mchkrec (ws : List Word) : (s.reportHost ws).mchkrec = s.mchkrec := rfl
@[simp] theorem State.reportHost_msix (ws : List Word) : (s.reportHost ws).msix = s.msix := rfl
@[simp] theorem State.reportHost_spdm (ws : List Word) : (s.reportHost ws).spdm = s.spdm := rfl
@[simp] theorem State.reportHost_devNum (ws : List Word) : (s.reportHost ws).devNum = s.devNum := rfl
@[simp] theorem State.reportHost_hostRd (ws : List Word) : (s.reportHost ws).hostRd = s.hostRd := rfl
@[simp] theorem State.reportHost_cycle (ws : List Word) : (s.reportHost ws).cycle = s.cycle := rfl
@[simp] theorem State.reportHost_lfsr (ws : List Word) : (s.reportHost ws).lfsr = s.lfsr := rfl
@[simp] theorem State.reportHost_turnCore (ws : List Word) : (s.reportHost ws).turnCore = s.turnCore := rfl
@[simp] theorem State.reportHost_cur (ws : List Word) : (s.reportHost ws).cur = s.cur := rfl
@[simp] theorem State.reportHost_insn (ws : List Word) : (s.reportHost ws).insn = s.insn := rfl
@[simp] theorem State.reportHost_ilen (ws : List Word) : (s.reportHost ws).ilen = s.ilen := rfl
@[simp] theorem State.reportHost_free (ws : List Word) : (s.reportHost ws).free = s.free := rfl
@[simp] theorem State.reportHost_inputs (ws : List Word) : (s.reportHost ws).inputs = s.inputs := rfl

/-! ### advance -/

@[simp] theorem State.advance_mem (n : Nat) : (s.advance n).mem = s.mem := rfl
@[simp] theorem State.advance_memP (n : Nat) : (s.advance n).memP = s.memP := rfl
@[simp] theorem State.advance_lmem (n : Nat) : (s.advance n).lmem = s.lmem := rfl
@[simp] theorem State.advance_lf (n : Nat) : (s.advance n).lf = s.lf := rfl
@[simp] theorem State.advance_lp (n : Nat) : (s.advance n).lp = s.lp := rfl
@[simp] theorem State.advance_slots (n : Nat) : (s.advance n).slots = s.slots := rfl
@[simp] theorem State.advance_cores (n : Nat) : (s.advance n).cores = s.cores := rfl
@[simp] theorem State.advance_clus (n : Nat) : (s.advance n).clus = s.clus := rfl
@[simp] theorem State.advance_qtrs (n : Nat) : (s.advance n).qtrs = s.qtrs := rfl
@[simp] theorem State.advance_banks (n : Nat) : (s.advance n).banks = s.banks := rfl
@[simp] theorem State.advance_parts (n : Nat) : (s.advance n).parts = s.parts := rfl
@[simp] theorem State.advance_launches (n : Nat) : (s.advance n).launches = s.launches := rfl
@[simp] theorem State.advance_saved (n : Nat) : (s.advance n).saved = s.saved := rfl
@[simp] theorem State.advance_xsets (n : Nat) : (s.advance n).xsets = s.xsets := rfl
@[simp] theorem State.advance_xin (n : Nat) : (s.advance n).xin = s.xin := rfl
@[simp] theorem State.advance_ports (n : Nat) : (s.advance n).ports = s.ports := rfl
@[simp] theorem State.advance_asked (n : Nat) : (s.advance n).asked = s.asked := rfl
@[simp] theorem State.advance_inflight (n : Nat) : (s.advance n).inflight = s.inflight := rfl
@[simp] theorem State.advance_cmds (n : Nat) : (s.advance n).cmds = s.cmds := rfl
@[simp] theorem State.advance_nextId (n : Nat) : (s.advance n).nextId = s.nextId := rfl
@[simp] theorem State.advance_fwstat (n : Nat) : (s.advance n).fwstat = s.fwstat := rfl
@[simp] theorem State.advance_boot (n : Nat) : (s.advance n).boot = s.boot := rfl
@[simp] theorem State.advance_mchkstat (n : Nat) : (s.advance n).mchkstat = s.mchkstat := rfl
@[simp] theorem State.advance_mchkrec (n : Nat) : (s.advance n).mchkrec = s.mchkrec := rfl
@[simp] theorem State.advance_mchkq (n : Nat) : (s.advance n).mchkq = s.mchkq := rfl
@[simp] theorem State.advance_msix (n : Nat) : (s.advance n).msix = s.msix := rfl
@[simp] theorem State.advance_spdm (n : Nat) : (s.advance n).spdm = s.spdm := rfl
@[simp] theorem State.advance_devNum (n : Nat) : (s.advance n).devNum = s.devNum := rfl
@[simp] theorem State.advance_hostRd (n : Nat) : (s.advance n).hostRd = s.hostRd := rfl
@[simp] theorem State.advance_turnCore (n : Nat) : (s.advance n).turnCore = s.turnCore := rfl
@[simp] theorem State.advance_cur (n : Nat) : (s.advance n).cur = s.cur := rfl
@[simp] theorem State.advance_insn (n : Nat) : (s.advance n).insn = s.insn := rfl
@[simp] theorem State.advance_ilen (n : Nat) : (s.advance n).ilen = s.ilen := rfl
@[simp] theorem State.advance_free (n : Nat) : (s.advance n).free = s.free := rfl
@[simp] theorem State.advance_inputs (n : Nat) : (s.advance n).inputs = s.inputs := rfl

/-! ### Units read after they are written -/

@[simp] theorem State.slot_setSlot (k : Nat) (x : Slot) : (s.setSlot k x).slot k = x := mget_mput_self _ _ _ _
theorem State.slot_setSlot_ne (k j : Nat) (x : Slot) (h : j ≠ k) : (s.setSlot k x).slot j = s.slot j := mget_mput_ne _ _ _ _ _ h
@[simp] theorem State.core_setCore (k : Nat) (x : Core) : (s.setCore k x).core k = x := mget_mput_self _ _ _ _
theorem State.core_setCore_ne (k j : Nat) (x : Core) (h : j ≠ k) : (s.setCore k x).core j = s.core j := mget_mput_ne _ _ _ _ _ h
@[simp] theorem State.clu_setClu (k : Nat) (x : Cluster) : (s.setClu k x).clu k = x := mget_mput_self _ _ _ _
theorem State.clu_setClu_ne (k j : Nat) (x : Cluster) (h : j ≠ k) : (s.setClu k x).clu j = s.clu j := mget_mput_ne _ _ _ _ _ h
@[simp] theorem State.qtr_setQtr (k : Nat) (x : Quarter) : (s.setQtr k x).qtr k = x := mget_mput_self _ _ _ _
theorem State.qtr_setQtr_ne (k j : Nat) (x : Quarter) (h : j ≠ k) : (s.setQtr k x).qtr j = s.qtr j := mget_mput_ne _ _ _ _ _ h
@[simp] theorem State.bank_setBank (k : Nat) (x : Bank) : (s.setBank k x).bank k = x := mget_mput_self _ _ _ _
theorem State.bank_setBank_ne (k j : Nat) (x : Bank) (h : j ≠ k) : (s.setBank k x).bank j = s.bank j := mget_mput_ne _ _ _ _ _ h
@[simp] theorem State.part_setPart (k : Nat) (x : Part) : (s.setPart k x).part k = x := mget_mput_self _ _ _ _
theorem State.part_setPart_ne (k j : Nat) (x : Part) (h : j ≠ k) : (s.setPart k x).part j = s.part j := mget_mput_ne _ _ _ _ _ h
@[simp] theorem State.port_setPort (k : Nat) (x : Port) : (s.setPort k x).port k = x := mget_mput_self _ _ _ _
theorem State.port_setPort_ne (k j : Nat) (x : Port) (h : j ≠ k) : (s.setPort k x).port j = s.port j := mget_mput_ne _ _ _ _ _ h
@[simp] theorem State.slot_modSlot (t : Tid) (f : Slot → Slot) : (s.modSlot t f).slot t = f (s.slot t) := by simp [State.modSlot]
theorem State.slot_modSlot_ne (t u : Tid) (f : Slot → Slot) (h : u ≠ t) : (s.modSlot t f).slot u = s.slot u := by
  simp [State.modSlot, State.slot_setSlot_ne, h]
@[simp] theorem State.sem_setSem (c n v : Nat) : (s.setSem c n v).sem c n = v := by simp [State.sem, State.setSem]
@[simp] theorem State.queue_setQueue (c q : Nat) (l : List (Word × Bool)) : (s.setQueue c q l).queue c q = l := by
  simp [State.queue, State.setQueue]

/-! ### Units that other updates leave alone -/

@[simp] theorem State.core_of_setSlot (k : Nat) (t : Tid) (x : Slot) : (s.setSlot t x).core k = s.core k := rfl
@[simp] theorem State.clu_of_setSlot (k : Nat) (t : Tid) (x : Slot) : (s.setSlot t x).clu k = s.clu k := rfl
@[simp] theorem State.qtr_of_setSlot (k : Nat) (t : Tid) (x : Slot) : (s.setSlot t x).qtr k = s.qtr k := rfl
@[simp] theorem State.bank_of_setSlot (k : Nat) (t : Tid) (x : Slot) : (s.setSlot t x).bank k = s.bank k := rfl
@[simp] theorem State.part_of_setSlot (k : Nat) (t : Tid) (x : Slot) : (s.setSlot t x).part k = s.part k := rfl
@[simp] theorem State.port_of_setSlot (k : Nat) (t : Tid) (x : Slot) : (s.setSlot t x).port k = s.port k := rfl
@[simp] theorem State.core_of_modSlot (k : Nat) (t : Tid) (f : Slot → Slot) : (s.modSlot t f).core k = s.core k := rfl
@[simp] theorem State.clu_of_modSlot (k : Nat) (t : Tid) (f : Slot → Slot) : (s.modSlot t f).clu k = s.clu k := rfl
@[simp] theorem State.qtr_of_modSlot (k : Nat) (t : Tid) (f : Slot → Slot) : (s.modSlot t f).qtr k = s.qtr k := rfl
@[simp] theorem State.bank_of_modSlot (k : Nat) (t : Tid) (f : Slot → Slot) : (s.modSlot t f).bank k = s.bank k := rfl
@[simp] theorem State.part_of_modSlot (k : Nat) (t : Tid) (f : Slot → Slot) : (s.modSlot t f).part k = s.part k := rfl
@[simp] theorem State.port_of_modSlot (k : Nat) (t : Tid) (f : Slot → Slot) : (s.modSlot t f).port k = s.port k := rfl
@[simp] theorem State.core_of_modName (k : Nat) (t : Tid) (i : Ix) (f : NameSt → NameSt) : (s.modName t i f).core k = s.core k := rfl
@[simp] theorem State.clu_of_modName (k : Nat) (t : Tid) (i : Ix) (f : NameSt → NameSt) : (s.modName t i f).clu k = s.clu k := rfl
@[simp] theorem State.qtr_of_modName (k : Nat) (t : Tid) (i : Ix) (f : NameSt → NameSt) : (s.modName t i f).qtr k = s.qtr k := rfl
@[simp] theorem State.bank_of_modName (k : Nat) (t : Tid) (i : Ix) (f : NameSt → NameSt) : (s.modName t i f).bank k = s.bank k := rfl
@[simp] theorem State.part_of_modName (k : Nat) (t : Tid) (i : Ix) (f : NameSt → NameSt) : (s.modName t i f).part k = s.part k := rfl
@[simp] theorem State.port_of_modName (k : Nat) (t : Tid) (i : Ix) (f : NameSt → NameSt) : (s.modName t i f).port k = s.port k := rfl
@[simp] theorem State.slot_of_setCore (k : Nat) (c : Nat) (x : Core) : (s.setCore c x).slot k = s.slot k := rfl
@[simp] theorem State.clu_of_setCore (k : Nat) (c : Nat) (x : Core) : (s.setCore c x).clu k = s.clu k := rfl
@[simp] theorem State.qtr_of_setCore (k : Nat) (c : Nat) (x : Core) : (s.setCore c x).qtr k = s.qtr k := rfl
@[simp] theorem State.bank_of_setCore (k : Nat) (c : Nat) (x : Core) : (s.setCore c x).bank k = s.bank k := rfl
@[simp] theorem State.part_of_setCore (k : Nat) (c : Nat) (x : Core) : (s.setCore c x).part k = s.part k := rfl
@[simp] theorem State.port_of_setCore (k : Nat) (c : Nat) (x : Core) : (s.setCore c x).port k = s.port k := rfl
@[simp] theorem State.slot_of_setSem (k : Nat) (c n v : Nat) : (s.setSem c n v).slot k = s.slot k := rfl
@[simp] theorem State.clu_of_setSem (k : Nat) (c n v : Nat) : (s.setSem c n v).clu k = s.clu k := rfl
@[simp] theorem State.qtr_of_setSem (k : Nat) (c n v : Nat) : (s.setSem c n v).qtr k = s.qtr k := rfl
@[simp] theorem State.bank_of_setSem (k : Nat) (c n v : Nat) : (s.setSem c n v).bank k = s.bank k := rfl
@[simp] theorem State.part_of_setSem (k : Nat) (c n v : Nat) : (s.setSem c n v).part k = s.part k := rfl
@[simp] theorem State.port_of_setSem (k : Nat) (c n v : Nat) : (s.setSem c n v).port k = s.port k := rfl
@[simp] theorem State.slot_of_signal (k : Nat) (c n v : Nat) : (s.signal c n v).slot k = s.slot k := rfl
@[simp] theorem State.clu_of_signal (k : Nat) (c n v : Nat) : (s.signal c n v).clu k = s.clu k := rfl
@[simp] theorem State.qtr_of_signal (k : Nat) (c n v : Nat) : (s.signal c n v).qtr k = s.qtr k := rfl
@[simp] theorem State.bank_of_signal (k : Nat) (c n v : Nat) : (s.signal c n v).bank k = s.bank k := rfl
@[simp] theorem State.part_of_signal (k : Nat) (c n v : Nat) : (s.signal c n v).part k = s.part k := rfl
@[simp] theorem State.port_of_signal (k : Nat) (c n v : Nat) : (s.signal c n v).port k = s.port k := rfl
@[simp] theorem State.slot_of_setQueue (k : Nat) (c q : Nat) (l : List (Word × Bool)) : (s.setQueue c q l).slot k = s.slot k := rfl
@[simp] theorem State.clu_of_setQueue (k : Nat) (c q : Nat) (l : List (Word × Bool)) : (s.setQueue c q l).clu k = s.clu k := rfl
@[simp] theorem State.qtr_of_setQueue (k : Nat) (c q : Nat) (l : List (Word × Bool)) : (s.setQueue c q l).qtr k = s.qtr k := rfl
@[simp] theorem State.bank_of_setQueue (k : Nat) (c q : Nat) (l : List (Word × Bool)) : (s.setQueue c q l).bank k = s.bank k := rfl
@[simp] theorem State.part_of_setQueue (k : Nat) (c q : Nat) (l : List (Word × Bool)) : (s.setQueue c q l).part k = s.part k := rfl
@[simp] theorem State.port_of_setQueue (k : Nat) (c q : Nat) (l : List (Word × Bool)) : (s.setQueue c q l).port k = s.port k := rfl
@[simp] theorem State.slot_of_setClu (k : Nat) (c : Nat) (x : Cluster) : (s.setClu c x).slot k = s.slot k := rfl
@[simp] theorem State.core_of_setClu (k : Nat) (c : Nat) (x : Cluster) : (s.setClu c x).core k = s.core k := rfl
@[simp] theorem State.qtr_of_setClu (k : Nat) (c : Nat) (x : Cluster) : (s.setClu c x).qtr k = s.qtr k := rfl
@[simp] theorem State.bank_of_setClu (k : Nat) (c : Nat) (x : Cluster) : (s.setClu c x).bank k = s.bank k := rfl
@[simp] theorem State.part_of_setClu (k : Nat) (c : Nat) (x : Cluster) : (s.setClu c x).part k = s.part k := rfl
@[simp] theorem State.port_of_setClu (k : Nat) (c : Nat) (x : Cluster) : (s.setClu c x).port k = s.port k := rfl
@[simp] theorem State.slot_of_setQtr (k : Nat) (c : Nat) (x : Quarter) : (s.setQtr c x).slot k = s.slot k := rfl
@[simp] theorem State.core_of_setQtr (k : Nat) (c : Nat) (x : Quarter) : (s.setQtr c x).core k = s.core k := rfl
@[simp] theorem State.clu_of_setQtr (k : Nat) (c : Nat) (x : Quarter) : (s.setQtr c x).clu k = s.clu k := rfl
@[simp] theorem State.bank_of_setQtr (k : Nat) (c : Nat) (x : Quarter) : (s.setQtr c x).bank k = s.bank k := rfl
@[simp] theorem State.part_of_setQtr (k : Nat) (c : Nat) (x : Quarter) : (s.setQtr c x).part k = s.part k := rfl
@[simp] theorem State.port_of_setQtr (k : Nat) (c : Nat) (x : Quarter) : (s.setQtr c x).port k = s.port k := rfl
@[simp] theorem State.slot_of_setBank (k : Nat) (c : Nat) (x : Bank) : (s.setBank c x).slot k = s.slot k := rfl
@[simp] theorem State.core_of_setBank (k : Nat) (c : Nat) (x : Bank) : (s.setBank c x).core k = s.core k := rfl
@[simp] theorem State.clu_of_setBank (k : Nat) (c : Nat) (x : Bank) : (s.setBank c x).clu k = s.clu k := rfl
@[simp] theorem State.qtr_of_setBank (k : Nat) (c : Nat) (x : Bank) : (s.setBank c x).qtr k = s.qtr k := rfl
@[simp] theorem State.part_of_setBank (k : Nat) (c : Nat) (x : Bank) : (s.setBank c x).part k = s.part k := rfl
@[simp] theorem State.port_of_setBank (k : Nat) (c : Nat) (x : Bank) : (s.setBank c x).port k = s.port k := rfl
@[simp] theorem State.slot_of_setPart (k : Nat) (c : Nat) (x : Part) : (s.setPart c x).slot k = s.slot k := rfl
@[simp] theorem State.core_of_setPart (k : Nat) (c : Nat) (x : Part) : (s.setPart c x).core k = s.core k := rfl
@[simp] theorem State.clu_of_setPart (k : Nat) (c : Nat) (x : Part) : (s.setPart c x).clu k = s.clu k := rfl
@[simp] theorem State.qtr_of_setPart (k : Nat) (c : Nat) (x : Part) : (s.setPart c x).qtr k = s.qtr k := rfl
@[simp] theorem State.bank_of_setPart (k : Nat) (c : Nat) (x : Part) : (s.setPart c x).bank k = s.bank k := rfl
@[simp] theorem State.port_of_setPart (k : Nat) (c : Nat) (x : Part) : (s.setPart c x).port k = s.port k := rfl
@[simp] theorem State.slot_of_setPort (k : Nat) (c : Nat) (x : Port) : (s.setPort c x).slot k = s.slot k := rfl
@[simp] theorem State.core_of_setPort (k : Nat) (c : Nat) (x : Port) : (s.setPort c x).core k = s.core k := rfl
@[simp] theorem State.clu_of_setPort (k : Nat) (c : Nat) (x : Port) : (s.setPort c x).clu k = s.clu k := rfl
@[simp] theorem State.qtr_of_setPort (k : Nat) (c : Nat) (x : Port) : (s.setPort c x).qtr k = s.qtr k := rfl
@[simp] theorem State.bank_of_setPort (k : Nat) (c : Nat) (x : Port) : (s.setPort c x).bank k = s.bank k := rfl
@[simp] theorem State.part_of_setPort (k : Nat) (c : Nat) (x : Port) : (s.setPort c x).part k = s.part k := rfl
@[simp] theorem State.slot_of_send (k : Nat) (r : Req) : (s.send r).slot k = s.slot k := rfl
@[simp] theorem State.core_of_send (k : Nat) (r : Req) : (s.send r).core k = s.core k := rfl
@[simp] theorem State.clu_of_send (k : Nat) (r : Req) : (s.send r).clu k = s.clu k := rfl
@[simp] theorem State.qtr_of_send (k : Nat) (r : Req) : (s.send r).qtr k = s.qtr k := rfl
@[simp] theorem State.bank_of_send (k : Nat) (r : Req) : (s.send r).bank k = s.bank k := rfl
@[simp] theorem State.part_of_send (k : Nat) (r : Req) : (s.send r).part k = s.part k := rfl
@[simp] theorem State.port_of_send (k : Nat) (r : Req) : (s.send r).port k = s.port k := rfl
@[simp] theorem State.slot_of_unsend (k : Nat) (n : Nat) : (s.unsend n).slot k = s.slot k := rfl
@[simp] theorem State.core_of_unsend (k : Nat) (n : Nat) : (s.unsend n).core k = s.core k := rfl
@[simp] theorem State.clu_of_unsend (k : Nat) (n : Nat) : (s.unsend n).clu k = s.clu k := rfl
@[simp] theorem State.qtr_of_unsend (k : Nat) (n : Nat) : (s.unsend n).qtr k = s.qtr k := rfl
@[simp] theorem State.bank_of_unsend (k : Nat) (n : Nat) : (s.unsend n).bank k = s.bank k := rfl
@[simp] theorem State.part_of_unsend (k : Nat) (n : Nat) : (s.unsend n).part k = s.part k := rfl
@[simp] theorem State.port_of_unsend (k : Nat) (n : Nat) : (s.unsend n).port k = s.port k := rfl
@[simp] theorem State.slot_of_setLsF (k : Nat) (c o : Nat) (f : Bool) : (s.setLsF c o f).slot k = s.slot k := rfl
@[simp] theorem State.core_of_setLsF (k : Nat) (c o : Nat) (f : Bool) : (s.setLsF c o f).core k = s.core k := rfl
@[simp] theorem State.clu_of_setLsF (k : Nat) (c o : Nat) (f : Bool) : (s.setLsF c o f).clu k = s.clu k := rfl
@[simp] theorem State.qtr_of_setLsF (k : Nat) (c o : Nat) (f : Bool) : (s.setLsF c o f).qtr k = s.qtr k := rfl
@[simp] theorem State.bank_of_setLsF (k : Nat) (c o : Nat) (f : Bool) : (s.setLsF c o f).bank k = s.bank k := rfl
@[simp] theorem State.part_of_setLsF (k : Nat) (c o : Nat) (f : Bool) : (s.setLsF c o f).part k = s.part k := rfl
@[simp] theorem State.port_of_setLsF (k : Nat) (c o : Nat) (f : Bool) : (s.setLsF c o f).port k = s.port k := rfl
@[simp] theorem State.slot_of_setLsP (k : Nat) (c o : Nat) (p : Bool) : (s.setLsP c o p).slot k = s.slot k := rfl
@[simp] theorem State.core_of_setLsP (k : Nat) (c o : Nat) (p : Bool) : (s.setLsP c o p).core k = s.core k := rfl
@[simp] theorem State.clu_of_setLsP (k : Nat) (c o : Nat) (p : Bool) : (s.setLsP c o p).clu k = s.clu k := rfl
@[simp] theorem State.qtr_of_setLsP (k : Nat) (c o : Nat) (p : Bool) : (s.setLsP c o p).qtr k = s.qtr k := rfl
@[simp] theorem State.bank_of_setLsP (k : Nat) (c o : Nat) (p : Bool) : (s.setLsP c o p).bank k = s.bank k := rfl
@[simp] theorem State.part_of_setLsP (k : Nat) (c o : Nat) (p : Bool) : (s.setLsP c o p).part k = s.part k := rfl
@[simp] theorem State.port_of_setLsP (k : Nat) (c o : Nat) (p : Bool) : (s.setLsP c o p).port k = s.port k := rfl
@[simp] theorem State.slot_of_lsWrite (k : Nat) (c o n v : Nat) (p : Bool) : (s.lsWrite c o n v p).slot k = s.slot k := rfl
@[simp] theorem State.core_of_lsWrite (k : Nat) (c o n v : Nat) (p : Bool) : (s.lsWrite c o n v p).core k = s.core k := rfl
@[simp] theorem State.clu_of_lsWrite (k : Nat) (c o n v : Nat) (p : Bool) : (s.lsWrite c o n v p).clu k = s.clu k := rfl
@[simp] theorem State.qtr_of_lsWrite (k : Nat) (c o n v : Nat) (p : Bool) : (s.lsWrite c o n v p).qtr k = s.qtr k := rfl
@[simp] theorem State.bank_of_lsWrite (k : Nat) (c o n v : Nat) (p : Bool) : (s.lsWrite c o n v p).bank k = s.bank k := rfl
@[simp] theorem State.part_of_lsWrite (k : Nat) (c o n v : Nat) (p : Bool) : (s.lsWrite c o n v p).part k = s.part k := rfl
@[simp] theorem State.port_of_lsWrite (k : Nat) (c o n v : Nat) (p : Bool) : (s.lsWrite c o n v p).port k = s.port k := rfl
@[simp] theorem State.slot_of_memWrite (k : Nat) (a n v : Nat) (p : Bool) : (s.memWrite a n v p).slot k = s.slot k := rfl
@[simp] theorem State.core_of_memWrite (k : Nat) (a n v : Nat) (p : Bool) : (s.memWrite a n v p).core k = s.core k := rfl
@[simp] theorem State.clu_of_memWrite (k : Nat) (a n v : Nat) (p : Bool) : (s.memWrite a n v p).clu k = s.clu k := rfl
@[simp] theorem State.qtr_of_memWrite (k : Nat) (a n v : Nat) (p : Bool) : (s.memWrite a n v p).qtr k = s.qtr k := rfl
@[simp] theorem State.bank_of_memWrite (k : Nat) (a n v : Nat) (p : Bool) : (s.memWrite a n v p).bank k = s.bank k := rfl
@[simp] theorem State.part_of_memWrite (k : Nat) (a n v : Nat) (p : Bool) : (s.memWrite a n v p).part k = s.part k := rfl
@[simp] theorem State.port_of_memWrite (k : Nat) (a n v : Nat) (p : Bool) : (s.memWrite a n v p).port k = s.port k := rfl
@[simp] theorem State.slot_of_reportHost (k : Nat) (ws : List Word) : (s.reportHost ws).slot k = s.slot k := rfl
@[simp] theorem State.core_of_reportHost (k : Nat) (ws : List Word) : (s.reportHost ws).core k = s.core k := rfl
@[simp] theorem State.clu_of_reportHost (k : Nat) (ws : List Word) : (s.reportHost ws).clu k = s.clu k := rfl
@[simp] theorem State.qtr_of_reportHost (k : Nat) (ws : List Word) : (s.reportHost ws).qtr k = s.qtr k := rfl
@[simp] theorem State.bank_of_reportHost (k : Nat) (ws : List Word) : (s.reportHost ws).bank k = s.bank k := rfl
@[simp] theorem State.part_of_reportHost (k : Nat) (ws : List Word) : (s.reportHost ws).part k = s.part k := rfl
@[simp] theorem State.port_of_reportHost (k : Nat) (ws : List Word) : (s.reportHost ws).port k = s.port k := rfl
@[simp] theorem State.slot_of_advance (k : Nat) (n : Nat) : (s.advance n).slot k = s.slot k := rfl
@[simp] theorem State.core_of_advance (k : Nat) (n : Nat) : (s.advance n).core k = s.core k := rfl
@[simp] theorem State.clu_of_advance (k : Nat) (n : Nat) : (s.advance n).clu k = s.clu k := rfl
@[simp] theorem State.qtr_of_advance (k : Nat) (n : Nat) : (s.advance n).qtr k = s.qtr k := rfl
@[simp] theorem State.bank_of_advance (k : Nat) (n : Nat) : (s.advance n).bank k = s.bank k := rfl
@[simp] theorem State.part_of_advance (k : Nat) (n : Nat) : (s.advance n).part k = s.part k := rfl
@[simp] theorem State.port_of_advance (k : Nat) (n : Nat) : (s.advance n).port k = s.port k := rfl
@[simp] theorem State.partOf_of_setSlot (k : Nat) (t : Tid) (x : Slot) : (s.setSlot t x).partOf k = s.partOf k := rfl
@[simp] theorem State.cfgOf_of_setSlot (k : Nat) (t : Tid) (x : Slot) : (s.setSlot t x).cfgOf k = s.cfgOf k := rfl
@[simp] theorem State.partOf_of_modSlot (k : Nat) (t : Tid) (f : Slot → Slot) : (s.modSlot t f).partOf k = s.partOf k := rfl
@[simp] theorem State.cfgOf_of_modSlot (k : Nat) (t : Tid) (f : Slot → Slot) : (s.modSlot t f).cfgOf k = s.cfgOf k := rfl
@[simp] theorem State.partOf_of_modName (k : Nat) (t : Tid) (i : Ix) (f : NameSt → NameSt) : (s.modName t i f).partOf k = s.partOf k := rfl
@[simp] theorem State.cfgOf_of_modName (k : Nat) (t : Tid) (i : Ix) (f : NameSt → NameSt) : (s.modName t i f).cfgOf k = s.cfgOf k := rfl
@[simp] theorem State.partOf_of_setCore (k : Nat) (c : Nat) (x : Core) : (s.setCore c x).partOf k = s.partOf k := rfl
@[simp] theorem State.cfgOf_of_setCore (k : Nat) (c : Nat) (x : Core) : (s.setCore c x).cfgOf k = s.cfgOf k := rfl
@[simp] theorem State.partOf_of_setSem (k : Nat) (c n v : Nat) : (s.setSem c n v).partOf k = s.partOf k := rfl
@[simp] theorem State.cfgOf_of_setSem (k : Nat) (c n v : Nat) : (s.setSem c n v).cfgOf k = s.cfgOf k := rfl
@[simp] theorem State.partOf_of_signal (k : Nat) (c n v : Nat) : (s.signal c n v).partOf k = s.partOf k := rfl
@[simp] theorem State.cfgOf_of_signal (k : Nat) (c n v : Nat) : (s.signal c n v).cfgOf k = s.cfgOf k := rfl
@[simp] theorem State.partOf_of_setQueue (k : Nat) (c q : Nat) (l : List (Word × Bool)) : (s.setQueue c q l).partOf k = s.partOf k := rfl
@[simp] theorem State.cfgOf_of_setQueue (k : Nat) (c q : Nat) (l : List (Word × Bool)) : (s.setQueue c q l).cfgOf k = s.cfgOf k := rfl
@[simp] theorem State.partOf_of_setClu (k : Nat) (c : Nat) (x : Cluster) : (s.setClu c x).partOf k = s.partOf k := rfl
@[simp] theorem State.cfgOf_of_setClu (k : Nat) (c : Nat) (x : Cluster) : (s.setClu c x).cfgOf k = s.cfgOf k := rfl
@[simp] theorem State.partOf_of_setQtr (k : Nat) (c : Nat) (x : Quarter) : (s.setQtr c x).partOf k = s.partOf k := rfl
@[simp] theorem State.cfgOf_of_setQtr (k : Nat) (c : Nat) (x : Quarter) : (s.setQtr c x).cfgOf k = s.cfgOf k := rfl
@[simp] theorem State.partOf_of_setBank (k : Nat) (c : Nat) (x : Bank) : (s.setBank c x).partOf k = s.partOf k := rfl
@[simp] theorem State.cfgOf_of_setBank (k : Nat) (c : Nat) (x : Bank) : (s.setBank c x).cfgOf k = s.cfgOf k := rfl
@[simp] theorem State.partOf_of_setPort (k : Nat) (c : Nat) (x : Port) : (s.setPort c x).partOf k = s.partOf k := rfl
@[simp] theorem State.cfgOf_of_setPort (k : Nat) (c : Nat) (x : Port) : (s.setPort c x).cfgOf k = s.cfgOf k := rfl
@[simp] theorem State.partOf_of_send (k : Nat) (r : Req) : (s.send r).partOf k = s.partOf k := rfl
@[simp] theorem State.cfgOf_of_send (k : Nat) (r : Req) : (s.send r).cfgOf k = s.cfgOf k := rfl
@[simp] theorem State.partOf_of_unsend (k : Nat) (n : Nat) : (s.unsend n).partOf k = s.partOf k := rfl
@[simp] theorem State.cfgOf_of_unsend (k : Nat) (n : Nat) : (s.unsend n).cfgOf k = s.cfgOf k := rfl
@[simp] theorem State.partOf_of_setLsF (k : Nat) (c o : Nat) (f : Bool) : (s.setLsF c o f).partOf k = s.partOf k := rfl
@[simp] theorem State.cfgOf_of_setLsF (k : Nat) (c o : Nat) (f : Bool) : (s.setLsF c o f).cfgOf k = s.cfgOf k := rfl
@[simp] theorem State.partOf_of_setLsP (k : Nat) (c o : Nat) (p : Bool) : (s.setLsP c o p).partOf k = s.partOf k := rfl
@[simp] theorem State.cfgOf_of_setLsP (k : Nat) (c o : Nat) (p : Bool) : (s.setLsP c o p).cfgOf k = s.cfgOf k := rfl
@[simp] theorem State.partOf_of_lsWrite (k : Nat) (c o n v : Nat) (p : Bool) : (s.lsWrite c o n v p).partOf k = s.partOf k := rfl
@[simp] theorem State.cfgOf_of_lsWrite (k : Nat) (c o n v : Nat) (p : Bool) : (s.lsWrite c o n v p).cfgOf k = s.cfgOf k := rfl
@[simp] theorem State.partOf_of_memWrite (k : Nat) (a n v : Nat) (p : Bool) : (s.memWrite a n v p).partOf k = s.partOf k := rfl
@[simp] theorem State.cfgOf_of_memWrite (k : Nat) (a n v : Nat) (p : Bool) : (s.memWrite a n v p).cfgOf k = s.cfgOf k := rfl
@[simp] theorem State.partOf_of_reportHost (k : Nat) (ws : List Word) : (s.reportHost ws).partOf k = s.partOf k := rfl
@[simp] theorem State.cfgOf_of_reportHost (k : Nat) (ws : List Word) : (s.reportHost ws).cfgOf k = s.cfgOf k := rfl
@[simp] theorem State.partOf_of_advance (k : Nat) (n : Nat) : (s.advance n).partOf k = s.partOf k := rfl
@[simp] theorem State.cfgOf_of_advance (k : Nat) (n : Nat) : (s.advance n).cfgOf k = s.cfgOf k := rfl

end Sys2Proof.Machine
end

