-- ==== Sys2Proof/Laws/Count.lean ====
section
/-! SUPPORT. Counting an event on the counters of a core changes those counters alone. -/

namespace Sys2Proof.Machine

/-- Setting a counter of a core changes that core's counters alone. -/
theorem State.setCtr_core (s : State) (c k : Nat) (x : Ctr) :
    (∃ cs, s.setCtr 0 c k x = { s with cores := cs }) ∧
    ∀ d, ∃ l, (s.setCtr 0 c k x).core d = { s.core d with ctrs := l } := by
  refine ⟨⟨_, rfl⟩, fun d => ?_⟩
  by_cases h : d = c
  · subst h
    exact ⟨_, State.core_setCore _ _ _⟩
  · exact ⟨(s.core d).ctrs, State.core_setCore_ne _ _ _ _ h⟩

/-- Counting an event of a core changes that core's counters alone. -/
theorem State.count_core (s : State) (c evt n : Nat) (sm : Bool) :
    (∃ cs, s.count 0 c evt sm n = { s with cores := cs }) ∧
    ∀ d, ∃ l, (s.count 0 c evt sm n).core d = { s.core d with ctrs := l } := by
  have key : ∀ (ks : SMap Ctr) (st : State),
      (∃ cs, st = { s with cores := cs }) → (∀ d, ∃ l, st.core d = { s.core d with ctrs := l }) →
      (∃ cs, ks.foldl (fun st e => if e.2.counts s.cycle evt sm then st.setCtr 0 c e.1 { e.2 with count := e.2.count + n } else st) st
        = { s with cores := cs }) ∧
      ∀ d, ∃ l, (ks.foldl (fun st e => if e.2.counts s.cycle evt sm then st.setCtr 0 c e.1 { e.2 with count := e.2.count + n }
        else st) st).core d = { s.core d with ctrs := l } := by
    intro ks
    induction ks with
    | nil => intro st h1 h2; exact ⟨h1, h2⟩
    | cons e ks ih =>
      intro st h1 h2
      simp only [List.foldl_cons]
      apply ih
      · obtain ⟨cs, rfl⟩ := h1
        split
        · exact ⟨_, rfl⟩
        · exact ⟨cs, rfl⟩
      · intro d
        split
        · obtain ⟨l, hl⟩ := h2 d
          obtain ⟨l', hl'⟩ := (State.setCtr_core st c e.1 { e.2 with count := e.2.count + n }).2 d
          exact ⟨l', by rw [hl', hl]⟩
        · exact h2 d
  exact key _ s ⟨s.cores, rfl⟩ (fun d => ⟨(s.core d).ctrs, rfl⟩)

theorem State.counted_core (s : State) :
    (∃ cs, s.counted = { s with cores := cs }) ∧ ∀ d, ∃ l, s.counted.core d = { s.core d with ctrs := l } :=
  State.count_core _ _ _ _ _

@[simp] theorem State.counted_slot (s : State) (t : Tid) : s.counted.slot t = s.slot t := by
  obtain ⟨⟨cs, h⟩, -⟩ := s.counted_core; rw [h]; rfl
@[simp] theorem State.counted_slots (s : State) : s.counted.slots = s.slots := by
  obtain ⟨⟨cs, h⟩, -⟩ := s.counted_core; rw [h]
@[simp] theorem State.counted_cur (s : State) : s.counted.cur = s.cur := by
  obtain ⟨⟨cs, h⟩, -⟩ := s.counted_core; rw [h]
@[simp] theorem State.counted_mem (s : State) : s.counted.mem = s.mem := by
  obtain ⟨⟨cs, h⟩, -⟩ := s.counted_core; rw [h]
@[simp] theorem State.counted_memP (s : State) : s.counted.memP = s.memP := by
  obtain ⟨⟨cs, h⟩, -⟩ := s.counted_core; rw [h]
@[simp] theorem State.counted_lmem (s : State) : s.counted.lmem = s.lmem := by
  obtain ⟨⟨cs, h⟩, -⟩ := s.counted_core; rw [h]
@[simp] theorem State.counted_lf (s : State) : s.counted.lf = s.lf := by
  obtain ⟨⟨cs, h⟩, -⟩ := s.counted_core; rw [h]
@[simp] theorem State.counted_lp (s : State) : s.counted.lp = s.lp := by
  obtain ⟨⟨cs, h⟩, -⟩ := s.counted_core; rw [h]
@[simp] theorem State.counted_inflight (s : State) : s.counted.inflight = s.inflight := by
  obtain ⟨⟨cs, h⟩, -⟩ := s.counted_core; rw [h]
@[simp] theorem State.counted_cmds (s : State) : s.counted.cmds = s.cmds := by
  obtain ⟨⟨cs, h⟩, -⟩ := s.counted_core; rw [h]
@[simp] theorem State.counted_partOf (s : State) (c : Nat) : s.counted.partOf c = s.partOf c := by
  obtain ⟨⟨cs, h⟩, -⟩ := s.counted_core; rw [h]; rfl
@[simp] theorem State.counted_sem (s : State) (c k : Nat) : s.counted.sem c k = s.sem c k := by
  obtain ⟨l, h⟩ := s.counted_core.2 c; simp only [State.sem, h]
@[simp] theorem State.counted_queue (s : State) (c k : Nat) : s.counted.queue c k = s.queue c k := by
  obtain ⟨l, h⟩ := s.counted_core.2 c; simp only [State.queue, h]

end Sys2Proof.Machine
end

