-- ==== Sys2Proof/Laws/Memory.lean ====
section
/-! SUPPORT. Memory: reading after writing, frames, and the canonical form, which every memory operation keeps. -/

namespace Sys2Proof.Machine

/-! ### One byte -/

@[simp] theorem Memory.read_write_self (m : List Host.Cell) (a : Nat) (v : Byte) :
    Memory.read (Memory.write m a v) a = v := mget_mput_self _ _ _ _

theorem Memory.read_write_ne (m : List Host.Cell) (a b : Nat) (v : Byte) (h : b ≠ a) :
    Memory.read (Memory.write m a v) b = Memory.read m b := mget_mput_ne _ _ _ _ _ h

theorem Memory.write_wf (m : List Host.Cell) (a : Nat) (v : Byte) (h : Memory.wf m = true) :
    Memory.wf (Memory.write m a v) = true := mput_wf _ _ _ _ h

/-! ### Runs of bytes -/

theorem Memory.writes_wf (m : List Host.Cell) (a : Nat) (bs : List Byte) (h : Memory.wf m = true) :
    Memory.wf (Memory.writes m a bs) = true := by
  induction bs generalizing m a with
  | nil => exact h
  | cons b bs ih => exact ih _ _ (Memory.write_wf m a b h)

/-- A byte after a run of bytes has been written. -/
theorem Memory.read_writes (m : List Host.Cell) (a x : Nat) (bs : List Byte) :
    Memory.read (Memory.writes m a bs) x =
      if a ≤ x ∧ x < a + bs.length then bs.getD (x - a) 0 else Memory.read m x := by
  induction bs generalizing m a with
  | nil => rw [if_neg (by simp)]; rfl
  | cons b bs ih =>
    rw [Memory.writes, ih]
    by_cases h : x = a
    · subst h
      rw [if_neg (by omega), if_pos (by simp)]
      simp
    · by_cases c : a + 1 ≤ x ∧ x < a + 1 + bs.length
      · rw [if_pos c, if_pos (by simp; omega), show x - a = (x - (a + 1)) + 1 by omega]
        simp
      · rw [if_neg c, if_neg (by simp at c ⊢; omega), Memory.read_write_ne _ _ _ _ h]

theorem toBytes_length (n v : Nat) : (toBytes n v).length = n := by
  induction n generalizing v with
  | zero => rfl
  | succ n ih => simp [toBytes, ih]

theorem toBytes_getD (n v k : Nat) (h : k < n) : (toBytes n v).getD k 0 = BitVec.ofNat 8 (v / 256 ^ k) := by
  induction n generalizing v k with
  | zero => omega
  | succ n ih =>
    cases k with
    | zero => simp [toBytes]
    | succ k =>
      have := ih (v / 256) k (by omega)
      simp only [toBytes, List.getD_cons_succ, this, Nat.pow_succ, Nat.div_div_eq_div_mul, Nat.mul_comm]

/-- The bytes of a number give it back, cut to their width. -/
theorem leBytes_toBytes (n v : Nat) : leBytes (toBytes n v) = v % 256 ^ n := by
  induction n generalizing v with
  | zero => simp [toBytes, leBytes, Nat.mod_one]
  | succ n ih =>
    rw [toBytes, leBytes, ih, Nat.pow_succ, Nat.mul_comm (256 ^ n), Nat.mod_mul]
    simp

theorem Memory.reads_congr (m k : List Host.Cell) (a n : Nat) (h : ∀ x, a ≤ x → x < a + n → Memory.read m x = Memory.read k x) :
    Memory.reads m a n = Memory.reads k a n := by
  induction n generalizing a with
  | zero => rfl
  | succ n ih =>
    rw [Memory.reads, Memory.reads, h a (by omega) (by omega), ih (a + 1) (fun x h1 h2 => h x (by omega) (by omega))]

/-- Reading a run of bytes after writing it gives it back. -/
theorem Memory.reads_writes (m : List Host.Cell) (a : Nat) (bs : List Byte) :
    Memory.reads (Memory.writes m a bs) a bs.length = bs := by
  induction bs generalizing m a with
  | nil => rfl
  | cons b bs ih =>
    rw [Memory.writes, List.length_cons, Memory.reads, ih, Memory.read_writes, if_neg (by omega), Memory.read_write_self]

/-- A run of bytes apart from the run written reads as before. -/
theorem Memory.reads_writes_apart (m : List Host.Cell) (a b n : Nat) (bs : List Byte)
    (h : b + n ≤ a ∨ a + bs.length ≤ b) : Memory.reads (Memory.writes m a bs) b n = Memory.reads m b n := by
  apply Memory.reads_congr
  intro x h1 h2
  rw [Memory.read_writes, if_neg (by omega)]

/-! ### Words of memory and of a local store -/

/-- Memory read where it was written. -/
theorem State.memRead_memWrite (s : State) (a n v : Nat) (p : Bool) : (s.memWrite a n v p).memRead a n = v % 256 ^ n := by
  have := Memory.reads_writes s.mem a (toBytes n v)
  rw [toBytes_length] at this
  simp only [State.memRead, State.memWrite, this, leBytes_toBytes]

/-- Memory apart from what was written. -/
theorem State.memRead_memWrite_apart (s : State) (a n v : Nat) (p : Bool) (b k : Nat) (h : b + k ≤ a ∨ a + n ≤ b) :
    (s.memWrite a n v p).memRead b k = s.memRead b k := by
  simp only [State.memRead, State.memWrite]
  rw [Memory.reads_writes_apart _ _ _ _ _ (by rw [toBytes_length]; exact h)]

/-- A local store read where it was written. -/
theorem State.lsRead_lsWrite (s : State) (c o n v : Nat) (p : Bool) : (s.lsWrite c o n v p).lsRead c o n = v % 256 ^ n := by
  have := Memory.reads_writes s.lmem (lsKey c o) (toBytes n v)
  rw [toBytes_length] at this
  simp only [State.lsRead, State.lsWrite, this, leBytes_toBytes]

theorem State.memWrite_wf (s : State) (a n v : Nat) (p : Bool) (h : Memory.wf s.mem = true) (hp : mwf false s.memP = true) :
    Memory.wf (s.memWrite a n v p).mem = true ∧ mwf false (s.memWrite a n v p).memP = true :=
  ⟨Memory.writes_wf _ _ _ h, mput_wf _ _ _ _ hp⟩

theorem State.lsWrite_wf (s : State) (c o n v : Nat) (p : Bool) (h : Memory.wf s.lmem = true) (hp : mwf false s.lp = true) :
    Memory.wf (s.lsWrite c o n v p).lmem = true ∧ mwf false (s.lsWrite c o n v p).lp = true :=
  ⟨Memory.writes_wf _ _ _ h, mput_wf _ _ _ _ hp⟩

theorem State.setLsF_wf (s : State) (c o : Nat) (f : Bool) (h : mwf false s.lf = true) :
    mwf false (s.setLsF c o f).lf = true := mput_wf _ _ _ _ h

theorem State.setLsP_wf (s : State) (c o : Nat) (f : Bool) (h : mwf false s.lp = true) :
    mwf false (s.setLsP c o f).lp = true := mput_wf _ _ _ _ h

theorem State.putByte_wf (s : State) (t : Tgt) (b : Byte) (h : Memory.wf s.mem = true) (hl : Memory.wf s.lmem = true) :
    Memory.wf (s.putByte t b).mem = true ∧ Memory.wf (s.putByte t b).lmem = true := by
  cases t with
  | mem pa => exact ⟨Memory.write_wf _ _ _ h, hl⟩
  | ls c o => exact ⟨h, Memory.write_wf _ _ _ hl⟩

theorem State.tgtWrite_wf (s : State) (t : Tgt) (n v : Nat) (p : Bool) (h : Memory.wf s.mem = true)
    (hl : Memory.wf s.lmem = true) :
    Memory.wf (s.tgtWrite t n v p).mem = true ∧ Memory.wf (s.tgtWrite t n v p).lmem = true := by
  cases t with
  | mem pa => exact ⟨Memory.writes_wf _ _ _ h, hl⟩
  | ls c o => exact ⟨h, Memory.writes_wf _ _ _ hl⟩

end Sys2Proof.Machine
end

