-- ==== Sys2Proof/Laws/Devices.lean ====
section
/-! SUPPORT. What writes of the device itself, flits and operations on a line can change, and the length of a digest. -/

namespace Sys2Proof.Machine

variable (s : State)

theorem State.memWrite_only (a n v : Nat) (p : Bool) : ∃ m q, s.memWrite a n v p = { s with mem := m, memP := q } := ⟨_, _, rfl⟩

/-- A flit that ends no capsule changes nothing but ports. -/
theorem State.sendFlit_only (dev kind : Nat) (ws : List (Word × Bool)) :
    ∃ ps, s.sendFlit dev kind none ws = { s with ports := ps } := by
  simp only [State.sendFlit, State.sendKept]
  split
  · exact ⟨_, rfl⟩
  · split
    · split
      · exact ⟨_, rfl⟩
      · exact ⟨s.ports, rfl⟩
    · exact ⟨s.ports, rfl⟩

/-- A peer's write that needs no trace changes nothing but memory. -/
theorem State.peerWrite_only (dev tid pa n : Nat) (ws : List (Word × Bool)) :
    ∃ m q, s.peerWrite dev tid false pa n ws = { s with mem := m, memP := q } := by
  induction ws generalizing s pa n with
  | nil => exact ⟨_, _, rfl⟩
  | cons w ws ih =>
    rw [State.peerWrite]
    split
    · exact ⟨_, _, rfl⟩
    · obtain ⟨m, q, h⟩ := s.memWrite_only pa (min n (8 - pa % 8)) w.1.toNat w.2
      simp only [Bool.false_eq_true, if_false, h]
      exact ih ..

theorem askWords_write (n pa : Nat) (ws : List (Word × Bool)) :
    ∃ h a, askWords 16 n 0 pa false ws = [(h, false), (a, false)] ++ ws ∧ wbits h 15 8 = 16 ∧ wbits h 6 6 = 0 := by
  refine ⟨_, _, rfl, ?_, ?_⟩ <;> simp [wbits, bits, b2n] <;> omega

/-- A word that the device writes on its own changes nothing but memory, the ports to peers and the number of the next
request; outside the peer windows it is a plain write. -/
theorem State.sysWrite_only (pa n v : Nat) (p : Bool) :
    ∃ m q ps k, s.sysWrite pa n v p = { s with mem := m, memP := q, ports := ps, nextId := k } := by
  obtain ⟨m, q, h⟩ := s.memWrite_only pa n v p
  obtain ⟨hd, a, ha, hk, ht⟩ := askWords_write n pa [(BitVec.ofNat 64 v, p)]
  simp only [State.sysWrite, h, ha]
  split
  · simp only [State.post, List.cons_append, List.nil_append]
    split
    · simp only [State.serve, List.getElem?_cons_zero, Option.map_some, Option.getD_some, hk, ht]
      obtain ⟨m', q', h'⟩ := State.peerWrite_only { s with mem := m, memP := q } (peerDev pa) (wbits hd 63 48) a.toNat
        (wbits hd 31 16) [(BitVec.ofNat 64 v, p)]
      exact ⟨m', q', s.ports, s.nextId, by simpa using h'⟩
    · obtain ⟨ps, h'⟩ := State.sendFlit_only { s with mem := m, memP := q, nextId := s.nextId + 1 } (peerDev pa) 1 _
      exact ⟨m, q, ps, s.nextId + 1, by rw [h']⟩
  · exact ⟨m, q, s.ports, s.nextId, rfl⟩

@[simp] theorem State.sysWrite_local (pa n v : Nat) (p : Bool) (h : isPeer pa = false) :
    s.sysWrite pa n v p = s.memWrite pa n v p := by simp [State.sysWrite, h]

@[simp] theorem State.putWord_slots (pa v : Nat) : (s.putWord pa v).slots = s.slots := by
  obtain ⟨m, q, ps, k, h⟩ := s.sysWrite_only pa 8 (v % 2 ^ 64) false
  rw [State.putWord, h]

/-- An operation on a line that needs no trace changes nothing but memory. -/
theorem State.lineOp_only (op : LineOp) (pa : Nat) (ss : PBytes) :
    ∃ m q, s.lineOp op pa ss (fun st _ => st) = { s with mem := m, memP := q } := by
  simp only [State.lineOp]
  generalize byWords pa _ = l
  induction l generalizing s with
  | nil => exact ⟨_, _, rfl⟩
  | cons w l ih =>
    obtain ⟨m, q, h⟩ := s.memWrite_only w.1.1 w.1.2 w.2.1 w.2.2
    simp only [List.foldl_cons, h]
    exact ih ..

/-! ### The length of a digest -/

theorem shaRound_length (v : List Word) (kw : Word × Word) : (shaRound v kw).length = v.length := by
  unfold shaRound; split <;> rfl

theorem shaBlock_length (h ws : List Word) : (shaBlock h ws).length = h.length := by
  have : ∀ (l : List (Word × Word)) (v : List Word), (l.foldl shaRound v).length = v.length := by
    intro l
    induction l with
    | nil => intro v; rfl
    | cons k l ih => intro v; rw [List.foldl_cons, ih, shaRound_length]
  simp [shaBlock, this]

theorem shaBlocks_length (n : Nat) (bs : List Byte) (h : List Word) : (shaBlocks n bs h).length = h.length := by
  induction n generalizing bs h with
  | zero => rfl
  | succ n ih => rw [shaBlocks, ih, shaBlock_length]

theorem shaIv_length : shaIv.length = 8 := by
  simp only [shaIv, List.length_map]; decide

@[simp] theorem sha384_length (m : List Byte) : (sha384 m).length = 48 := by
  have h : ((shaBlocks ((shaPad m).length / 128) (shaPad m) shaIv).take 6).length = 6 := by
    simp [shaBlocks_length, shaIv_length]
  simp only [sha384, List.length_flatMap, List.length_reverse, toBytes_length]
  generalize (shaBlocks ((shaPad m).length / 128) (shaPad m) shaIv).take 6 = l at h ⊢
  match l, h with
  | [_, _, _, _, _, _], _ => rfl

end Sys2Proof.Machine
end

