-- ==== Sys2Proof/Laws/Dispatch.lean ====
section
/-! SUPPORT. Each arm of exec as an equation, and the ops that may stand in a pair at once. -/

namespace Sys2Proof.Machine

variable (st : State)

@[simp] theorem exec_nop (g : Guard) (pad : Bool) : exec (.nop g pad) st = execNop g pad st := rfl
@[simp] theorem exec_b (g : Guard) (t : Imm) : exec (.b g t) st = execB g t st := rfl
@[simp] theorem exec_bl (g : Guard) (d : Ix) (t : Imm) : exec (.bl g d t) st = execBl g d t st := rfl
@[simp] theorem exec_bx (g : Guard) (d : Ix) (a : Opd) : exec (.bx g d a) st = execBx g d a st := rfl
@[simp] theorem exec_ret (g : Guard) (a : Opd) : exec (.ret g a) st = execRet g a st := rfl
@[simp] theorem exec_loop (g : Guard) (cnt : LoopCnt) (off : BitVec 14) : exec (.loop g cnt off) st = execLoop g cnt off st := rfl
@[simp] theorem exec_lexit (g : Guard) : exec (.lexit g) st = execLexit g st := rfl
@[simp] theorem exec_trap (g : Guard) (code : BitVec 8) : exec (.trap g code) st = execTrap g code st := rfl
@[simp] theorem exec_eret (g : Guard) : exec (.eret g) st = execEret g st := rfl
@[simp] theorem exec_sread (g : Guard) (d : Opd) (sel : BitVec 14) : exec (.sread g d sel) st = execSread g d sel st := rfl
@[simp] theorem exec_swrite (g : Guard) (sel : BitVec 14) (a : Opd) : exec (.swrite g sel a) st = execSwrite g sel a st := rfl
@[simp] theorem exec_rgn (g : Guard) (f : BitVec 8) (c : BitVec 6) (live : Option Word) : exec (.rgn g f c live) st = execRgn g f c live st := rfl
@[simp] theorem exec_rgnend (g : Guard) : exec (.rgnend g) st = execRgnend g st := rfl
@[simp] theorem exec_ifence (g : Guard) : exec (.ifence g) st = execIfence g st := rfl
@[simp] theorem exec_yield (g : Guard) : exec (.yield g) st = execYield g st := rfl
@[simp] theorem exec_tune (g : Guard) (src : Src64) : exec (.tune g src) st = execTune g src st := rfl
@[simp] theorem exec_resize (g : Guard) (d : Ix) (wm1 : BitVec 6) : exec (.resize g d wm1) st = execResize g d wm1 st := rfl
@[simp] theorem exec_shape (g : Guard) (d : Ix) (v : Ix) (q : ShapeReq) : exec (.shape g d v q) st = execShape g d v q st := rfl
@[simp] theorem exec_width (g : Guard) (d : Ix) (a : Opd) : exec (.width g d a) st = execWidth g d a st := rfl
@[simp] theorem exec_fset (g : Guard) (d : Ix) : exec (.fset g d) st = execFset g d st := rfl
@[simp] theorem exec_fclr (g : Guard) (d : Ix) : exec (.fclr g d) st = execFclr g d st := rfl
@[simp] theorem exec_ftest (g : Guard) (d : Ix) (a : Ix) : exec (.ftest g d a) st = execFtest g d a st := rfl
@[simp] theorem exec_pdrainDrain (g : Guard) (d : Ix) (a : Opd) : exec (.pdrainDrain g d a) st = execPdrainDrain g d a st := rfl
@[simp] theorem exec_pdrainDrainPart (g : Guard) (d : Ix) (a : Opd) : exec (.pdrainDrainPart g d a) st = execPdrainDrainPart g d a st := rfl
@[simp] theorem exec_pdrainSave (g : Guard) (d : Ix) (a : Opd) (b : Opd) : exec (.pdrainSave g d a b) st = execPdrainSave g d a b st := rfl
@[simp] theorem exec_pdrainResume (g : Guard) (d : Ix) (b : Opd) : exec (.pdrainResume g d b) st = execPdrainResume g d b st := rfl
@[simp] theorem exec_preset (g : Guard) (d : Ix) (a : Opd) (b : Opd) : exec (.preset g d a b) st = execPreset g d a b st := rfl
@[simp] theorem exec_presetKeep (g : Guard) (d : Ix) (a : Opd) : exec (.presetKeep g d a) st = execPresetKeep g d a st := rfl
@[simp] theorem exec_slotrd (g : Guard) (d : Ix) (a : Opd) (sp : SlotSp) (sel : BitVec 8) : exec (.slotrd g d a sp sel) st = execSlotrd g d a sp sel st := rfl
@[simp] theorem exec_slotwr (g : Guard) (d : Ix) (a : Opd) (b : Opd) (sp : SlotSp) (sel : BitVec 8) (run : Bool) : exec (.slotwr g d a b sp sel run) st = execSlotwr g d a b sp sel run st := rfl
@[simp] theorem exec_slotkill (g : Guard) (d : Ix) (a : Opd) : exec (.slotkill g d a) st = execSlotkill g d a st := rfl
@[simp] theorem exec_tlbinvPage (g : Guard) (d : Ix) (a : Opd) : exec (.tlbinvPage g d a) st = execTlbinvPage g d a st := rfl
@[simp] theorem exec_tlbinvRange (g : Guard) (d : Ix) (a : Opd) (b : Opd) : exec (.tlbinvRange g d a b) st = execTlbinvRange g d a b st := rfl
@[simp] theorem exec_tlbinvCtx (g : Guard) (d : Ix) : exec (.tlbinvCtx g d) st = execTlbinvCtx g d st := rfl
@[simp] theorem exec_tlbinvAll (g : Guard) (d : Ix) : exec (.tlbinvAll g d) st = execTlbinvAll g d st := rfl
@[simp] theorem exec_wdset (g : Guard) (d : Ix) (a : Opd) (b : Opd) : exec (.wdset g d a b) st = execWdset g d a b st := rfl
@[simp] theorem exec_pmcfg (g : Guard) (a : Opd) (b : Opd) (zero : Bool) : exec (.pmcfg g a b zero) st = execPmcfg g a b zero st := rfl
@[simp] theorem exec_pmrd (g : Guard) (d : Ix) (a : Opd) (cfg : Bool) : exec (.pmrd g d a cfg) st = execPmrd g d a cfg st := rfl
@[simp] theorem exec_tracerd (g : Guard) (d : Ix) (a : Opd) (b : Option Opd) : exec (.tracerd g d a b) st = execTracerd g d a b st := rfl
@[simp] theorem exec_add (g : Guard) (d : Opd) (a : Opd) (b : Opd) : exec (.add g d a b) st = execAdd g d a b st := rfl
@[simp] theorem exec_addi (g : Guard) (d : Opd) (a : Opd) (imm : Imm) : exec (.addi g d a imm) st = execAddi g d a imm st := rfl
@[simp] theorem exec_sub (g : Guard) (d : Opd) (a : Opd) (b : Opd) : exec (.sub g d a b) st = execSub g d a b st := rfl
@[simp] theorem exec_mul (g : Guard) (d : Opd) (a : Opd) (b : Opd) : exec (.mul g d a b) st = execMul g d a b st := rfl
@[simp] theorem exec_mulh (g : Guard) (d : Opd) (a : Opd) (b : Opd) : exec (.mulh g d a b) st = execMulh g d a b st := rfl
@[simp] theorem exec_madd (g : Guard) (d : Opd) (a : Opd) (b : Opd) (c : Ix) : exec (.madd g d a b c) st = execMadd g d a b c st := rfl
@[simp] theorem exec_div (g : Guard) (d : Opd) (a : Opd) (b : Opd) (nz : Bool) : exec (.div g d a b nz) st = execDiv g d a b nz st := rfl
@[simp] theorem exec_rem (g : Guard) (d : Opd) (a : Opd) (b : Opd) (nz : Bool) : exec (.rem g d a b nz) st = execRem g d a b nz st := rfl
@[simp] theorem exec_and (g : Guard) (d : Opd) (a : Opd) (b : Opd) : exec (.and g d a b) st = execAnd g d a b st := rfl
@[simp] theorem exec_or (g : Guard) (d : Opd) (a : Opd) (b : Opd) : exec (.or g d a b) st = execOr g d a b st := rfl
@[simp] theorem exec_xor (g : Guard) (d : Opd) (a : Opd) (b : Opd) : exec (.xor g d a b) st = execXor g d a b st := rfl
@[simp] theorem exec_andn (g : Guard) (d : Opd) (a : Opd) (b : Opd) : exec (.andn g d a b) st = execAndn g d a b st := rfl
@[simp] theorem exec_shl (g : Guard) (d : Opd) (a : Opd) (k : Cnt) : exec (.shl g d a k) st = execShl g d a k st := rfl
@[simp] theorem exec_shr (g : Guard) (d : Opd) (a : Opd) (k : Cnt) : exec (.shr g d a k) st = execShr g d a k st := rfl
@[simp] theorem exec_sra (g : Guard) (d : Opd) (a : Opd) (k : Cnt) : exec (.sra g d a k) st = execSra g d a k st := rfl
@[simp] theorem exec_rot (g : Guard) (d : Opd) (a : Opd) (k : Cnt) : exec (.rot g d a k) st = execRot g d a k st := rfl
@[simp] theorem exec_min (g : Guard) (d : Opd) (a : Opd) (b : Opd) : exec (.min g d a b) st = execMin g d a b st := rfl
@[simp] theorem exec_max (g : Guard) (d : Opd) (a : Opd) (b : Opd) : exec (.max g d a b) st = execMax g d a b st := rfl
@[simp] theorem exec_abs (g : Guard) (d : Opd) (a : Opd) : exec (.abs g d a) st = execAbs g d a st := rfl
@[simp] theorem exec_clz (g : Guard) (d : Opd) (a : Opd) : exec (.clz g d a) st = execClz g d a st := rfl
@[simp] theorem exec_ctz (g : Guard) (d : Opd) (a : Opd) : exec (.ctz g d a) st = execCtz g d a st := rfl
@[simp] theorem exec_popc (g : Guard) (d : Opd) (a : Opd) : exec (.popc g d a) st = execPopc g d a st := rfl
@[simp] theorem exec_cmp (g : Guard) (cc : Cc) (d : Opd) (a : Opd) (b : Opd) : exec (.cmp g cc d a b) st = execCmp g cc d a b st := rfl
@[simp] theorem exec_cmpi (g : Guard) (cc : Cc) (d : Opd) (a : Opd) (imm : ImmC) : exec (.cmpi g cc d a imm) st = execCmpi g cc d a imm st := rfl
@[simp] theorem exec_sel (g : Guard) (d : Opd) (a : Opd) (b : Opd) (c : Ix) : exec (.sel g d a b c) st = execSel g d a b c st := rfl
@[simp] theorem exec_mov (g : Guard) (d : Opd) (a : Opd) : exec (.mov g d a) st = execMov g d a st := rfl
@[simp] theorem exec_movi (g : Guard) (d : Opd) (imm : Imm) : exec (.movi g d imm) st = execMovi g d imm st := rfl
@[simp] theorem exec_ext (g : Guard) (s : Bool) (d : Opd) (a : Opd) (pos : BitVec 6) (lenm1 : BitVec 6) : exec (.ext g s d a pos lenm1) st = execExt g s d a pos lenm1 st := rfl
@[simp] theorem exec_ins (g : Guard) (d : Ix) (a : Opd) (pos : BitVec 6) (lenm1 : BitVec 6) : exec (.ins g d a pos lenm1) st = execIns g d a pos lenm1 st := rfl
@[simp] theorem exec_ldl (g : Guard) (fe : LdFe) (d : Ix) (a : Opd) : exec (.ldl g fe d a) st = execLdl g fe d a st := rfl
@[simp] theorem exec_stl (g : Guard) (f : Bool) (a : Opd) (b : Opd) : exec (.stl g f a b) st = execStl g f a b st := rfl
@[simp] theorem exec_ldx (g : Guard) (cl : Bool) (acq : Option Scope) (d : Ix) (a : Opd) : exec (.ldx g cl acq d a) st = execLdx g cl acq d a st := rfl
@[simp] theorem exec_stx (g : Guard) (cl : Bool) (rel : Option Scope) (a : Opd) (b : Opd) : exec (.stx g cl rel a b) st = execStx g cl rel a b st := rfl
@[simp] theorem exec_fence (g : Guard) (sc : Scope) : exec (.fence g sc) st = execFence g sc st := rfl
@[simp] theorem exec_copy (g : Guard) (m : CopyMods) (d : Ix) (a : Opd) (b : Opd) (n : BitVec 32) (ws : Option Ws) : exec (.copy g m d a b n ws) st = execCopy g m d a b n ws st := rfl
@[simp] theorem exec_gather (g : Guard) (m : PlkMods) (d : Ix) (a : Opd) (ws : Option Ws) : exec (.gather g m d a ws) st = execGather g m d a ws st := rfl
@[simp] theorem exec_scatter (g : Guard) (m : PlkMods) (d : Ix) (a : Opd) (ws : Option Ws) : exec (.scatter g m d a ws) st = execScatter g m d a ws st := rfl
@[simp] theorem exec_scatadd (g : Guard) (m : PlkMods) (d : Ix) (a : Opd) (ws : Option Ws) : exec (.scatadd g m d a ws) st = execScatadd g m d a ws st := rfl
@[simp] theorem exec_bankopFill (g : Guard) (tr : Bool) (d : Ix) (a : Opd) (ws : Option Ws) : exec (.bankopFill g tr d a ws) st = execBankopFill g tr d a ws st := rfl
@[simp] theorem exec_bankopAxpy (g : Guard) (tr : Bool) (d : Ix) (a : Opd) (ws : Option Ws) : exec (.bankopAxpy g tr d a ws) st = execBankopAxpy g tr d a ws st := rfl
@[simp] theorem exec_bankopCvt (g : Guard) (tr : Bool) (d : Ix) (a : Opd) (ws : Option Ws) : exec (.bankopCvt g tr d a ws) st = execBankopCvt g tr d a ws st := rfl
@[simp] theorem exec_bankopSum (g : Guard) (tr : Bool) (d : Ix) (a : Opd) (ws : Option Ws) : exec (.bankopSum g tr d a ws) st = execBankopSum g tr d a ws st := rfl
@[simp] theorem exec_dtload (g : Guard) (tr : Bool) (d : Ix) (a : Opd) (ws : Option Ws) : exec (.dtload g tr d a ws) st = execDtload g tr d a ws st := rfl
@[simp] theorem exec_aadd (g : Guard) (f : AtomF) (ty : ITy) : exec (.aadd g f ty) st = execAadd g f ty st := rfl
@[simp] theorem exec_aand (g : Guard) (f : AtomF) (ty : ITy) : exec (.aand g f ty) st = execAand g f ty st := rfl
@[simp] theorem exec_acas (g : Guard) (f : AtomF) (ty : ITy) : exec (.acas g f ty) st = execAcas g f ty st := rfl
@[simp] theorem exec_afadd (g : Guard) (f : AtomF) (ty : FTy) (rm : Rm) : exec (.afadd g f ty rm) st = execAfadd g f ty rm st := rfl
@[simp] theorem exec_afmax (g : Guard) (f : AtomF) (ty : FTy) : exec (.afmax g f ty) st = execAfmax g f ty st := rfl
@[simp] theorem exec_afmin (g : Guard) (f : AtomF) (ty : FTy) : exec (.afmin g f ty) st = execAfmin g f ty st := rfl
@[simp] theorem exec_amax (g : Guard) (f : AtomF) (ty : ITy) : exec (.amax g f ty) st = execAmax g f ty st := rfl
@[simp] theorem exec_amin (g : Guard) (f : AtomF) (ty : ITy) : exec (.amin g f ty) st = execAmin g f ty st := rfl
@[simp] theorem exec_aor (g : Guard) (f : AtomF) (ty : ITy) : exec (.aor g f ty) st = execAor g f ty st := rfl
@[simp] theorem exec_aswap (g : Guard) (f : AtomF) (ty : ITy) : exec (.aswap g f ty) st = execAswap g f ty st := rfl
@[simp] theorem exec_axor (g : Guard) (f : AtomF) (ty : ITy) : exec (.axor g f ty) st = execAxor g f ty st := rfl
@[simp] theorem exec_fadd (g : Guard) (rm : Rm) (sat : Bool) (d : Opd) (a : Opd) (b : Opd) : exec (.fadd g rm sat d a b) st = execFadd g rm sat d a b st := rfl
@[simp] theorem exec_fsub (g : Guard) (rm : Rm) (sat : Bool) (d : Opd) (a : Opd) (b : Opd) : exec (.fsub g rm sat d a b) st = execFsub g rm sat d a b st := rfl
@[simp] theorem exec_fmul (g : Guard) (rm : Rm) (sat : Bool) (d : Opd) (a : Opd) (b : Opd) : exec (.fmul g rm sat d a b) st = execFmul g rm sat d a b st := rfl
@[simp] theorem exec_ffma (g : Guard) (rm : Rm) (sat : Bool) (d : Opd) (a : Opd) (b : Opd) (c : Ix) : exec (.ffma g rm sat d a b c) st = execFfma g rm sat d a b c st := rfl
@[simp] theorem exec_fdiv (g : Guard) (rm : Rm) (sat : Bool) (d : Opd) (a : Opd) (b : Opd) : exec (.fdiv g rm sat d a b) st = execFdiv g rm sat d a b st := rfl
@[simp] theorem exec_fsqrt (g : Guard) (rm : Rm) (sat : Bool) (d : Opd) (a : Opd) : exec (.fsqrt g rm sat d a) st = execFsqrt g rm sat d a st := rfl
@[simp] theorem exec_fmin (g : Guard) (d : Opd) (a : Opd) (b : Opd) : exec (.fmin g d a b) st = execFmin g d a b st := rfl
@[simp] theorem exec_fmax (g : Guard) (d : Opd) (a : Opd) (b : Opd) : exec (.fmax g d a b) st = execFmax g d a b st := rfl
@[simp] theorem exec_fcmp (g : Guard) (cc : FCc) (d : Opd) (a : Opd) (b : Opd) : exec (.fcmp g cc d a b) st = execFcmp g cc d a b st := rfl
@[simp] theorem exec_fsgn (g : Guard) (op : SgnOp) (d : Opd) (a : Opd) (b : Opd) : exec (.fsgn g op d a b) st = execFsgn g op d a b st := rfl
@[simp] theorem exec_cvt (g : Guard) (rm : Rm) (sat : Bool) (d : Opd) (a : Opd) : exec (.cvt g rm sat d a) st = execCvt g rm sat d a st := rfl
@[simp] theorem exec_fsfu (g : Guard) (fn : SfuFn) (rm : Rm) (sat : Bool) (d : Opd) (a : Opd) : exec (.fsfu g fn rm sat d a) st = execFsfu g fn rm sat d a st := rfl
@[simp] theorem exec_vadd (h : VH) (rm : Rm) (sat : Bool) (d : Opd) (a : Opd) (b : Opd) : exec (.vadd h rm sat d a b) st = execVadd h rm sat d a b st := rfl
@[simp] theorem exec_vsub (h : VH) (rm : Rm) (sat : Bool) (d : Opd) (a : Opd) (b : Opd) : exec (.vsub h rm sat d a b) st = execVsub h rm sat d a b st := rfl
@[simp] theorem exec_vmul (h : VH) (rm : Rm) (sat : Bool) (d : Opd) (a : Opd) (b : Opd) : exec (.vmul h rm sat d a b) st = execVmul h rm sat d a b st := rfl
@[simp] theorem exec_vfma (h : VH) (rm : Rm) (sat : Bool) (d : Opd) (a : Opd) (b : Opd) : exec (.vfma h rm sat d a b) st = execVfma h rm sat d a b st := rfl
@[simp] theorem exec_vmin (h : VH) (d : Opd) (a : Opd) (b : Opd) : exec (.vmin h d a b) st = execVmin h d a b st := rfl
@[simp] theorem exec_vmax (h : VH) (d : Opd) (a : Opd) (b : Opd) : exec (.vmax h d a b) st = execVmax h d a b st := rfl
@[simp] theorem exec_vand (h : VH) (d : Opd) (a : Opd) (b : Opd) : exec (.vand h d a b) st = execVand h d a b st := rfl
@[simp] theorem exec_vor (h : VH) (d : Opd) (a : Opd) (b : Opd) : exec (.vor h d a b) st = execVor h d a b st := rfl
@[simp] theorem exec_vxor (h : VH) (d : Opd) (a : Opd) (b : Opd) : exec (.vxor h d a b) st = execVxor h d a b st := rfl
@[simp] theorem exec_vshl (h : VH) (d : Opd) (a : Opd) (b : Opd) : exec (.vshl h d a b) st = execVshl h d a b st := rfl
@[simp] theorem exec_vshr (h : VH) (d : Opd) (a : Opd) (b : Opd) : exec (.vshr h d a b) st = execVshr h d a b st := rfl
@[simp] theorem exec_vcmp (h : VH) (cc : FCc) (d : Opd) (a : Opd) (b : Opd) : exec (.vcmp h cc d a b) st = execVcmp h cc d a b st := rfl
@[simp] theorem exec_vsel (h : VH) (d : Opd) (a : Opd) (b : Opd) : exec (.vsel h d a b) st = execVsel h d a b st := rfl
@[simp] theorem exec_vcvt (h : VH) (rm : Rm) (sat : Bool) (d : Opd) (a : Opd) : exec (.vcvt h rm sat d a) st = execVcvt h rm sat d a st := rfl
@[simp] theorem exec_vld (h : VH) (w : Bool) (q : Bool) (rm : Rm) (sat : Bool) (d : Opd) (a : Opd) (b : Opd) : exec (.vld h w q rm sat d a b) st = execVld h w q rm sat d a b st := rfl
@[simp] theorem exec_vst (h : VH) (setf : Bool) (d : Ix) (a : Opd) (b : Opd) : exec (.vst h setf d a b) st = execVst h setf d a b st := rfl
@[simp] theorem exec_vldt (h : VH) (w : Bool) (d : Opd) (a : Opd) (b : Opd) : exec (.vldt h w d a b) st = execVldt h w d a b st := rfl
@[simp] theorem exec_vbcast (h : VH) (rm : Rm) (sat : Bool) (d : Opd) (a : Opd) : exec (.vbcast h rm sat d a) st = execVbcast h rm sat d a st := rfl
@[simp] theorem exec_vred (h : VH) (op : RedOp) (rm : Rm) (d : Opd) (a : Opd) : exec (.vred h op rm d a) st = execVred h op rm d a st := rfl
@[simp] theorem exec_vscan (h : VH) (op : ScanOp) (rm : Rm) (d : Opd) (a : Opd) : exec (.vscan h op rm d a) st = execVscan h op rm d a st := rfl
@[simp] theorem exec_vperm (h : VH) (d : Opd) (a : Opd) (b : Opd) : exec (.vperm h d a b) st = execVperm h d a b st := rfl
@[simp] theorem exec_vcomp (h : VH) (d : Opd) (a : Opd) : exec (.vcomp h d a) st = execVcomp h d a st := rfl
@[simp] theorem exec_vexpd (h : VH) (d : Opd) (a : Opd) : exec (.vexpd h d a) st = execVexpd h d a st := rfl
@[simp] theorem exec_viota (h : VH) (d : Opd) (a : Opd) : exec (.viota h d a) st = execViota h d a st := rfl
@[simp] theorem exec_vsfu (h : VH) (fn : SfuFn) (rm : Rm) (d : Opd) (a : Opd) : exec (.vsfu h fn rm d a) st = execVsfu h fn rm d a st := rfl
@[simp] theorem exec_vquant (g : Guard) (gs : Gs) (d : Opd) (a : Opd) (e : Opd) : exec (.vquant g gs d a e) st = execVquant g gs d a e st := rfl
@[simp] theorem exec_vdeq (h : VH) (gs : Gs) (rm : Rm) (sat : Bool) (d : Opd) (a : Opd) (e : Opd) : exec (.vdeq h gs rm sat d a e) st = execVdeq h gs rm sat d a e st := rfl
@[simp] theorem exec_vmovs (g : Guard) (d : Opd) (a : Opd) (b : Opd) : exec (.vmovs g d a b) st = execVmovs g d a b st := rfl
@[simp] theorem exec_mcfg (g : Guard) (src : Src64) : exec (.mcfg g src) st = execMcfg g src st := rfl
@[simp] theorem exec_mma (g : Guard) (tr : Bool) (z : Bool) (gg : Bool) (t : Bool) (d : Ix) (a : Opd) (ws : Option Ws) : exec (.mma g tr z gg t d a ws) st = execMma g tr z gg t d a ws st := rfl
@[simp] theorem exec_mdrain (g : Guard) (tr : Bool) (acc : Bool) (d : Ix) (ws : Option Ws) : exec (.mdrain g tr acc d ws) st = execMdrain g tr acc d ws st := rfl
@[simp] theorem exec_mmap (g : Guard) (tr : Bool) (d : Ix) (a : Opd) (ws : Option Ws) : exec (.mmap g tr d a ws) st = execMmap g tr d a ws st := rfl
@[simp] theorem exec_mclr (g : Guard) (tr : Bool) (d : Ix) (ws : Option Ws) : exec (.mclr g tr d ws) st = execMclr g tr d ws st := rfl
@[simp] theorem exec_xreduce (g : Guard) (tr : Bool) (confine : Bool) (d : Ix) (a : Opd) (ws : Option Ws) : exec (.xreduce g tr confine d a ws) st = execXreduce g tr confine d a ws st := rfl
@[simp] theorem exec_xgather (g : Guard) (tr : Bool) (confine : Bool) (d : Ix) (a : Opd) (ws : Option Ws) : exec (.xgather g tr confine d a ws) st = execXgather g tr confine d a ws st := rfl
@[simp] theorem exec_xbcast (g : Guard) (tr : Bool) (confine : Bool) (d : Ix) (a : Opd) (ws : Option Ws) : exec (.xbcast g tr confine d a ws) st = execXbcast g tr confine d a ws st := rfl
@[simp] theorem exec_xmemberCreate (g : Guard) (d : Ix) (a : Ix) (b : Ix) : exec (.xmemberCreate g d a b) st = execXmemberCreate g d a b st := rfl
@[simp] theorem exec_xmemberShrink (g : Guard) (d : Ix) (a : Ix) (b : Ix) : exec (.xmemberShrink g d a b) st = execXmemberShrink g d a b st := rfl
@[simp] theorem exec_xmemberJoin (g : Guard) (d : Ix) (a : Ix) (b : Ix) : exec (.xmemberJoin g d a b) st = execXmemberJoin g d a b st := rfl
@[simp] theorem exec_xmemberLeave (g : Guard) (d : Ix) (a : Ix) : exec (.xmemberLeave g d a) st = execXmemberLeave g d a st := rfl
@[simp] theorem exec_xlog (g : Guard) (tr : Bool) (keepf : Bool) (d : Ix) (a : Opd) (ws : Option Ws) : exec (.xlog g tr keepf d a ws) st = execXlog g tr keepf d a ws st := rfl
@[simp] theorem exec_semwait (g : Guard) (n : BitVec 8) (t : BitVec 12) (take : Bool) : exec (.semwait g n t take) st = execSemwait g n t take st := rfl
@[simp] theorem exec_semsig (g : Guard) (n : BitVec 8) (i : BitVec 12) : exec (.semsig g n i) st = execSemsig g n i st := rfl
@[simp] theorem exec_semset (g : Guard) (n : BitVec 8) (v : ImmS) : exec (.semset g n v) st = execSemset g n v st := rfl
@[simp] theorem exec_semrd (g : Guard) (d : Opd) (n : BitVec 8) : exec (.semrd g d n) st = execSemrd g d n st := rfl
@[simp] theorem exec_qcfg (g : Guard) (d : Ix) (a : Opd) (n : BitVec 5) : exec (.qcfg g d a n) st = execQcfg g d a n st := rfl
@[simp] theorem exec_qcount (g : Guard) (d : Opd) (n : BitVec 5) : exec (.qcount g d n) st = execQcount g d n st := rfl
@[simp] theorem exec_msend (g : Guard) (k : BitVec 6) (a : Opd) (pl : List Ix) : exec (.msend g k a pl) st = execMsend g k a pl st := rfl
@[simp] theorem exec_spawn (g : Guard) (a : Opd) (t : ImmS) : exec (.spawn g a t) st = execSpawn g a t st := rfl
@[simp] theorem exec_sync (g : Guard) : exec (.sync g) st = execSync g st := rfl
@[simp] theorem exec_done (g : Guard) : exec (.done g) st = execDone g st := rfl
@[simp] theorem exec_launch (g : Guard) (tr : Bool) (lev : BitVec 2) (d : Ix) (a : Opd) (ws : Option Ws) : exec (.launch g tr lev d a ws) st = execLaunch g tr lev d a ws st := rfl
@[simp] theorem exec_genter (g : Guard) (a : Opd) : exec (.genter g a) st = execGenter g a st := rfl
@[simp] theorem exec_gleave (g : Guard) : exec (.gleave g) st = execGleave g st := rfl
@[simp] theorem exec_gbar (g : Guard) : exec (.gbar g) st = execGbar g st := rfl
@[simp] theorem exec_gsize (g : Guard) (d : Opd) : exec (.gsize g d) st = execGsize g d st := rfl
@[simp] theorem exec_cmake (g : Guard) (d : Ix) (a : Opd) : exec (.cmake g d a) st = execCmake g d a st := rfl
@[simp] theorem exec_csend (g : Guard) : exec (.csend g) st = execCsend g st := rfl
@[simp] theorem exec_cstop (g : Guard) (d : Ix) (k : BitVec 6) : exec (.cstop g d k) st = execCstop g d k st := rfl
@[simp] theorem exec_cins (g : Guard) (a : Opd) (b : Opd) : exec (.cins g a b) st = execCins g a b st := rfl
@[simp] theorem exec_cdel (g : Guard) (n : BitVec 4) : exec (.cdel g n) st = execCdel g n st := rfl
@[simp] theorem exec_csetp (g : Guard) (k : BitVec 4) (a : Opd) : exec (.csetp g k a) st = execCsetp g k a st := rfl
@[simp] theorem exec_csplit (g : Guard) (a : Opd) (b : Opd) : exec (.csplit g a b) st = execCsplit g a b st := rfl
@[simp] theorem exec_cdivert (g : Guard) (a : Opd) : exec (.cdivert g a) st = execCdivert g a st := rfl
@[simp] theorem exec_vtopk (g : Guard) (mn : Bool) (d : Opd) (a : Opd) : exec (.vtopk g mn d a) st = execVtopk g mn d a st := rfl
@[simp] theorem exec_instructionPair (s : Instr) (v : Instr) : exec (.instructionPair s v) st = execInstructionPair s v st := rfl
@[simp] theorem exec_repack (core : Nat) : exec (.repack core) st = execRepack core st := rfl
@[simp] theorem exec_waitTimeout (tid : Tid) : exec (.waitTimeout tid) st = execWaitTimeout tid st := rfl
@[simp] theorem exec_trapMessageStart (core : Nat) : exec (.trapMessageStart core) st = execTrapMessageStart core st := rfl
@[simp] theorem exec_messageStart (core : Nat) : exec (.messageStart core) st = execMessageStart core st := rfl
@[simp] theorem exec_messageDrop (id : Id) : exec (.messageDrop id) st = execMessageDrop id st := rfl
@[simp] theorem exec_remotePush (id : Id) : exec (.remotePush id) st = execRemotePush id st := rfl
@[simp] theorem exec_tailWriteSeen (part : Nat) (lev : Nat) : exec (.tailWriteSeen part lev) st = execTailWriteSeen part lev st := rfl
@[simp] theorem exec_threadPlacement (quarter : Nat) : exec (.threadPlacement quarter) st = execThreadPlacement quarter st := rfl
@[simp] theorem exec_launchCompletion (launch : Nat) : exec (.launchCompletion launch) st = execLaunchCompletion launch st := rfl
@[simp] theorem exec_continuationStart (tid : Tid) : exec (.continuationStart tid) st = execContinuationStart tid st := rfl
@[simp] theorem exec_periodicSeek (core : Nat) : exec (.periodicSeek core) st = execPeriodicSeek core st := rfl
@[simp] theorem exec_seekProbe (id : Id) : exec (.seekProbe id) st = execSeekProbe id st := rfl
@[simp] theorem exec_dequeTake (id : Id) : exec (.dequeTake id) st = execDequeTake id st := rfl
@[simp] theorem exec_inc (id : Id) : exec (.inc id) st = execInc id st := rfl
@[simp] theorem exec_incAcknowledgement (id : Id) : exec (.incAcknowledgement id) st = execIncAcknowledgement id st := rfl
@[simp] theorem exec_hdr (id : Id) : exec (.hdr id) st = execHdr id st := rfl
@[simp] theorem exec_dec (id : Id) : exec (.dec id) st = execDec id st := rfl
@[simp] theorem exec_decPrime (id : Id) : exec (.decPrime id) st = execDecPrime id st := rfl
@[simp] theorem exec_test (id : Id) : exec (.test id) st = execTest id st := rfl
@[simp] theorem exec_testReply (id : Id) : exec (.testReply id) st = execTestReply id st := rfl
@[simp] theorem exec_decReply (id : Id) : exec (.decReply id) st = execDecReply id st := rfl
@[simp] theorem exec_genterAtBank (id : Id) : exec (.genterAtBank id) st = execGenterAtBank id st := rfl
@[simp] theorem exec_genterReply (id : Id) : exec (.genterReply id) st = execGenterReply id st := rfl
@[simp] theorem exec_genterWithdrawal (id : Id) : exec (.genterWithdrawal id) st = execGenterWithdrawal id st := rfl
@[simp] theorem exec_gleaveAtBank (id : Id) : exec (.gleaveAtBank id) st = execGleaveAtBank id st := rfl
@[simp] theorem exec_gbarArrival (id : Id) : exec (.gbarArrival id) st = execGbarArrival id st := rfl
@[simp] theorem exec_gsizeAtBank (id : Id) : exec (.gsizeAtBank id) st = execGsizeAtBank id st := rfl
@[simp] theorem exec_atomicAtOwner (id : Id) : exec (.atomicAtOwner id) st = execAtomicAtOwner id st := rfl
@[simp] theorem exec_readAtOwner (id : Id) : exec (.readAtOwner id) st = execReadAtOwner id st := rfl
@[simp] theorem exec_writeAtOwner (id : Id) : exec (.writeAtOwner id) st = execWriteAtOwner id st := rfl
@[simp] theorem exec_translationWalk (id : Id) : exec (.translationWalk id) st = execTranslationWalk id st := rfl
@[simp] theorem exec_landName (id : Id) : exec (.landName id) st = execLandName id st := rfl
@[simp] theorem exec_sfuResult (id : Id) : exec (.sfuResult id) st = execSfuResult id st := rfl
@[simp] theorem exec_slotrdAtTarget (id : Id) : exec (.slotrdAtTarget id) st = execSlotrdAtTarget id st := rfl
@[simp] theorem exec_slotwrAtTarget (id : Id) : exec (.slotwrAtTarget id) st = execSlotwrAtTarget id st := rfl
@[simp] theorem exec_slotkillAtTarget (id : Id) : exec (.slotkillAtTarget id) st = execSlotkillAtTarget id st := rfl
@[simp] theorem exec_clusterFifoEntry (id : Id) : exec (.clusterFifoEntry id) st = execClusterFifoEntry id st := rfl
@[simp] theorem exec_copyTransfer (id : Id) (upTo : Option Nat) : exec (.copyTransfer id upTo) st = execCopyTransfer id upTo st := rfl
@[simp] theorem exec_gatherExecute (id : Id) (upTo : Option Nat) : exec (.gatherExecute id upTo) st = execGatherExecute id upTo st := rfl
@[simp] theorem exec_scatterExecute (id : Id) (upTo : Option Nat) : exec (.scatterExecute id upTo) st = execScatterExecute id upTo st := rfl
@[simp] theorem exec_scataddExecute (id : Id) (upTo : Option Nat) : exec (.scataddExecute id upTo) st = execScataddExecute id upTo st := rfl
@[simp] theorem exec_bankopExecute (id : Id) (upTo : Option Nat) : exec (.bankopExecute id upTo) st = execBankopExecute id upTo st := rfl
@[simp] theorem exec_dtloadExecute (id : Id) : exec (.dtloadExecute id) st = execDtloadExecute id st := rfl
@[simp] theorem exec_launchAppend (id : Id) : exec (.launchAppend id) st = execLaunchAppend id st := rfl
@[simp] theorem exec_mmaExecute (id : Id) (upTo : Option Nat) : exec (.mmaExecute id upTo) st = execMmaExecute id upTo st := rfl
@[simp] theorem exec_mmapExecute (id : Id) : exec (.mmapExecute id) st = execMmapExecute id st := rfl
@[simp] theorem exec_mdrainExecute (id : Id) (upTo : Option Nat) : exec (.mdrainExecute id upTo) st = execMdrainExecute id upTo st := rfl
@[simp] theorem exec_mdrainInboxTimeout (id : Id) : exec (.mdrainInboxTimeout id) st = execMdrainInboxTimeout id st := rfl
@[simp] theorem exec_mclrExecute (id : Id) : exec (.mclrExecute id) st = execMclrExecute id st := rfl
@[simp] theorem exec_xreduceExecute (id : Id) : exec (.xreduceExecute id) st = execXreduceExecute id st := rfl
@[simp] theorem exec_xgatherExecute (id : Id) : exec (.xgatherExecute id) st = execXgatherExecute id st := rfl
@[simp] theorem exec_xbcastExecute (id : Id) : exec (.xbcastExecute id) st = execXbcastExecute id st := rfl
@[simp] theorem exec_collectiveDeadline (id : Id) : exec (.collectiveDeadline id) st = execCollectiveDeadline id st := rfl
@[simp] theorem exec_xlogExecute (id : Id) (upTo : Option Nat) : exec (.xlogExecute id upTo) st = execXlogExecute id upTo st := rfl
@[simp] theorem exec_membershipChange (set : Nat) : exec (.membershipChange set) st = execMembershipChange set st := rfl
@[simp] theorem exec_membershipAgreementTimeout (id : Id) : exec (.membershipAgreementTimeout id) st = execMembershipAgreementTimeout id st := rfl
@[simp] theorem exec_capsuleEntry (id : Id) : exec (.capsuleEntry id) st = execCapsuleEntry id st := rfl
@[simp] theorem exec_capsuleStopStart (core : Nat) : exec (.capsuleStopStart core) st = execCapsuleStopStart core st := rfl
@[simp] theorem exec_bankStop (id : Id) : exec (.bankStop id) st = execBankStop id st := rfl
@[simp] theorem exec_homeStop (id : Id) : exec (.homeStop id) st = execHomeStop id st := rfl
@[simp] theorem exec_egressArrival (id : Id) : exec (.egressArrival id) st = execEgressArrival id st := rfl
@[simp] theorem exec_sinkStop (id : Id) : exec (.sinkStop id) st = execSinkStop id st := rfl
@[simp] theorem exec_capsuleWaitTimeout (id : Id) : exec (.capsuleWaitTimeout id) st = execCapsuleWaitTimeout id st := rfl
@[simp] theorem exec_restartEntryStart (core : Nat) : exec (.restartEntryStart core) st = execRestartEntryStart core st := rfl
@[simp] theorem exec_launchWatchdogExpiry (launch : Nat) : exec (.launchWatchdogExpiry launch) st = execLaunchWatchdogExpiry launch st := rfl
@[simp] theorem exec_queueStallWatchdog (part : Nat) (lev : Nat) : exec (.queueStallWatchdog part lev) st = execQueueStallWatchdog part lev st := rfl
@[simp] theorem exec_currentLimiterEngage (quarter : Nat) : exec (.currentLimiterEngage quarter) st = execCurrentLimiterEngage quarter st := rfl
@[simp] theorem exec_currentLimiterRelease (quarter : Nat) : exec (.currentLimiterRelease quarter) st = execCurrentLimiterRelease quarter st := rfl
@[simp] theorem exec_uncorrectableError (site : ErrSite) : exec (.uncorrectableError site) st = execUncorrectableError site st := rfl
@[simp] theorem exec_scrub (site : ErrSite) : exec (.scrub site) st = execScrub site st := rfl
@[simp] theorem exec_coreOffline (core : Nat) : exec (.coreOffline core) st = execCoreOffline core st := rfl
@[simp] theorem exec_flitReceived (port : Nat) (f : List Byte) : exec (.flitReceived port f) st = execFlitReceived port f st := rfl
@[simp] theorem exec_replayTimeout (port : Nat) : exec (.replayTimeout port) st = execReplayTimeout port st := rfl
@[simp] theorem exec_portDown (port : Nat) : exec (.portDown port) st = execPortDown port st := rfl
@[simp] theorem exec_hostRead (pa : Nat) (n : Nat) : exec (.hostRead pa n) st = execHostRead pa n st := rfl
@[simp] theorem exec_hostWrite (pa : Nat) (bytes : List Byte) (psn : Bool) : exec (.hostWrite pa bytes psn) st = execHostWrite pa bytes psn st := rfl
@[simp] theorem exec_mchkstatWrite (v : Word) : exec (.mchkstatWrite v) st = execMchkstatWrite v st := rfl
@[simp] theorem exec_machineCheckReport : exec (.machineCheckReport) st = execMachineCheckReport st := rfl
@[simp] theorem exec_getVersion (req : List Byte) : exec (.getVersion req) st = execGetVersion req st := rfl
@[simp] theorem exec_getCapabilities (req : List Byte) : exec (.getCapabilities req) st = execGetCapabilities req st := rfl
@[simp] theorem exec_negotiateAlgorithms (req : List Byte) : exec (.negotiateAlgorithms req) st = execNegotiateAlgorithms req st := rfl
@[simp] theorem exec_getDigests (req : List Byte) : exec (.getDigests req) st = execGetDigests req st := rfl
@[simp] theorem exec_getCertificate (req : List Byte) : exec (.getCertificate req) st = execGetCertificate req st := rfl
@[simp] theorem exec_challenge (req : List Byte) : exec (.challenge req) st = execChallenge req st := rfl
@[simp] theorem exec_getMeasurements (req : List Byte) : exec (.getMeasurements req) st = execGetMeasurements req st := rfl
@[simp] theorem exec_spdmSessionRequest (req : List Byte) : exec (.spdmSessionRequest req) st = execSpdmSessionRequest req st := rfl
@[simp] theorem exec_deviceReset (img : Option FwImage) : exec (.deviceReset img) st = execDeviceReset img st := rfl
@[simp] theorem exec_messageArrival (id : Id) : exec (.messageArrival id) st = execMessageArrival id st := rfl
@[simp] theorem exec_portRetrain (port : Nat) : exec (.portRetrain port) st = execPortRetrain port st := rfl
@[simp] theorem exec_counterWrap (unit : Nat) (idx : Nat) (ctr : Nat) : exec (.counterWrap unit idx ctr) st = execCounterWrap unit idx ctr st := rfl
@[simp] theorem exec_correctedError (site : ErrSite) : exec (.correctedError site) st = execCorrectedError site st := rfl

/-- An op that may stand in a pair goes through the issue step (R43, R327). -/
theorem exec_pairable {i : Instr} {o : OpSpec} (h : specOf i = some o) : exec i st = issue o st := by
  cases i <;> simp only [specOf, Option.some.injEq, reduceCtorEq] at h <;> subst h <;> rfl

end Sys2Proof.Machine
end

