-- ==== Sys2Proof/Laws/Fields.lean ====
section
/-! SUPPORT. The fields of an encoding: a field of two bit strings put together is a field of the one or of the other,
and each small code reads back. -/

namespace Sys2Proof

theorem extract_lo {m n : Nat} (x : BitVec m) (y : BitVec n) (lo len : Nat) (h : lo + len ≤ n) :
    (x ++ y).extractLsb' lo len = y.extractLsb' lo len := by
  apply BitVec.eq_of_getLsbD_eq; intro i hi
  simp [BitVec.getLsbD_append, hi, show lo + i < n by omega]
theorem extract_hi {m n : Nat} (x : BitVec m) (y : BitVec n) (lo len : Nat) (h : n ≤ lo) :
    (x ++ y).extractLsb' lo len = x.extractLsb' (lo - n) len := by
  apply BitVec.eq_of_getLsbD_eq; intro i hi
  simp [BitVec.getLsbD_append, hi, show ¬ lo + i < n by omega, show lo + i - n = lo - n + i by omega]

/-! The lemmas of the splits that the encodings use, at literal widths. -/

@[simp] theorem field_lo_1_1 (x : BitVec 1) (y : BitVec 1) (lo len : Nat) (h : lo + len ≤ 1) :
    BitVec.extractLsb' (n := 2) lo len (x ++ y) = y.extractLsb' lo len := extract_lo x y lo len h
@[simp] theorem field_hi_1_1 (x : BitVec 1) (y : BitVec 1) (lo len : Nat) (h : 1 ≤ lo) :
    BitVec.extractLsb' (n := 2) lo len (x ++ y) = x.extractLsb' (lo - 1) len := extract_hi x y lo len h
@[simp] theorem field_lo_1_2 (x : BitVec 1) (y : BitVec 2) (lo len : Nat) (h : lo + len ≤ 2) :
    BitVec.extractLsb' (n := 3) lo len (x ++ y) = y.extractLsb' lo len := extract_lo x y lo len h
@[simp] theorem field_hi_1_2 (x : BitVec 1) (y : BitVec 2) (lo len : Nat) (h : 2 ≤ lo) :
    BitVec.extractLsb' (n := 3) lo len (x ++ y) = x.extractLsb' (lo - 2) len := extract_hi x y lo len h
@[simp] theorem field_lo_1_3 (x : BitVec 1) (y : BitVec 3) (lo len : Nat) (h : lo + len ≤ 3) :
    BitVec.extractLsb' (n := 4) lo len (x ++ y) = y.extractLsb' lo len := extract_lo x y lo len h
@[simp] theorem field_hi_1_3 (x : BitVec 1) (y : BitVec 3) (lo len : Nat) (h : 3 ≤ lo) :
    BitVec.extractLsb' (n := 4) lo len (x ++ y) = x.extractLsb' (lo - 3) len := extract_hi x y lo len h
@[simp] theorem field_lo_1_4 (x : BitVec 1) (y : BitVec 4) (lo len : Nat) (h : lo + len ≤ 4) :
    BitVec.extractLsb' (n := 5) lo len (x ++ y) = y.extractLsb' lo len := extract_lo x y lo len h
@[simp] theorem field_hi_1_4 (x : BitVec 1) (y : BitVec 4) (lo len : Nat) (h : 4 ≤ lo) :
    BitVec.extractLsb' (n := 5) lo len (x ++ y) = x.extractLsb' (lo - 4) len := extract_hi x y lo len h
@[simp] theorem field_lo_1_7 (x : BitVec 1) (y : BitVec 7) (lo len : Nat) (h : lo + len ≤ 7) :
    BitVec.extractLsb' (n := 8) lo len (x ++ y) = y.extractLsb' lo len := extract_lo x y lo len h
@[simp] theorem field_hi_1_7 (x : BitVec 1) (y : BitVec 7) (lo len : Nat) (h : 7 ≤ lo) :
    BitVec.extractLsb' (n := 8) lo len (x ++ y) = x.extractLsb' (lo - 7) len := extract_hi x y lo len h
@[simp] theorem field_lo_1_11 (x : BitVec 1) (y : BitVec 11) (lo len : Nat) (h : lo + len ≤ 11) :
    BitVec.extractLsb' (n := 12) lo len (x ++ y) = y.extractLsb' lo len := extract_lo x y lo len h
@[simp] theorem field_hi_1_11 (x : BitVec 1) (y : BitVec 11) (lo len : Nat) (h : 11 ≤ lo) :
    BitVec.extractLsb' (n := 12) lo len (x ++ y) = x.extractLsb' (lo - 11) len := extract_hi x y lo len h
@[simp] theorem field_lo_1_13 (x : BitVec 1) (y : BitVec 13) (lo len : Nat) (h : lo + len ≤ 13) :
    BitVec.extractLsb' (n := 14) lo len (x ++ y) = y.extractLsb' lo len := extract_lo x y lo len h
@[simp] theorem field_hi_1_13 (x : BitVec 1) (y : BitVec 13) (lo len : Nat) (h : 13 ≤ lo) :
    BitVec.extractLsb' (n := 14) lo len (x ++ y) = x.extractLsb' (lo - 13) len := extract_hi x y lo len h
@[simp] theorem field_lo_2_1 (x : BitVec 2) (y : BitVec 1) (lo len : Nat) (h : lo + len ≤ 1) :
    BitVec.extractLsb' (n := 3) lo len (x ++ y) = y.extractLsb' lo len := extract_lo x y lo len h
@[simp] theorem field_hi_2_1 (x : BitVec 2) (y : BitVec 1) (lo len : Nat) (h : 1 ≤ lo) :
    BitVec.extractLsb' (n := 3) lo len (x ++ y) = x.extractLsb' (lo - 1) len := extract_hi x y lo len h
@[simp] theorem field_lo_2_2 (x : BitVec 2) (y : BitVec 2) (lo len : Nat) (h : lo + len ≤ 2) :
    BitVec.extractLsb' (n := 4) lo len (x ++ y) = y.extractLsb' lo len := extract_lo x y lo len h
@[simp] theorem field_hi_2_2 (x : BitVec 2) (y : BitVec 2) (lo len : Nat) (h : 2 ≤ lo) :
    BitVec.extractLsb' (n := 4) lo len (x ++ y) = x.extractLsb' (lo - 2) len := extract_hi x y lo len h
@[simp] theorem field_lo_2_3 (x : BitVec 2) (y : BitVec 3) (lo len : Nat) (h : lo + len ≤ 3) :
    BitVec.extractLsb' (n := 5) lo len (x ++ y) = y.extractLsb' lo len := extract_lo x y lo len h
@[simp] theorem field_hi_2_3 (x : BitVec 2) (y : BitVec 3) (lo len : Nat) (h : 3 ≤ lo) :
    BitVec.extractLsb' (n := 5) lo len (x ++ y) = x.extractLsb' (lo - 3) len := extract_hi x y lo len h
@[simp] theorem field_lo_2_6 (x : BitVec 2) (y : BitVec 6) (lo len : Nat) (h : lo + len ≤ 6) :
    BitVec.extractLsb' (n := 8) lo len (x ++ y) = y.extractLsb' lo len := extract_lo x y lo len h
@[simp] theorem field_hi_2_6 (x : BitVec 2) (y : BitVec 6) (lo len : Nat) (h : 6 ≤ lo) :
    BitVec.extractLsb' (n := 8) lo len (x ++ y) = x.extractLsb' (lo - 6) len := extract_hi x y lo len h
@[simp] theorem field_lo_2_12 (x : BitVec 2) (y : BitVec 12) (lo len : Nat) (h : lo + len ≤ 12) :
    BitVec.extractLsb' (n := 14) lo len (x ++ y) = y.extractLsb' lo len := extract_lo x y lo len h
@[simp] theorem field_hi_2_12 (x : BitVec 2) (y : BitVec 12) (lo len : Nat) (h : 12 ≤ lo) :
    BitVec.extractLsb' (n := 14) lo len (x ++ y) = x.extractLsb' (lo - 12) len := extract_hi x y lo len h
@[simp] theorem field_lo_3_1 (x : BitVec 3) (y : BitVec 1) (lo len : Nat) (h : lo + len ≤ 1) :
    BitVec.extractLsb' (n := 4) lo len (x ++ y) = y.extractLsb' lo len := extract_lo x y lo len h
@[simp] theorem field_hi_3_1 (x : BitVec 3) (y : BitVec 1) (lo len : Nat) (h : 1 ≤ lo) :
    BitVec.extractLsb' (n := 4) lo len (x ++ y) = x.extractLsb' (lo - 1) len := extract_hi x y lo len h
@[simp] theorem field_lo_3_2 (x : BitVec 3) (y : BitVec 2) (lo len : Nat) (h : lo + len ≤ 2) :
    BitVec.extractLsb' (n := 5) lo len (x ++ y) = y.extractLsb' lo len := extract_lo x y lo len h
@[simp] theorem field_hi_3_2 (x : BitVec 3) (y : BitVec 2) (lo len : Nat) (h : 2 ≤ lo) :
    BitVec.extractLsb' (n := 5) lo len (x ++ y) = x.extractLsb' (lo - 2) len := extract_hi x y lo len h
@[simp] theorem field_lo_3_5 (x : BitVec 3) (y : BitVec 5) (lo len : Nat) (h : lo + len ≤ 5) :
    BitVec.extractLsb' (n := 8) lo len (x ++ y) = y.extractLsb' lo len := extract_lo x y lo len h
@[simp] theorem field_hi_3_5 (x : BitVec 3) (y : BitVec 5) (lo len : Nat) (h : 5 ≤ lo) :
    BitVec.extractLsb' (n := 8) lo len (x ++ y) = x.extractLsb' (lo - 5) len := extract_hi x y lo len h
@[simp] theorem field_lo_3_8 (x : BitVec 3) (y : BitVec 8) (lo len : Nat) (h : lo + len ≤ 8) :
    BitVec.extractLsb' (n := 11) lo len (x ++ y) = y.extractLsb' lo len := extract_lo x y lo len h
@[simp] theorem field_hi_3_8 (x : BitVec 3) (y : BitVec 8) (lo len : Nat) (h : 8 ≤ lo) :
    BitVec.extractLsb' (n := 11) lo len (x ++ y) = x.extractLsb' (lo - 8) len := extract_hi x y lo len h
@[simp] theorem field_lo_3_11 (x : BitVec 3) (y : BitVec 11) (lo len : Nat) (h : lo + len ≤ 11) :
    BitVec.extractLsb' (n := 14) lo len (x ++ y) = y.extractLsb' lo len := extract_lo x y lo len h
@[simp] theorem field_hi_3_11 (x : BitVec 3) (y : BitVec 11) (lo len : Nat) (h : 11 ≤ lo) :
    BitVec.extractLsb' (n := 14) lo len (x ++ y) = x.extractLsb' (lo - 11) len := extract_hi x y lo len h
@[simp] theorem field_lo_4_2 (x : BitVec 4) (y : BitVec 2) (lo len : Nat) (h : lo + len ≤ 2) :
    BitVec.extractLsb' (n := 6) lo len (x ++ y) = y.extractLsb' lo len := extract_lo x y lo len h
@[simp] theorem field_hi_4_2 (x : BitVec 4) (y : BitVec 2) (lo len : Nat) (h : 2 ≤ lo) :
    BitVec.extractLsb' (n := 6) lo len (x ++ y) = x.extractLsb' (lo - 2) len := extract_hi x y lo len h
@[simp] theorem field_lo_4_10 (x : BitVec 4) (y : BitVec 10) (lo len : Nat) (h : lo + len ≤ 10) :
    BitVec.extractLsb' (n := 14) lo len (x ++ y) = y.extractLsb' lo len := extract_lo x y lo len h
@[simp] theorem field_hi_4_10 (x : BitVec 4) (y : BitVec 10) (lo len : Nat) (h : 10 ≤ lo) :
    BitVec.extractLsb' (n := 14) lo len (x ++ y) = x.extractLsb' (lo - 10) len := extract_hi x y lo len h
@[simp] theorem field_lo_5_3 (x : BitVec 5) (y : BitVec 3) (lo len : Nat) (h : lo + len ≤ 3) :
    BitVec.extractLsb' (n := 8) lo len (x ++ y) = y.extractLsb' lo len := extract_lo x y lo len h
@[simp] theorem field_hi_5_3 (x : BitVec 5) (y : BitVec 3) (lo len : Nat) (h : 3 ≤ lo) :
    BitVec.extractLsb' (n := 8) lo len (x ++ y) = x.extractLsb' (lo - 3) len := extract_hi x y lo len h
@[simp] theorem field_lo_6_3 (x : BitVec 6) (y : BitVec 3) (lo len : Nat) (h : lo + len ≤ 3) :
    BitVec.extractLsb' (n := 9) lo len (x ++ y) = y.extractLsb' lo len := extract_lo x y lo len h
@[simp] theorem field_hi_6_3 (x : BitVec 6) (y : BitVec 3) (lo len : Nat) (h : 3 ≤ lo) :
    BitVec.extractLsb' (n := 9) lo len (x ++ y) = x.extractLsb' (lo - 3) len := extract_hi x y lo len h
@[simp] theorem field_lo_6_8 (x : BitVec 6) (y : BitVec 8) (lo len : Nat) (h : lo + len ≤ 8) :
    BitVec.extractLsb' (n := 14) lo len (x ++ y) = y.extractLsb' lo len := extract_lo x y lo len h
@[simp] theorem field_hi_6_8 (x : BitVec 6) (y : BitVec 8) (lo len : Nat) (h : 8 ≤ lo) :
    BitVec.extractLsb' (n := 14) lo len (x ++ y) = x.extractLsb' (lo - 8) len := extract_hi x y lo len h
@[simp] theorem field_lo_8_1 (x : BitVec 8) (y : BitVec 1) (lo len : Nat) (h : lo + len ≤ 1) :
    BitVec.extractLsb' (n := 9) lo len (x ++ y) = y.extractLsb' lo len := extract_lo x y lo len h
@[simp] theorem field_hi_8_1 (x : BitVec 8) (y : BitVec 1) (lo len : Nat) (h : 1 ≤ lo) :
    BitVec.extractLsb' (n := 9) lo len (x ++ y) = x.extractLsb' (lo - 1) len := extract_hi x y lo len h
@[simp] theorem field_lo_8_3 (x : BitVec 8) (y : BitVec 3) (lo len : Nat) (h : lo + len ≤ 3) :
    BitVec.extractLsb' (n := 11) lo len (x ++ y) = y.extractLsb' lo len := extract_lo x y lo len h
@[simp] theorem field_hi_8_3 (x : BitVec 8) (y : BitVec 3) (lo len : Nat) (h : 3 ≤ lo) :
    BitVec.extractLsb' (n := 11) lo len (x ++ y) = x.extractLsb' (lo - 3) len := extract_hi x y lo len h
@[simp] theorem field_lo_8_6 (x : BitVec 8) (y : BitVec 6) (lo len : Nat) (h : lo + len ≤ 6) :
    BitVec.extractLsb' (n := 14) lo len (x ++ y) = y.extractLsb' lo len := extract_lo x y lo len h
@[simp] theorem field_hi_8_6 (x : BitVec 8) (y : BitVec 6) (lo len : Nat) (h : 6 ≤ lo) :
    BitVec.extractLsb' (n := 14) lo len (x ++ y) = x.extractLsb' (lo - 6) len := extract_hi x y lo len h
@[simp] theorem field_lo_8_8 (x : BitVec 8) (y : BitVec 8) (lo len : Nat) (h : lo + len ≤ 8) :
    BitVec.extractLsb' (n := 16) lo len (x ++ y) = y.extractLsb' lo len := extract_lo x y lo len h
@[simp] theorem field_hi_8_8 (x : BitVec 8) (y : BitVec 8) (lo len : Nat) (h : 8 ≤ lo) :
    BitVec.extractLsb' (n := 16) lo len (x ++ y) = x.extractLsb' (lo - 8) len := extract_hi x y lo len h
@[simp] theorem field_lo_9_2 (x : BitVec 9) (y : BitVec 2) (lo len : Nat) (h : lo + len ≤ 2) :
    BitVec.extractLsb' (n := 11) lo len (x ++ y) = y.extractLsb' lo len := extract_lo x y lo len h
@[simp] theorem field_hi_9_2 (x : BitVec 9) (y : BitVec 2) (lo len : Nat) (h : 2 ≤ lo) :
    BitVec.extractLsb' (n := 11) lo len (x ++ y) = x.extractLsb' (lo - 2) len := extract_hi x y lo len h
@[simp] theorem field_lo_9_3 (x : BitVec 9) (y : BitVec 3) (lo len : Nat) (h : lo + len ≤ 3) :
    BitVec.extractLsb' (n := 12) lo len (x ++ y) = y.extractLsb' lo len := extract_lo x y lo len h
@[simp] theorem field_hi_9_3 (x : BitVec 9) (y : BitVec 3) (lo len : Nat) (h : 3 ≤ lo) :
    BitVec.extractLsb' (n := 12) lo len (x ++ y) = x.extractLsb' (lo - 3) len := extract_hi x y lo len h
@[simp] theorem field_lo_9_5 (x : BitVec 9) (y : BitVec 5) (lo len : Nat) (h : lo + len ≤ 5) :
    BitVec.extractLsb' (n := 14) lo len (x ++ y) = y.extractLsb' lo len := extract_lo x y lo len h
@[simp] theorem field_hi_9_5 (x : BitVec 9) (y : BitVec 5) (lo len : Nat) (h : 5 ≤ lo) :
    BitVec.extractLsb' (n := 14) lo len (x ++ y) = x.extractLsb' (lo - 5) len := extract_hi x y lo len h
@[simp] theorem field_lo_10_4 (x : BitVec 10) (y : BitVec 4) (lo len : Nat) (h : lo + len ≤ 4) :
    BitVec.extractLsb' (n := 14) lo len (x ++ y) = y.extractLsb' lo len := extract_lo x y lo len h
@[simp] theorem field_hi_10_4 (x : BitVec 10) (y : BitVec 4) (lo len : Nat) (h : 4 ≤ lo) :
    BitVec.extractLsb' (n := 14) lo len (x ++ y) = x.extractLsb' (lo - 4) len := extract_hi x y lo len h
@[simp] theorem field_lo_11_1 (x : BitVec 11) (y : BitVec 1) (lo len : Nat) (h : lo + len ≤ 1) :
    BitVec.extractLsb' (n := 12) lo len (x ++ y) = y.extractLsb' lo len := extract_lo x y lo len h
@[simp] theorem field_hi_11_1 (x : BitVec 11) (y : BitVec 1) (lo len : Nat) (h : 1 ≤ lo) :
    BitVec.extractLsb' (n := 12) lo len (x ++ y) = x.extractLsb' (lo - 1) len := extract_hi x y lo len h
@[simp] theorem field_lo_11_3 (x : BitVec 11) (y : BitVec 3) (lo len : Nat) (h : lo + len ≤ 3) :
    BitVec.extractLsb' (n := 14) lo len (x ++ y) = y.extractLsb' lo len := extract_lo x y lo len h
@[simp] theorem field_hi_11_3 (x : BitVec 11) (y : BitVec 3) (lo len : Nat) (h : 3 ≤ lo) :
    BitVec.extractLsb' (n := 14) lo len (x ++ y) = x.extractLsb' (lo - 3) len := extract_hi x y lo len h
@[simp] theorem field_lo_12_1 (x : BitVec 12) (y : BitVec 1) (lo len : Nat) (h : lo + len ≤ 1) :
    BitVec.extractLsb' (n := 13) lo len (x ++ y) = y.extractLsb' lo len := extract_lo x y lo len h
@[simp] theorem field_hi_12_1 (x : BitVec 12) (y : BitVec 1) (lo len : Nat) (h : 1 ≤ lo) :
    BitVec.extractLsb' (n := 13) lo len (x ++ y) = x.extractLsb' (lo - 1) len := extract_hi x y lo len h
@[simp] theorem field_lo_12_2 (x : BitVec 12) (y : BitVec 2) (lo len : Nat) (h : lo + len ≤ 2) :
    BitVec.extractLsb' (n := 14) lo len (x ++ y) = y.extractLsb' lo len := extract_lo x y lo len h
@[simp] theorem field_hi_12_2 (x : BitVec 12) (y : BitVec 2) (lo len : Nat) (h : 2 ≤ lo) :
    BitVec.extractLsb' (n := 14) lo len (x ++ y) = x.extractLsb' (lo - 2) len := extract_hi x y lo len h
@[simp] theorem field_lo_13_1 (x : BitVec 13) (y : BitVec 1) (lo len : Nat) (h : lo + len ≤ 1) :
    BitVec.extractLsb' (n := 14) lo len (x ++ y) = y.extractLsb' lo len := extract_lo x y lo len h
@[simp] theorem field_hi_13_1 (x : BitVec 13) (y : BitVec 1) (lo len : Nat) (h : 1 ≤ lo) :
    BitVec.extractLsb' (n := 14) lo len (x ++ y) = x.extractLsb' (lo - 1) len := extract_hi x y lo len h
@[simp] theorem field_lo_16_8 (x : BitVec 16) (y : BitVec 8) (lo len : Nat) (h : lo + len ≤ 8) :
    BitVec.extractLsb' (n := 24) lo len (x ++ y) = y.extractLsb' lo len := extract_lo x y lo len h
@[simp] theorem field_hi_16_8 (x : BitVec 16) (y : BitVec 8) (lo len : Nat) (h : 8 ≤ lo) :
    BitVec.extractLsb' (n := 24) lo len (x ++ y) = x.extractLsb' (lo - 8) len := extract_hi x y lo len h
@[simp] theorem field_lo_24_8 (x : BitVec 24) (y : BitVec 8) (lo len : Nat) (h : lo + len ≤ 8) :
    BitVec.extractLsb' (n := 32) lo len (x ++ y) = y.extractLsb' lo len := extract_lo x y lo len h
@[simp] theorem field_hi_24_8 (x : BitVec 24) (y : BitVec 8) (lo len : Nat) (h : 8 ≤ lo) :
    BitVec.extractLsb' (n := 32) lo len (x ++ y) = x.extractLsb' (lo - 8) len := extract_hi x y lo len h

/-- One bit as a field of width one. -/
theorem getBit_eq {n : Nat} (x : BitVec n) (k : Nat) : x.getLsbD k = decide (x.extractLsb' k 1 = 1#1) := by
  have h : (x.extractLsb' k 1).getLsbD 0 = x.getLsbD k := by simp
  rw [← h]; generalize x.extractLsb' k 1 = y
  revert y; decide

/-- The same, as simp writes a bit. -/
theorem getElem_eq {n : Nat} (x : BitVec n) (k : Nat) (h : k < n) : x[k] = decide (x.extractLsb' k 1 = 1#1) :=
  (BitVec.getLsbD_eq_getElem h).symm.trans (getBit_eq x k)

@[simp] theorem decide_bit (b : Bool) : decide (BitVec.ofBool b = 1#1) = b := by cases b <;> rfl

/-! The small codes. -/

@[simp] theorem Rm.ofCode_code (c : Rm) : Rm.ofCode c.code = c := by cases c <;> rfl
@[simp] theorem Cc.ofCode_code (c : Cc) : Cc.ofCode c.code = some c := by cases c <;> rfl
@[simp] theorem FCc.ofCode_code (c : FCc) : FCc.ofCode c.code = some c := by cases c <;> rfl
@[simp] theorem Scope.ofCode_code (c : Scope) : Scope.ofCode c.code = some c := by cases c <;> rfl
@[simp] theorem LdFe.ofCode_code (c : LdFe) : LdFe.ofCode c.code = some c := by cases c <;> rfl
@[simp] theorem ASpace.ofCode_code (c : ASpace) : ASpace.ofCode c.code = some c := by cases c <;> rfl
@[simp] theorem ITy.ofCode_code (c : ITy) : ITy.ofCode c.code = some c := by cases c <;> rfl
@[simp] theorem FTy.ofCode_code (c : FTy) : FTy.ofCode c.code = some c := by cases c <;> rfl
@[simp] theorem CopySp.ofCode_code (c : CopySp) : CopySp.ofCode c.code = some c := by cases c <;> rfl
@[simp] theorem CopyCk.ofCode_code (c : CopyCk) : CopyCk.ofCode c.code = some c := by cases c <;> rfl
@[simp] theorem SlotSp.ofCode_code (c : SlotSp) : SlotSp.ofCode c.code = some c := by cases c <;> rfl
@[simp] theorem SfuFn.ofCode_code (c : SfuFn) : SfuFn.ofCode c.code = c := by cases c <;> rfl
@[simp] theorem SgnOp.ofCode_code (c : SgnOp) : SgnOp.ofCode c.code = c := by cases c <;> rfl
@[simp] theorem RedOp.ofCode_code (c : RedOp) : RedOp.ofCode c.code = some c := by cases c <;> rfl
@[simp] theorem ScanOp.ofCode_code (c : ScanOp) : ScanOp.ofCode c.code = some c := by cases c <;> rfl
@[simp] theorem Gs.ofCode_code (c : Gs) : Gs.ofCode c.code = some c := by cases c <;> rfl
@[simp] theorem AOrder.ofCode_code (c : AOrder) : AOrder.ofCode c.code = some c := by
  cases c with
  | plain => rfl
  | acq s => cases s <;> rfl
  | rel s => cases s <;> rfl
  | ar s => cases s <;> rfl

end Sys2Proof
end

