-- ==== Sys2Proof/Laws/PerInstr.lean ====
section
/-! SUPPORT. The round trip of each op's fields: the fields that the encoder gives an op are the fields from which the
decoder reads it, with every operand at every value that its encoding admits. -/

namespace Sys2Proof

/-- What the round trip says of one instruction: an op that is well-formed and has an op slot is read back from its op
slot and its extension. -/
def Laws.RoundTrip.Statement (i : Instr) : Prop :=
  i.wf = true → ∀ r, encodeRaw i = some r → decodeOne r.1 r.2 = .ok i

theorem decodeOne_mkOp {opc g imm d a b x i} {dec : RawOp → Ext → Option Instr} (ha : assigned opc = true)
    (hdec : ∀ r x, r.opc = opc → decodeRaw r x = if r.gd.wf then dec r x else none) (hg : g.wf = true)
    (hd : dec (mkOp opc g imm d a b) x = some i) : decodeOne (mkOp opc g imm d a b) x = .ok i := by
  have h1 : (mkOp opc g imm d a b).gd = g := rfl
  have h2 : (mkOp opc g imm d a b).opc = opc := rfl
  simp only [decodeOne, h2, ha, if_true, hdec _ _ h2, h1, hg, hd]

theorem statement_of_raw {i : Instr} {r : Raw} (h : encodeRaw i = some r)
    (hd : i.wf = true → decodeOne r.1 r.2 = .ok i) : Laws.RoundTrip.Statement i := by
  intro hw r' hr; rw [h] at hr; cases hr; exact hd hw

theorem statement_of_none {i : Instr} (h : encodeRaw i = none) : Laws.RoundTrip.Statement i := by
  intro _ r hr; rw [h] at hr; cases hr

/-! The fields of an op put together read back. -/

@[simp] theorem mkOp_gd (opc g imm d a b) : (mkOp opc g imm d a b).gd = g := rfl
@[simp] theorem mkOp_od (opc g imm d a b) : (mkOp opc g imm d a b).od = d := rfl
@[simp] theorem mkOp_oa (opc g imm d a b) : (mkOp opc g imm d a b).oa = a := rfl
@[simp] theorem mkOp_ob (opc g imm d a b) : (mkOp opc g imm d a b).ob = b := rfl
@[simp] theorem mkOp_imm (opc g imm d a b) : (mkOp opc g imm d a b).imm = imm := rfl
@[simp] theorem mkOp_dm (opc g imm d a b) : (mkOp opc g imm d a b).dm = d.sync := rfl
@[simp] theorem mkOp_am (opc g imm d a b) : (mkOp opc g imm d a b).am = a.sync := rfl
@[simp] theorem mkOp_bm (opc g imm d a b) : (mkOp opc g imm d a b).bm = b.sync := rfl
@[simp] theorem mkOp_d (opc g imm d a b) : (mkOp opc g imm d a b).d = d.ix := rfl
@[simp] theorem mkOp_a (opc g imm d a b) : (mkOp opc g imm d a b).a = a.ix := rfl
@[simp] theorem mkOp_b (opc g imm d a b) : (mkOp opc g imm d a b).b = b.ix := rfl

namespace Laws.RoundTrip

set_option linter.unusedSimpArgs false
set_option linter.unusedVariables false
set_option Elab.async false

theorem nop (g : Guard) (pad : Bool) : Statement (.nop g pad) := by
  cases pad <;> exact statement_of_raw rfl fun hw => by
    simp [Instr.wf, wfOp, isEvent, VH.wf, wsOk] at hw
    exact decodeOne_mkOp (dec := decode0 0) rfl (fun r x e => by unfold decodeRaw; rw [e]; rfl) (by simp [hw])
      (by simp [decode0, req, RawOp.zd, RawOp.za, RawOp.zb, RawOp.zi, RawOp.fld, RawOp.ib, RawOp.rz, Ext.isNone, getElem_eq, encImm, encImmS, decImm, decImmS, encShift, decCnt, encF, encV, vrs, wsExt, decCmd, extWs, RawOp.vh, VH.wf, decAtomI, decAtomF, decAtomFl, encAtom, CopyMods.pack, decCopyMods, PlkMods.pack, decPlk, decOrd, encOrd, hw])
theorem b (g : Guard) (t : Imm) : Statement (.b g t) := by
  cases t <;> exact statement_of_raw rfl fun hw => by
    simp [Instr.wf, wfOp, isEvent, VH.wf, wsOk] at hw
    exact decodeOne_mkOp (dec := decode0 1) rfl (fun r x e => by unfold decodeRaw; rw [e]; rfl) (by simp [hw])
      (by simp [decode0, req, RawOp.zd, RawOp.za, RawOp.zb, RawOp.zi, RawOp.fld, RawOp.ib, RawOp.rz, Ext.isNone, getElem_eq, encImm, encImmS, decImm, decImmS, encShift, decCnt, encF, encV, vrs, wsExt, decCmd, extWs, RawOp.vh, VH.wf, decAtomI, decAtomF, decAtomFl, encAtom, CopyMods.pack, decCopyMods, PlkMods.pack, decPlk, decOrd, encOrd, hw])
theorem bl (g : Guard) (d : Ix) (t : Imm) : Statement (.bl g d t) := by
  cases t <;> exact statement_of_raw rfl fun hw => by
    simp [Instr.wf, wfOp, isEvent, VH.wf, wsOk] at hw
    exact decodeOne_mkOp (dec := decode0 2) rfl (fun r x e => by unfold decodeRaw; rw [e]; rfl) (by simp [hw])
      (by simp [decode0, req, RawOp.zd, RawOp.za, RawOp.zb, RawOp.zi, RawOp.fld, RawOp.ib, RawOp.rz, Ext.isNone, getElem_eq, encImm, encImmS, decImm, decImmS, encShift, decCnt, encF, encV, vrs, wsExt, decCmd, extWs, RawOp.vh, VH.wf, decAtomI, decAtomF, decAtomFl, encAtom, CopyMods.pack, decCopyMods, PlkMods.pack, decPlk, decOrd, encOrd, hw])
theorem bx (g : Guard) (d : Ix) (a : Opd) : Statement (.bx g d a) := by
  exact statement_of_raw rfl fun hw => by
    simp [Instr.wf, wfOp, isEvent, VH.wf, wsOk] at hw
    exact decodeOne_mkOp (dec := decode0 3) rfl (fun r x e => by unfold decodeRaw; rw [e]; rfl) (by simp [hw])
      (by simp [decode0, req, RawOp.zd, RawOp.za, RawOp.zb, RawOp.zi, RawOp.fld, RawOp.ib, RawOp.rz, Ext.isNone, getElem_eq, encImm, encImmS, decImm, decImmS, encShift, decCnt, encF, encV, vrs, wsExt, decCmd, extWs, RawOp.vh, VH.wf, decAtomI, decAtomF, decAtomFl, encAtom, CopyMods.pack, decCopyMods, PlkMods.pack, decPlk, decOrd, encOrd, hw])
theorem ret (g : Guard) (a : Opd) : Statement (.ret g a) := by
  exact statement_of_raw rfl fun hw => by
    simp [Instr.wf, wfOp, isEvent, VH.wf, wsOk] at hw
    exact decodeOne_mkOp (dec := decode0 4) rfl (fun r x e => by unfold decodeRaw; rw [e]; rfl) (by simp [hw])
      (by simp [decode0, req, RawOp.zd, RawOp.za, RawOp.zb, RawOp.zi, RawOp.fld, RawOp.ib, RawOp.rz, Ext.isNone, getElem_eq, encImm, encImmS, decImm, decImmS, encShift, decCnt, encF, encV, vrs, wsExt, decCmd, extWs, RawOp.vh, VH.wf, decAtomI, decAtomF, decAtomFl, encAtom, CopyMods.pack, decCopyMods, PlkMods.pack, decPlk, decOrd, encOrd, hw])
theorem loop (g : Guard) (cnt : LoopCnt) (off : BitVec 14) : Statement (.loop g cnt off) := by
  cases cnt <;> exact statement_of_raw rfl fun hw => by
    simp [Instr.wf, wfOp, isEvent, VH.wf, wsOk] at hw
    exact decodeOne_mkOp (dec := decode0 5) rfl (fun r x e => by unfold decodeRaw; rw [e]; rfl) (by simp [hw])
      (by simp [decode0, req, RawOp.zd, RawOp.za, RawOp.zb, RawOp.zi, RawOp.fld, RawOp.ib, RawOp.rz, Ext.isNone, getElem_eq, encImm, encImmS, decImm, decImmS, encShift, decCnt, encF, encV, vrs, wsExt, decCmd, extWs, RawOp.vh, VH.wf, decAtomI, decAtomF, decAtomFl, encAtom, CopyMods.pack, decCopyMods, PlkMods.pack, decPlk, decOrd, encOrd, hw])
theorem lexit (g : Guard) : Statement (.lexit g) := by
  exact statement_of_raw rfl fun hw => by
    simp [Instr.wf, wfOp, isEvent, VH.wf, wsOk] at hw
    exact decodeOne_mkOp (dec := decode0 6) rfl (fun r x e => by unfold decodeRaw; rw [e]; rfl) (by simp [hw])
      (by simp [decode0, req, RawOp.zd, RawOp.za, RawOp.zb, RawOp.zi, RawOp.fld, RawOp.ib, RawOp.rz, Ext.isNone, getElem_eq, encImm, encImmS, decImm, decImmS, encShift, decCnt, encF, encV, vrs, wsExt, decCmd, extWs, RawOp.vh, VH.wf, decAtomI, decAtomF, decAtomFl, encAtom, CopyMods.pack, decCopyMods, PlkMods.pack, decPlk, decOrd, encOrd, hw])
theorem trap (g : Guard) (code : BitVec 8) : Statement (.trap g code) := by
  exact statement_of_raw rfl fun hw => by
    simp [Instr.wf, wfOp, isEvent, VH.wf, wsOk] at hw
    exact decodeOne_mkOp (dec := decode0 7) rfl (fun r x e => by unfold decodeRaw; rw [e]; rfl) (by simp [hw])
      (by simp [decode0, req, RawOp.zd, RawOp.za, RawOp.zb, RawOp.zi, RawOp.fld, RawOp.ib, RawOp.rz, Ext.isNone, getElem_eq, encImm, encImmS, decImm, decImmS, encShift, decCnt, encF, encV, vrs, wsExt, decCmd, extWs, RawOp.vh, VH.wf, decAtomI, decAtomF, decAtomFl, encAtom, CopyMods.pack, decCopyMods, PlkMods.pack, decPlk, decOrd, encOrd, hw])
theorem eret (g : Guard) : Statement (.eret g) := by
  exact statement_of_raw rfl fun hw => by
    simp [Instr.wf, wfOp, isEvent, VH.wf, wsOk] at hw
    exact decodeOne_mkOp (dec := decode0 8) rfl (fun r x e => by unfold decodeRaw; rw [e]; rfl) (by simp [hw])
      (by simp [decode0, req, RawOp.zd, RawOp.za, RawOp.zb, RawOp.zi, RawOp.fld, RawOp.ib, RawOp.rz, Ext.isNone, getElem_eq, encImm, encImmS, decImm, decImmS, encShift, decCnt, encF, encV, vrs, wsExt, decCmd, extWs, RawOp.vh, VH.wf, decAtomI, decAtomF, decAtomFl, encAtom, CopyMods.pack, decCopyMods, PlkMods.pack, decPlk, decOrd, encOrd, hw])
theorem sread (g : Guard) (d : Opd) (sel : BitVec 14) : Statement (.sread g d sel) := by
  exact statement_of_raw rfl fun hw => by
    simp [Instr.wf, wfOp, isEvent, VH.wf, wsOk] at hw
    exact decodeOne_mkOp (dec := decode0 9) rfl (fun r x e => by unfold decodeRaw; rw [e]; rfl) (by simp [hw])
      (by simp [decode0, req, RawOp.zd, RawOp.za, RawOp.zb, RawOp.zi, RawOp.fld, RawOp.ib, RawOp.rz, Ext.isNone, getElem_eq, encImm, encImmS, decImm, decImmS, encShift, decCnt, encF, encV, vrs, wsExt, decCmd, extWs, RawOp.vh, VH.wf, decAtomI, decAtomF, decAtomFl, encAtom, CopyMods.pack, decCopyMods, PlkMods.pack, decPlk, decOrd, encOrd, wfOp, Guard.wf, hw])
theorem swrite (g : Guard) (sel : BitVec 14) (a : Opd) : Statement (.swrite g sel a) := by
  exact statement_of_raw rfl fun hw => by
    simp [Instr.wf, wfOp, isEvent, VH.wf, wsOk] at hw
    exact decodeOne_mkOp (dec := decode0 10) rfl (fun r x e => by unfold decodeRaw; rw [e]; rfl) (by simp [hw])
      (by simp [decode0, req, RawOp.zd, RawOp.za, RawOp.zb, RawOp.zi, RawOp.fld, RawOp.ib, RawOp.rz, Ext.isNone, getElem_eq, encImm, encImmS, decImm, decImmS, encShift, decCnt, encF, encV, vrs, wsExt, decCmd, extWs, RawOp.vh, VH.wf, decAtomI, decAtomF, decAtomFl, encAtom, CopyMods.pack, decCopyMods, PlkMods.pack, decPlk, decOrd, encOrd, wfOp, Guard.wf, hw])
theorem rgn (g : Guard) (f : BitVec 8) (c : BitVec 6) (live : Option Word) : Statement (.rgn g f c live) := by
  cases live <;> exact statement_of_raw rfl fun hw => by
    simp [Instr.wf, wfOp, isEvent, VH.wf, wsOk] at hw
    exact decodeOne_mkOp (dec := decode0 11) rfl (fun r x e => by unfold decodeRaw; rw [e]; rfl) (by simp [hw])
      (by simp [decode0, req, RawOp.zd, RawOp.za, RawOp.zb, RawOp.zi, RawOp.fld, RawOp.ib, RawOp.rz, Ext.isNone, getElem_eq, encImm, encImmS, decImm, decImmS, encShift, decCnt, encF, encV, vrs, wsExt, decCmd, extWs, RawOp.vh, VH.wf, decAtomI, decAtomF, decAtomFl, encAtom, CopyMods.pack, decCopyMods, PlkMods.pack, decPlk, decOrd, encOrd, hw])
theorem rgnend (g : Guard) : Statement (.rgnend g) := by
  exact statement_of_raw rfl fun hw => by
    simp [Instr.wf, wfOp, isEvent, VH.wf, wsOk] at hw
    exact decodeOne_mkOp (dec := decode0 12) rfl (fun r x e => by unfold decodeRaw; rw [e]; rfl) (by simp [hw])
      (by simp [decode0, req, RawOp.zd, RawOp.za, RawOp.zb, RawOp.zi, RawOp.fld, RawOp.ib, RawOp.rz, Ext.isNone, getElem_eq, encImm, encImmS, decImm, decImmS, encShift, decCnt, encF, encV, vrs, wsExt, decCmd, extWs, RawOp.vh, VH.wf, decAtomI, decAtomF, decAtomFl, encAtom, CopyMods.pack, decCopyMods, PlkMods.pack, decPlk, decOrd, encOrd, hw])
theorem ifence (g : Guard) : Statement (.ifence g) := by
  exact statement_of_raw rfl fun hw => by
    simp [Instr.wf, wfOp, isEvent, VH.wf, wsOk] at hw
    exact decodeOne_mkOp (dec := decode0 13) rfl (fun r x e => by unfold decodeRaw; rw [e]; rfl) (by simp [hw])
      (by simp [decode0, req, RawOp.zd, RawOp.za, RawOp.zb, RawOp.zi, RawOp.fld, RawOp.ib, RawOp.rz, Ext.isNone, getElem_eq, encImm, encImmS, decImm, decImmS, encShift, decCnt, encF, encV, vrs, wsExt, decCmd, extWs, RawOp.vh, VH.wf, decAtomI, decAtomF, decAtomFl, encAtom, CopyMods.pack, decCopyMods, PlkMods.pack, decPlk, decOrd, encOrd, hw])
theorem yield (g : Guard) : Statement (.yield g) := by
  exact statement_of_raw rfl fun hw => by
    simp [Instr.wf, wfOp, isEvent, VH.wf, wsOk] at hw
    exact decodeOne_mkOp (dec := decode0 14) rfl (fun r x e => by unfold decodeRaw; rw [e]; rfl) (by simp [hw])
      (by simp [decode0, req, RawOp.zd, RawOp.za, RawOp.zb, RawOp.zi, RawOp.fld, RawOp.ib, RawOp.rz, Ext.isNone, getElem_eq, encImm, encImmS, decImm, decImmS, encShift, decCnt, encF, encV, vrs, wsExt, decCmd, extWs, RawOp.vh, VH.wf, decAtomI, decAtomF, decAtomFl, encAtom, CopyMods.pack, decCopyMods, PlkMods.pack, decPlk, decOrd, encOrd, hw])
theorem tune (g : Guard) (src : Src64) : Statement (.tune g src) := by
  cases src <;> exact statement_of_raw rfl fun hw => by
    simp [Instr.wf, wfOp, isEvent, VH.wf, wsOk] at hw
    exact decodeOne_mkOp (dec := decode0 16) rfl (fun r x e => by unfold decodeRaw; rw [e]; rfl) (by simp [hw])
      (by simp [decode0, req, RawOp.zd, RawOp.za, RawOp.zb, RawOp.zi, RawOp.fld, RawOp.ib, RawOp.rz, Ext.isNone, getElem_eq, encImm, encImmS, decImm, decImmS, encShift, decCnt, encF, encV, vrs, wsExt, decCmd, extWs, RawOp.vh, VH.wf, decAtomI, decAtomF, decAtomFl, encAtom, CopyMods.pack, decCopyMods, PlkMods.pack, decPlk, decOrd, encOrd, hw])
theorem resize (g : Guard) (d : Ix) (wm1 : BitVec 6) : Statement (.resize g d wm1) := by
  exact statement_of_raw rfl fun hw => by
    simp [Instr.wf, wfOp, isEvent, VH.wf, wsOk] at hw
    exact decodeOne_mkOp (dec := decode0 17) rfl (fun r x e => by unfold decodeRaw; rw [e]; rfl) (by simp [hw])
      (by simp [decode0, req, RawOp.zd, RawOp.za, RawOp.zb, RawOp.zi, RawOp.fld, RawOp.ib, RawOp.rz, Ext.isNone, getElem_eq, encImm, encImmS, decImm, decImmS, encShift, decCnt, encF, encV, vrs, wsExt, decCmd, extWs, RawOp.vh, VH.wf, decAtomI, decAtomF, decAtomFl, encAtom, CopyMods.pack, decCopyMods, PlkMods.pack, decPlk, decOrd, encOrd, hw])
theorem shape (g : Guard) (d : Ix) (v : Ix) (q : ShapeReq) : Statement (.shape g d v q) := by
  cases q <;> exact statement_of_raw rfl fun hw => by
    simp [Instr.wf, wfOp, isEvent, VH.wf, wsOk] at hw
    exact decodeOne_mkOp (dec := decode0 18) rfl (fun r x e => by unfold decodeRaw; rw [e]; rfl) (by simp [hw])
      (by simp [decode0, req, RawOp.zd, RawOp.za, RawOp.zb, RawOp.zi, RawOp.fld, RawOp.ib, RawOp.rz, Ext.isNone, getElem_eq, encImm, encImmS, decImm, decImmS, encShift, decCnt, encF, encV, vrs, wsExt, decCmd, extWs, RawOp.vh, VH.wf, decAtomI, decAtomF, decAtomFl, encAtom, CopyMods.pack, decCopyMods, PlkMods.pack, decPlk, decOrd, encOrd, hw])
theorem width (g : Guard) (d : Ix) (a : Opd) : Statement (.width g d a) := by
  exact statement_of_raw rfl fun hw => by
    simp [Instr.wf, wfOp, isEvent, VH.wf, wsOk] at hw
    exact decodeOne_mkOp (dec := decode0 19) rfl (fun r x e => by unfold decodeRaw; rw [e]; rfl) (by simp [hw])
      (by simp [decode0, req, RawOp.zd, RawOp.za, RawOp.zb, RawOp.zi, RawOp.fld, RawOp.ib, RawOp.rz, Ext.isNone, getElem_eq, encImm, encImmS, decImm, decImmS, encShift, decCnt, encF, encV, vrs, wsExt, decCmd, extWs, RawOp.vh, VH.wf, decAtomI, decAtomF, decAtomFl, encAtom, CopyMods.pack, decCopyMods, PlkMods.pack, decPlk, decOrd, encOrd, hw])
theorem fset (g : Guard) (d : Ix) : Statement (.fset g d) := by
  exact statement_of_raw rfl fun hw => by
    simp [Instr.wf, wfOp, isEvent, VH.wf, wsOk] at hw
    exact decodeOne_mkOp (dec := decode0 20) rfl (fun r x e => by unfold decodeRaw; rw [e]; rfl) (by simp [hw])
      (by simp [decode0, req, RawOp.zd, RawOp.za, RawOp.zb, RawOp.zi, RawOp.fld, RawOp.ib, RawOp.rz, Ext.isNone, getElem_eq, encImm, encImmS, decImm, decImmS, encShift, decCnt, encF, encV, vrs, wsExt, decCmd, extWs, RawOp.vh, VH.wf, decAtomI, decAtomF, decAtomFl, encAtom, CopyMods.pack, decCopyMods, PlkMods.pack, decPlk, decOrd, encOrd, hw])
theorem fclr (g : Guard) (d : Ix) : Statement (.fclr g d) := by
  exact statement_of_raw rfl fun hw => by
    simp [Instr.wf, wfOp, isEvent, VH.wf, wsOk] at hw
    exact decodeOne_mkOp (dec := decode0 21) rfl (fun r x e => by unfold decodeRaw; rw [e]; rfl) (by simp [hw])
      (by simp [decode0, req, RawOp.zd, RawOp.za, RawOp.zb, RawOp.zi, RawOp.fld, RawOp.ib, RawOp.rz, Ext.isNone, getElem_eq, encImm, encImmS, decImm, decImmS, encShift, decCnt, encF, encV, vrs, wsExt, decCmd, extWs, RawOp.vh, VH.wf, decAtomI, decAtomF, decAtomFl, encAtom, CopyMods.pack, decCopyMods, PlkMods.pack, decPlk, decOrd, encOrd, hw])
theorem ftest (g : Guard) (d : Ix) (a : Ix) : Statement (.ftest g d a) := by
  exact statement_of_raw rfl fun hw => by
    simp [Instr.wf, wfOp, isEvent, VH.wf, wsOk] at hw
    exact decodeOne_mkOp (dec := decode0 22) rfl (fun r x e => by unfold decodeRaw; rw [e]; rfl) (by simp [hw])
      (by simp [decode0, req, RawOp.zd, RawOp.za, RawOp.zb, RawOp.zi, RawOp.fld, RawOp.ib, RawOp.rz, Ext.isNone, getElem_eq, encImm, encImmS, decImm, decImmS, encShift, decCnt, encF, encV, vrs, wsExt, decCmd, extWs, RawOp.vh, VH.wf, decAtomI, decAtomF, decAtomFl, encAtom, CopyMods.pack, decCopyMods, PlkMods.pack, decPlk, decOrd, encOrd, hw])
theorem pdrainDrain (g : Guard) (d : Ix) (a : Opd) : Statement (.pdrainDrain g d a) := by
  exact statement_of_raw rfl fun hw => by
    simp [Instr.wf, wfOp, isEvent, VH.wf, wsOk] at hw
    exact decodeOne_mkOp (dec := decode0 64) rfl (fun r x e => by unfold decodeRaw; rw [e]; rfl) (by simp [hw])
      (by simp [decode0, req, RawOp.zd, RawOp.za, RawOp.zb, RawOp.zi, RawOp.fld, RawOp.ib, RawOp.rz, Ext.isNone, getElem_eq, encImm, encImmS, decImm, decImmS, encShift, decCnt, encF, encV, vrs, wsExt, decCmd, extWs, RawOp.vh, VH.wf, decAtomI, decAtomF, decAtomFl, encAtom, CopyMods.pack, decCopyMods, PlkMods.pack, decPlk, decOrd, encOrd, hw])
theorem pdrainDrainPart (g : Guard) (d : Ix) (a : Opd) : Statement (.pdrainDrainPart g d a) := by
  exact statement_of_raw rfl fun hw => by
    simp [Instr.wf, wfOp, isEvent, VH.wf, wsOk] at hw
    exact decodeOne_mkOp (dec := decode0 64) rfl (fun r x e => by unfold decodeRaw; rw [e]; rfl) (by simp [hw])
      (by simp [decode0, req, RawOp.zd, RawOp.za, RawOp.zb, RawOp.zi, RawOp.fld, RawOp.ib, RawOp.rz, Ext.isNone, getElem_eq, encImm, encImmS, decImm, decImmS, encShift, decCnt, encF, encV, vrs, wsExt, decCmd, extWs, RawOp.vh, VH.wf, decAtomI, decAtomF, decAtomFl, encAtom, CopyMods.pack, decCopyMods, PlkMods.pack, decPlk, decOrd, encOrd, hw])
theorem pdrainSave (g : Guard) (d : Ix) (a : Opd) (b : Opd) : Statement (.pdrainSave g d a b) := by
  exact statement_of_raw rfl fun hw => by
    simp [Instr.wf, wfOp, isEvent, VH.wf, wsOk] at hw
    exact decodeOne_mkOp (dec := decode0 64) rfl (fun r x e => by unfold decodeRaw; rw [e]; rfl) (by simp [hw])
      (by simp [decode0, req, RawOp.zd, RawOp.za, RawOp.zb, RawOp.zi, RawOp.fld, RawOp.ib, RawOp.rz, Ext.isNone, getElem_eq, encImm, encImmS, decImm, decImmS, encShift, decCnt, encF, encV, vrs, wsExt, decCmd, extWs, RawOp.vh, VH.wf, decAtomI, decAtomF, decAtomFl, encAtom, CopyMods.pack, decCopyMods, PlkMods.pack, decPlk, decOrd, encOrd, hw])
theorem pdrainResume (g : Guard) (d : Ix) (b : Opd) : Statement (.pdrainResume g d b) := by
  exact statement_of_raw rfl fun hw => by
    simp [Instr.wf, wfOp, isEvent, VH.wf, wsOk] at hw
    exact decodeOne_mkOp (dec := decode0 64) rfl (fun r x e => by unfold decodeRaw; rw [e]; rfl) (by simp [hw])
      (by simp [decode0, req, RawOp.zd, RawOp.za, RawOp.zb, RawOp.zi, RawOp.fld, RawOp.ib, RawOp.rz, Ext.isNone, getElem_eq, encImm, encImmS, decImm, decImmS, encShift, decCnt, encF, encV, vrs, wsExt, decCmd, extWs, RawOp.vh, VH.wf, decAtomI, decAtomF, decAtomFl, encAtom, CopyMods.pack, decCopyMods, PlkMods.pack, decPlk, decOrd, encOrd, hw])
theorem preset (g : Guard) (d : Ix) (a : Opd) (b : Opd) : Statement (.preset g d a b) := by
  exact statement_of_raw rfl fun hw => by
    simp [Instr.wf, wfOp, isEvent, VH.wf, wsOk] at hw
    exact decodeOne_mkOp (dec := decode0 65) rfl (fun r x e => by unfold decodeRaw; rw [e]; rfl) (by simp [hw])
      (by simp [decode0, req, RawOp.zd, RawOp.za, RawOp.zb, RawOp.zi, RawOp.fld, RawOp.ib, RawOp.rz, Ext.isNone, getElem_eq, encImm, encImmS, decImm, decImmS, encShift, decCnt, encF, encV, vrs, wsExt, decCmd, extWs, RawOp.vh, VH.wf, decAtomI, decAtomF, decAtomFl, encAtom, CopyMods.pack, decCopyMods, PlkMods.pack, decPlk, decOrd, encOrd, hw])
theorem presetKeep (g : Guard) (d : Ix) (a : Opd) : Statement (.presetKeep g d a) := by
  exact statement_of_raw rfl fun hw => by
    simp [Instr.wf, wfOp, isEvent, VH.wf, wsOk] at hw
    exact decodeOne_mkOp (dec := decode0 65) rfl (fun r x e => by unfold decodeRaw; rw [e]; rfl) (by simp [hw])
      (by simp [decode0, req, RawOp.zd, RawOp.za, RawOp.zb, RawOp.zi, RawOp.fld, RawOp.ib, RawOp.rz, Ext.isNone, getElem_eq, encImm, encImmS, decImm, decImmS, encShift, decCnt, encF, encV, vrs, wsExt, decCmd, extWs, RawOp.vh, VH.wf, decAtomI, decAtomF, decAtomFl, encAtom, CopyMods.pack, decCopyMods, PlkMods.pack, decPlk, decOrd, encOrd, hw])
theorem slotrd (g : Guard) (d : Ix) (a : Opd) (sp : SlotSp) (sel : BitVec 8) : Statement (.slotrd g d a sp sel) := by
  exact statement_of_raw rfl fun hw => by
    simp [Instr.wf, wfOp, isEvent, VH.wf, wsOk] at hw
    exact decodeOne_mkOp (dec := decode0 66) rfl (fun r x e => by unfold decodeRaw; rw [e]; rfl) (by simp [hw])
      (by simp [decode0, req, RawOp.zd, RawOp.za, RawOp.zb, RawOp.zi, RawOp.fld, RawOp.ib, RawOp.rz, Ext.isNone, getElem_eq, encImm, encImmS, decImm, decImmS, encShift, decCnt, encF, encV, vrs, wsExt, decCmd, extWs, RawOp.vh, VH.wf, decAtomI, decAtomF, decAtomFl, encAtom, CopyMods.pack, decCopyMods, PlkMods.pack, decPlk, decOrd, encOrd, hw])
theorem slotwr (g : Guard) (d : Ix) (a : Opd) (b : Opd) (sp : SlotSp) (sel : BitVec 8) (run : Bool) : Statement (.slotwr g d a b sp sel run) := by
  exact statement_of_raw rfl fun hw => by
    simp [Instr.wf, wfOp, isEvent, VH.wf, wsOk] at hw
    exact decodeOne_mkOp (dec := decode0 67) rfl (fun r x e => by unfold decodeRaw; rw [e]; rfl) (by simp [hw])
      (by simp [decode0, req, RawOp.zd, RawOp.za, RawOp.zb, RawOp.zi, RawOp.fld, RawOp.ib, RawOp.rz, Ext.isNone, getElem_eq, encImm, encImmS, decImm, decImmS, encShift, decCnt, encF, encV, vrs, wsExt, decCmd, extWs, RawOp.vh, VH.wf, decAtomI, decAtomF, decAtomFl, encAtom, CopyMods.pack, decCopyMods, PlkMods.pack, decPlk, decOrd, encOrd, hw])
theorem slotkill (g : Guard) (d : Ix) (a : Opd) : Statement (.slotkill g d a) := by
  exact statement_of_raw rfl fun hw => by
    simp [Instr.wf, wfOp, isEvent, VH.wf, wsOk] at hw
    exact decodeOne_mkOp (dec := decode0 68) rfl (fun r x e => by unfold decodeRaw; rw [e]; rfl) (by simp [hw])
      (by simp [decode0, req, RawOp.zd, RawOp.za, RawOp.zb, RawOp.zi, RawOp.fld, RawOp.ib, RawOp.rz, Ext.isNone, getElem_eq, encImm, encImmS, decImm, decImmS, encShift, decCnt, encF, encV, vrs, wsExt, decCmd, extWs, RawOp.vh, VH.wf, decAtomI, decAtomF, decAtomFl, encAtom, CopyMods.pack, decCopyMods, PlkMods.pack, decPlk, decOrd, encOrd, hw])
theorem tlbinvPage (g : Guard) (d : Ix) (a : Opd) : Statement (.tlbinvPage g d a) := by
  exact statement_of_raw rfl fun hw => by
    simp [Instr.wf, wfOp, isEvent, VH.wf, wsOk] at hw
    exact decodeOne_mkOp (dec := decode0 69) rfl (fun r x e => by unfold decodeRaw; rw [e]; rfl) (by simp [hw])
      (by simp [decode0, req, RawOp.zd, RawOp.za, RawOp.zb, RawOp.zi, RawOp.fld, RawOp.ib, RawOp.rz, Ext.isNone, getElem_eq, encImm, encImmS, decImm, decImmS, encShift, decCnt, encF, encV, vrs, wsExt, decCmd, extWs, RawOp.vh, VH.wf, decAtomI, decAtomF, decAtomFl, encAtom, CopyMods.pack, decCopyMods, PlkMods.pack, decPlk, decOrd, encOrd, hw])
theorem tlbinvRange (g : Guard) (d : Ix) (a : Opd) (b : Opd) : Statement (.tlbinvRange g d a b) := by
  exact statement_of_raw rfl fun hw => by
    simp [Instr.wf, wfOp, isEvent, VH.wf, wsOk] at hw
    exact decodeOne_mkOp (dec := decode0 69) rfl (fun r x e => by unfold decodeRaw; rw [e]; rfl) (by simp [hw])
      (by simp [decode0, req, RawOp.zd, RawOp.za, RawOp.zb, RawOp.zi, RawOp.fld, RawOp.ib, RawOp.rz, Ext.isNone, getElem_eq, encImm, encImmS, decImm, decImmS, encShift, decCnt, encF, encV, vrs, wsExt, decCmd, extWs, RawOp.vh, VH.wf, decAtomI, decAtomF, decAtomFl, encAtom, CopyMods.pack, decCopyMods, PlkMods.pack, decPlk, decOrd, encOrd, hw])
theorem tlbinvCtx (g : Guard) (d : Ix) : Statement (.tlbinvCtx g d) := by
  exact statement_of_raw rfl fun hw => by
    simp [Instr.wf, wfOp, isEvent, VH.wf, wsOk] at hw
    exact decodeOne_mkOp (dec := decode0 69) rfl (fun r x e => by unfold decodeRaw; rw [e]; rfl) (by simp [hw])
      (by simp [decode0, req, RawOp.zd, RawOp.za, RawOp.zb, RawOp.zi, RawOp.fld, RawOp.ib, RawOp.rz, Ext.isNone, getElem_eq, encImm, encImmS, decImm, decImmS, encShift, decCnt, encF, encV, vrs, wsExt, decCmd, extWs, RawOp.vh, VH.wf, decAtomI, decAtomF, decAtomFl, encAtom, CopyMods.pack, decCopyMods, PlkMods.pack, decPlk, decOrd, encOrd, hw])
theorem tlbinvAll (g : Guard) (d : Ix) : Statement (.tlbinvAll g d) := by
  exact statement_of_raw rfl fun hw => by
    simp [Instr.wf, wfOp, isEvent, VH.wf, wsOk] at hw
    exact decodeOne_mkOp (dec := decode0 69) rfl (fun r x e => by unfold decodeRaw; rw [e]; rfl) (by simp [hw])
      (by simp [decode0, req, RawOp.zd, RawOp.za, RawOp.zb, RawOp.zi, RawOp.fld, RawOp.ib, RawOp.rz, Ext.isNone, getElem_eq, encImm, encImmS, decImm, decImmS, encShift, decCnt, encF, encV, vrs, wsExt, decCmd, extWs, RawOp.vh, VH.wf, decAtomI, decAtomF, decAtomFl, encAtom, CopyMods.pack, decCopyMods, PlkMods.pack, decPlk, decOrd, encOrd, hw])
theorem wdset (g : Guard) (d : Ix) (a : Opd) (b : Opd) : Statement (.wdset g d a b) := by
  exact statement_of_raw rfl fun hw => by
    simp [Instr.wf, wfOp, isEvent, VH.wf, wsOk] at hw
    exact decodeOne_mkOp (dec := decode0 70) rfl (fun r x e => by unfold decodeRaw; rw [e]; rfl) (by simp [hw])
      (by simp [decode0, req, RawOp.zd, RawOp.za, RawOp.zb, RawOp.zi, RawOp.fld, RawOp.ib, RawOp.rz, Ext.isNone, getElem_eq, encImm, encImmS, decImm, decImmS, encShift, decCnt, encF, encV, vrs, wsExt, decCmd, extWs, RawOp.vh, VH.wf, decAtomI, decAtomF, decAtomFl, encAtom, CopyMods.pack, decCopyMods, PlkMods.pack, decPlk, decOrd, encOrd, hw])
theorem pmcfg (g : Guard) (a : Opd) (b : Opd) (zero : Bool) : Statement (.pmcfg g a b zero) := by
  exact statement_of_raw rfl fun hw => by
    simp [Instr.wf, wfOp, isEvent, VH.wf, wsOk] at hw
    exact decodeOne_mkOp (dec := decode0 71) rfl (fun r x e => by unfold decodeRaw; rw [e]; rfl) (by simp [hw])
      (by simp [decode0, req, RawOp.zd, RawOp.za, RawOp.zb, RawOp.zi, RawOp.fld, RawOp.ib, RawOp.rz, Ext.isNone, getElem_eq, encImm, encImmS, decImm, decImmS, encShift, decCnt, encF, encV, vrs, wsExt, decCmd, extWs, RawOp.vh, VH.wf, decAtomI, decAtomF, decAtomFl, encAtom, CopyMods.pack, decCopyMods, PlkMods.pack, decPlk, decOrd, encOrd, hw])
theorem pmrd (g : Guard) (d : Ix) (a : Opd) (cfg : Bool) : Statement (.pmrd g d a cfg) := by
  exact statement_of_raw rfl fun hw => by
    simp [Instr.wf, wfOp, isEvent, VH.wf, wsOk] at hw
    exact decodeOne_mkOp (dec := decode0 72) rfl (fun r x e => by unfold decodeRaw; rw [e]; rfl) (by simp [hw])
      (by simp [decode0, req, RawOp.zd, RawOp.za, RawOp.zb, RawOp.zi, RawOp.fld, RawOp.ib, RawOp.rz, Ext.isNone, getElem_eq, encImm, encImmS, decImm, decImmS, encShift, decCnt, encF, encV, vrs, wsExt, decCmd, extWs, RawOp.vh, VH.wf, decAtomI, decAtomF, decAtomFl, encAtom, CopyMods.pack, decCopyMods, PlkMods.pack, decPlk, decOrd, encOrd, hw])
theorem tracerd (g : Guard) (d : Ix) (a : Opd) (b : Option Opd) : Statement (.tracerd g d a b) := by
  cases b <;> exact statement_of_raw rfl fun hw => by
    simp [Instr.wf, wfOp, isEvent, VH.wf, wsOk] at hw
    exact decodeOne_mkOp (dec := decode0 73) rfl (fun r x e => by unfold decodeRaw; rw [e]; rfl) (by simp [hw])
      (by simp [decode0, req, RawOp.zd, RawOp.za, RawOp.zb, RawOp.zi, RawOp.fld, RawOp.ib, RawOp.rz, Ext.isNone, getElem_eq, encImm, encImmS, decImm, decImmS, encShift, decCnt, encF, encV, vrs, wsExt, decCmd, extWs, RawOp.vh, VH.wf, decAtomI, decAtomF, decAtomFl, encAtom, CopyMods.pack, decCopyMods, PlkMods.pack, decPlk, decOrd, encOrd, hw])
theorem add (g : Guard) (d : Opd) (a : Opd) (b : Opd) : Statement (.add g d a b) := by
  exact statement_of_raw rfl fun hw => by
    simp [Instr.wf, wfOp, isEvent, VH.wf, wsOk] at hw
    exact decodeOne_mkOp (dec := decode1 0) rfl (fun r x e => by unfold decodeRaw; rw [e]; rfl) (by simp [hw])
      (by simp [decode1, req, RawOp.zd, RawOp.za, RawOp.zb, RawOp.zi, RawOp.fld, RawOp.ib, RawOp.rz, Ext.isNone, getElem_eq, encImm, encImmS, decImm, decImmS, encShift, decCnt, encF, encV, vrs, wsExt, decCmd, extWs, RawOp.vh, VH.wf, decAtomI, decAtomF, decAtomFl, encAtom, CopyMods.pack, decCopyMods, PlkMods.pack, decPlk, decOrd, encOrd, hw])
theorem addi (g : Guard) (d : Opd) (a : Opd) (imm : Imm) : Statement (.addi g d a imm) := by
  cases imm <;> exact statement_of_raw rfl fun hw => by
    simp [Instr.wf, wfOp, isEvent, VH.wf, wsOk] at hw
    exact decodeOne_mkOp (dec := decode1 1) rfl (fun r x e => by unfold decodeRaw; rw [e]; rfl) (by simp [hw])
      (by simp [decode1, req, RawOp.zd, RawOp.za, RawOp.zb, RawOp.zi, RawOp.fld, RawOp.ib, RawOp.rz, Ext.isNone, getElem_eq, encImm, encImmS, decImm, decImmS, encShift, decCnt, encF, encV, vrs, wsExt, decCmd, extWs, RawOp.vh, VH.wf, decAtomI, decAtomF, decAtomFl, encAtom, CopyMods.pack, decCopyMods, PlkMods.pack, decPlk, decOrd, encOrd, hw])
theorem sub (g : Guard) (d : Opd) (a : Opd) (b : Opd) : Statement (.sub g d a b) := by
  exact statement_of_raw rfl fun hw => by
    simp [Instr.wf, wfOp, isEvent, VH.wf, wsOk] at hw
    exact decodeOne_mkOp (dec := decode1 2) rfl (fun r x e => by unfold decodeRaw; rw [e]; rfl) (by simp [hw])
      (by simp [decode1, req, RawOp.zd, RawOp.za, RawOp.zb, RawOp.zi, RawOp.fld, RawOp.ib, RawOp.rz, Ext.isNone, getElem_eq, encImm, encImmS, decImm, decImmS, encShift, decCnt, encF, encV, vrs, wsExt, decCmd, extWs, RawOp.vh, VH.wf, decAtomI, decAtomF, decAtomFl, encAtom, CopyMods.pack, decCopyMods, PlkMods.pack, decPlk, decOrd, encOrd, hw])
theorem mul (g : Guard) (d : Opd) (a : Opd) (b : Opd) : Statement (.mul g d a b) := by
  exact statement_of_raw rfl fun hw => by
    simp [Instr.wf, wfOp, isEvent, VH.wf, wsOk] at hw
    exact decodeOne_mkOp (dec := decode1 3) rfl (fun r x e => by unfold decodeRaw; rw [e]; rfl) (by simp [hw])
      (by simp [decode1, req, RawOp.zd, RawOp.za, RawOp.zb, RawOp.zi, RawOp.fld, RawOp.ib, RawOp.rz, Ext.isNone, getElem_eq, encImm, encImmS, decImm, decImmS, encShift, decCnt, encF, encV, vrs, wsExt, decCmd, extWs, RawOp.vh, VH.wf, decAtomI, decAtomF, decAtomFl, encAtom, CopyMods.pack, decCopyMods, PlkMods.pack, decPlk, decOrd, encOrd, hw])
theorem mulh (g : Guard) (d : Opd) (a : Opd) (b : Opd) : Statement (.mulh g d a b) := by
  exact statement_of_raw rfl fun hw => by
    simp [Instr.wf, wfOp, isEvent, VH.wf, wsOk] at hw
    exact decodeOne_mkOp (dec := decode1 4) rfl (fun r x e => by unfold decodeRaw; rw [e]; rfl) (by simp [hw])
      (by simp [decode1, req, RawOp.zd, RawOp.za, RawOp.zb, RawOp.zi, RawOp.fld, RawOp.ib, RawOp.rz, Ext.isNone, getElem_eq, encImm, encImmS, decImm, decImmS, encShift, decCnt, encF, encV, vrs, wsExt, decCmd, extWs, RawOp.vh, VH.wf, decAtomI, decAtomF, decAtomFl, encAtom, CopyMods.pack, decCopyMods, PlkMods.pack, decPlk, decOrd, encOrd, hw])
theorem madd (g : Guard) (d : Opd) (a : Opd) (b : Opd) (c : Ix) : Statement (.madd g d a b c) := by
  exact statement_of_raw rfl fun hw => by
    simp [Instr.wf, wfOp, isEvent, VH.wf, wsOk] at hw
    exact decodeOne_mkOp (dec := decode1 5) rfl (fun r x e => by unfold decodeRaw; rw [e]; rfl) (by simp [hw])
      (by simp [decode1, req, RawOp.zd, RawOp.za, RawOp.zb, RawOp.zi, RawOp.fld, RawOp.ib, RawOp.rz, Ext.isNone, getElem_eq, encImm, encImmS, decImm, decImmS, encShift, decCnt, encF, encV, vrs, wsExt, decCmd, extWs, RawOp.vh, VH.wf, decAtomI, decAtomF, decAtomFl, encAtom, CopyMods.pack, decCopyMods, PlkMods.pack, decPlk, decOrd, encOrd, hw])
theorem div (g : Guard) (d : Opd) (a : Opd) (b : Opd) (nz : Bool) : Statement (.div g d a b nz) := by
  exact statement_of_raw rfl fun hw => by
    simp [Instr.wf, wfOp, isEvent, VH.wf, wsOk] at hw
    exact decodeOne_mkOp (dec := decode1 6) rfl (fun r x e => by unfold decodeRaw; rw [e]; rfl) (by simp [hw])
      (by simp [decode1, req, RawOp.zd, RawOp.za, RawOp.zb, RawOp.zi, RawOp.fld, RawOp.ib, RawOp.rz, Ext.isNone, getElem_eq, encImm, encImmS, decImm, decImmS, encShift, decCnt, encF, encV, vrs, wsExt, decCmd, extWs, RawOp.vh, VH.wf, decAtomI, decAtomF, decAtomFl, encAtom, CopyMods.pack, decCopyMods, PlkMods.pack, decPlk, decOrd, encOrd, hw])
theorem rem (g : Guard) (d : Opd) (a : Opd) (b : Opd) (nz : Bool) : Statement (.rem g d a b nz) := by
  exact statement_of_raw rfl fun hw => by
    simp [Instr.wf, wfOp, isEvent, VH.wf, wsOk] at hw
    exact decodeOne_mkOp (dec := decode1 7) rfl (fun r x e => by unfold decodeRaw; rw [e]; rfl) (by simp [hw])
      (by simp [decode1, req, RawOp.zd, RawOp.za, RawOp.zb, RawOp.zi, RawOp.fld, RawOp.ib, RawOp.rz, Ext.isNone, getElem_eq, encImm, encImmS, decImm, decImmS, encShift, decCnt, encF, encV, vrs, wsExt, decCmd, extWs, RawOp.vh, VH.wf, decAtomI, decAtomF, decAtomFl, encAtom, CopyMods.pack, decCopyMods, PlkMods.pack, decPlk, decOrd, encOrd, hw])
theorem and (g : Guard) (d : Opd) (a : Opd) (b : Opd) : Statement (.and g d a b) := by
  exact statement_of_raw rfl fun hw => by
    simp [Instr.wf, wfOp, isEvent, VH.wf, wsOk] at hw
    exact decodeOne_mkOp (dec := decode1 8) rfl (fun r x e => by unfold decodeRaw; rw [e]; rfl) (by simp [hw])
      (by simp [decode1, req, RawOp.zd, RawOp.za, RawOp.zb, RawOp.zi, RawOp.fld, RawOp.ib, RawOp.rz, Ext.isNone, getElem_eq, encImm, encImmS, decImm, decImmS, encShift, decCnt, encF, encV, vrs, wsExt, decCmd, extWs, RawOp.vh, VH.wf, decAtomI, decAtomF, decAtomFl, encAtom, CopyMods.pack, decCopyMods, PlkMods.pack, decPlk, decOrd, encOrd, hw])
theorem or (g : Guard) (d : Opd) (a : Opd) (b : Opd) : Statement (.or g d a b) := by
  exact statement_of_raw rfl fun hw => by
    simp [Instr.wf, wfOp, isEvent, VH.wf, wsOk] at hw
    exact decodeOne_mkOp (dec := decode1 9) rfl (fun r x e => by unfold decodeRaw; rw [e]; rfl) (by simp [hw])
      (by simp [decode1, req, RawOp.zd, RawOp.za, RawOp.zb, RawOp.zi, RawOp.fld, RawOp.ib, RawOp.rz, Ext.isNone, getElem_eq, encImm, encImmS, decImm, decImmS, encShift, decCnt, encF, encV, vrs, wsExt, decCmd, extWs, RawOp.vh, VH.wf, decAtomI, decAtomF, decAtomFl, encAtom, CopyMods.pack, decCopyMods, PlkMods.pack, decPlk, decOrd, encOrd, hw])
theorem xor (g : Guard) (d : Opd) (a : Opd) (b : Opd) : Statement (.xor g d a b) := by
  exact statement_of_raw rfl fun hw => by
    simp [Instr.wf, wfOp, isEvent, VH.wf, wsOk] at hw
    exact decodeOne_mkOp (dec := decode1 10) rfl (fun r x e => by unfold decodeRaw; rw [e]; rfl) (by simp [hw])
      (by simp [decode1, req, RawOp.zd, RawOp.za, RawOp.zb, RawOp.zi, RawOp.fld, RawOp.ib, RawOp.rz, Ext.isNone, getElem_eq, encImm, encImmS, decImm, decImmS, encShift, decCnt, encF, encV, vrs, wsExt, decCmd, extWs, RawOp.vh, VH.wf, decAtomI, decAtomF, decAtomFl, encAtom, CopyMods.pack, decCopyMods, PlkMods.pack, decPlk, decOrd, encOrd, hw])
theorem andn (g : Guard) (d : Opd) (a : Opd) (b : Opd) : Statement (.andn g d a b) := by
  exact statement_of_raw rfl fun hw => by
    simp [Instr.wf, wfOp, isEvent, VH.wf, wsOk] at hw
    exact decodeOne_mkOp (dec := decode1 11) rfl (fun r x e => by unfold decodeRaw; rw [e]; rfl) (by simp [hw])
      (by simp [decode1, req, RawOp.zd, RawOp.za, RawOp.zb, RawOp.zi, RawOp.fld, RawOp.ib, RawOp.rz, Ext.isNone, getElem_eq, encImm, encImmS, decImm, decImmS, encShift, decCnt, encF, encV, vrs, wsExt, decCmd, extWs, RawOp.vh, VH.wf, decAtomI, decAtomF, decAtomFl, encAtom, CopyMods.pack, decCopyMods, PlkMods.pack, decPlk, decOrd, encOrd, hw])
theorem shl (g : Guard) (d : Opd) (a : Opd) (k : Cnt) : Statement (.shl g d a k) := by
  cases k <;> exact statement_of_raw rfl fun hw => by
    simp [Instr.wf, wfOp, isEvent, VH.wf, wsOk] at hw
    exact decodeOne_mkOp (dec := decode1 12) rfl (fun r x e => by unfold decodeRaw; rw [e]; rfl) (by simp [hw])
      (by simp [decode1, req, RawOp.zd, RawOp.za, RawOp.zb, RawOp.zi, RawOp.fld, RawOp.ib, RawOp.rz, Ext.isNone, getElem_eq, encImm, encImmS, decImm, decImmS, encShift, decCnt, encF, encV, vrs, wsExt, decCmd, extWs, RawOp.vh, VH.wf, decAtomI, decAtomF, decAtomFl, encAtom, CopyMods.pack, decCopyMods, PlkMods.pack, decPlk, decOrd, encOrd, hw])
theorem shr (g : Guard) (d : Opd) (a : Opd) (k : Cnt) : Statement (.shr g d a k) := by
  cases k <;> exact statement_of_raw rfl fun hw => by
    simp [Instr.wf, wfOp, isEvent, VH.wf, wsOk] at hw
    exact decodeOne_mkOp (dec := decode1 13) rfl (fun r x e => by unfold decodeRaw; rw [e]; rfl) (by simp [hw])
      (by simp [decode1, req, RawOp.zd, RawOp.za, RawOp.zb, RawOp.zi, RawOp.fld, RawOp.ib, RawOp.rz, Ext.isNone, getElem_eq, encImm, encImmS, decImm, decImmS, encShift, decCnt, encF, encV, vrs, wsExt, decCmd, extWs, RawOp.vh, VH.wf, decAtomI, decAtomF, decAtomFl, encAtom, CopyMods.pack, decCopyMods, PlkMods.pack, decPlk, decOrd, encOrd, hw])
theorem sra (g : Guard) (d : Opd) (a : Opd) (k : Cnt) : Statement (.sra g d a k) := by
  cases k <;> exact statement_of_raw rfl fun hw => by
    simp [Instr.wf, wfOp, isEvent, VH.wf, wsOk] at hw
    exact decodeOne_mkOp (dec := decode1 14) rfl (fun r x e => by unfold decodeRaw; rw [e]; rfl) (by simp [hw])
      (by simp [decode1, req, RawOp.zd, RawOp.za, RawOp.zb, RawOp.zi, RawOp.fld, RawOp.ib, RawOp.rz, Ext.isNone, getElem_eq, encImm, encImmS, decImm, decImmS, encShift, decCnt, encF, encV, vrs, wsExt, decCmd, extWs, RawOp.vh, VH.wf, decAtomI, decAtomF, decAtomFl, encAtom, CopyMods.pack, decCopyMods, PlkMods.pack, decPlk, decOrd, encOrd, hw])
theorem rot (g : Guard) (d : Opd) (a : Opd) (k : Cnt) : Statement (.rot g d a k) := by
  cases k <;> exact statement_of_raw rfl fun hw => by
    simp [Instr.wf, wfOp, isEvent, VH.wf, wsOk] at hw
    exact decodeOne_mkOp (dec := decode1 15) rfl (fun r x e => by unfold decodeRaw; rw [e]; rfl) (by simp [hw])
      (by simp [decode1, req, RawOp.zd, RawOp.za, RawOp.zb, RawOp.zi, RawOp.fld, RawOp.ib, RawOp.rz, Ext.isNone, getElem_eq, encImm, encImmS, decImm, decImmS, encShift, decCnt, encF, encV, vrs, wsExt, decCmd, extWs, RawOp.vh, VH.wf, decAtomI, decAtomF, decAtomFl, encAtom, CopyMods.pack, decCopyMods, PlkMods.pack, decPlk, decOrd, encOrd, hw])
theorem min (g : Guard) (d : Opd) (a : Opd) (b : Opd) : Statement (.min g d a b) := by
  exact statement_of_raw rfl fun hw => by
    simp [Instr.wf, wfOp, isEvent, VH.wf, wsOk] at hw
    exact decodeOne_mkOp (dec := decode1 16) rfl (fun r x e => by unfold decodeRaw; rw [e]; rfl) (by simp [hw])
      (by simp [decode1, req, RawOp.zd, RawOp.za, RawOp.zb, RawOp.zi, RawOp.fld, RawOp.ib, RawOp.rz, Ext.isNone, getElem_eq, encImm, encImmS, decImm, decImmS, encShift, decCnt, encF, encV, vrs, wsExt, decCmd, extWs, RawOp.vh, VH.wf, decAtomI, decAtomF, decAtomFl, encAtom, CopyMods.pack, decCopyMods, PlkMods.pack, decPlk, decOrd, encOrd, hw])
theorem max (g : Guard) (d : Opd) (a : Opd) (b : Opd) : Statement (.max g d a b) := by
  exact statement_of_raw rfl fun hw => by
    simp [Instr.wf, wfOp, isEvent, VH.wf, wsOk] at hw
    exact decodeOne_mkOp (dec := decode1 17) rfl (fun r x e => by unfold decodeRaw; rw [e]; rfl) (by simp [hw])
      (by simp [decode1, req, RawOp.zd, RawOp.za, RawOp.zb, RawOp.zi, RawOp.fld, RawOp.ib, RawOp.rz, Ext.isNone, getElem_eq, encImm, encImmS, decImm, decImmS, encShift, decCnt, encF, encV, vrs, wsExt, decCmd, extWs, RawOp.vh, VH.wf, decAtomI, decAtomF, decAtomFl, encAtom, CopyMods.pack, decCopyMods, PlkMods.pack, decPlk, decOrd, encOrd, hw])
theorem abs (g : Guard) (d : Opd) (a : Opd) : Statement (.abs g d a) := by
  exact statement_of_raw rfl fun hw => by
    simp [Instr.wf, wfOp, isEvent, VH.wf, wsOk] at hw
    exact decodeOne_mkOp (dec := decode1 18) rfl (fun r x e => by unfold decodeRaw; rw [e]; rfl) (by simp [hw])
      (by simp [decode1, req, RawOp.zd, RawOp.za, RawOp.zb, RawOp.zi, RawOp.fld, RawOp.ib, RawOp.rz, Ext.isNone, getElem_eq, encImm, encImmS, decImm, decImmS, encShift, decCnt, encF, encV, vrs, wsExt, decCmd, extWs, RawOp.vh, VH.wf, decAtomI, decAtomF, decAtomFl, encAtom, CopyMods.pack, decCopyMods, PlkMods.pack, decPlk, decOrd, encOrd, hw])
theorem clz (g : Guard) (d : Opd) (a : Opd) : Statement (.clz g d a) := by
  exact statement_of_raw rfl fun hw => by
    simp [Instr.wf, wfOp, isEvent, VH.wf, wsOk] at hw
    exact decodeOne_mkOp (dec := decode1 19) rfl (fun r x e => by unfold decodeRaw; rw [e]; rfl) (by simp [hw])
      (by simp [decode1, req, RawOp.zd, RawOp.za, RawOp.zb, RawOp.zi, RawOp.fld, RawOp.ib, RawOp.rz, Ext.isNone, getElem_eq, encImm, encImmS, decImm, decImmS, encShift, decCnt, encF, encV, vrs, wsExt, decCmd, extWs, RawOp.vh, VH.wf, decAtomI, decAtomF, decAtomFl, encAtom, CopyMods.pack, decCopyMods, PlkMods.pack, decPlk, decOrd, encOrd, hw])
theorem ctz (g : Guard) (d : Opd) (a : Opd) : Statement (.ctz g d a) := by
  exact statement_of_raw rfl fun hw => by
    simp [Instr.wf, wfOp, isEvent, VH.wf, wsOk] at hw
    exact decodeOne_mkOp (dec := decode1 20) rfl (fun r x e => by unfold decodeRaw; rw [e]; rfl) (by simp [hw])
      (by simp [decode1, req, RawOp.zd, RawOp.za, RawOp.zb, RawOp.zi, RawOp.fld, RawOp.ib, RawOp.rz, Ext.isNone, getElem_eq, encImm, encImmS, decImm, decImmS, encShift, decCnt, encF, encV, vrs, wsExt, decCmd, extWs, RawOp.vh, VH.wf, decAtomI, decAtomF, decAtomFl, encAtom, CopyMods.pack, decCopyMods, PlkMods.pack, decPlk, decOrd, encOrd, hw])
theorem popc (g : Guard) (d : Opd) (a : Opd) : Statement (.popc g d a) := by
  exact statement_of_raw rfl fun hw => by
    simp [Instr.wf, wfOp, isEvent, VH.wf, wsOk] at hw
    exact decodeOne_mkOp (dec := decode1 21) rfl (fun r x e => by unfold decodeRaw; rw [e]; rfl) (by simp [hw])
      (by simp [decode1, req, RawOp.zd, RawOp.za, RawOp.zb, RawOp.zi, RawOp.fld, RawOp.ib, RawOp.rz, Ext.isNone, getElem_eq, encImm, encImmS, decImm, decImmS, encShift, decCnt, encF, encV, vrs, wsExt, decCmd, extWs, RawOp.vh, VH.wf, decAtomI, decAtomF, decAtomFl, encAtom, CopyMods.pack, decCopyMods, PlkMods.pack, decPlk, decOrd, encOrd, hw])
theorem cmp (g : Guard) (cc : Cc) (d : Opd) (a : Opd) (b : Opd) : Statement (.cmp g cc d a b) := by
  exact statement_of_raw rfl fun hw => by
    simp [Instr.wf, wfOp, isEvent, VH.wf, wsOk] at hw
    exact decodeOne_mkOp (dec := decode1 22) rfl (fun r x e => by unfold decodeRaw; rw [e]; rfl) (by simp [hw])
      (by simp [decode1, req, RawOp.zd, RawOp.za, RawOp.zb, RawOp.zi, RawOp.fld, RawOp.ib, RawOp.rz, Ext.isNone, getElem_eq, encImm, encImmS, decImm, decImmS, encShift, decCnt, encF, encV, vrs, wsExt, decCmd, extWs, RawOp.vh, VH.wf, decAtomI, decAtomF, decAtomFl, encAtom, CopyMods.pack, decCopyMods, PlkMods.pack, decPlk, decOrd, encOrd, hw])
theorem cmpi (g : Guard) (cc : Cc) (d : Opd) (a : Opd) (imm : ImmC) : Statement (.cmpi g cc d a imm) := by
  cases imm <;> exact statement_of_raw rfl fun hw => by
    simp [Instr.wf, wfOp, isEvent, VH.wf, wsOk] at hw
    exact decodeOne_mkOp (dec := decode1 23) rfl (fun r x e => by unfold decodeRaw; rw [e]; rfl) (by simp [hw])
      (by simp [decode1, req, RawOp.zd, RawOp.za, RawOp.zb, RawOp.zi, RawOp.fld, RawOp.ib, RawOp.rz, Ext.isNone, getElem_eq, encImm, encImmS, decImm, decImmS, encShift, decCnt, encF, encV, vrs, wsExt, decCmd, extWs, RawOp.vh, VH.wf, decAtomI, decAtomF, decAtomFl, encAtom, CopyMods.pack, decCopyMods, PlkMods.pack, decPlk, decOrd, encOrd, hw])
theorem sel (g : Guard) (d : Opd) (a : Opd) (b : Opd) (c : Ix) : Statement (.sel g d a b c) := by
  exact statement_of_raw rfl fun hw => by
    simp [Instr.wf, wfOp, isEvent, VH.wf, wsOk] at hw
    exact decodeOne_mkOp (dec := decode1 24) rfl (fun r x e => by unfold decodeRaw; rw [e]; rfl) (by simp [hw])
      (by simp [decode1, req, RawOp.zd, RawOp.za, RawOp.zb, RawOp.zi, RawOp.fld, RawOp.ib, RawOp.rz, Ext.isNone, getElem_eq, encImm, encImmS, decImm, decImmS, encShift, decCnt, encF, encV, vrs, wsExt, decCmd, extWs, RawOp.vh, VH.wf, decAtomI, decAtomF, decAtomFl, encAtom, CopyMods.pack, decCopyMods, PlkMods.pack, decPlk, decOrd, encOrd, hw])
theorem mov (g : Guard) (d : Opd) (a : Opd) : Statement (.mov g d a) := by
  exact statement_of_raw rfl fun hw => by
    simp [Instr.wf, wfOp, isEvent, VH.wf, wsOk] at hw
    exact decodeOne_mkOp (dec := decode1 25) rfl (fun r x e => by unfold decodeRaw; rw [e]; rfl) (by simp [hw])
      (by simp [decode1, req, RawOp.zd, RawOp.za, RawOp.zb, RawOp.zi, RawOp.fld, RawOp.ib, RawOp.rz, Ext.isNone, getElem_eq, encImm, encImmS, decImm, decImmS, encShift, decCnt, encF, encV, vrs, wsExt, decCmd, extWs, RawOp.vh, VH.wf, decAtomI, decAtomF, decAtomFl, encAtom, CopyMods.pack, decCopyMods, PlkMods.pack, decPlk, decOrd, encOrd, hw])
theorem movi (g : Guard) (d : Opd) (imm : Imm) : Statement (.movi g d imm) := by
  cases imm <;> exact statement_of_raw rfl fun hw => by
    simp [Instr.wf, wfOp, isEvent, VH.wf, wsOk] at hw
    exact decodeOne_mkOp (dec := decode1 26) rfl (fun r x e => by unfold decodeRaw; rw [e]; rfl) (by simp [hw])
      (by simp [decode1, req, RawOp.zd, RawOp.za, RawOp.zb, RawOp.zi, RawOp.fld, RawOp.ib, RawOp.rz, Ext.isNone, getElem_eq, encImm, encImmS, decImm, decImmS, encShift, decCnt, encF, encV, vrs, wsExt, decCmd, extWs, RawOp.vh, VH.wf, decAtomI, decAtomF, decAtomFl, encAtom, CopyMods.pack, decCopyMods, PlkMods.pack, decPlk, decOrd, encOrd, hw])
theorem ext (g : Guard) (s : Bool) (d : Opd) (a : Opd) (pos : BitVec 6) (lenm1 : BitVec 6) : Statement (.ext g s d a pos lenm1) := by
  exact statement_of_raw rfl fun hw => by
    simp [Instr.wf, wfOp, isEvent, VH.wf, wsOk] at hw
    exact decodeOne_mkOp (dec := decode1 27) rfl (fun r x e => by unfold decodeRaw; rw [e]; rfl) (by simp [hw])
      (by simp [decode1, req, RawOp.zd, RawOp.za, RawOp.zb, RawOp.zi, RawOp.fld, RawOp.ib, RawOp.rz, Ext.isNone, getElem_eq, encImm, encImmS, decImm, decImmS, encShift, decCnt, encF, encV, vrs, wsExt, decCmd, extWs, RawOp.vh, VH.wf, decAtomI, decAtomF, decAtomFl, encAtom, CopyMods.pack, decCopyMods, PlkMods.pack, decPlk, decOrd, encOrd, hw])
theorem ins (g : Guard) (d : Ix) (a : Opd) (pos : BitVec 6) (lenm1 : BitVec 6) : Statement (.ins g d a pos lenm1) := by
  exact statement_of_raw rfl fun hw => by
    simp [Instr.wf, wfOp, isEvent, VH.wf, wsOk] at hw
    exact decodeOne_mkOp (dec := decode1 28) rfl (fun r x e => by unfold decodeRaw; rw [e]; rfl) (by simp [hw])
      (by simp [decode1, req, RawOp.zd, RawOp.za, RawOp.zb, RawOp.zi, RawOp.fld, RawOp.ib, RawOp.rz, Ext.isNone, getElem_eq, encImm, encImmS, decImm, decImmS, encShift, decCnt, encF, encV, vrs, wsExt, decCmd, extWs, RawOp.vh, VH.wf, decAtomI, decAtomF, decAtomFl, encAtom, CopyMods.pack, decCopyMods, PlkMods.pack, decPlk, decOrd, encOrd, hw])
theorem ldl (g : Guard) (fe : LdFe) (d : Ix) (a : Opd) : Statement (.ldl g fe d a) := by
  exact statement_of_raw rfl fun hw => by
    simp [Instr.wf, wfOp, isEvent, VH.wf, wsOk] at hw
    exact decodeOne_mkOp (dec := decode2 0) rfl (fun r x e => by unfold decodeRaw; rw [e]; rfl) (by simp [hw])
      (by simp [decode2, req, RawOp.zd, RawOp.za, RawOp.zb, RawOp.zi, RawOp.fld, RawOp.ib, RawOp.rz, Ext.isNone, getElem_eq, encImm, encImmS, decImm, decImmS, encShift, decCnt, encF, encV, vrs, wsExt, decCmd, extWs, RawOp.vh, VH.wf, decAtomI, decAtomF, decAtomFl, encAtom, CopyMods.pack, decCopyMods, PlkMods.pack, decPlk, decOrd, encOrd, hw])
theorem stl (g : Guard) (f : Bool) (a : Opd) (b : Opd) : Statement (.stl g f a b) := by
  exact statement_of_raw rfl fun hw => by
    simp [Instr.wf, wfOp, isEvent, VH.wf, wsOk] at hw
    exact decodeOne_mkOp (dec := decode2 1) rfl (fun r x e => by unfold decodeRaw; rw [e]; rfl) (by simp [hw])
      (by simp [decode2, req, RawOp.zd, RawOp.za, RawOp.zb, RawOp.zi, RawOp.fld, RawOp.ib, RawOp.rz, Ext.isNone, getElem_eq, encImm, encImmS, decImm, decImmS, encShift, decCnt, encF, encV, vrs, wsExt, decCmd, extWs, RawOp.vh, VH.wf, decAtomI, decAtomF, decAtomFl, encAtom, CopyMods.pack, decCopyMods, PlkMods.pack, decPlk, decOrd, encOrd, hw])
theorem ldx (g : Guard) (cl : Bool) (acq : Option Scope) (d : Ix) (a : Opd) : Statement (.ldx g cl acq d a) := by
  cases acq <;> exact statement_of_raw rfl fun hw => by
    simp [Instr.wf, wfOp, isEvent, VH.wf, wsOk] at hw
    exact decodeOne_mkOp (dec := decode2 2) rfl (fun r x e => by unfold decodeRaw; rw [e]; rfl) (by simp [hw])
      (by simp [decode2, req, RawOp.zd, RawOp.za, RawOp.zb, RawOp.zi, RawOp.fld, RawOp.ib, RawOp.rz, Ext.isNone, getElem_eq, encImm, encImmS, decImm, decImmS, encShift, decCnt, encF, encV, vrs, wsExt, decCmd, extWs, RawOp.vh, VH.wf, decAtomI, decAtomF, decAtomFl, encAtom, CopyMods.pack, decCopyMods, PlkMods.pack, decPlk, decOrd, encOrd, hw])
theorem stx (g : Guard) (cl : Bool) (rel : Option Scope) (a : Opd) (b : Opd) : Statement (.stx g cl rel a b) := by
  cases rel <;> exact statement_of_raw rfl fun hw => by
    simp [Instr.wf, wfOp, isEvent, VH.wf, wsOk] at hw
    exact decodeOne_mkOp (dec := decode2 3) rfl (fun r x e => by unfold decodeRaw; rw [e]; rfl) (by simp [hw])
      (by simp [decode2, req, RawOp.zd, RawOp.za, RawOp.zb, RawOp.zi, RawOp.fld, RawOp.ib, RawOp.rz, Ext.isNone, getElem_eq, encImm, encImmS, decImm, decImmS, encShift, decCnt, encF, encV, vrs, wsExt, decCmd, extWs, RawOp.vh, VH.wf, decAtomI, decAtomF, decAtomFl, encAtom, CopyMods.pack, decCopyMods, PlkMods.pack, decPlk, decOrd, encOrd, hw])
theorem fence (g : Guard) (sc : Scope) : Statement (.fence g sc) := by
  exact statement_of_raw rfl fun hw => by
    simp [Instr.wf, wfOp, isEvent, VH.wf, wsOk] at hw
    exact decodeOne_mkOp (dec := decode2 4) rfl (fun r x e => by unfold decodeRaw; rw [e]; rfl) (by simp [hw])
      (by simp [decode2, req, RawOp.zd, RawOp.za, RawOp.zb, RawOp.zi, RawOp.fld, RawOp.ib, RawOp.rz, Ext.isNone, getElem_eq, encImm, encImmS, decImm, decImmS, encShift, decCnt, encF, encV, vrs, wsExt, decCmd, extWs, RawOp.vh, VH.wf, decAtomI, decAtomF, decAtomFl, encAtom, CopyMods.pack, decCopyMods, PlkMods.pack, decPlk, decOrd, encOrd, hw])
theorem copy (g : Guard) (m : CopyMods) (d : Ix) (a : Opd) (b : Opd) (n : BitVec 32) (ws : Option Ws) : Statement (.copy g m d a b n ws) := by
  cases m <;> cases ws <;> exact statement_of_raw rfl fun hw => by
    simp [Instr.wf, wfOp, isEvent, VH.wf, wsOk] at hw
    exact decodeOne_mkOp (dec := decode2 8) rfl (fun r x e => by unfold decodeRaw; rw [e]; rfl) (by simp [hw])
      (by simp [decode2, req, RawOp.zd, RawOp.za, RawOp.zb, RawOp.zi, RawOp.fld, RawOp.ib, RawOp.rz, Ext.isNone, getElem_eq, encImm, encImmS, decImm, decImmS, encShift, decCnt, encF, encV, vrs, wsExt, decCmd, extWs, RawOp.vh, VH.wf, decAtomI, decAtomF, decAtomFl, encAtom, CopyMods.pack, decCopyMods, PlkMods.pack, decPlk, decOrd, encOrd, hw])
theorem gather (g : Guard) (m : PlkMods) (d : Ix) (a : Opd) (ws : Option Ws) : Statement (.gather g m d a ws) := by
  cases m <;> cases ws <;> exact statement_of_raw rfl fun hw => by
    simp [Instr.wf, wfOp, isEvent, VH.wf, wsOk] at hw
    exact decodeOne_mkOp (dec := decode2 9) rfl (fun r x e => by unfold decodeRaw; rw [e]; rfl) (by simp [hw])
      (by simp [decode2, req, RawOp.zd, RawOp.za, RawOp.zb, RawOp.zi, RawOp.fld, RawOp.ib, RawOp.rz, Ext.isNone, getElem_eq, encImm, encImmS, decImm, decImmS, encShift, decCnt, encF, encV, vrs, wsExt, decCmd, extWs, RawOp.vh, VH.wf, decAtomI, decAtomF, decAtomFl, encAtom, CopyMods.pack, decCopyMods, PlkMods.pack, decPlk, decOrd, encOrd, hw])
theorem scatter (g : Guard) (m : PlkMods) (d : Ix) (a : Opd) (ws : Option Ws) : Statement (.scatter g m d a ws) := by
  cases m <;> cases ws <;> exact statement_of_raw rfl fun hw => by
    simp [Instr.wf, wfOp, isEvent, VH.wf, wsOk] at hw
    exact decodeOne_mkOp (dec := decode2 10) rfl (fun r x e => by unfold decodeRaw; rw [e]; rfl) (by simp [hw])
      (by simp [decode2, req, RawOp.zd, RawOp.za, RawOp.zb, RawOp.zi, RawOp.fld, RawOp.ib, RawOp.rz, Ext.isNone, getElem_eq, encImm, encImmS, decImm, decImmS, encShift, decCnt, encF, encV, vrs, wsExt, decCmd, extWs, RawOp.vh, VH.wf, decAtomI, decAtomF, decAtomFl, encAtom, CopyMods.pack, decCopyMods, PlkMods.pack, decPlk, decOrd, encOrd, hw])
theorem scatadd (g : Guard) (m : PlkMods) (d : Ix) (a : Opd) (ws : Option Ws) : Statement (.scatadd g m d a ws) := by
  cases m <;> cases ws <;> exact statement_of_raw rfl fun hw => by
    simp [Instr.wf, wfOp, isEvent, VH.wf, wsOk] at hw
    exact decodeOne_mkOp (dec := decode2 11) rfl (fun r x e => by unfold decodeRaw; rw [e]; rfl) (by simp [hw])
      (by simp [decode2, req, RawOp.zd, RawOp.za, RawOp.zb, RawOp.zi, RawOp.fld, RawOp.ib, RawOp.rz, Ext.isNone, getElem_eq, encImm, encImmS, decImm, decImmS, encShift, decCnt, encF, encV, vrs, wsExt, decCmd, extWs, RawOp.vh, VH.wf, decAtomI, decAtomF, decAtomFl, encAtom, CopyMods.pack, decCopyMods, PlkMods.pack, decPlk, decOrd, encOrd, hw])
theorem bankopFill (g : Guard) (tr : Bool) (d : Ix) (a : Opd) (ws : Option Ws) : Statement (.bankopFill g tr d a ws) := by
  cases ws <;> exact statement_of_raw rfl fun hw => by
    simp [Instr.wf, wfOp, isEvent, VH.wf, wsOk] at hw
    exact decodeOne_mkOp (dec := decode2 12) rfl (fun r x e => by unfold decodeRaw; rw [e]; rfl) (by simp [hw])
      (by simp [decode2, req, RawOp.zd, RawOp.za, RawOp.zb, RawOp.zi, RawOp.fld, RawOp.ib, RawOp.rz, Ext.isNone, getElem_eq, encImm, encImmS, decImm, decImmS, encShift, decCnt, encF, encV, vrs, wsExt, decCmd, extWs, RawOp.vh, VH.wf, decAtomI, decAtomF, decAtomFl, encAtom, CopyMods.pack, decCopyMods, PlkMods.pack, decPlk, decOrd, encOrd, hw])
theorem bankopAxpy (g : Guard) (tr : Bool) (d : Ix) (a : Opd) (ws : Option Ws) : Statement (.bankopAxpy g tr d a ws) := by
  cases ws <;> exact statement_of_raw rfl fun hw => by
    simp [Instr.wf, wfOp, isEvent, VH.wf, wsOk] at hw
    exact decodeOne_mkOp (dec := decode2 12) rfl (fun r x e => by unfold decodeRaw; rw [e]; rfl) (by simp [hw])
      (by simp [decode2, req, RawOp.zd, RawOp.za, RawOp.zb, RawOp.zi, RawOp.fld, RawOp.ib, RawOp.rz, Ext.isNone, getElem_eq, encImm, encImmS, decImm, decImmS, encShift, decCnt, encF, encV, vrs, wsExt, decCmd, extWs, RawOp.vh, VH.wf, decAtomI, decAtomF, decAtomFl, encAtom, CopyMods.pack, decCopyMods, PlkMods.pack, decPlk, decOrd, encOrd, hw])
theorem bankopCvt (g : Guard) (tr : Bool) (d : Ix) (a : Opd) (ws : Option Ws) : Statement (.bankopCvt g tr d a ws) := by
  cases ws <;> exact statement_of_raw rfl fun hw => by
    simp [Instr.wf, wfOp, isEvent, VH.wf, wsOk] at hw
    exact decodeOne_mkOp (dec := decode2 12) rfl (fun r x e => by unfold decodeRaw; rw [e]; rfl) (by simp [hw])
      (by simp [decode2, req, RawOp.zd, RawOp.za, RawOp.zb, RawOp.zi, RawOp.fld, RawOp.ib, RawOp.rz, Ext.isNone, getElem_eq, encImm, encImmS, decImm, decImmS, encShift, decCnt, encF, encV, vrs, wsExt, decCmd, extWs, RawOp.vh, VH.wf, decAtomI, decAtomF, decAtomFl, encAtom, CopyMods.pack, decCopyMods, PlkMods.pack, decPlk, decOrd, encOrd, hw])
theorem bankopSum (g : Guard) (tr : Bool) (d : Ix) (a : Opd) (ws : Option Ws) : Statement (.bankopSum g tr d a ws) := by
  cases ws <;> exact statement_of_raw rfl fun hw => by
    simp [Instr.wf, wfOp, isEvent, VH.wf, wsOk] at hw
    exact decodeOne_mkOp (dec := decode2 12) rfl (fun r x e => by unfold decodeRaw; rw [e]; rfl) (by simp [hw])
      (by simp [decode2, req, RawOp.zd, RawOp.za, RawOp.zb, RawOp.zi, RawOp.fld, RawOp.ib, RawOp.rz, Ext.isNone, getElem_eq, encImm, encImmS, decImm, decImmS, encShift, decCnt, encF, encV, vrs, wsExt, decCmd, extWs, RawOp.vh, VH.wf, decAtomI, decAtomF, decAtomFl, encAtom, CopyMods.pack, decCopyMods, PlkMods.pack, decPlk, decOrd, encOrd, hw])
theorem dtload (g : Guard) (tr : Bool) (d : Ix) (a : Opd) (ws : Option Ws) : Statement (.dtload g tr d a ws) := by
  cases ws <;> exact statement_of_raw rfl fun hw => by
    simp [Instr.wf, wfOp, isEvent, VH.wf, wsOk] at hw
    exact decodeOne_mkOp (dec := decode2 13) rfl (fun r x e => by unfold decodeRaw; rw [e]; rfl) (by simp [hw])
      (by simp [decode2, req, RawOp.zd, RawOp.za, RawOp.zb, RawOp.zi, RawOp.fld, RawOp.ib, RawOp.rz, Ext.isNone, getElem_eq, encImm, encImmS, decImm, decImmS, encShift, decCnt, encF, encV, vrs, wsExt, decCmd, extWs, RawOp.vh, VH.wf, decAtomI, decAtomF, decAtomFl, encAtom, CopyMods.pack, decCopyMods, PlkMods.pack, decPlk, decOrd, encOrd, hw])
theorem aadd (g : Guard) (f : AtomF) (ty : ITy) : Statement (.aadd g f ty) := by
  cases f <;> exact statement_of_raw rfl fun hw => by
    simp [Instr.wf, wfOp, isEvent, VH.wf, wsOk] at hw
    exact decodeOne_mkOp (dec := decode2 32) rfl (fun r x e => by unfold decodeRaw; rw [e]; rfl) (by simp [hw])
      (by simp [decode2, req, RawOp.zd, RawOp.za, RawOp.zb, RawOp.zi, RawOp.fld, RawOp.ib, RawOp.rz, Ext.isNone, getElem_eq, encImm, encImmS, decImm, decImmS, encShift, decCnt, encF, encV, vrs, wsExt, decCmd, extWs, RawOp.vh, VH.wf, decAtomI, decAtomF, decAtomFl, encAtom, CopyMods.pack, decCopyMods, PlkMods.pack, decPlk, decOrd, encOrd, hw])
theorem aand (g : Guard) (f : AtomF) (ty : ITy) : Statement (.aand g f ty) := by
  cases f <;> exact statement_of_raw rfl fun hw => by
    simp [Instr.wf, wfOp, isEvent, VH.wf, wsOk] at hw
    exact decodeOne_mkOp (dec := decode2 33) rfl (fun r x e => by unfold decodeRaw; rw [e]; rfl) (by simp [hw])
      (by simp [decode2, req, RawOp.zd, RawOp.za, RawOp.zb, RawOp.zi, RawOp.fld, RawOp.ib, RawOp.rz, Ext.isNone, getElem_eq, encImm, encImmS, decImm, decImmS, encShift, decCnt, encF, encV, vrs, wsExt, decCmd, extWs, RawOp.vh, VH.wf, decAtomI, decAtomF, decAtomFl, encAtom, CopyMods.pack, decCopyMods, PlkMods.pack, decPlk, decOrd, encOrd, hw])
theorem acas (g : Guard) (f : AtomF) (ty : ITy) : Statement (.acas g f ty) := by
  cases f <;> exact statement_of_raw rfl fun hw => by
    simp [Instr.wf, wfOp, isEvent, VH.wf, wsOk] at hw
    exact decodeOne_mkOp (dec := decode2 34) rfl (fun r x e => by unfold decodeRaw; rw [e]; rfl) (by simp [hw])
      (by simp [decode2, req, RawOp.zd, RawOp.za, RawOp.zb, RawOp.zi, RawOp.fld, RawOp.ib, RawOp.rz, Ext.isNone, getElem_eq, encImm, encImmS, decImm, decImmS, encShift, decCnt, encF, encV, vrs, wsExt, decCmd, extWs, RawOp.vh, VH.wf, decAtomI, decAtomF, decAtomFl, encAtom, CopyMods.pack, decCopyMods, PlkMods.pack, decPlk, decOrd, encOrd, hw])
theorem afadd (g : Guard) (f : AtomF) (ty : FTy) (rm : Rm) : Statement (.afadd g f ty rm) := by
  cases f <;> exact statement_of_raw rfl fun hw => by
    simp [Instr.wf, wfOp, isEvent, VH.wf, wsOk] at hw
    exact decodeOne_mkOp (dec := decode2 35) rfl (fun r x e => by unfold decodeRaw; rw [e]; rfl) (by simp [hw])
      (by simp [decode2, req, RawOp.zd, RawOp.za, RawOp.zb, RawOp.zi, RawOp.fld, RawOp.ib, RawOp.rz, Ext.isNone, getElem_eq, encImm, encImmS, decImm, decImmS, encShift, decCnt, encF, encV, vrs, wsExt, decCmd, extWs, RawOp.vh, VH.wf, decAtomI, decAtomF, decAtomFl, encAtom, CopyMods.pack, decCopyMods, PlkMods.pack, decPlk, decOrd, encOrd, hw])
theorem afmax (g : Guard) (f : AtomF) (ty : FTy) : Statement (.afmax g f ty) := by
  cases f <;> exact statement_of_raw rfl fun hw => by
    simp [Instr.wf, wfOp, isEvent, VH.wf, wsOk] at hw
    exact decodeOne_mkOp (dec := decode2 36) rfl (fun r x e => by unfold decodeRaw; rw [e]; rfl) (by simp [hw])
      (by simp [decode2, req, RawOp.zd, RawOp.za, RawOp.zb, RawOp.zi, RawOp.fld, RawOp.ib, RawOp.rz, Ext.isNone, getElem_eq, encImm, encImmS, decImm, decImmS, encShift, decCnt, encF, encV, vrs, wsExt, decCmd, extWs, RawOp.vh, VH.wf, decAtomI, decAtomF, decAtomFl, encAtom, CopyMods.pack, decCopyMods, PlkMods.pack, decPlk, decOrd, encOrd, hw])
theorem afmin (g : Guard) (f : AtomF) (ty : FTy) : Statement (.afmin g f ty) := by
  cases f <;> exact statement_of_raw rfl fun hw => by
    simp [Instr.wf, wfOp, isEvent, VH.wf, wsOk] at hw
    exact decodeOne_mkOp (dec := decode2 37) rfl (fun r x e => by unfold decodeRaw; rw [e]; rfl) (by simp [hw])
      (by simp [decode2, req, RawOp.zd, RawOp.za, RawOp.zb, RawOp.zi, RawOp.fld, RawOp.ib, RawOp.rz, Ext.isNone, getElem_eq, encImm, encImmS, decImm, decImmS, encShift, decCnt, encF, encV, vrs, wsExt, decCmd, extWs, RawOp.vh, VH.wf, decAtomI, decAtomF, decAtomFl, encAtom, CopyMods.pack, decCopyMods, PlkMods.pack, decPlk, decOrd, encOrd, hw])
theorem amax (g : Guard) (f : AtomF) (ty : ITy) : Statement (.amax g f ty) := by
  cases f <;> exact statement_of_raw rfl fun hw => by
    simp [Instr.wf, wfOp, isEvent, VH.wf, wsOk] at hw
    exact decodeOne_mkOp (dec := decode2 38) rfl (fun r x e => by unfold decodeRaw; rw [e]; rfl) (by simp [hw])
      (by simp [decode2, req, RawOp.zd, RawOp.za, RawOp.zb, RawOp.zi, RawOp.fld, RawOp.ib, RawOp.rz, Ext.isNone, getElem_eq, encImm, encImmS, decImm, decImmS, encShift, decCnt, encF, encV, vrs, wsExt, decCmd, extWs, RawOp.vh, VH.wf, decAtomI, decAtomF, decAtomFl, encAtom, CopyMods.pack, decCopyMods, PlkMods.pack, decPlk, decOrd, encOrd, hw])
theorem amin (g : Guard) (f : AtomF) (ty : ITy) : Statement (.amin g f ty) := by
  cases f <;> exact statement_of_raw rfl fun hw => by
    simp [Instr.wf, wfOp, isEvent, VH.wf, wsOk] at hw
    exact decodeOne_mkOp (dec := decode2 39) rfl (fun r x e => by unfold decodeRaw; rw [e]; rfl) (by simp [hw])
      (by simp [decode2, req, RawOp.zd, RawOp.za, RawOp.zb, RawOp.zi, RawOp.fld, RawOp.ib, RawOp.rz, Ext.isNone, getElem_eq, encImm, encImmS, decImm, decImmS, encShift, decCnt, encF, encV, vrs, wsExt, decCmd, extWs, RawOp.vh, VH.wf, decAtomI, decAtomF, decAtomFl, encAtom, CopyMods.pack, decCopyMods, PlkMods.pack, decPlk, decOrd, encOrd, hw])
theorem aor (g : Guard) (f : AtomF) (ty : ITy) : Statement (.aor g f ty) := by
  cases f <;> exact statement_of_raw rfl fun hw => by
    simp [Instr.wf, wfOp, isEvent, VH.wf, wsOk] at hw
    exact decodeOne_mkOp (dec := decode2 40) rfl (fun r x e => by unfold decodeRaw; rw [e]; rfl) (by simp [hw])
      (by simp [decode2, req, RawOp.zd, RawOp.za, RawOp.zb, RawOp.zi, RawOp.fld, RawOp.ib, RawOp.rz, Ext.isNone, getElem_eq, encImm, encImmS, decImm, decImmS, encShift, decCnt, encF, encV, vrs, wsExt, decCmd, extWs, RawOp.vh, VH.wf, decAtomI, decAtomF, decAtomFl, encAtom, CopyMods.pack, decCopyMods, PlkMods.pack, decPlk, decOrd, encOrd, hw])
theorem aswap (g : Guard) (f : AtomF) (ty : ITy) : Statement (.aswap g f ty) := by
  cases f <;> exact statement_of_raw rfl fun hw => by
    simp [Instr.wf, wfOp, isEvent, VH.wf, wsOk] at hw
    exact decodeOne_mkOp (dec := decode2 41) rfl (fun r x e => by unfold decodeRaw; rw [e]; rfl) (by simp [hw])
      (by simp [decode2, req, RawOp.zd, RawOp.za, RawOp.zb, RawOp.zi, RawOp.fld, RawOp.ib, RawOp.rz, Ext.isNone, getElem_eq, encImm, encImmS, decImm, decImmS, encShift, decCnt, encF, encV, vrs, wsExt, decCmd, extWs, RawOp.vh, VH.wf, decAtomI, decAtomF, decAtomFl, encAtom, CopyMods.pack, decCopyMods, PlkMods.pack, decPlk, decOrd, encOrd, hw])
theorem axor (g : Guard) (f : AtomF) (ty : ITy) : Statement (.axor g f ty) := by
  cases f <;> exact statement_of_raw rfl fun hw => by
    simp [Instr.wf, wfOp, isEvent, VH.wf, wsOk] at hw
    exact decodeOne_mkOp (dec := decode2 42) rfl (fun r x e => by unfold decodeRaw; rw [e]; rfl) (by simp [hw])
      (by simp [decode2, req, RawOp.zd, RawOp.za, RawOp.zb, RawOp.zi, RawOp.fld, RawOp.ib, RawOp.rz, Ext.isNone, getElem_eq, encImm, encImmS, decImm, decImmS, encShift, decCnt, encF, encV, vrs, wsExt, decCmd, extWs, RawOp.vh, VH.wf, decAtomI, decAtomF, decAtomFl, encAtom, CopyMods.pack, decCopyMods, PlkMods.pack, decPlk, decOrd, encOrd, hw])
theorem fadd (g : Guard) (rm : Rm) (sat : Bool) (d : Opd) (a : Opd) (b : Opd) : Statement (.fadd g rm sat d a b) := by
  exact statement_of_raw rfl fun hw => by
    simp [Instr.wf, wfOp, isEvent, VH.wf, wsOk] at hw
    exact decodeOne_mkOp (dec := decode3 0) rfl (fun r x e => by unfold decodeRaw; rw [e]; rfl) (by simp [hw])
      (by simp [decode3, req, RawOp.zd, RawOp.za, RawOp.zb, RawOp.zi, RawOp.fld, RawOp.ib, RawOp.rz, Ext.isNone, getElem_eq, encImm, encImmS, decImm, decImmS, encShift, decCnt, encF, encV, vrs, wsExt, decCmd, extWs, RawOp.vh, VH.wf, decAtomI, decAtomF, decAtomFl, encAtom, CopyMods.pack, decCopyMods, PlkMods.pack, decPlk, decOrd, encOrd, hw])
theorem fsub (g : Guard) (rm : Rm) (sat : Bool) (d : Opd) (a : Opd) (b : Opd) : Statement (.fsub g rm sat d a b) := by
  exact statement_of_raw rfl fun hw => by
    simp [Instr.wf, wfOp, isEvent, VH.wf, wsOk] at hw
    exact decodeOne_mkOp (dec := decode3 1) rfl (fun r x e => by unfold decodeRaw; rw [e]; rfl) (by simp [hw])
      (by simp [decode3, req, RawOp.zd, RawOp.za, RawOp.zb, RawOp.zi, RawOp.fld, RawOp.ib, RawOp.rz, Ext.isNone, getElem_eq, encImm, encImmS, decImm, decImmS, encShift, decCnt, encF, encV, vrs, wsExt, decCmd, extWs, RawOp.vh, VH.wf, decAtomI, decAtomF, decAtomFl, encAtom, CopyMods.pack, decCopyMods, PlkMods.pack, decPlk, decOrd, encOrd, hw])
theorem fmul (g : Guard) (rm : Rm) (sat : Bool) (d : Opd) (a : Opd) (b : Opd) : Statement (.fmul g rm sat d a b) := by
  exact statement_of_raw rfl fun hw => by
    simp [Instr.wf, wfOp, isEvent, VH.wf, wsOk] at hw
    exact decodeOne_mkOp (dec := decode3 2) rfl (fun r x e => by unfold decodeRaw; rw [e]; rfl) (by simp [hw])
      (by simp [decode3, req, RawOp.zd, RawOp.za, RawOp.zb, RawOp.zi, RawOp.fld, RawOp.ib, RawOp.rz, Ext.isNone, getElem_eq, encImm, encImmS, decImm, decImmS, encShift, decCnt, encF, encV, vrs, wsExt, decCmd, extWs, RawOp.vh, VH.wf, decAtomI, decAtomF, decAtomFl, encAtom, CopyMods.pack, decCopyMods, PlkMods.pack, decPlk, decOrd, encOrd, hw])
theorem ffma (g : Guard) (rm : Rm) (sat : Bool) (d : Opd) (a : Opd) (b : Opd) (c : Ix) : Statement (.ffma g rm sat d a b c) := by
  exact statement_of_raw rfl fun hw => by
    simp [Instr.wf, wfOp, isEvent, VH.wf, wsOk] at hw
    exact decodeOne_mkOp (dec := decode3 3) rfl (fun r x e => by unfold decodeRaw; rw [e]; rfl) (by simp [hw])
      (by simp [decode3, req, RawOp.zd, RawOp.za, RawOp.zb, RawOp.zi, RawOp.fld, RawOp.ib, RawOp.rz, Ext.isNone, getElem_eq, encImm, encImmS, decImm, decImmS, encShift, decCnt, encF, encV, vrs, wsExt, decCmd, extWs, RawOp.vh, VH.wf, decAtomI, decAtomF, decAtomFl, encAtom, CopyMods.pack, decCopyMods, PlkMods.pack, decPlk, decOrd, encOrd, hw])
theorem fdiv (g : Guard) (rm : Rm) (sat : Bool) (d : Opd) (a : Opd) (b : Opd) : Statement (.fdiv g rm sat d a b) := by
  exact statement_of_raw rfl fun hw => by
    simp [Instr.wf, wfOp, isEvent, VH.wf, wsOk] at hw
    exact decodeOne_mkOp (dec := decode3 4) rfl (fun r x e => by unfold decodeRaw; rw [e]; rfl) (by simp [hw])
      (by simp [decode3, req, RawOp.zd, RawOp.za, RawOp.zb, RawOp.zi, RawOp.fld, RawOp.ib, RawOp.rz, Ext.isNone, getElem_eq, encImm, encImmS, decImm, decImmS, encShift, decCnt, encF, encV, vrs, wsExt, decCmd, extWs, RawOp.vh, VH.wf, decAtomI, decAtomF, decAtomFl, encAtom, CopyMods.pack, decCopyMods, PlkMods.pack, decPlk, decOrd, encOrd, hw])
theorem fsqrt (g : Guard) (rm : Rm) (sat : Bool) (d : Opd) (a : Opd) : Statement (.fsqrt g rm sat d a) := by
  exact statement_of_raw rfl fun hw => by
    simp [Instr.wf, wfOp, isEvent, VH.wf, wsOk] at hw
    exact decodeOne_mkOp (dec := decode3 5) rfl (fun r x e => by unfold decodeRaw; rw [e]; rfl) (by simp [hw])
      (by simp [decode3, req, RawOp.zd, RawOp.za, RawOp.zb, RawOp.zi, RawOp.fld, RawOp.ib, RawOp.rz, Ext.isNone, getElem_eq, encImm, encImmS, decImm, decImmS, encShift, decCnt, encF, encV, vrs, wsExt, decCmd, extWs, RawOp.vh, VH.wf, decAtomI, decAtomF, decAtomFl, encAtom, CopyMods.pack, decCopyMods, PlkMods.pack, decPlk, decOrd, encOrd, hw])
theorem fmin (g : Guard) (d : Opd) (a : Opd) (b : Opd) : Statement (.fmin g d a b) := by
  exact statement_of_raw rfl fun hw => by
    simp [Instr.wf, wfOp, isEvent, VH.wf, wsOk] at hw
    exact decodeOne_mkOp (dec := decode3 6) rfl (fun r x e => by unfold decodeRaw; rw [e]; rfl) (by simp [hw])
      (by simp [decode3, req, RawOp.zd, RawOp.za, RawOp.zb, RawOp.zi, RawOp.fld, RawOp.ib, RawOp.rz, Ext.isNone, getElem_eq, encImm, encImmS, decImm, decImmS, encShift, decCnt, encF, encV, vrs, wsExt, decCmd, extWs, RawOp.vh, VH.wf, decAtomI, decAtomF, decAtomFl, encAtom, CopyMods.pack, decCopyMods, PlkMods.pack, decPlk, decOrd, encOrd, hw])
theorem fmax (g : Guard) (d : Opd) (a : Opd) (b : Opd) : Statement (.fmax g d a b) := by
  exact statement_of_raw rfl fun hw => by
    simp [Instr.wf, wfOp, isEvent, VH.wf, wsOk] at hw
    exact decodeOne_mkOp (dec := decode3 7) rfl (fun r x e => by unfold decodeRaw; rw [e]; rfl) (by simp [hw])
      (by simp [decode3, req, RawOp.zd, RawOp.za, RawOp.zb, RawOp.zi, RawOp.fld, RawOp.ib, RawOp.rz, Ext.isNone, getElem_eq, encImm, encImmS, decImm, decImmS, encShift, decCnt, encF, encV, vrs, wsExt, decCmd, extWs, RawOp.vh, VH.wf, decAtomI, decAtomF, decAtomFl, encAtom, CopyMods.pack, decCopyMods, PlkMods.pack, decPlk, decOrd, encOrd, hw])
theorem fcmp (g : Guard) (cc : FCc) (d : Opd) (a : Opd) (b : Opd) : Statement (.fcmp g cc d a b) := by
  exact statement_of_raw rfl fun hw => by
    simp [Instr.wf, wfOp, isEvent, VH.wf, wsOk] at hw
    exact decodeOne_mkOp (dec := decode3 8) rfl (fun r x e => by unfold decodeRaw; rw [e]; rfl) (by simp [hw])
      (by simp [decode3, req, RawOp.zd, RawOp.za, RawOp.zb, RawOp.zi, RawOp.fld, RawOp.ib, RawOp.rz, Ext.isNone, getElem_eq, encImm, encImmS, decImm, decImmS, encShift, decCnt, encF, encV, vrs, wsExt, decCmd, extWs, RawOp.vh, VH.wf, decAtomI, decAtomF, decAtomFl, encAtom, CopyMods.pack, decCopyMods, PlkMods.pack, decPlk, decOrd, encOrd, hw])
theorem fsgn (g : Guard) (op : SgnOp) (d : Opd) (a : Opd) (b : Opd) : Statement (.fsgn g op d a b) := by
  cases op <;> exact statement_of_raw rfl fun hw => by
    simp [Instr.wf, wfOp, isEvent, VH.wf, wsOk] at hw
    exact decodeOne_mkOp (dec := decode3 9) rfl (fun r x e => by unfold decodeRaw; rw [e]; rfl) (by simp [hw])
      (by simp [decode3, req, RawOp.zd, RawOp.za, RawOp.zb, RawOp.zi, RawOp.fld, RawOp.ib, RawOp.rz, Ext.isNone, getElem_eq, encImm, encImmS, decImm, decImmS, encShift, decCnt, encF, encV, vrs, wsExt, decCmd, extWs, RawOp.vh, VH.wf, decAtomI, decAtomF, decAtomFl, encAtom, CopyMods.pack, decCopyMods, PlkMods.pack, decPlk, decOrd, encOrd, SgnOp.code, SgnOp.ofCode, hw])
theorem cvt (g : Guard) (rm : Rm) (sat : Bool) (d : Opd) (a : Opd) : Statement (.cvt g rm sat d a) := by
  exact statement_of_raw rfl fun hw => by
    simp [Instr.wf, wfOp, isEvent, VH.wf, wsOk] at hw
    exact decodeOne_mkOp (dec := decode3 10) rfl (fun r x e => by unfold decodeRaw; rw [e]; rfl) (by simp [hw])
      (by simp [decode3, req, RawOp.zd, RawOp.za, RawOp.zb, RawOp.zi, RawOp.fld, RawOp.ib, RawOp.rz, Ext.isNone, getElem_eq, encImm, encImmS, decImm, decImmS, encShift, decCnt, encF, encV, vrs, wsExt, decCmd, extWs, RawOp.vh, VH.wf, decAtomI, decAtomF, decAtomFl, encAtom, CopyMods.pack, decCopyMods, PlkMods.pack, decPlk, decOrd, encOrd, hw])
theorem fsfu (g : Guard) (fn : SfuFn) (rm : Rm) (sat : Bool) (d : Opd) (a : Opd) : Statement (.fsfu g fn rm sat d a) := by
  exact statement_of_raw rfl fun hw => by
    simp [Instr.wf, wfOp, isEvent, VH.wf, wsOk] at hw
    exact decodeOne_mkOp (dec := decode3 11) rfl (fun r x e => by unfold decodeRaw; rw [e]; rfl) (by simp [hw])
      (by simp [decode3, req, RawOp.zd, RawOp.za, RawOp.zb, RawOp.zi, RawOp.fld, RawOp.ib, RawOp.rz, Ext.isNone, getElem_eq, encImm, encImmS, decImm, decImmS, encShift, decCnt, encF, encV, vrs, wsExt, decCmd, extWs, RawOp.vh, VH.wf, decAtomI, decAtomF, decAtomFl, encAtom, CopyMods.pack, decCopyMods, PlkMods.pack, decPlk, decOrd, encOrd, hw])
theorem vadd (h : VH) (rm : Rm) (sat : Bool) (d : Opd) (a : Opd) (b : Opd) : Statement (.vadd h rm sat d a b) := by
  cases h <;> exact statement_of_raw rfl fun hw => by
    simp [Instr.wf, wfOp, isEvent, VH.wf, wsOk] at hw
    exact decodeOne_mkOp (dec := decode4 0) rfl (fun r x e => by unfold decodeRaw; rw [e]; rfl) (by simp [hw])
      (by simp [decode4, req, RawOp.zd, RawOp.za, RawOp.zb, RawOp.zi, RawOp.fld, RawOp.ib, RawOp.rz, Ext.isNone, getElem_eq, encImm, encImmS, decImm, decImmS, encShift, decCnt, encF, encV, vrs, wsExt, decCmd, extWs, RawOp.vh, VH.wf, decAtomI, decAtomF, decAtomFl, encAtom, CopyMods.pack, decCopyMods, PlkMods.pack, decPlk, decOrd, encOrd, hw])
theorem vsub (h : VH) (rm : Rm) (sat : Bool) (d : Opd) (a : Opd) (b : Opd) : Statement (.vsub h rm sat d a b) := by
  cases h <;> exact statement_of_raw rfl fun hw => by
    simp [Instr.wf, wfOp, isEvent, VH.wf, wsOk] at hw
    exact decodeOne_mkOp (dec := decode4 1) rfl (fun r x e => by unfold decodeRaw; rw [e]; rfl) (by simp [hw])
      (by simp [decode4, req, RawOp.zd, RawOp.za, RawOp.zb, RawOp.zi, RawOp.fld, RawOp.ib, RawOp.rz, Ext.isNone, getElem_eq, encImm, encImmS, decImm, decImmS, encShift, decCnt, encF, encV, vrs, wsExt, decCmd, extWs, RawOp.vh, VH.wf, decAtomI, decAtomF, decAtomFl, encAtom, CopyMods.pack, decCopyMods, PlkMods.pack, decPlk, decOrd, encOrd, hw])
theorem vmul (h : VH) (rm : Rm) (sat : Bool) (d : Opd) (a : Opd) (b : Opd) : Statement (.vmul h rm sat d a b) := by
  cases h <;> exact statement_of_raw rfl fun hw => by
    simp [Instr.wf, wfOp, isEvent, VH.wf, wsOk] at hw
    exact decodeOne_mkOp (dec := decode4 2) rfl (fun r x e => by unfold decodeRaw; rw [e]; rfl) (by simp [hw])
      (by simp [decode4, req, RawOp.zd, RawOp.za, RawOp.zb, RawOp.zi, RawOp.fld, RawOp.ib, RawOp.rz, Ext.isNone, getElem_eq, encImm, encImmS, decImm, decImmS, encShift, decCnt, encF, encV, vrs, wsExt, decCmd, extWs, RawOp.vh, VH.wf, decAtomI, decAtomF, decAtomFl, encAtom, CopyMods.pack, decCopyMods, PlkMods.pack, decPlk, decOrd, encOrd, hw])
theorem vfma (h : VH) (rm : Rm) (sat : Bool) (d : Opd) (a : Opd) (b : Opd) : Statement (.vfma h rm sat d a b) := by
  cases h <;> exact statement_of_raw rfl fun hw => by
    simp [Instr.wf, wfOp, isEvent, VH.wf, wsOk] at hw
    exact decodeOne_mkOp (dec := decode4 3) rfl (fun r x e => by unfold decodeRaw; rw [e]; rfl) (by simp [hw])
      (by simp [decode4, req, RawOp.zd, RawOp.za, RawOp.zb, RawOp.zi, RawOp.fld, RawOp.ib, RawOp.rz, Ext.isNone, getElem_eq, encImm, encImmS, decImm, decImmS, encShift, decCnt, encF, encV, vrs, wsExt, decCmd, extWs, RawOp.vh, VH.wf, decAtomI, decAtomF, decAtomFl, encAtom, CopyMods.pack, decCopyMods, PlkMods.pack, decPlk, decOrd, encOrd, hw])
theorem vmin (h : VH) (d : Opd) (a : Opd) (b : Opd) : Statement (.vmin h d a b) := by
  cases h <;> exact statement_of_raw rfl fun hw => by
    simp [Instr.wf, wfOp, isEvent, VH.wf, wsOk] at hw
    exact decodeOne_mkOp (dec := decode4 4) rfl (fun r x e => by unfold decodeRaw; rw [e]; rfl) (by simp [hw])
      (by simp [decode4, req, RawOp.zd, RawOp.za, RawOp.zb, RawOp.zi, RawOp.fld, RawOp.ib, RawOp.rz, Ext.isNone, getElem_eq, encImm, encImmS, decImm, decImmS, encShift, decCnt, encF, encV, vrs, wsExt, decCmd, extWs, RawOp.vh, VH.wf, decAtomI, decAtomF, decAtomFl, encAtom, CopyMods.pack, decCopyMods, PlkMods.pack, decPlk, decOrd, encOrd, hw])
theorem vmax (h : VH) (d : Opd) (a : Opd) (b : Opd) : Statement (.vmax h d a b) := by
  cases h <;> exact statement_of_raw rfl fun hw => by
    simp [Instr.wf, wfOp, isEvent, VH.wf, wsOk] at hw
    exact decodeOne_mkOp (dec := decode4 5) rfl (fun r x e => by unfold decodeRaw; rw [e]; rfl) (by simp [hw])
      (by simp [decode4, req, RawOp.zd, RawOp.za, RawOp.zb, RawOp.zi, RawOp.fld, RawOp.ib, RawOp.rz, Ext.isNone, getElem_eq, encImm, encImmS, decImm, decImmS, encShift, decCnt, encF, encV, vrs, wsExt, decCmd, extWs, RawOp.vh, VH.wf, decAtomI, decAtomF, decAtomFl, encAtom, CopyMods.pack, decCopyMods, PlkMods.pack, decPlk, decOrd, encOrd, hw])
theorem vand (h : VH) (d : Opd) (a : Opd) (b : Opd) : Statement (.vand h d a b) := by
  cases h <;> exact statement_of_raw rfl fun hw => by
    simp [Instr.wf, wfOp, isEvent, VH.wf, wsOk] at hw
    exact decodeOne_mkOp (dec := decode4 6) rfl (fun r x e => by unfold decodeRaw; rw [e]; rfl) (by simp [hw])
      (by simp [decode4, req, RawOp.zd, RawOp.za, RawOp.zb, RawOp.zi, RawOp.fld, RawOp.ib, RawOp.rz, Ext.isNone, getElem_eq, encImm, encImmS, decImm, decImmS, encShift, decCnt, encF, encV, vrs, wsExt, decCmd, extWs, RawOp.vh, VH.wf, decAtomI, decAtomF, decAtomFl, encAtom, CopyMods.pack, decCopyMods, PlkMods.pack, decPlk, decOrd, encOrd, hw])
theorem vor (h : VH) (d : Opd) (a : Opd) (b : Opd) : Statement (.vor h d a b) := by
  cases h <;> exact statement_of_raw rfl fun hw => by
    simp [Instr.wf, wfOp, isEvent, VH.wf, wsOk] at hw
    exact decodeOne_mkOp (dec := decode4 7) rfl (fun r x e => by unfold decodeRaw; rw [e]; rfl) (by simp [hw])
      (by simp [decode4, req, RawOp.zd, RawOp.za, RawOp.zb, RawOp.zi, RawOp.fld, RawOp.ib, RawOp.rz, Ext.isNone, getElem_eq, encImm, encImmS, decImm, decImmS, encShift, decCnt, encF, encV, vrs, wsExt, decCmd, extWs, RawOp.vh, VH.wf, decAtomI, decAtomF, decAtomFl, encAtom, CopyMods.pack, decCopyMods, PlkMods.pack, decPlk, decOrd, encOrd, hw])
theorem vxor (h : VH) (d : Opd) (a : Opd) (b : Opd) : Statement (.vxor h d a b) := by
  cases h <;> exact statement_of_raw rfl fun hw => by
    simp [Instr.wf, wfOp, isEvent, VH.wf, wsOk] at hw
    exact decodeOne_mkOp (dec := decode4 8) rfl (fun r x e => by unfold decodeRaw; rw [e]; rfl) (by simp [hw])
      (by simp [decode4, req, RawOp.zd, RawOp.za, RawOp.zb, RawOp.zi, RawOp.fld, RawOp.ib, RawOp.rz, Ext.isNone, getElem_eq, encImm, encImmS, decImm, decImmS, encShift, decCnt, encF, encV, vrs, wsExt, decCmd, extWs, RawOp.vh, VH.wf, decAtomI, decAtomF, decAtomFl, encAtom, CopyMods.pack, decCopyMods, PlkMods.pack, decPlk, decOrd, encOrd, hw])
theorem vshl (h : VH) (d : Opd) (a : Opd) (b : Opd) : Statement (.vshl h d a b) := by
  cases h <;> exact statement_of_raw rfl fun hw => by
    simp [Instr.wf, wfOp, isEvent, VH.wf, wsOk] at hw
    exact decodeOne_mkOp (dec := decode4 9) rfl (fun r x e => by unfold decodeRaw; rw [e]; rfl) (by simp [hw])
      (by simp [decode4, req, RawOp.zd, RawOp.za, RawOp.zb, RawOp.zi, RawOp.fld, RawOp.ib, RawOp.rz, Ext.isNone, getElem_eq, encImm, encImmS, decImm, decImmS, encShift, decCnt, encF, encV, vrs, wsExt, decCmd, extWs, RawOp.vh, VH.wf, decAtomI, decAtomF, decAtomFl, encAtom, CopyMods.pack, decCopyMods, PlkMods.pack, decPlk, decOrd, encOrd, hw])
theorem vshr (h : VH) (d : Opd) (a : Opd) (b : Opd) : Statement (.vshr h d a b) := by
  cases h <;> exact statement_of_raw rfl fun hw => by
    simp [Instr.wf, wfOp, isEvent, VH.wf, wsOk] at hw
    exact decodeOne_mkOp (dec := decode4 10) rfl (fun r x e => by unfold decodeRaw; rw [e]; rfl) (by simp [hw])
      (by simp [decode4, req, RawOp.zd, RawOp.za, RawOp.zb, RawOp.zi, RawOp.fld, RawOp.ib, RawOp.rz, Ext.isNone, getElem_eq, encImm, encImmS, decImm, decImmS, encShift, decCnt, encF, encV, vrs, wsExt, decCmd, extWs, RawOp.vh, VH.wf, decAtomI, decAtomF, decAtomFl, encAtom, CopyMods.pack, decCopyMods, PlkMods.pack, decPlk, decOrd, encOrd, hw])
theorem vcmp (h : VH) (cc : FCc) (d : Opd) (a : Opd) (b : Opd) : Statement (.vcmp h cc d a b) := by
  cases h <;> exact statement_of_raw rfl fun hw => by
    simp [Instr.wf, wfOp, isEvent, VH.wf, wsOk] at hw
    exact decodeOne_mkOp (dec := decode4 11) rfl (fun r x e => by unfold decodeRaw; rw [e]; rfl) (by simp [hw])
      (by simp [decode4, req, RawOp.zd, RawOp.za, RawOp.zb, RawOp.zi, RawOp.fld, RawOp.ib, RawOp.rz, Ext.isNone, getElem_eq, encImm, encImmS, decImm, decImmS, encShift, decCnt, encF, encV, vrs, wsExt, decCmd, extWs, RawOp.vh, VH.wf, decAtomI, decAtomF, decAtomFl, encAtom, CopyMods.pack, decCopyMods, PlkMods.pack, decPlk, decOrd, encOrd, hw])
theorem vsel (h : VH) (d : Opd) (a : Opd) (b : Opd) : Statement (.vsel h d a b) := by
  cases h <;> exact statement_of_raw rfl fun hw => by
    simp [Instr.wf, wfOp, isEvent, VH.wf, wsOk] at hw
    exact decodeOne_mkOp (dec := decode4 12) rfl (fun r x e => by unfold decodeRaw; rw [e]; rfl) (by simp [hw])
      (by simp [decode4, req, RawOp.zd, RawOp.za, RawOp.zb, RawOp.zi, RawOp.fld, RawOp.ib, RawOp.rz, Ext.isNone, getElem_eq, encImm, encImmS, decImm, decImmS, encShift, decCnt, encF, encV, vrs, wsExt, decCmd, extWs, RawOp.vh, VH.wf, decAtomI, decAtomF, decAtomFl, encAtom, CopyMods.pack, decCopyMods, PlkMods.pack, decPlk, decOrd, encOrd, hw])
theorem vcvt (h : VH) (rm : Rm) (sat : Bool) (d : Opd) (a : Opd) : Statement (.vcvt h rm sat d a) := by
  cases h <;> exact statement_of_raw rfl fun hw => by
    simp [Instr.wf, wfOp, isEvent, VH.wf, wsOk] at hw
    exact decodeOne_mkOp (dec := decode4 13) rfl (fun r x e => by unfold decodeRaw; rw [e]; rfl) (by simp [hw])
      (by simp [decode4, req, RawOp.zd, RawOp.za, RawOp.zb, RawOp.zi, RawOp.fld, RawOp.ib, RawOp.rz, Ext.isNone, getElem_eq, encImm, encImmS, decImm, decImmS, encShift, decCnt, encF, encV, vrs, wsExt, decCmd, extWs, RawOp.vh, VH.wf, decAtomI, decAtomF, decAtomFl, encAtom, CopyMods.pack, decCopyMods, PlkMods.pack, decPlk, decOrd, encOrd, hw])
theorem vld (h : VH) (w q : Bool) (rm : Rm) (sat : Bool) (d a b : Opd) : Statement (.vld h w q rm sat d a b) := by
  cases h; exact statement_of_raw rfl fun hw => by
    simp [Instr.wf, wfOp, isEvent, VH.wf] at hw
    refine decodeOne_mkOp (dec := decode4 14) rfl (fun r x e => by unfold decodeRaw; rw [e]; rfl) (by simp [hw]) ?_
    simp [decode4, req, RawOp.zb, RawOp.fld, RawOp.ib, RawOp.rz, Ext.isNone, getElem_eq, encV, RawOp.vh, VH.wf, hw]
    intro hq; subst hq
    obtain ⟨rfl, rfl⟩ : rm = .rne ∧ sat = false := by simpa using hw.2
    cases w <;> rfl
theorem vst (h : VH) (setf : Bool) (d : Ix) (a : Opd) (b : Opd) : Statement (.vst h setf d a b) := by
  cases h <;> exact statement_of_raw rfl fun hw => by
    simp [Instr.wf, wfOp, isEvent, VH.wf, wsOk] at hw
    exact decodeOne_mkOp (dec := decode4 15) rfl (fun r x e => by unfold decodeRaw; rw [e]; rfl) (by simp [hw])
      (by simp [decode4, req, RawOp.zd, RawOp.za, RawOp.zb, RawOp.zi, RawOp.fld, RawOp.ib, RawOp.rz, Ext.isNone, getElem_eq, encImm, encImmS, decImm, decImmS, encShift, decCnt, encF, encV, vrs, wsExt, decCmd, extWs, RawOp.vh, VH.wf, decAtomI, decAtomF, decAtomFl, encAtom, CopyMods.pack, decCopyMods, PlkMods.pack, decPlk, decOrd, encOrd, hw])
theorem vldt (h : VH) (w : Bool) (d : Opd) (a : Opd) (b : Opd) : Statement (.vldt h w d a b) := by
  cases h <;> exact statement_of_raw rfl fun hw => by
    simp [Instr.wf, wfOp, isEvent, VH.wf, wsOk] at hw
    exact decodeOne_mkOp (dec := decode4 16) rfl (fun r x e => by unfold decodeRaw; rw [e]; rfl) (by simp [hw])
      (by simp [decode4, req, RawOp.zd, RawOp.za, RawOp.zb, RawOp.zi, RawOp.fld, RawOp.ib, RawOp.rz, Ext.isNone, getElem_eq, encImm, encImmS, decImm, decImmS, encShift, decCnt, encF, encV, vrs, wsExt, decCmd, extWs, RawOp.vh, VH.wf, decAtomI, decAtomF, decAtomFl, encAtom, CopyMods.pack, decCopyMods, PlkMods.pack, decPlk, decOrd, encOrd, hw])
theorem vbcast (h : VH) (rm : Rm) (sat : Bool) (d : Opd) (a : Opd) : Statement (.vbcast h rm sat d a) := by
  cases h <;> exact statement_of_raw rfl fun hw => by
    simp [Instr.wf, wfOp, isEvent, VH.wf, wsOk] at hw
    exact decodeOne_mkOp (dec := decode4 17) rfl (fun r x e => by unfold decodeRaw; rw [e]; rfl) (by simp [hw])
      (by simp [decode4, req, RawOp.zd, RawOp.za, RawOp.zb, RawOp.zi, RawOp.fld, RawOp.ib, RawOp.rz, Ext.isNone, getElem_eq, encImm, encImmS, decImm, decImmS, encShift, decCnt, encF, encV, vrs, wsExt, decCmd, extWs, RawOp.vh, VH.wf, decAtomI, decAtomF, decAtomFl, encAtom, CopyMods.pack, decCopyMods, PlkMods.pack, decPlk, decOrd, encOrd, hw])
theorem vred (h : VH) (op : RedOp) (rm : Rm) (d : Opd) (a : Opd) : Statement (.vred h op rm d a) := by
  cases h <;> exact statement_of_raw rfl fun hw => by
    simp [Instr.wf, wfOp, isEvent, VH.wf, wsOk] at hw
    exact decodeOne_mkOp (dec := decode4 18) rfl (fun r x e => by unfold decodeRaw; rw [e]; rfl) (by simp [hw])
      (by simp [decode4, req, RawOp.zd, RawOp.za, RawOp.zb, RawOp.zi, RawOp.fld, RawOp.ib, RawOp.rz, Ext.isNone, getElem_eq, encImm, encImmS, decImm, decImmS, encShift, decCnt, encF, encV, vrs, wsExt, decCmd, extWs, RawOp.vh, VH.wf, decAtomI, decAtomF, decAtomFl, encAtom, CopyMods.pack, decCopyMods, PlkMods.pack, decPlk, decOrd, encOrd, hw])
theorem vscan (h : VH) (op : ScanOp) (rm : Rm) (d : Opd) (a : Opd) : Statement (.vscan h op rm d a) := by
  cases h <;> exact statement_of_raw rfl fun hw => by
    simp [Instr.wf, wfOp, isEvent, VH.wf, wsOk] at hw
    exact decodeOne_mkOp (dec := decode4 19) rfl (fun r x e => by unfold decodeRaw; rw [e]; rfl) (by simp [hw])
      (by simp [decode4, req, RawOp.zd, RawOp.za, RawOp.zb, RawOp.zi, RawOp.fld, RawOp.ib, RawOp.rz, Ext.isNone, getElem_eq, encImm, encImmS, decImm, decImmS, encShift, decCnt, encF, encV, vrs, wsExt, decCmd, extWs, RawOp.vh, VH.wf, decAtomI, decAtomF, decAtomFl, encAtom, CopyMods.pack, decCopyMods, PlkMods.pack, decPlk, decOrd, encOrd, hw])
theorem vperm (h : VH) (d : Opd) (a : Opd) (b : Opd) : Statement (.vperm h d a b) := by
  cases h <;> exact statement_of_raw rfl fun hw => by
    simp [Instr.wf, wfOp, isEvent, VH.wf, wsOk] at hw
    exact decodeOne_mkOp (dec := decode4 20) rfl (fun r x e => by unfold decodeRaw; rw [e]; rfl) (by simp [hw])
      (by simp [decode4, req, RawOp.zd, RawOp.za, RawOp.zb, RawOp.zi, RawOp.fld, RawOp.ib, RawOp.rz, Ext.isNone, getElem_eq, encImm, encImmS, decImm, decImmS, encShift, decCnt, encF, encV, vrs, wsExt, decCmd, extWs, RawOp.vh, VH.wf, decAtomI, decAtomF, decAtomFl, encAtom, CopyMods.pack, decCopyMods, PlkMods.pack, decPlk, decOrd, encOrd, hw])
theorem vcomp (h : VH) (d : Opd) (a : Opd) : Statement (.vcomp h d a) := by
  cases h <;> exact statement_of_raw rfl fun hw => by
    simp [Instr.wf, wfOp, isEvent, VH.wf, wsOk] at hw
    exact decodeOne_mkOp (dec := decode4 21) rfl (fun r x e => by unfold decodeRaw; rw [e]; rfl) (by simp [hw])
      (by simp [decode4, req, RawOp.zd, RawOp.za, RawOp.zb, RawOp.zi, RawOp.fld, RawOp.ib, RawOp.rz, Ext.isNone, getElem_eq, encImm, encImmS, decImm, decImmS, encShift, decCnt, encF, encV, vrs, wsExt, decCmd, extWs, RawOp.vh, VH.wf, decAtomI, decAtomF, decAtomFl, encAtom, CopyMods.pack, decCopyMods, PlkMods.pack, decPlk, decOrd, encOrd, hw])
theorem vexpd (h : VH) (d : Opd) (a : Opd) : Statement (.vexpd h d a) := by
  cases h <;> exact statement_of_raw rfl fun hw => by
    simp [Instr.wf, wfOp, isEvent, VH.wf, wsOk] at hw
    exact decodeOne_mkOp (dec := decode4 22) rfl (fun r x e => by unfold decodeRaw; rw [e]; rfl) (by simp [hw])
      (by simp [decode4, req, RawOp.zd, RawOp.za, RawOp.zb, RawOp.zi, RawOp.fld, RawOp.ib, RawOp.rz, Ext.isNone, getElem_eq, encImm, encImmS, decImm, decImmS, encShift, decCnt, encF, encV, vrs, wsExt, decCmd, extWs, RawOp.vh, VH.wf, decAtomI, decAtomF, decAtomFl, encAtom, CopyMods.pack, decCopyMods, PlkMods.pack, decPlk, decOrd, encOrd, hw])
theorem viota (h : VH) (d : Opd) (a : Opd) : Statement (.viota h d a) := by
  cases h <;> exact statement_of_raw rfl fun hw => by
    simp [Instr.wf, wfOp, isEvent, VH.wf, wsOk] at hw
    exact decodeOne_mkOp (dec := decode4 23) rfl (fun r x e => by unfold decodeRaw; rw [e]; rfl) (by simp [hw])
      (by simp [decode4, req, RawOp.zd, RawOp.za, RawOp.zb, RawOp.zi, RawOp.fld, RawOp.ib, RawOp.rz, Ext.isNone, getElem_eq, encImm, encImmS, decImm, decImmS, encShift, decCnt, encF, encV, vrs, wsExt, decCmd, extWs, RawOp.vh, VH.wf, decAtomI, decAtomF, decAtomFl, encAtom, CopyMods.pack, decCopyMods, PlkMods.pack, decPlk, decOrd, encOrd, hw])
theorem vsfu (h : VH) (fn : SfuFn) (rm : Rm) (d : Opd) (a : Opd) : Statement (.vsfu h fn rm d a) := by
  cases h <;> exact statement_of_raw rfl fun hw => by
    simp [Instr.wf, wfOp, isEvent, VH.wf, wsOk] at hw
    exact decodeOne_mkOp (dec := decode4 24) rfl (fun r x e => by unfold decodeRaw; rw [e]; rfl) (by simp [hw])
      (by simp [decode4, req, RawOp.zd, RawOp.za, RawOp.zb, RawOp.zi, RawOp.fld, RawOp.ib, RawOp.rz, Ext.isNone, getElem_eq, encImm, encImmS, decImm, decImmS, encShift, decCnt, encF, encV, vrs, wsExt, decCmd, extWs, RawOp.vh, VH.wf, decAtomI, decAtomF, decAtomFl, encAtom, CopyMods.pack, decCopyMods, PlkMods.pack, decPlk, decOrd, encOrd, hw])
theorem vquant (g : Guard) (gs : Gs) (d : Opd) (a : Opd) (e : Opd) : Statement (.vquant g gs d a e) := by
  exact statement_of_raw rfl fun hw => by
    simp [Instr.wf, wfOp, isEvent, VH.wf, wsOk] at hw
    exact decodeOne_mkOp (dec := decode4 25) rfl (fun r x e => by unfold decodeRaw; rw [e]; rfl) (by simp [hw])
      (by simp [decode4, req, RawOp.zd, RawOp.za, RawOp.zb, RawOp.zi, RawOp.fld, RawOp.ib, RawOp.rz, Ext.isNone, getElem_eq, encImm, encImmS, decImm, decImmS, encShift, decCnt, encF, encV, vrs, wsExt, decCmd, extWs, RawOp.vh, VH.wf, decAtomI, decAtomF, decAtomFl, encAtom, CopyMods.pack, decCopyMods, PlkMods.pack, decPlk, decOrd, encOrd, hw])
theorem vdeq (h : VH) (gs : Gs) (rm : Rm) (sat : Bool) (d : Opd) (a : Opd) (e : Opd) : Statement (.vdeq h gs rm sat d a e) := by
  cases h <;> exact statement_of_raw rfl fun hw => by
    simp [Instr.wf, wfOp, isEvent, VH.wf, wsOk] at hw
    exact decodeOne_mkOp (dec := decode4 26) rfl (fun r x e => by unfold decodeRaw; rw [e]; rfl) (by simp [hw])
      (by simp [decode4, req, RawOp.zd, RawOp.za, RawOp.zb, RawOp.zi, RawOp.fld, RawOp.ib, RawOp.rz, Ext.isNone, getElem_eq, encImm, encImmS, decImm, decImmS, encShift, decCnt, encF, encV, vrs, wsExt, decCmd, extWs, RawOp.vh, VH.wf, decAtomI, decAtomF, decAtomFl, encAtom, CopyMods.pack, decCopyMods, PlkMods.pack, decPlk, decOrd, encOrd, hw])
theorem vmovs (g : Guard) (d : Opd) (a : Opd) (b : Opd) : Statement (.vmovs g d a b) := by
  exact statement_of_raw rfl fun hw => by
    simp [Instr.wf, wfOp, isEvent, VH.wf, wsOk] at hw
    exact decodeOne_mkOp (dec := decode4 27) rfl (fun r x e => by unfold decodeRaw; rw [e]; rfl) (by simp [hw])
      (by simp [decode4, req, RawOp.zd, RawOp.za, RawOp.zb, RawOp.zi, RawOp.fld, RawOp.ib, RawOp.rz, Ext.isNone, getElem_eq, encImm, encImmS, decImm, decImmS, encShift, decCnt, encF, encV, vrs, wsExt, decCmd, extWs, RawOp.vh, VH.wf, decAtomI, decAtomF, decAtomFl, encAtom, CopyMods.pack, decCopyMods, PlkMods.pack, decPlk, decOrd, encOrd, hw])
theorem mcfg (g : Guard) (src : Src64) : Statement (.mcfg g src) := by
  cases src <;> exact statement_of_raw rfl fun hw => by
    simp [Instr.wf, wfOp, isEvent, VH.wf, wsOk] at hw
    exact decodeOne_mkOp (dec := decode5 0) rfl (fun r x e => by unfold decodeRaw; rw [e]; rfl) (by simp [hw])
      (by simp [decode5, req, RawOp.zd, RawOp.za, RawOp.zb, RawOp.zi, RawOp.fld, RawOp.ib, RawOp.rz, Ext.isNone, getElem_eq, encImm, encImmS, decImm, decImmS, encShift, decCnt, encF, encV, vrs, wsExt, decCmd, extWs, RawOp.vh, VH.wf, decAtomI, decAtomF, decAtomFl, encAtom, CopyMods.pack, decCopyMods, PlkMods.pack, decPlk, decOrd, encOrd, hw])
theorem mma (g : Guard) (tr : Bool) (z : Bool) (gg : Bool) (t : Bool) (d : Ix) (a : Opd) (ws : Option Ws) : Statement (.mma g tr z gg t d a ws) := by
  cases ws <;> exact statement_of_raw rfl fun hw => by
    simp [Instr.wf, wfOp, isEvent, VH.wf, wsOk] at hw
    exact decodeOne_mkOp (dec := decode5 1) rfl (fun r x e => by unfold decodeRaw; rw [e]; rfl) (by simp [hw])
      (by simp [decode5, req, RawOp.zd, RawOp.za, RawOp.zb, RawOp.zi, RawOp.fld, RawOp.ib, RawOp.rz, Ext.isNone, getElem_eq, encImm, encImmS, decImm, decImmS, encShift, decCnt, encF, encV, vrs, wsExt, decCmd, extWs, RawOp.vh, VH.wf, decAtomI, decAtomF, decAtomFl, encAtom, CopyMods.pack, decCopyMods, PlkMods.pack, decPlk, decOrd, encOrd, hw])
theorem mdrain (g : Guard) (tr : Bool) (acc : Bool) (d : Ix) (ws : Option Ws) : Statement (.mdrain g tr acc d ws) := by
  cases ws <;> exact statement_of_raw rfl fun hw => by
    simp [Instr.wf, wfOp, isEvent, VH.wf, wsOk] at hw
    exact decodeOne_mkOp (dec := decode5 2) rfl (fun r x e => by unfold decodeRaw; rw [e]; rfl) (by simp [hw])
      (by simp [decode5, req, RawOp.zd, RawOp.za, RawOp.zb, RawOp.zi, RawOp.fld, RawOp.ib, RawOp.rz, Ext.isNone, getElem_eq, encImm, encImmS, decImm, decImmS, encShift, decCnt, encF, encV, vrs, wsExt, decCmd, extWs, RawOp.vh, VH.wf, decAtomI, decAtomF, decAtomFl, encAtom, CopyMods.pack, decCopyMods, PlkMods.pack, decPlk, decOrd, encOrd, hw])
theorem mmap (g : Guard) (tr : Bool) (d : Ix) (a : Opd) (ws : Option Ws) : Statement (.mmap g tr d a ws) := by
  cases ws <;> exact statement_of_raw rfl fun hw => by
    simp [Instr.wf, wfOp, isEvent, VH.wf, wsOk] at hw
    exact decodeOne_mkOp (dec := decode5 3) rfl (fun r x e => by unfold decodeRaw; rw [e]; rfl) (by simp [hw])
      (by simp [decode5, req, RawOp.zd, RawOp.za, RawOp.zb, RawOp.zi, RawOp.fld, RawOp.ib, RawOp.rz, Ext.isNone, getElem_eq, encImm, encImmS, decImm, decImmS, encShift, decCnt, encF, encV, vrs, wsExt, decCmd, extWs, RawOp.vh, VH.wf, decAtomI, decAtomF, decAtomFl, encAtom, CopyMods.pack, decCopyMods, PlkMods.pack, decPlk, decOrd, encOrd, hw])
theorem mclr (g : Guard) (tr : Bool) (d : Ix) (ws : Option Ws) : Statement (.mclr g tr d ws) := by
  cases ws <;> exact statement_of_raw rfl fun hw => by
    simp [Instr.wf, wfOp, isEvent, VH.wf, wsOk] at hw
    exact decodeOne_mkOp (dec := decode5 4) rfl (fun r x e => by unfold decodeRaw; rw [e]; rfl) (by simp [hw])
      (by simp [decode5, req, RawOp.zd, RawOp.za, RawOp.zb, RawOp.zi, RawOp.fld, RawOp.ib, RawOp.rz, Ext.isNone, getElem_eq, encImm, encImmS, decImm, decImmS, encShift, decCnt, encF, encV, vrs, wsExt, decCmd, extWs, RawOp.vh, VH.wf, decAtomI, decAtomF, decAtomFl, encAtom, CopyMods.pack, decCopyMods, PlkMods.pack, decPlk, decOrd, encOrd, hw])
theorem xreduce (g : Guard) (tr : Bool) (confine : Bool) (d : Ix) (a : Opd) (ws : Option Ws) : Statement (.xreduce g tr confine d a ws) := by
  cases ws <;> exact statement_of_raw rfl fun hw => by
    simp [Instr.wf, wfOp, isEvent, VH.wf, wsOk] at hw
    exact decodeOne_mkOp (dec := decode5 16) rfl (fun r x e => by unfold decodeRaw; rw [e]; rfl) (by simp [hw])
      (by simp [decode5, req, RawOp.zd, RawOp.za, RawOp.zb, RawOp.zi, RawOp.fld, RawOp.ib, RawOp.rz, Ext.isNone, getElem_eq, encImm, encImmS, decImm, decImmS, encShift, decCnt, encF, encV, vrs, wsExt, decCmd, extWs, RawOp.vh, VH.wf, decAtomI, decAtomF, decAtomFl, encAtom, CopyMods.pack, decCopyMods, PlkMods.pack, decPlk, decOrd, encOrd, hw])
theorem xgather (g : Guard) (tr : Bool) (confine : Bool) (d : Ix) (a : Opd) (ws : Option Ws) : Statement (.xgather g tr confine d a ws) := by
  cases ws <;> exact statement_of_raw rfl fun hw => by
    simp [Instr.wf, wfOp, isEvent, VH.wf, wsOk] at hw
    exact decodeOne_mkOp (dec := decode5 17) rfl (fun r x e => by unfold decodeRaw; rw [e]; rfl) (by simp [hw])
      (by simp [decode5, req, RawOp.zd, RawOp.za, RawOp.zb, RawOp.zi, RawOp.fld, RawOp.ib, RawOp.rz, Ext.isNone, getElem_eq, encImm, encImmS, decImm, decImmS, encShift, decCnt, encF, encV, vrs, wsExt, decCmd, extWs, RawOp.vh, VH.wf, decAtomI, decAtomF, decAtomFl, encAtom, CopyMods.pack, decCopyMods, PlkMods.pack, decPlk, decOrd, encOrd, hw])
theorem xbcast (g : Guard) (tr : Bool) (confine : Bool) (d : Ix) (a : Opd) (ws : Option Ws) : Statement (.xbcast g tr confine d a ws) := by
  cases ws <;> exact statement_of_raw rfl fun hw => by
    simp [Instr.wf, wfOp, isEvent, VH.wf, wsOk] at hw
    exact decodeOne_mkOp (dec := decode5 18) rfl (fun r x e => by unfold decodeRaw; rw [e]; rfl) (by simp [hw])
      (by simp [decode5, req, RawOp.zd, RawOp.za, RawOp.zb, RawOp.zi, RawOp.fld, RawOp.ib, RawOp.rz, Ext.isNone, getElem_eq, encImm, encImmS, decImm, decImmS, encShift, decCnt, encF, encV, vrs, wsExt, decCmd, extWs, RawOp.vh, VH.wf, decAtomI, decAtomF, decAtomFl, encAtom, CopyMods.pack, decCopyMods, PlkMods.pack, decPlk, decOrd, encOrd, hw])
theorem xmemberCreate (g : Guard) (d : Ix) (a : Ix) (b : Ix) : Statement (.xmemberCreate g d a b) := by
  exact statement_of_raw rfl fun hw => by
    simp [Instr.wf, wfOp, isEvent, VH.wf, wsOk] at hw
    exact decodeOne_mkOp (dec := decode5 19) rfl (fun r x e => by unfold decodeRaw; rw [e]; rfl) (by simp [hw])
      (by simp [decode5, req, RawOp.zd, RawOp.za, RawOp.zb, RawOp.zi, RawOp.fld, RawOp.ib, RawOp.rz, Ext.isNone, getElem_eq, encImm, encImmS, decImm, decImmS, encShift, decCnt, encF, encV, vrs, wsExt, decCmd, extWs, RawOp.vh, VH.wf, decAtomI, decAtomF, decAtomFl, encAtom, CopyMods.pack, decCopyMods, PlkMods.pack, decPlk, decOrd, encOrd, hw])
theorem xmemberShrink (g : Guard) (d : Ix) (a : Ix) (b : Ix) : Statement (.xmemberShrink g d a b) := by
  exact statement_of_raw rfl fun hw => by
    simp [Instr.wf, wfOp, isEvent, VH.wf, wsOk] at hw
    exact decodeOne_mkOp (dec := decode5 19) rfl (fun r x e => by unfold decodeRaw; rw [e]; rfl) (by simp [hw])
      (by simp [decode5, req, RawOp.zd, RawOp.za, RawOp.zb, RawOp.zi, RawOp.fld, RawOp.ib, RawOp.rz, Ext.isNone, getElem_eq, encImm, encImmS, decImm, decImmS, encShift, decCnt, encF, encV, vrs, wsExt, decCmd, extWs, RawOp.vh, VH.wf, decAtomI, decAtomF, decAtomFl, encAtom, CopyMods.pack, decCopyMods, PlkMods.pack, decPlk, decOrd, encOrd, hw])
theorem xmemberJoin (g : Guard) (d : Ix) (a : Ix) (b : Ix) : Statement (.xmemberJoin g d a b) := by
  exact statement_of_raw rfl fun hw => by
    simp [Instr.wf, wfOp, isEvent, VH.wf, wsOk] at hw
    exact decodeOne_mkOp (dec := decode5 19) rfl (fun r x e => by unfold decodeRaw; rw [e]; rfl) (by simp [hw])
      (by simp [decode5, req, RawOp.zd, RawOp.za, RawOp.zb, RawOp.zi, RawOp.fld, RawOp.ib, RawOp.rz, Ext.isNone, getElem_eq, encImm, encImmS, decImm, decImmS, encShift, decCnt, encF, encV, vrs, wsExt, decCmd, extWs, RawOp.vh, VH.wf, decAtomI, decAtomF, decAtomFl, encAtom, CopyMods.pack, decCopyMods, PlkMods.pack, decPlk, decOrd, encOrd, hw])
theorem xmemberLeave (g : Guard) (d : Ix) (a : Ix) : Statement (.xmemberLeave g d a) := by
  exact statement_of_raw rfl fun hw => by
    simp [Instr.wf, wfOp, isEvent, VH.wf, wsOk] at hw
    exact decodeOne_mkOp (dec := decode5 19) rfl (fun r x e => by unfold decodeRaw; rw [e]; rfl) (by simp [hw])
      (by simp [decode5, req, RawOp.zd, RawOp.za, RawOp.zb, RawOp.zi, RawOp.fld, RawOp.ib, RawOp.rz, Ext.isNone, getElem_eq, encImm, encImmS, decImm, decImmS, encShift, decCnt, encF, encV, vrs, wsExt, decCmd, extWs, RawOp.vh, VH.wf, decAtomI, decAtomF, decAtomFl, encAtom, CopyMods.pack, decCopyMods, PlkMods.pack, decPlk, decOrd, encOrd, hw])
theorem xlog (g : Guard) (tr : Bool) (keepf : Bool) (d : Ix) (a : Opd) (ws : Option Ws) : Statement (.xlog g tr keepf d a ws) := by
  cases ws <;> exact statement_of_raw rfl fun hw => by
    simp [Instr.wf, wfOp, isEvent, VH.wf, wsOk] at hw
    exact decodeOne_mkOp (dec := decode5 20) rfl (fun r x e => by unfold decodeRaw; rw [e]; rfl) (by simp [hw])
      (by simp [decode5, req, RawOp.zd, RawOp.za, RawOp.zb, RawOp.zi, RawOp.fld, RawOp.ib, RawOp.rz, Ext.isNone, getElem_eq, encImm, encImmS, decImm, decImmS, encShift, decCnt, encF, encV, vrs, wsExt, decCmd, extWs, RawOp.vh, VH.wf, decAtomI, decAtomF, decAtomFl, encAtom, CopyMods.pack, decCopyMods, PlkMods.pack, decPlk, decOrd, encOrd, hw])
theorem semwait (g : Guard) (n : BitVec 8) (t : BitVec 12) (take : Bool) : Statement (.semwait g n t take) := by
  exact statement_of_raw rfl fun hw => by
    simp [Instr.wf, wfOp, isEvent, VH.wf, wsOk] at hw
    exact decodeOne_mkOp (dec := decode6 0) rfl (fun r x e => by unfold decodeRaw; rw [e]; rfl) (by simp [hw])
      (by simp [decode6, req, RawOp.zd, RawOp.za, RawOp.zb, RawOp.zi, RawOp.fld, RawOp.ib, RawOp.rz, Ext.isNone, getElem_eq, encImm, encImmS, decImm, decImmS, encShift, decCnt, encF, encV, vrs, wsExt, decCmd, extWs, RawOp.vh, VH.wf, decAtomI, decAtomF, decAtomFl, encAtom, CopyMods.pack, decCopyMods, PlkMods.pack, decPlk, decOrd, encOrd, hw])
theorem semsig (g : Guard) (n : BitVec 8) (i : BitVec 12) : Statement (.semsig g n i) := by
  exact statement_of_raw rfl fun hw => by
    simp [Instr.wf, wfOp, isEvent, VH.wf, wsOk] at hw
    exact decodeOne_mkOp (dec := decode6 1) rfl (fun r x e => by unfold decodeRaw; rw [e]; rfl) (by simp [hw])
      (by simp [decode6, req, RawOp.zd, RawOp.za, RawOp.zb, RawOp.zi, RawOp.fld, RawOp.ib, RawOp.rz, Ext.isNone, getElem_eq, encImm, encImmS, decImm, decImmS, encShift, decCnt, encF, encV, vrs, wsExt, decCmd, extWs, RawOp.vh, VH.wf, decAtomI, decAtomF, decAtomFl, encAtom, CopyMods.pack, decCopyMods, PlkMods.pack, decPlk, decOrd, encOrd, hw])
theorem semset (g : Guard) (n : BitVec 8) (v : ImmS) : Statement (.semset g n v) := by
  cases v <;> exact statement_of_raw rfl fun hw => by
    simp [Instr.wf, wfOp, isEvent, VH.wf, wsOk] at hw
    exact decodeOne_mkOp (dec := decode6 2) rfl (fun r x e => by unfold decodeRaw; rw [e]; rfl) (by simp [hw])
      (by simp [decode6, req, RawOp.zd, RawOp.za, RawOp.zb, RawOp.zi, RawOp.fld, RawOp.ib, RawOp.rz, Ext.isNone, getElem_eq, encImm, encImmS, decImm, decImmS, encShift, decCnt, encF, encV, vrs, wsExt, decCmd, extWs, RawOp.vh, VH.wf, decAtomI, decAtomF, decAtomFl, encAtom, CopyMods.pack, decCopyMods, PlkMods.pack, decPlk, decOrd, encOrd, wfOp, Guard.wf, hw])
theorem semrd (g : Guard) (d : Opd) (n : BitVec 8) : Statement (.semrd g d n) := by
  exact statement_of_raw rfl fun hw => by
    simp [Instr.wf, wfOp, isEvent, VH.wf, wsOk] at hw
    exact decodeOne_mkOp (dec := decode6 3) rfl (fun r x e => by unfold decodeRaw; rw [e]; rfl) (by simp [hw])
      (by simp [decode6, req, RawOp.zd, RawOp.za, RawOp.zb, RawOp.zi, RawOp.fld, RawOp.ib, RawOp.rz, Ext.isNone, getElem_eq, encImm, encImmS, decImm, decImmS, encShift, decCnt, encF, encV, vrs, wsExt, decCmd, extWs, RawOp.vh, VH.wf, decAtomI, decAtomF, decAtomFl, encAtom, CopyMods.pack, decCopyMods, PlkMods.pack, decPlk, decOrd, encOrd, hw])
theorem qcfg (g : Guard) (d : Ix) (a : Opd) (n : BitVec 5) : Statement (.qcfg g d a n) := by
  exact statement_of_raw rfl fun hw => by
    simp [Instr.wf, wfOp, isEvent, VH.wf, wsOk] at hw
    exact decodeOne_mkOp (dec := decode6 4) rfl (fun r x e => by unfold decodeRaw; rw [e]; rfl) (by simp [hw])
      (by simp [decode6, req, RawOp.zd, RawOp.za, RawOp.zb, RawOp.zi, RawOp.fld, RawOp.ib, RawOp.rz, Ext.isNone, getElem_eq, encImm, encImmS, decImm, decImmS, encShift, decCnt, encF, encV, vrs, wsExt, decCmd, extWs, RawOp.vh, VH.wf, decAtomI, decAtomF, decAtomFl, encAtom, CopyMods.pack, decCopyMods, PlkMods.pack, decPlk, decOrd, encOrd, hw])
theorem qcount (g : Guard) (d : Opd) (n : BitVec 5) : Statement (.qcount g d n) := by
  exact statement_of_raw rfl fun hw => by
    simp [Instr.wf, wfOp, isEvent, VH.wf, wsOk] at hw
    exact decodeOne_mkOp (dec := decode6 5) rfl (fun r x e => by unfold decodeRaw; rw [e]; rfl) (by simp [hw])
      (by simp [decode6, req, RawOp.zd, RawOp.za, RawOp.zb, RawOp.zi, RawOp.fld, RawOp.ib, RawOp.rz, Ext.isNone, getElem_eq, encImm, encImmS, decImm, decImmS, encShift, decCnt, encF, encV, vrs, wsExt, decCmd, extWs, RawOp.vh, VH.wf, decAtomI, decAtomF, decAtomFl, encAtom, CopyMods.pack, decCopyMods, PlkMods.pack, decPlk, decOrd, encOrd, hw])
theorem msend (g : Guard) (k : BitVec 6) (a : Opd) (pl : List Ix) : Statement (.msend g k a pl) := by
  have go (pl : List Ix) (r : Raw) (h : encodeRaw (.msend g k a pl) = some r)
      (hd : g.wf = true → r = (mkOp 0x306 g (0#5 ++ BitVec.ofNat 3 pl.length ++ k) zo a zo, r.2) ∧
        decode6 6 (mkOp 0x306 g (0#5 ++ BitVec.ofNat 3 pl.length ++ k) zo a zo) r.2 = some (.msend g k a pl)) :
      Statement (.msend g k a pl) := statement_of_raw h fun hw => by
    have hg : g.wf = true := by simp [Instr.wf, wfOp, isEvent] at hw; exact hw.1
    rw [(hd hg).1]
    exact decodeOne_mkOp (dec := decode6 6) rfl (fun r x e => by unfold decodeRaw; rw [e]; rfl) hg (hd hg).2
  match pl with
  | [] => exact go [] _ rfl fun _ => ⟨rfl, by simp [decode6, req, RawOp.zd, RawOp.zb, RawOp.fld]⟩
  | [p0] => exact go [p0] _ rfl fun _ => ⟨rfl, by simp [decode6, req, RawOp.zd, RawOp.zb, RawOp.fld, packPl, decPl, -BitVec.extractLsb'_toNat]⟩
  | [p0, p1] => exact go [p0, p1] _ rfl fun _ => ⟨rfl, by simp [decode6, req, RawOp.zd, RawOp.zb, RawOp.fld, packPl, decPl, -BitVec.extractLsb'_toNat]⟩
  | [p0, p1, p2] => exact go [p0, p1, p2] _ rfl fun _ => ⟨rfl, by simp [decode6, req, RawOp.zd, RawOp.zb, RawOp.fld, packPl, decPl, -BitVec.extractLsb'_toNat]⟩
  | [p0, p1, p2, p3] =>
    exact go [p0, p1, p2, p3] _ rfl fun _ => ⟨rfl, by simp [decode6, req, RawOp.zd, RawOp.zb, RawOp.fld, packPl, decPl, -BitVec.extractLsb'_toNat]⟩
  | p0 :: p1 :: p2 :: p3 :: p4 :: pl => intro hw; simp [Instr.wf, wfOp, isEvent] at hw <;> omega
theorem spawn (g : Guard) (a : Opd) (t : ImmS) : Statement (.spawn g a t) := by
  cases t <;> exact statement_of_raw rfl fun hw => by
    simp [Instr.wf, wfOp, isEvent, VH.wf, wsOk] at hw
    exact decodeOne_mkOp (dec := decode6 8) rfl (fun r x e => by unfold decodeRaw; rw [e]; rfl) (by simp [hw])
      (by simp [decode6, req, RawOp.zd, RawOp.za, RawOp.zb, RawOp.zi, RawOp.fld, RawOp.ib, RawOp.rz, Ext.isNone, getElem_eq, encImm, encImmS, decImm, decImmS, encShift, decCnt, encF, encV, vrs, wsExt, decCmd, extWs, RawOp.vh, VH.wf, decAtomI, decAtomF, decAtomFl, encAtom, CopyMods.pack, decCopyMods, PlkMods.pack, decPlk, decOrd, encOrd, hw])
theorem sync (g : Guard) : Statement (.sync g) := by
  exact statement_of_raw rfl fun hw => by
    simp [Instr.wf, wfOp, isEvent, VH.wf, wsOk] at hw
    exact decodeOne_mkOp (dec := decode6 9) rfl (fun r x e => by unfold decodeRaw; rw [e]; rfl) (by simp [hw])
      (by simp [decode6, req, RawOp.zd, RawOp.za, RawOp.zb, RawOp.zi, RawOp.fld, RawOp.ib, RawOp.rz, Ext.isNone, getElem_eq, encImm, encImmS, decImm, decImmS, encShift, decCnt, encF, encV, vrs, wsExt, decCmd, extWs, RawOp.vh, VH.wf, decAtomI, decAtomF, decAtomFl, encAtom, CopyMods.pack, decCopyMods, PlkMods.pack, decPlk, decOrd, encOrd, hw])
theorem done (g : Guard) : Statement (.done g) := by
  exact statement_of_raw rfl fun hw => by
    simp [Instr.wf, wfOp, isEvent, VH.wf, wsOk] at hw
    exact decodeOne_mkOp (dec := decode6 10) rfl (fun r x e => by unfold decodeRaw; rw [e]; rfl) (by simp [hw])
      (by simp [decode6, req, RawOp.zd, RawOp.za, RawOp.zb, RawOp.zi, RawOp.fld, RawOp.ib, RawOp.rz, Ext.isNone, getElem_eq, encImm, encImmS, decImm, decImmS, encShift, decCnt, encF, encV, vrs, wsExt, decCmd, extWs, RawOp.vh, VH.wf, decAtomI, decAtomF, decAtomFl, encAtom, CopyMods.pack, decCopyMods, PlkMods.pack, decPlk, decOrd, encOrd, hw])
theorem launch (g : Guard) (tr : Bool) (lev : BitVec 2) (d : Ix) (a : Opd) (ws : Option Ws) : Statement (.launch g tr lev d a ws) := by
  cases ws <;> exact statement_of_raw rfl fun hw => by
    simp [Instr.wf, wfOp, isEvent, VH.wf, wsOk] at hw
    exact decodeOne_mkOp (dec := decode6 11) rfl (fun r x e => by unfold decodeRaw; rw [e]; rfl) (by simp [hw])
      (by simp [decode6, req, RawOp.zd, RawOp.za, RawOp.zb, RawOp.zi, RawOp.fld, RawOp.ib, RawOp.rz, Ext.isNone, getElem_eq, encImm, encImmS, decImm, decImmS, encShift, decCnt, encF, encV, vrs, wsExt, decCmd, extWs, RawOp.vh, VH.wf, decAtomI, decAtomF, decAtomFl, encAtom, CopyMods.pack, decCopyMods, PlkMods.pack, decPlk, decOrd, encOrd, hw])
theorem genter (g : Guard) (a : Opd) : Statement (.genter g a) := by
  exact statement_of_raw rfl fun hw => by
    simp [Instr.wf, wfOp, isEvent, VH.wf, wsOk] at hw
    exact decodeOne_mkOp (dec := decode6 12) rfl (fun r x e => by unfold decodeRaw; rw [e]; rfl) (by simp [hw])
      (by simp [decode6, req, RawOp.zd, RawOp.za, RawOp.zb, RawOp.zi, RawOp.fld, RawOp.ib, RawOp.rz, Ext.isNone, getElem_eq, encImm, encImmS, decImm, decImmS, encShift, decCnt, encF, encV, vrs, wsExt, decCmd, extWs, RawOp.vh, VH.wf, decAtomI, decAtomF, decAtomFl, encAtom, CopyMods.pack, decCopyMods, PlkMods.pack, decPlk, decOrd, encOrd, hw])
theorem gleave (g : Guard) : Statement (.gleave g) := by
  exact statement_of_raw rfl fun hw => by
    simp [Instr.wf, wfOp, isEvent, VH.wf, wsOk] at hw
    exact decodeOne_mkOp (dec := decode6 13) rfl (fun r x e => by unfold decodeRaw; rw [e]; rfl) (by simp [hw])
      (by simp [decode6, req, RawOp.zd, RawOp.za, RawOp.zb, RawOp.zi, RawOp.fld, RawOp.ib, RawOp.rz, Ext.isNone, getElem_eq, encImm, encImmS, decImm, decImmS, encShift, decCnt, encF, encV, vrs, wsExt, decCmd, extWs, RawOp.vh, VH.wf, decAtomI, decAtomF, decAtomFl, encAtom, CopyMods.pack, decCopyMods, PlkMods.pack, decPlk, decOrd, encOrd, hw])
theorem gbar (g : Guard) : Statement (.gbar g) := by
  exact statement_of_raw rfl fun hw => by
    simp [Instr.wf, wfOp, isEvent, VH.wf, wsOk] at hw
    exact decodeOne_mkOp (dec := decode6 14) rfl (fun r x e => by unfold decodeRaw; rw [e]; rfl) (by simp [hw])
      (by simp [decode6, req, RawOp.zd, RawOp.za, RawOp.zb, RawOp.zi, RawOp.fld, RawOp.ib, RawOp.rz, Ext.isNone, getElem_eq, encImm, encImmS, decImm, decImmS, encShift, decCnt, encF, encV, vrs, wsExt, decCmd, extWs, RawOp.vh, VH.wf, decAtomI, decAtomF, decAtomFl, encAtom, CopyMods.pack, decCopyMods, PlkMods.pack, decPlk, decOrd, encOrd, hw])
theorem gsize (g : Guard) (d : Opd) : Statement (.gsize g d) := by
  exact statement_of_raw rfl fun hw => by
    simp [Instr.wf, wfOp, isEvent, VH.wf, wsOk] at hw
    exact decodeOne_mkOp (dec := decode6 15) rfl (fun r x e => by unfold decodeRaw; rw [e]; rfl) (by simp [hw])
      (by simp [decode6, req, RawOp.zd, RawOp.za, RawOp.zb, RawOp.zi, RawOp.fld, RawOp.ib, RawOp.rz, Ext.isNone, getElem_eq, encImm, encImmS, decImm, decImmS, encShift, decCnt, encF, encV, vrs, wsExt, decCmd, extWs, RawOp.vh, VH.wf, decAtomI, decAtomF, decAtomFl, encAtom, CopyMods.pack, decCopyMods, PlkMods.pack, decPlk, decOrd, encOrd, hw])
theorem cmake (g : Guard) (d : Ix) (a : Opd) : Statement (.cmake g d a) := by
  exact statement_of_raw rfl fun hw => by
    simp [Instr.wf, wfOp, isEvent, VH.wf, wsOk] at hw
    exact decodeOne_mkOp (dec := decode6 32) rfl (fun r x e => by unfold decodeRaw; rw [e]; rfl) (by simp [hw])
      (by simp [decode6, req, RawOp.zd, RawOp.za, RawOp.zb, RawOp.zi, RawOp.fld, RawOp.ib, RawOp.rz, Ext.isNone, getElem_eq, encImm, encImmS, decImm, decImmS, encShift, decCnt, encF, encV, vrs, wsExt, decCmd, extWs, RawOp.vh, VH.wf, decAtomI, decAtomF, decAtomFl, encAtom, CopyMods.pack, decCopyMods, PlkMods.pack, decPlk, decOrd, encOrd, hw])
theorem csend (g : Guard) : Statement (.csend g) := by
  exact statement_of_raw rfl fun hw => by
    simp [Instr.wf, wfOp, isEvent, VH.wf, wsOk] at hw
    exact decodeOne_mkOp (dec := decode6 33) rfl (fun r x e => by unfold decodeRaw; rw [e]; rfl) (by simp [hw])
      (by simp [decode6, req, RawOp.zd, RawOp.za, RawOp.zb, RawOp.zi, RawOp.fld, RawOp.ib, RawOp.rz, Ext.isNone, getElem_eq, encImm, encImmS, decImm, decImmS, encShift, decCnt, encF, encV, vrs, wsExt, decCmd, extWs, RawOp.vh, VH.wf, decAtomI, decAtomF, decAtomFl, encAtom, CopyMods.pack, decCopyMods, PlkMods.pack, decPlk, decOrd, encOrd, hw])
theorem cstop (g : Guard) (d : Ix) (k : BitVec 6) : Statement (.cstop g d k) := by
  exact statement_of_raw rfl fun hw => by
    simp [Instr.wf, wfOp, isEvent, VH.wf, wsOk] at hw
    exact decodeOne_mkOp (dec := decode6 34) rfl (fun r x e => by unfold decodeRaw; rw [e]; rfl) (by simp [hw])
      (by simp [decode6, req, RawOp.zd, RawOp.za, RawOp.zb, RawOp.zi, RawOp.fld, RawOp.ib, RawOp.rz, Ext.isNone, getElem_eq, encImm, encImmS, decImm, decImmS, encShift, decCnt, encF, encV, vrs, wsExt, decCmd, extWs, RawOp.vh, VH.wf, decAtomI, decAtomF, decAtomFl, encAtom, CopyMods.pack, decCopyMods, PlkMods.pack, decPlk, decOrd, encOrd, hw])
theorem cins (g : Guard) (a : Opd) (b : Opd) : Statement (.cins g a b) := by
  exact statement_of_raw rfl fun hw => by
    simp [Instr.wf, wfOp, isEvent, VH.wf, wsOk] at hw
    exact decodeOne_mkOp (dec := decode6 35) rfl (fun r x e => by unfold decodeRaw; rw [e]; rfl) (by simp [hw])
      (by simp [decode6, req, RawOp.zd, RawOp.za, RawOp.zb, RawOp.zi, RawOp.fld, RawOp.ib, RawOp.rz, Ext.isNone, getElem_eq, encImm, encImmS, decImm, decImmS, encShift, decCnt, encF, encV, vrs, wsExt, decCmd, extWs, RawOp.vh, VH.wf, decAtomI, decAtomF, decAtomFl, encAtom, CopyMods.pack, decCopyMods, PlkMods.pack, decPlk, decOrd, encOrd, hw])
theorem cdel (g : Guard) (n : BitVec 4) : Statement (.cdel g n) := by
  exact statement_of_raw rfl fun hw => by
    simp [Instr.wf, wfOp, isEvent, VH.wf, wsOk] at hw
    exact decodeOne_mkOp (dec := decode6 36) rfl (fun r x e => by unfold decodeRaw; rw [e]; rfl) (by simp [hw])
      (by simp [decode6, req, RawOp.zd, RawOp.za, RawOp.zb, RawOp.zi, RawOp.fld, RawOp.ib, RawOp.rz, Ext.isNone, getElem_eq, encImm, encImmS, decImm, decImmS, encShift, decCnt, encF, encV, vrs, wsExt, decCmd, extWs, RawOp.vh, VH.wf, decAtomI, decAtomF, decAtomFl, encAtom, CopyMods.pack, decCopyMods, PlkMods.pack, decPlk, decOrd, encOrd, hw])
theorem csetp (g : Guard) (k : BitVec 4) (a : Opd) : Statement (.csetp g k a) := by
  exact statement_of_raw rfl fun hw => by
    simp [Instr.wf, wfOp, isEvent, VH.wf, wsOk] at hw
    exact decodeOne_mkOp (dec := decode6 37) rfl (fun r x e => by unfold decodeRaw; rw [e]; rfl) (by simp [hw])
      (by simp [decode6, req, RawOp.zd, RawOp.za, RawOp.zb, RawOp.zi, RawOp.fld, RawOp.ib, RawOp.rz, Ext.isNone, getElem_eq, encImm, encImmS, decImm, decImmS, encShift, decCnt, encF, encV, vrs, wsExt, decCmd, extWs, RawOp.vh, VH.wf, decAtomI, decAtomF, decAtomFl, encAtom, CopyMods.pack, decCopyMods, PlkMods.pack, decPlk, decOrd, encOrd, hw])
theorem csplit (g : Guard) (a : Opd) (b : Opd) : Statement (.csplit g a b) := by
  exact statement_of_raw rfl fun hw => by
    simp [Instr.wf, wfOp, isEvent, VH.wf, wsOk] at hw
    exact decodeOne_mkOp (dec := decode6 38) rfl (fun r x e => by unfold decodeRaw; rw [e]; rfl) (by simp [hw])
      (by simp [decode6, req, RawOp.zd, RawOp.za, RawOp.zb, RawOp.zi, RawOp.fld, RawOp.ib, RawOp.rz, Ext.isNone, getElem_eq, encImm, encImmS, decImm, decImmS, encShift, decCnt, encF, encV, vrs, wsExt, decCmd, extWs, RawOp.vh, VH.wf, decAtomI, decAtomF, decAtomFl, encAtom, CopyMods.pack, decCopyMods, PlkMods.pack, decPlk, decOrd, encOrd, hw])
theorem cdivert (g : Guard) (a : Opd) : Statement (.cdivert g a) := by
  exact statement_of_raw rfl fun hw => by
    simp [Instr.wf, wfOp, isEvent, VH.wf, wsOk] at hw
    exact decodeOne_mkOp (dec := decode6 39) rfl (fun r x e => by unfold decodeRaw; rw [e]; rfl) (by simp [hw])
      (by simp [decode6, req, RawOp.zd, RawOp.za, RawOp.zb, RawOp.zi, RawOp.fld, RawOp.ib, RawOp.rz, Ext.isNone, getElem_eq, encImm, encImmS, decImm, decImmS, encShift, decCnt, encF, encV, vrs, wsExt, decCmd, extWs, RawOp.vh, VH.wf, decAtomI, decAtomF, decAtomFl, encAtom, CopyMods.pack, decCopyMods, PlkMods.pack, decPlk, decOrd, encOrd, hw])
theorem vtopk (g : Guard) (mn : Bool) (d : Opd) (a : Opd) : Statement (.vtopk g mn d a) := by
  exact statement_of_raw rfl fun hw => by
    simp [Instr.wf, wfOp, isEvent, VH.wf, wsOk] at hw
    exact decodeOne_mkOp (dec := decode7 0) rfl (fun r x e => by unfold decodeRaw; rw [e]; rfl) (by simp [hw])
      (by simp [decode7, req, RawOp.zd, RawOp.za, RawOp.zb, RawOp.zi, RawOp.fld, RawOp.ib, RawOp.rz, Ext.isNone, getElem_eq, encImm, encImmS, decImm, decImmS, encShift, decCnt, encF, encV, vrs, wsExt, decCmd, extWs, RawOp.vh, VH.wf, decAtomI, decAtomF, decAtomFl, encAtom, CopyMods.pack, decCopyMods, PlkMods.pack, decPlk, decOrd, encOrd, hw])
theorem instructionPair (s : Instr) (v : Instr) : Statement (.instructionPair s v) :=
  statement_of_none rfl
theorem repack (core : Nat) : Statement (.repack core) :=
  statement_of_none rfl
theorem waitTimeout (tid : Tid) : Statement (.waitTimeout tid) :=
  statement_of_none rfl
theorem trapMessageStart (core : Nat) : Statement (.trapMessageStart core) :=
  statement_of_none rfl
theorem messageStart (core : Nat) : Statement (.messageStart core) :=
  statement_of_none rfl
theorem messageDrop (id : Id) : Statement (.messageDrop id) :=
  statement_of_none rfl
theorem remotePush (id : Id) : Statement (.remotePush id) :=
  statement_of_none rfl
theorem tailWriteSeen (part : Nat) (lev : Nat) : Statement (.tailWriteSeen part lev) :=
  statement_of_none rfl
theorem threadPlacement (quarter : Nat) : Statement (.threadPlacement quarter) :=
  statement_of_none rfl
theorem launchCompletion (launch : Nat) : Statement (.launchCompletion launch) :=
  statement_of_none rfl
theorem continuationStart (tid : Tid) : Statement (.continuationStart tid) :=
  statement_of_none rfl
theorem periodicSeek (core : Nat) : Statement (.periodicSeek core) :=
  statement_of_none rfl
theorem seekProbe (id : Id) : Statement (.seekProbe id) :=
  statement_of_none rfl
theorem dequeTake (id : Id) : Statement (.dequeTake id) :=
  statement_of_none rfl
theorem inc (id : Id) : Statement (.inc id) :=
  statement_of_none rfl
theorem incAcknowledgement (id : Id) : Statement (.incAcknowledgement id) :=
  statement_of_none rfl
theorem hdr (id : Id) : Statement (.hdr id) :=
  statement_of_none rfl
theorem dec (id : Id) : Statement (.dec id) :=
  statement_of_none rfl
theorem decPrime (id : Id) : Statement (.decPrime id) :=
  statement_of_none rfl
theorem test (id : Id) : Statement (.test id) :=
  statement_of_none rfl
theorem testReply (id : Id) : Statement (.testReply id) :=
  statement_of_none rfl
theorem decReply (id : Id) : Statement (.decReply id) :=
  statement_of_none rfl
theorem genterAtBank (id : Id) : Statement (.genterAtBank id) :=
  statement_of_none rfl
theorem genterReply (id : Id) : Statement (.genterReply id) :=
  statement_of_none rfl
theorem genterWithdrawal (id : Id) : Statement (.genterWithdrawal id) :=
  statement_of_none rfl
theorem gleaveAtBank (id : Id) : Statement (.gleaveAtBank id) :=
  statement_of_none rfl
theorem gbarArrival (id : Id) : Statement (.gbarArrival id) :=
  statement_of_none rfl
theorem gsizeAtBank (id : Id) : Statement (.gsizeAtBank id) :=
  statement_of_none rfl
theorem atomicAtOwner (id : Id) : Statement (.atomicAtOwner id) :=
  statement_of_none rfl
theorem readAtOwner (id : Id) : Statement (.readAtOwner id) :=
  statement_of_none rfl
theorem writeAtOwner (id : Id) : Statement (.writeAtOwner id) :=
  statement_of_none rfl
theorem translationWalk (id : Id) : Statement (.translationWalk id) :=
  statement_of_none rfl
theorem landName (id : Id) : Statement (.landName id) :=
  statement_of_none rfl
theorem sfuResult (id : Id) : Statement (.sfuResult id) :=
  statement_of_none rfl
theorem slotrdAtTarget (id : Id) : Statement (.slotrdAtTarget id) :=
  statement_of_none rfl
theorem slotwrAtTarget (id : Id) : Statement (.slotwrAtTarget id) :=
  statement_of_none rfl
theorem slotkillAtTarget (id : Id) : Statement (.slotkillAtTarget id) :=
  statement_of_none rfl
theorem clusterFifoEntry (id : Id) : Statement (.clusterFifoEntry id) :=
  statement_of_none rfl
theorem copyTransfer (id : Id) (upTo : Option Nat) : Statement (.copyTransfer id upTo) :=
  statement_of_none rfl
theorem gatherExecute (id : Id) (upTo : Option Nat) : Statement (.gatherExecute id upTo) :=
  statement_of_none rfl
theorem scatterExecute (id : Id) (upTo : Option Nat) : Statement (.scatterExecute id upTo) :=
  statement_of_none rfl
theorem scataddExecute (id : Id) (upTo : Option Nat) : Statement (.scataddExecute id upTo) :=
  statement_of_none rfl
theorem bankopExecute (id : Id) (upTo : Option Nat) : Statement (.bankopExecute id upTo) :=
  statement_of_none rfl
theorem dtloadExecute (id : Id) : Statement (.dtloadExecute id) :=
  statement_of_none rfl
theorem launchAppend (id : Id) : Statement (.launchAppend id) :=
  statement_of_none rfl
theorem mmaExecute (id : Id) (upTo : Option Nat) : Statement (.mmaExecute id upTo) :=
  statement_of_none rfl
theorem mmapExecute (id : Id) : Statement (.mmapExecute id) :=
  statement_of_none rfl
theorem mdrainExecute (id : Id) (upTo : Option Nat) : Statement (.mdrainExecute id upTo) :=
  statement_of_none rfl
theorem mdrainInboxTimeout (id : Id) : Statement (.mdrainInboxTimeout id) :=
  statement_of_none rfl
theorem mclrExecute (id : Id) : Statement (.mclrExecute id) :=
  statement_of_none rfl
theorem xreduceExecute (id : Id) : Statement (.xreduceExecute id) :=
  statement_of_none rfl
theorem xgatherExecute (id : Id) : Statement (.xgatherExecute id) :=
  statement_of_none rfl
theorem xbcastExecute (id : Id) : Statement (.xbcastExecute id) :=
  statement_of_none rfl
theorem collectiveDeadline (id : Id) : Statement (.collectiveDeadline id) :=
  statement_of_none rfl
theorem xlogExecute (id : Id) (upTo : Option Nat) : Statement (.xlogExecute id upTo) :=
  statement_of_none rfl
theorem membershipChange (set : Nat) : Statement (.membershipChange set) :=
  statement_of_none rfl
theorem membershipAgreementTimeout (id : Id) : Statement (.membershipAgreementTimeout id) :=
  statement_of_none rfl
theorem capsuleEntry (id : Id) : Statement (.capsuleEntry id) :=
  statement_of_none rfl
theorem capsuleStopStart (core : Nat) : Statement (.capsuleStopStart core) :=
  statement_of_none rfl
theorem bankStop (id : Id) : Statement (.bankStop id) :=
  statement_of_none rfl
theorem homeStop (id : Id) : Statement (.homeStop id) :=
  statement_of_none rfl
theorem egressArrival (id : Id) : Statement (.egressArrival id) :=
  statement_of_none rfl
theorem sinkStop (id : Id) : Statement (.sinkStop id) :=
  statement_of_none rfl
theorem capsuleWaitTimeout (id : Id) : Statement (.capsuleWaitTimeout id) :=
  statement_of_none rfl
theorem restartEntryStart (core : Nat) : Statement (.restartEntryStart core) :=
  statement_of_none rfl
theorem launchWatchdogExpiry (launch : Nat) : Statement (.launchWatchdogExpiry launch) :=
  statement_of_none rfl
theorem queueStallWatchdog (part : Nat) (lev : Nat) : Statement (.queueStallWatchdog part lev) :=
  statement_of_none rfl
theorem currentLimiterEngage (quarter : Nat) : Statement (.currentLimiterEngage quarter) :=
  statement_of_none rfl
theorem currentLimiterRelease (quarter : Nat) : Statement (.currentLimiterRelease quarter) :=
  statement_of_none rfl
theorem uncorrectableError (site : ErrSite) : Statement (.uncorrectableError site) :=
  statement_of_none rfl
theorem scrub (site : ErrSite) : Statement (.scrub site) :=
  statement_of_none rfl
theorem coreOffline (core : Nat) : Statement (.coreOffline core) :=
  statement_of_none rfl
theorem flitReceived (port : Nat) (f : List Byte) : Statement (.flitReceived port f) :=
  statement_of_none rfl
theorem replayTimeout (port : Nat) : Statement (.replayTimeout port) :=
  statement_of_none rfl
theorem portDown (port : Nat) : Statement (.portDown port) :=
  statement_of_none rfl
theorem hostRead (pa : Nat) (n : Nat) : Statement (.hostRead pa n) :=
  statement_of_none rfl
theorem hostWrite (pa : Nat) (bytes : List Byte) (psn : Bool) : Statement (.hostWrite pa bytes psn) :=
  statement_of_none rfl
theorem mchkstatWrite (v : Word) : Statement (.mchkstatWrite v) :=
  statement_of_none rfl
theorem machineCheckReport  : Statement (.machineCheckReport ) :=
  statement_of_none rfl
theorem getVersion (req : List Byte) : Statement (.getVersion req) :=
  statement_of_none rfl
theorem getCapabilities (req : List Byte) : Statement (.getCapabilities req) :=
  statement_of_none rfl
theorem negotiateAlgorithms (req : List Byte) : Statement (.negotiateAlgorithms req) :=
  statement_of_none rfl
theorem getDigests (req : List Byte) : Statement (.getDigests req) :=
  statement_of_none rfl
theorem getCertificate (req : List Byte) : Statement (.getCertificate req) :=
  statement_of_none rfl
theorem challenge (req : List Byte) : Statement (.challenge req) :=
  statement_of_none rfl
theorem getMeasurements (req : List Byte) : Statement (.getMeasurements req) :=
  statement_of_none rfl
theorem spdmSessionRequest (req : List Byte) : Statement (.spdmSessionRequest req) :=
  statement_of_none rfl
theorem deviceReset (img : Option FwImage) : Statement (.deviceReset img) :=
  statement_of_none rfl
theorem messageArrival (id : Id) : Statement (.messageArrival id) :=
  statement_of_none rfl
theorem portRetrain (port : Nat) : Statement (.portRetrain port) :=
  statement_of_none rfl
theorem counterWrap (unit : Nat) (idx : Nat) (ctr : Nat) : Statement (.counterWrap unit idx ctr) :=
  statement_of_none rfl
theorem correctedError (site : ErrSite) : Statement (.correctedError site) :=
  statement_of_none rfl

end Laws.RoundTrip

end Sys2Proof
end

