-- ==== Sys2Proof/Laws/Words.lean ====
section
/-! SUPPORT. Instruction words as bits and as bytes: an op slot, an extension and a WS32 read back from their bits, and a
word from its bytes. -/

namespace Sys2Proof

theorem RawOp.unpack_pack (r : RawOp) : RawOp.unpack r.pack = r := by
  obtain ⟨imm, gn, g, bm, b, am, a, dm, d, opc⟩ := r
  simp only [RawOp.unpack, RawOp.pack, RawOp.mk.injEq, getBit_eq]
  refine ⟨?_, ?_, ?_, ?_, ?_, ?_, ?_, ?_, ?_, ?_⟩
  all_goals
    repeat first
      | rw [extract_lo (m := 50) (n := 10) _ _ _ _ (by decide)]
      | rw [extract_hi (m := 50) (n := 10) _ _ _ _ (by decide)]
      | rw [extract_lo (m := 42) (n := 8) _ _ _ _ (by decide)]
      | rw [extract_hi (m := 42) (n := 8) _ _ _ _ (by decide)]
      | rw [extract_lo (m := 41) (n := 1) _ _ _ _ (by decide)]
      | rw [extract_hi (m := 41) (n := 1) _ _ _ _ (by decide)]
      | rw [extract_lo (m := 33) (n := 8) _ _ _ _ (by decide)]
      | rw [extract_hi (m := 33) (n := 8) _ _ _ _ (by decide)]
      | rw [extract_lo (m := 32) (n := 1) _ _ _ _ (by decide)]
      | rw [extract_hi (m := 32) (n := 1) _ _ _ _ (by decide)]
      | rw [extract_lo (m := 24) (n := 8) _ _ _ _ (by decide)]
      | rw [extract_hi (m := 24) (n := 8) _ _ _ _ (by decide)]
      | rw [extract_lo (m := 23) (n := 1) _ _ _ _ (by decide)]
      | rw [extract_hi (m := 23) (n := 1) _ _ _ _ (by decide)]
      | rw [extract_lo (m := 15) (n := 8) _ _ _ _ (by decide)]
      | rw [extract_hi (m := 15) (n := 8) _ _ _ _ (by decide)]
      | rw [extract_lo (m := 14) (n := 1) _ _ _ _ (by decide)]
      | rw [extract_hi (m := 14) (n := 1) _ _ _ _ (by decide)]
    simp

theorem Ws.unpack_pack (w : Ws) : Ws.unpack w.pack = w := by
  obtain ⟨a, b, c, d⟩ := w
  simp only [Ws.unpack, Ws.pack, Ws.mk.injEq]
  refine ⟨?_, ?_, ?_, ?_⟩
  all_goals
    repeat first
      | rw [extract_lo (m := 24) (n := 8) _ _ _ _ (by decide)]
      | rw [extract_hi (m := 24) (n := 8) _ _ _ _ (by decide)]
      | rw [extract_lo (m := 12) (n := 12) _ _ _ _ (by decide)]
      | rw [extract_hi (m := 12) (n := 12) _ _ _ _ (by decide)]
      | rw [extract_lo (m := 4) (n := 8) _ _ _ _ (by decide)]
      | rw [extract_hi (m := 4) (n := 8) _ _ _ _ (by decide)]
    simp

/-! The fields of a word: form and length, slot 0, and what stands above them. -/

section Fields
variable (e : BitVec 64) (p : BitVec 60) (c : BitVec 4)

theorem word_len : (e ++ p ++ c).extractLsb' 0 2 = c.extractLsb' 0 2 := extract_lo (m := 124) (n := 4) _ _ _ _ (by decide)
theorem word_form : (e ++ p ++ c).extractLsb' 2 2 = c.extractLsb' 2 2 := extract_lo (m := 124) (n := 4) _ _ _ _ (by decide)
theorem word_slot0 : (e ++ p ++ c).extractLsb' 4 60 = p := by
  rw [extract_hi (m := 124) (n := 4) _ _ _ _ (by decide), extract_lo (m := 64) (n := 60) _ _ _ _ (by decide)]; simp
theorem word_high (lo len : Nat) (h : 64 ≤ lo) : (e ++ p ++ c).extractLsb' lo len = e.extractLsb' (lo - 64) len := by
  rw [extract_hi (m := 124) (n := 4) _ _ _ _ (by omega), extract_hi (m := 64) (n := 60) _ _ _ _ (by omega)]
  congr 1

end Fields

theorem low_word (x y : BitVec 32) : BitVec.extractLsb' (n := 64) 0 32 (x ++ y) = y := by
  rw [extract_lo (m := 32) (n := 32) _ _ _ _ (by decide)]; simp
theorem high_word (x y : BitVec 32) : BitVec.extractLsb' (n := 64) 32 32 (x ++ y) = x := by
  rw [extract_hi (m := 32) (n := 32) _ _ _ _ (by decide)]; simp

/-- The word of an op is decoded as that op slot with that extension. -/
theorem decodeBits_encodeOne (r : RawOp) (x : Ext) : decodeBits (encodeOne r x).1 = decodeOne r x := by
  cases x <;> simp only [encodeOne, Ext.frame, decodeBits] <;>
    rw [word_len, word_form, word_slot0, RawOp.unpack_pack] <;>
    simp [word_high, low_word, high_word, Ws.unpack_pack]

/-- The word of a pair of ops is decoded as the pair of their op slots. -/
theorem decodeBits_pair (r0 r1 : RawOp) : decodeBits (r1.pack ++ 0#4 ++ r0.pack ++ 0b0010#4) = decodePair r0 r1 := by
  simp only [decodeBits]
  rw [word_len (r1.pack ++ 0#4), word_form (r1.pack ++ 0#4), word_slot0 (r1.pack ++ 0#4), RawOp.unpack_pack,
    word_high (r1.pack ++ 0#4) _ _ 64 4 (by decide), word_high (r1.pack ++ 0#4) _ _ 68 60 (by decide),
    word_high (r1.pack ++ 0#4) _ _ 64 32 (by decide), word_high (r1.pack ++ 0#4) _ _ 64 64 (by decide),
    word_high (r1.pack ++ 0#4) _ _ 96 32 (by decide),
    extract_lo (m := 60) (n := 4) _ _ (64 - 64) 4 (by decide), extract_hi (m := 60) (n := 4) _ _ (68 - 64) 60 (by decide)]
  simp [RawOp.unpack_pack]

/-! Bytes. -/

@[simp] theorem toBytes_length (n v : Nat) : (toBytes n v).length = n := by
  induction n generalizing v with
  | zero => rfl
  | succ n ih => simp [toBytes, ih]

theorem leBytes_toBytes (n v : Nat) : leBytes (toBytes n v) = v % 256 ^ n := by
  induction n generalizing v with
  | zero => simp [toBytes, leBytes, Nat.mod_one]
  | succ n ih =>
    simp only [toBytes, leBytes, ih, BitVec.toNat_ofNat]
    rw [show (256 : Nat) ^ (n + 1) = 256 * 256 ^ n by rw [Nat.pow_succ, Nat.mul_comm], Nat.mod_mul]

theorem toBytes_take_append (n v : Nat) (rest : List Byte) : (toBytes n v ++ rest).take n = toBytes n v := by
  rw [List.take_append_of_le_length (by simp)]
  exact List.take_of_length_le (by simp)

/-- The bytes of a word of 8, 12 or 16 bytes, whatever follows, are decoded as its bits. -/
theorem decode_toBytes (n v : Nat) (rest : List Byte) (hn : n ≠ 0) (hv : v < 256 ^ n)
    (hl : wordLen (BitVec.ofNat 2 v) = some n) :
    decode (toBytes n v ++ rest) = (match decodeBits (BitVec.ofNat 128 v) with
      | .ok i => .ok (i, n)
      | .error e => .error e) := by
  have h1 : leBytes ((toBytes n v ++ rest).take 1) = v % 256 := by
    cases n with
    | zero => exact absurd rfl hn
    | succ k => simp [toBytes, leBytes]
  have h2 : BitVec.ofNat 2 (v % 256) = BitVec.ofNat 2 v := by
    apply BitVec.eq_of_toNat_eq; simp only [BitVec.toNat_ofNat]; omega
  simp only [decode, h1, h2, hl, toBytes_take_append, leBytes_toBytes, Nat.mod_eq_of_lt hv]
  rw [if_neg (by simp)]
  all_goals cases decodeBits (BitVec.ofNat 128 v) <;> rfl

end Sys2Proof
end

