-- ==== Sys2Proof/Laws/Encoding.lean ====
section
/-! SUPPORT. The encoder's words: which instructions have an op slot, how long a word is, and what the ops of a pair
look like. -/

namespace Sys2Proof

/-- Every well-formed op has an op slot. -/
theorem raw_of_wfOp (i : Instr) (h : wfOp i = true) : ∃ r, encodeRaw i = some r := by
  cases i <;> first | exact ⟨_, rfl⟩ | (simp [wfOp] at h)

/-- The word of an op fits its length, which its bits 1:0 give. -/
theorem encodeOne_len (r : RawOp) (x : Ext) : (encodeOne r x).2 ≠ 0 ∧ (encodeOne r x).1.toNat < 256 ^ (encodeOne r x).2 ∧
    wordLen (BitVec.ofNat 2 (encodeOne r x).1.toNat) = some (encodeOne r x).2 := by
  have hl (e : BitVec 64) (p : BitVec 60) (c : BitVec 4) : BitVec.ofNat 2 (e ++ p ++ c).toNat = c.extractLsb' 0 2 := by
    rw [← word_len e p c]; apply BitVec.eq_of_toNat_eq; simp
  have hb (e : BitVec 64) (p : BitVec 60) (c : BitVec 4) : (e ++ p ++ c).toNat = e.toNat * 2^64 + p.toNat * 2^4 + c.toNat := by
    have h1 := Nat.shiftLeft_add_eq_or_of_lt (b := p.toNat) (i := 60) p.isLt e.toNat
    have h2 := Nat.shiftLeft_add_eq_or_of_lt (b := c.toNat) (i := 4) c.isLt (e ++ p).toNat
    rw [BitVec.toNat_append, ← h2, BitVec.toNat_append, ← h1, Nat.shiftLeft_eq, Nat.shiftLeft_eq]; omega
  have h32 (v : BitVec 32) : (0#32 ++ v).toNat = v.toNat := by
    rw [BitVec.toNat_append]; simp [Nat.zero_shiftLeft]
  have hp := r.pack.isLt
  cases x <;> simp only [encodeOne, Ext.frame] <;> refine ⟨by decide, ?_, by rw [hl]; decide⟩ <;> rw [hb]
  · simp; omega
  · rename_i v; have := v.isLt; rw [h32]; simp; omega
  · rename_i v; have := v.isLt; simp; omega
  · rename_i v; have := v.pack.isLt; rw [h32]; simp; omega
  · rename_i w v; have := (v ++ w.pack).isLt; simp at *; omega

/-- An op that may stand in pair slot 0 has no extension and an opcode that R327 allows there. -/
theorem pairS_raw (i : Instr) (hw : wfOp i = true) (h : isPairS i = true) (r) (hr : encodeRaw i = some r) :
    r.2 = .none ∧ vClass r.1.opc = false ∧ excludedSlot0 r.1.opc = false := by
  cases i
  all_goals simp only [isPairS, Bool.false_eq_true, Bool.not_eq_true'] at h
  case nop g pad => subst h; simp only [encodeRaw, Option.some.injEq] at hr; subst hr; exact ⟨rfl, rfl, rfl⟩
  all_goals (try (simp only [encodeRaw, Option.some.injEq] at hr; subst hr; exact ⟨rfl, rfl, rfl⟩))
  all_goals (simp only [encodeRaw, Option.some.injEq] at hr; subst hr)
  all_goals
    rename_i x
    cases x <;> first
      | exact ⟨rfl, rfl, rfl⟩
      | (simp [Imm.is14, ImmS.is14, ImmC.is11, Option.isNone, List.isEmpty] at h; done)

/-- An op that may stand in pair slot 1 has no extension and a V-class opcode. -/
theorem pairV_raw (i : Instr) (hw : wfOp i = true) (h : isPairV i = true) (r) (hr : encodeRaw i = some r) :
    r.2 = .none ∧ vClass r.1.opc = true := by
  cases i
  all_goals simp only [isPairV, Bool.false_eq_true] at h
  all_goals (try (simp only [encodeRaw, Option.some.injEq] at hr; subst hr; exact ⟨rfl, rfl⟩))
  all_goals (simp only [encodeRaw, Option.some.injEq] at hr; subst hr)
  all_goals
    rename_i x
    cases x <;> first
      | exact ⟨rfl, rfl⟩
      | (simp [Src64.isName, Option.isNone] at h; done)

end Sys2Proof
end

