-- ==== Sys2Proof/Laws/Issue.lean ====
section
/-! SUPPORT. The issue step (R43): when an op takes effect, traps, parks or is turned off; what reading and writing names
gives. -/

namespace Sys2Proof.Machine

@[simp] theorem State.ctx_t (s : State) : s.ctx.t = s.cur := rfl
@[simp] theorem State.ctx_sl (s : State) : s.ctx.sl = s.me := rfl
@[simp] theorem State.ctx_s0 (s : State) : s.ctx.s0 = s := rfl
@[simp] theorem State.ctx_pc (s : State) : s.ctx.pc = s.me.pc := rfl
@[simp] theorem State.ctx_len (s : State) : s.ctx.len = s.ilen := rfl
@[simp] theorem State.ctx_insn (s : State) : s.ctx.insn = BitVec.ofNat 64 s.insn := rfl

theorem toNat_ne_zero_iff (i : Ix) : i.toNat = 0 ↔ i = 0 := by
  constructor
  · intro h; exact BitVec.eq_of_toNat_eq (by simpa using h)
  · rintro rfl; rfl

@[simp] theorem Slot.nm_zero (x : Slot) : x.nm 0#8 = none := by simp [Slot.nm]
@[simp] theorem isNil_zero : isNil 0#8 = true := by decide

/-- A name that is declared has a nonzero index. -/
theorem Slot.nm_some_ne {x : Slot} {i : Ix} {n : NameSt} (h : x.nm i = some n) : i.toNat ≠ 0 := by
  intro c; simp [Slot.nm, c] at h

theorem Slot.isInt_of {x : Slot} {i : Ix} {n : NameSt} {sg : Bool} {w : Nat} {m : Mode} (h : x.nm i = some n)
    (hk : n.kind = .int sg w m) : x.isInt i = true := by simp [Slot.isInt, Slot.kind, h, hk]
theorem Slot.isFlt_of {x : Slot} {i : Ix} {n : NameSt} {k : FK} (h : x.nm i = some n) (hk : n.kind = .flt k) :
    x.isFlt i = true := by simp [Slot.isFlt, Slot.kind, h, hk]
theorem Slot.isQ_of {x : Slot} {i : Ix} {n : NameSt} {c q : Nat} (h : x.nm i = some n) (hk : n.kind = .queue c q) :
    x.isQ i = true := by simp [Slot.isQ, Slot.kind, h, hk]

/-! ### Operations on the state -/

section OpM
variable {α β : Type} (st : State)

theorem OpM.bind_apply (m : OpM α) (f : α → OpM β) :
    (m >>= f) st = (match m st with
      | .ok (a, st') => f a st'
      | .error e => .error e) := by
  simp only [bind, StateT.bind, Except.bind]
  cases m st <;> rfl

@[simp] theorem OpM.pure_apply (a : α) : (pure a : OpM α) st = .ok (a, st) := rfl
@[simp] theorem OpM.get_apply : (get : OpM State) st = .ok (st, st) := rfl
@[simp] theorem OpM.set_apply (st' : State) : (set st' : OpM Unit) st = .ok ((), st') := rfl
@[simp] theorem OpM.modify_apply (f : State → State) : (modify f : OpM Unit) st = .ok ((), f st) := rfl
@[simp] theorem OpM.modSelf_apply (x : Ctx) (f : Slot → Slot) : modSelf x f st = .ok ((), st.modSlot x.t f) := rfl
@[simp] theorem OpM.raiseFlags_apply (x : Ctx) (fl : BitVec 5) :
    raiseFlags x fl st = .ok ((), st.modSlot x.t (fun y => { y with fflags := y.fflags ||| fl })) := rfl
@[simp] theorem OpM.seqNext_apply : seqNext st = .ok (.seq, st) := rfl
@[simp] theorem OpM.trap_apply (c sc : Nat) : (trap c sc : OpM α) st = .error (.trap (.of c sc)) := rfl
@[simp] theorem OpM.trapName_apply (c sc : Nat) (i : Ix) : (trapName c sc i : OpM α) st = .error (.trap ⟨c, sc, i.toNat, 0⟩) := rfl
@[simp] theorem OpM.trapAddr_apply (c sc : Nat) (a : Word) : (trapAddr c sc a : OpM α) st = .error (.trap ⟨c, sc, 0, a⟩) := rfl
@[simp] theorem OpM.ite_apply (c : Prop) [Decidable c] (m n : OpM α) : (if c then m else n) st = if c then m st else n st := by
  split <;> rfl

theorem OpM.map_apply (f : α → β) (m : OpM α) :
    (f <$> m) st = (match m st with
      | .ok (a, st') => .ok (f a, st')
      | .error e => .error e) := by
  simp only [Functor.map, StateT.map, bind, Except.bind]
  cases m st <;> rfl

end OpM

/-! ### The checks -/

theorem OpSpec.check_none {o : OpSpec} {s : State} (hd : Declared s o.g o.fields)
    (hg : o.g.name = 0 ∨ s.me.isInt o.g.name = true) (hq : NoSyncQueue s o.m o.d) (hk : o.kinds s.me = true) :
    o.check s.me = none := by
  have hf : (o.g.name :: o.fields).find? (fun i => decide (s.me.names.length < i.toNat)) = none := by
    rw [List.find?_eq_none]
    intro i hi
    have := hd i hi
    simp; omega
  have ha : (o.m ++ o.d.toList).any (fun q => q.sync && s.me.isQ q.ix) = false := by
    rw [List.any_eq_false]
    intro q hm
    have := hq q hm
    by_cases c : q.sync = true <;> simp_all
  have hn : (!isNil o.g.name && !s.me.isInt o.g.name) = false := by
    rcases hg with h | h <;> simp [h]
  simp only [OpSpec.check, hf, hn, hk, ha, Bool.not_true, Bool.or_self, Bool.false_eq_true, if_false]

theorem GuardOn.isInt {s : State} {g : Guard} (h : GuardOn s g) : g.name = 0 ∨ s.me.isInt g.name = true := by
  rcases h with h | ⟨n, sg, w, md, hn, hk, -⟩
  · exact .inl h
  · exact .inr (Slot.isInt_of hn hk)

theorem OpSpec.guard_on {o : OpSpec} {s : State} (h : GuardOn s o.g) : o.guard s.me = .ok true := by
  rcases h with h | ⟨n, sg, w, md, hn, -, hf, hp, hv⟩
  · simp [OpSpec.guard, h]
  · simp only [OpSpec.guard, hn, hf, hp, Bool.not_true, Bool.false_eq_true, if_false, Except.ok.injEq]
    by_cases c : n.vals.headD 0 = 0
    · rw [hv.mp c, c]; rfl
    · have hn : o.g.neg = false := by
        cases hneg : o.g.neg
        · rfl
        · exact absurd (hv.mpr hneg) c
      rw [hn, bne_iff_ne.mpr c]; rfl

theorem OpSpec.guard_off {o : OpSpec} {s : State} (h : GuardOff s o.g) : o.guard s.me = .ok false := by
  obtain ⟨n, sg, w, md, hn, -, hf, hp, hv⟩ := h
  simp only [OpSpec.guard, hn, hf, hp, Bool.not_true, Bool.false_eq_true, if_false, Except.ok.injEq]
  by_cases c : n.vals.headD 0 = 0
  · rw [hv.mp c, c]; rfl
  · have hn : o.g.neg = true := by
      cases hneg : o.g.neg
      · exact absurd (hv.mpr hneg) c
      · rfl
    rw [hn, bne_iff_ne.mpr c]; rfl

theorem OpSpec.waitsOn_none {o : OpSpec} {s : State} (h : Ready s o.g o.fields o.m o.d) : o.waitsOn s.me = none := by
  have hm : o.m.find? (fun q => s.me.waits q true) = none := by
    rw [List.find?_eq_none]
    intro q hq
    simp only [Slot.waits, Bool.not_eq_true, Bool.and_eq_false_iff]
    by_cases c : q.sync = true
    · right
      cases hn : s.me.nm q.ix with
      | none => rfl
      | some n => simp [h.full q hq c n hn]
    · simp_all
  simp only [OpSpec.waitsOn, hm]
  cases hd : o.d with
  | none => rfl
  | some q =>
    simp only [ite_eq_right_iff]
    intro hw
    simp only [Slot.waits, Bool.and_eq_true] at hw
    obtain ⟨⟨hs, hn⟩, ha⟩ := hw
    cases hx : s.me.nm q.ix with
    | none => simp [hx] at hn
    | some n =>
      rw [hx] at hn
      rcases h.empty q hd hs n hx with hf | ⟨r, hr, h1, h2⟩
      · simp [hf] at hn
      · simp only [Bool.not_eq_true', List.any_eq_false] at ha
        exact absurd (ha r hr) (by simp [h1, h2])

theorem OpSpec.operate_run (o : OpSpec) (s : State) : (o.operate s.ctx).run s.counted = o.run s.ctx (s.emptied o.m) := rfl

theorem Ready.check {o : OpSpec} {s : State} (h : Ready s o.g o.fields o.m o.d) (hk : o.kinds s.me = true) :
    o.check s.me = none := OpSpec.check_none h.declared (GuardOn.isInt h.on) h.noQueue hk

theorem State.finish_trap (s : State) (i : TrapInfo) : s.finish s.ctx false (.error (.trap i, false)) = s.trapped i := rfl

/-- An op whose checks, guard and conditions let it take effect, and which then does so: the state after the turn. -/
theorem runOps_ready {o : OpSpec} {s : State} (h : Ready s o.g o.fields o.m o.d) (hk : o.kinds s.me = true) :
    runOps s.ctx [(o, false)] s.counted =
      (match o.run s.ctx (s.emptied o.m) with
       | .error e => .error (e, false)
       | .ok r => .ok r) := by
  simp only [runOps, List.findSome?_cons, State.ctx_sl, h.check hk, Option.map_none, List.findSome?_nil,
    OpSpec.guard_on h.on, List.filter_cons, List.filter_nil, if_true, OpSpec.waitsOn_none h]
  simp only [runLive, List.length_cons, List.length_nil, operateAll, List.foldl_cons, List.foldl_nil, OpSpec.operate_run]
  cases o.run s.ctx (s.emptied o.m) with
  | error e => rfl
  | ok r => rfl

/-- The op takes effect and goes on at the next word. -/
theorem issue_seq {o : OpSpec} {s st : State} (h : Ready s o.g o.fields o.m o.d) (hk : o.kinds s.me = true)
    (hr : o.run s.ctx (s.emptied o.m) = .ok (.seq, st)) : issue o s = .next (s.goOn st) := by
  simp only [issue, runOps_ready h hk, hr]; rfl

/-- The op takes effect and goes on at an address. -/
theorem issue_jump {o : OpSpec} {s st : State} {pc : Word} (h : Ready s o.g o.fields o.m o.d) (hk : o.kinds s.me = true)
    (hr : o.run s.ctx (s.emptied o.m) = .ok (.jump pc, st)) : issue o s = .next (s.goTo st pc) := by
  simp only [issue, runOps_ready h hk, hr]; rfl

/-- The op takes effect and its slot's thread ends or is held. -/
theorem issue_ended {o : OpSpec} {s st : State} (h : Ready s o.g o.fields o.m o.d) (hk : o.kinds s.me = true)
    (hr : o.run s.ctx (s.emptied o.m) = .ok (.ended, st)) : issue o s = .next st := by
  simp only [issue, runOps_ready h hk, hr]; rfl

/-- The op traps in its operation. -/
theorem issue_trap {o : OpSpec} {s : State} {i : TrapInfo} (h : Ready s o.g o.fields o.m o.d) (hk : o.kinds s.me = true)
    (hr : o.run s.ctx (s.emptied o.m) = .error (.trap i)) : issue o s = .next (s.trapped i) := by
  simp only [issue, runOps_ready h hk, hr, State.finish_trap]

/-- The op parks in its operation. -/
theorem issue_park {o : OpSpec} {s : State} {w : Word} (h : Ready s o.g o.fields o.m o.d) (hk : o.kinds s.me = true)
    (hr : o.run s.ctx (s.emptied o.m) = .error (.park w)) :
    issue o s = .next ((s.parkWait s.cur w false).count 0 (coreOf s.cur) 3 s.me.smode 1) := by
  simp only [issue, runOps_ready h hk, hr]; rfl

/-- An op with a guard that is off only goes on. -/
theorem issue_off {o : OpSpec} {s : State} (hd : Declared s o.g o.fields) (hq : NoSyncQueue s o.m o.d)
    (hk : o.kinds s.me = true) (hg : GuardOff s o.g) : issue o s = .next (s.goOn s.counted) := by
  have hi : s.me.isInt o.g.name = true := by
    obtain ⟨n, sg, w, md, hn, hk, -⟩ := hg
    exact Slot.isInt_of hn hk
  simp only [issue, runOps, List.findSome?_cons, State.ctx_sl, OpSpec.check_none hd (.inr hi) hq hk, Option.map_none,
    List.findSome?_nil, OpSpec.guard_off hg, List.filter_cons, List.filter_nil, Bool.false_eq_true, if_false]
  rfl

/-- An op whose names or kinds fail the check traps (R323). -/
theorem issue_check {o : OpSpec} {s : State} {i : TrapInfo} (h : o.check s.me = some i) : issue o s = .next (s.trapped i) := by
  simp only [issue, runOps, List.findSome?_cons, State.ctx_sl, h, Option.map_some, State.finish_trap]

/-! ### Reading and writing -/

theorem ofNat_umod (w : Nat) (v : Int) : BitVec.ofNat w (umod w v) = BitVec.ofInt w v := by
  apply BitVec.eq_of_toNat_eq
  have h : 0 ≤ v % (2 ^ w : Nat) := Int.emod_nonneg _ (by have := Nat.two_pow_pos w; omega)
  have h2 : v % (2 ^ w : Nat) < (2 ^ w : Nat) := Int.emod_lt_of_pos _ (by have := Nat.two_pow_pos w; omega)
  simp only [BitVec.toNat_ofNat, umod, BitVec.toNat_ofInt]
  rw [Nat.mod_eq_of_lt (by omega)]

theorem Reads.readName {s st st' : State} {i : Ix} {v : Val} {p : Bool} (h : Reads s st i v p st') :
    Machine.readName s.ctx i st = .ok ((v, p), st') := by
  rcases h with ⟨rfl, rfl, rfl, rfl⟩ | ⟨n, sg, w, m, hn, hk, hf, rfl, rfl, rfl⟩ | ⟨n, k, hn, hk, hf, rfl, rfl, rfl⟩ |
    ⟨n, q, w, l, hn, hk, hq, rfl, rfl⟩
  · simp [Machine.readName]
  · simp only [Machine.readName, State.ctx_sl, hn, hk, hf, if_true]; rfl
  · simp only [Machine.readName, State.ctx_sl, hn, hk, hf, if_true]; rfl
  · simp only [Machine.readName, State.ctx_sl, hn, hk, popQueue, Ctx.core, State.ctx_t, ne_eq, not_true, if_false]
    simp only [bind, StateT.bind, pure, StateT.pure, Except.pure, Except.bind, get, getThe, MonadStateOf.get, StateT.get, hq,
      set, StateT.set]

theorem Reads.int {s st st' : State} {i : Ix} {v : Val} {p : Bool} (h : Reads s st i v p st') :
    Machine.readInt s.ctx i st = .ok ((v.toInt, p), st') := by
  simp only [Machine.readInt, bind, StateT.bind, h.readName, Except.bind]; rfl

theorem ReadsInt.readInt {s st st' : State} {i : Ix} {v : Int} {p : Bool} (h : ReadsInt s st i v p st') :
    Machine.readInt s.ctx i st = .ok ((v, p), st') := Reads.int h

/-- An address operand without poison. -/
theorem ReadsInt.readAddr {s st st' : State} {i : Ix} {v : Int} (h : ReadsInt s st i v false st') :
    Machine.readAddr s.ctx i st = .ok (v, st') := by
  simp only [Machine.readAddr, bind, StateT.bind, h.readInt, Except.bind]; rfl

/-- A poisoned address operand traps (R293). -/
theorem ReadsInt.readAddr_poison {s st st' : State} {i : Ix} {v : Int} (h : ReadsInt s st i v true st') :
    Machine.readAddr s.ctx i st = .error (.trap ⟨0x0A, 0, i.toNat, 0⟩) := by
  simp only [Machine.readAddr, bind, StateT.bind, h.readInt, Except.bind]; rfl

theorem ReadsInt.intOk {s st st' : State} {i : Ix} {v : Int} {p : Bool} (h : ReadsInt s st i v p st') :
    s.me.intOk i = true := by
  rcases h with ⟨rfl, -⟩ | ⟨n, sg, w, m, hn, hk, -⟩ | ⟨n, k, hn, hk, hf, hv, -⟩ | ⟨n, q, w, l, hn, hk, -⟩
  · simp [Slot.intOk]
  · simp [Slot.intOk, Slot.isInt_of hn hk]
  · cases hv
  · simp [Slot.intOk, Slot.isQ_of hn hk]

theorem Reads.scalarOk {s st st' : State} {i : Ix} {v : Val} {p : Bool} (h : Reads s st i v p st') :
    s.me.scalarOk i = true := by
  rcases h with ⟨rfl, -⟩ | ⟨n, sg, w, m, hn, hk, -⟩ | ⟨n, k, hn, hk, -⟩ | ⟨n, q, w, l, hn, hk, -⟩
  · simp [Slot.scalarOk, Slot.isVec, Slot.kind]
  all_goals simp [Slot.scalarOk, Slot.isVec, Slot.kind, hn, hk, NKind.isVec]

/-- A release that finds nothing under way to another device goes on. -/
theorem release_apply {x : Ctx} {st : State} {sc : Scope} (h : (st.releaseAt x.t sc).unreleased x.t sc = false) :
    release x sc st = .ok ((), st.releaseAt x.t sc) := by
  simp only [release, OpM.bind_apply, OpM.modify_apply, OpM.get_apply, h]
  rfl

/-- An op that first performs the slot's accesses goes on once none is under way to another device. -/
theorem performAll_apply {x : Ctx} {st : State} (h : (st.drain x.t).busy x.t = false) :
    performAll x st = .ok ((), st.drain x.t) := by
  simp only [performAll, OpM.bind_apply, OpM.modify_apply, OpM.get_apply, h]
  rfl

/-- An access at the slot's turn goes on once what must come before it is performed. -/
theorem accessNow_apply {y : Acc} {st : State} (h : (st.drainFor y).blocked y = false) :
    accessNow y st = .ok ((), st.drainFor y) := by
  simp only [accessNow, OpM.bind_apply, OpM.modify_apply, OpM.get_apply, h]
  rfl

/-- A push to a queue of the own core that has room. -/
theorem pushQueue_own {x : Ctx} {st : State} {i : Ix} {q : Nat} {w : Word} {p : Bool}
    (hl : (st.queue x.core q).length < 16) (hr : (st.releaseAt x.t .core).unreleased x.t .core = false) :
    pushQueue x i x.core q w p st =
      .ok ((), (st.releaseAt x.t .core).setQueue x.core q ((st.releaseAt x.t .core).queue x.core q ++ [(w, p)])) := by
  unfold pushQueue
  rw [OpM.bind_apply, OpM.get_apply]
  simp only [if_true]
  rw [if_neg (by omega), OpM.bind_apply, release_apply hr]
  rfl

/-- A push to a queue of another core of the partition that has room. -/
theorem pushQueue_far {x : Ctx} {st : State} {i : Ix} {c q : Nat} {w : Word} {p : Bool} (hc : c ≠ x.core)
    (hp : st.samePart c x.core = true) (hl : (st.queue c q).length + st.pushesTo c q < 16)
    (hr : (st.releaseAt x.t .dev).unreleased x.t .dev = false) :
    pushQueue x i c q w p st = .ok ((), (st.releaseAt x.t .dev).send (.push x.t x.sl.epoch c q w p)) := by
  unfold pushQueue
  rw [OpM.bind_apply, OpM.get_apply]
  simp only []
  rw [if_neg hc, hp]
  simp only [Bool.not_true, Bool.false_eq_true, if_false]
  rw [if_neg (by omega), OpM.bind_apply, release_apply hr]
  rfl

theorem WritesInt.writeInt {s st st' : State} {i : Ix} {v : Int} {p : Bool} (h : WritesInt s st i v p st') :
    Machine.writeInt s.ctx i v p st = .ok ((), st') := by
  rcases h with ⟨rfl, rfl⟩ | ⟨n, sg, w, m, y, hn, hk, hy, rfl⟩ | ⟨n, q, hn, hk, hl, hr, rfl⟩ |
    ⟨n, c, q, hn, hk, hc, hp, hl, hr, rfl⟩
  · simp [Machine.writeInt]
  · simp only [Machine.writeInt, State.ctx_sl, hn, hk, hy]; rfl
  · simp only [Machine.writeInt, State.ctx_sl, hn, hk, ofNat_umod]
    exact pushQueue_own (x := s.ctx) hl hr
  · simp only [Machine.writeInt, State.ctx_sl, hn, hk, ofNat_umod]
    exact pushQueue_far (x := s.ctx) hc hp hl hr

theorem WritesInt.intOk {s st st' : State} {i : Ix} {v : Int} {p : Bool} (h : WritesInt s st i v p st') :
    s.me.intOk i = true := by
  rcases h with ⟨rfl, -⟩ | ⟨n, sg, w, m, y, hn, hk, -⟩ | ⟨n, q, hn, hk, -⟩ | ⟨n, c, q, hn, hk, -⟩
  · simp [Slot.intOk]
  · simp [Slot.intOk, Slot.isInt_of hn hk]
  all_goals simp [Slot.intOk, Slot.isQ_of hn hk]

end Sys2Proof.Machine
end

