-- ==== Sys2Proof/Laws/Frame.lean ====
section
/-! SUPPORT. The frame of ops that only compute on names: every stage between the start of the turn and its end changes
names of the own slot and counters alone. -/

namespace Sys2Proof.Machine

/-- A state within a turn that differs from the turn's start in names of the own slot and in counters alone. -/
structure NamesMid (s st : State) (d : Option Ix) (m : List Opd) : Prop where
  rest   : ∃ sl cs, st = { s with slots := sl, cores := cs }
  slots  : ∀ u, u ≠ s.cur → st.slot u = s.slot u
  own    : ∃ nms, st.slot s.cur = { s.me with names := nms }
  names  : ∀ i, d ≠ some i → ∀ n, s.me.nm i = some n →
    (st.slot s.cur).nm i = some n ∨ ((∃ q ∈ m, q.sync = true ∧ q.ix = i) ∧ (st.slot s.cur).nm i = some { n with f := false })
  cores  : ∀ c, ∃ l, st.core c = { s.core c with ctrs := l }

theorem NamesMid.counted (s : State) (d : Option Ix) (m : List Opd) : NamesMid s s.counted d m where
  rest := by obtain ⟨⟨cs, h⟩, -⟩ := s.counted_core; exact ⟨s.slots, cs, h⟩
  slots := fun u _ => State.counted_slot s u
  own := ⟨s.me.names, State.counted_slot s s.cur⟩
  names := fun i _ n hn => .inl (by rw [State.counted_slot]; exact hn)
  cores := s.counted_core.2

/-- The names of a slot after one of them has been changed. -/
theorem Slot.nm_modify (x : Slot) (i j : Ix) (f : NameSt → NameSt) (hi : i.toNat ≠ 0) :
    ({ x with names := x.names.modify (i.toNat - 1) f } : Slot).nm j = if j = i then (x.nm j).map f else x.nm j := by
  simp only [Slot.nm, List.getElem?_modify]
  by_cases hj : j.toNat = 0
  · simp only [hj, if_true, Option.map_none, ite_self]
  · by_cases h : j = i
    · subst h; simp [hj]
    · have : i.toNat - 1 ≠ j.toNat - 1 := by
        intro c; exact h (BitVec.eq_of_toNat_eq (by omega))
      simp [hj, h, this]

/-- A name of the own slot that is the destination changes. -/
theorem NamesMid.modName {s st : State} {d : Ix} {m : List Opd} (f : NameSt → NameSt) (h : NamesMid s st (some d) m)
    (hd : d.toNat ≠ 0) : NamesMid s (st.modName s.cur d f) (some d) m where
  rest := by obtain ⟨sl, cs, rfl⟩ := h.rest; exact ⟨_, cs, rfl⟩
  slots := fun u hu => by simp only [State.modName, State.slot_modSlot_ne _ _ _ _ hu, h.slots u hu]
  own := by
    obtain ⟨nms, hn⟩ := h.own
    exact ⟨nms.modify (d.toNat - 1) f, by simp only [State.modName, State.slot_modSlot, hn]⟩
  names := fun i hi n hn => by
    have hne : i ≠ d := fun c => hi (by rw [c])
    simp only [State.modName, State.slot_modSlot, Slot.nm_modify _ _ _ _ hd, if_neg hne]
    exact h.names i hi n hn
  cores := fun c => by obtain ⟨l, hl⟩ := h.cores c; exact ⟨l, by simpa using hl⟩

/-- A `!` source loses its F bit. -/
theorem NamesMid.clear {s st : State} {d : Option Ix} {m : List Opd} {q : Opd} (h : NamesMid s st d m) (hq : q ∈ m)
    (hs : q.sync = true) (hi : q.ix.toNat ≠ 0) : NamesMid s (st.modName s.cur q.ix (fun n => { n with f := false })) d m where
  rest := by obtain ⟨sl, cs, rfl⟩ := h.rest; exact ⟨_, cs, rfl⟩
  slots := fun u hu => by simp only [State.modName, State.slot_modSlot_ne _ _ _ _ hu, h.slots u hu]
  own := by
    obtain ⟨nms, hn⟩ := h.own
    exact ⟨nms.modify (q.ix.toNat - 1) (fun n => { n with f := false }), by simp only [State.modName, State.slot_modSlot, hn]⟩
  names := fun i hd n hn => by
    simp only [State.modName, State.slot_modSlot, Slot.nm_modify _ _ _ _ hi]
    by_cases c : i = q.ix
    · rw [if_pos c]
      right
      refine ⟨⟨q, hq, hs, c.symm⟩, ?_⟩
      rcases h.names i hd n hn with h | ⟨-, h⟩ <;> rw [h] <;> rfl
    · rw [if_neg c]; exact h.names i hd n hn
  cores := fun c => by obtain ⟨l, hl⟩ := h.cores c; exact ⟨l, by simpa using hl⟩

/-- The state in which an op operates. -/
theorem NamesMid.emptied (s : State) (d : Option Ix) (m : List Opd) : NamesMid s (s.emptied m) d m := by
  have key : ∀ (l : List Opd) (st : State), (∀ q ∈ l, q ∈ m) → NamesMid s st d m →
      NamesMid s (l.foldl (fun st q =>
        if q.sync && !isNil q.ix then st.modName s.cur q.ix (fun n => { n with f := false }) else st) st) d m := by
    intro l
    induction l with
    | nil => intro st _ h; exact h
    | cons q l ih =>
      intro st hl h
      simp only [List.foldl_cons]
      apply ih _ (fun r hr => hl r (by simp [hr]))
      split
      · next c =>
        simp only [Bool.and_eq_true, Bool.not_eq_true', decide_eq_false_iff_not] at c
        exact h.clear (hl q (by simp)) c.1 c.2
      · exact h
  exact key m s.counted (fun _ h => h) (NamesMid.counted s d m)

/-- Registers of a slot that going on at the next word leaves alone. -/
theorem Slot.loopEnd_run (x : Slot) (a : Word) : ∃ pc lc0 lc1, (x.loopEnd a).run =
    { x with pc := pc, lc0 := lc0, lc1 := lc1, st := .runnable, waiton := 0, kept := none, waitChecked := false } := by
  simp only [Slot.loopEnd]
  repeat' split
  all_goals exact ⟨_, _, _, rfl⟩

/-- The end of the turn. -/
theorem NamesMid.goOn {s st : State} {d : Option Ix} {m : List Opd} (h : NamesMid s st d m) : NamesOnly s (s.goOn st) d m := by
  obtain ⟨sl, cs, he⟩ := h.rest
  obtain ⟨nms, hn⟩ := h.own
  obtain ⟨pc, l0, l1, hr⟩ := Slot.loopEnd_run (st.slot s.cur) (s.me.pc + BitVec.ofNat 64 s.ilen)
  have hown : (s.goOn st).slot s.cur = { s.me with
      names := nms, pc := pc, lc0 := l0, lc1 := l1, st := .runnable, waiton := 0, kept := none, waitChecked := false } := by
    rw [State.goOn, State.slot_modSlot, hr, hn]
  have hcore : ∀ c, (s.goOn st).core c = st.core c := fun c => rfl
  constructor
  · intro a; subst he; rfl
  · intro a; subst he; rfl
  · intro a; subst he; rfl
  · intro c o; subst he; rfl
  · intro c o; subst he; rfl
  · intro u hu
    simp only [State.goOn, State.slot_modSlot_ne _ _ _ _ hu, h.slots u hu]
  · intro i hd n hi
    have := h.names i hd n hi
    simp only [Slot.nm, hn, hown] at this ⊢
    exact this
  · exact ⟨nms, pc, l0, l1, hown⟩
  · subst he; exact ⟨rfl, rfl, rfl, rfl, rfl, rfl, rfl⟩
  · intro c k; obtain ⟨l, hl⟩ := h.cores c; simp only [State.sem, hcore, hl]
  · intro c k; obtain ⟨l, hl⟩ := h.cores c; simp only [State.queue, hcore, hl]
  · subst he; exact ⟨rfl, rfl, rfl, rfl, rfl⟩

end Sys2Proof.Machine
end

