-- ==== Sys2Proof/Tests/Small.lean ====
section
/-! SUPPORT. A small state for the tests: slot 0 of core 0 in a partition of sixteen cores, with names of every kind, and
short ways to say that an op is ready and what it reads and writes there. -/

namespace Sys2Proof.Machine.Tests

/-- A full name of a kind. -/
def full (k : NKind) (vs : List Int) : NameSt := ⟨k, vs, true, false, none, 0⟩
/-- A full signed 64-bit integer. -/
def num (v : Int) : NameSt := full (.int true 64 .wrap) [v]

/-- The names: 1 and 2 integers, 3 an integer that traps, 4 an empty integer with a pending result, 5 a zero; 6 and 7 f32,
8 a56; 9 and 10 integer vectors, 11 and 12 f32 vectors; 13 queue 3; 14 a mask; 15 an f32 awaiting a result; 16 an integer;
17 an e4m3 vector; 18 an integer vector awaiting a result; 19 a word offset; 20 an address in
the common store; 21 the descriptor of a packed load; 22 a vector of 8-bit integers; 23 a poisoned
zero; 24 the offset of a capsule image; 25 a request of
the Plectrum. -/
def wNames : List NameSt :=
  [num 7, num 2, full (.int false 8 .trap) [255], { num 0 with f := false, pend := some 5 }, num 0,
   full (.flt .f32) [0x3FC00000], full (.flt .f32) [0x40000000], full (.flt .a56) [0x10],
   full (.ivec true 32 .wrap 2 2) [1, 2, 3, 4], full (.ivec true 32 .wrap 2 2) [5, 6, 7, 8],
   full (.fvec .f32 2 2) [0x3F800000, 0x40000000, 0x3FC00000, 0], full (.fvec .f32 2 2) [0x3F800000, 0, 0, 0],
   full (.queue 0 3) [], full (.ivec false 1 .wrap 2 2) [1, 0, 1, 1],
   { full (.flt .f32) [0] with f := false, pend := some 5 }, num 16,
   full (.fvec .e4m3 2 2) [0, 0, 0, 0], { full (.ivec true 32 .wrap 2 2) [0, 0, 0, 0] with f := false, pend := some 5 },
   num 64, num 0x8000, num 0x400100, full (.ivec true 8 .wrap 2 2) [1, 2, 3, 4],
   { num 0 with p := true }, num 0x1000,
   full (.ivec false 64 .wrap 1 4) [0, 0, 0, 0]]

/-- The slot. -/
def wSlot : Slot := { Slot.reset with st := .runnable, pc := 0x1000, names := wNames, bits := 64, bears := true }

/-- The partition: sixteen cores from core 0, capsules on, no FPE. -/
def wPcb : Pcb := ⟨15, 0, 0, 0, 0, false, true, 0, 0x10000, 0x20000, 0, 0, 0, 0x6000, 0, 0, 0, 0, []⟩

/-- A leaf that maps the first 64 MiB of the common store to themselves. -/
def wLeaf : Leaf := ⟨0, 0x4000000, 0, true, true, true, true, .rc, false, 0⟩

/-- The state; a tuning descriptor of one name stands at 0x8000, one of eight at 0x9800, a handler table with entries 0 and 1
at 0x6000, its stop entry 0 at 0x7000, and the page tables at 0x10000 map the same pages. -/
def W : State := { State.reset with
  slots := [(0, wSlot)], parts := [(0, { Part.reset with cfg := some wPcb })],
  clus := [(0, { Cluster.reset with tcache := [⟨0, false, wLeaf⟩] })],
  mem := [(0x6001, 0x40), (0x6009, 0x98), (0x6011, 0x40), (0x6019, 0x80), (0x6401, 0x70), (0x6408, 4), (0x7001, 0x40),
    (0x7009, 0x80)] ++
    [(0x8000, 1), (0x8001, 1), (0x8002, 0x3A), (0x8003, 0x7E), (0x800E, 0xC0), (0x800F, 0x1F)] ++
    [(0x9800, 8), (0x9801, 1), (0x9802, 0x3A), (0x9803, 0x7E)] ++
    (List.range 8).flatMap (fun k => [(0x980E + 8 * k, 0xC0), (0x980F + 8 * k, 0x1F)]) ++
    [(0x10000, 1), (0x10001, 0x30), (0x30000, 0x7F)] }

/-- The same in S mode. -/
def WS : State := { W with slots := [(0, { wSlot with smode := true })] }

/-- The same with a name 26, a full integer. -/
def WN (v : Int) : State := { W with slots := [(0, { wSlot with smode := true, names := wNames ++ [num v] })] }
/-- The words of a partition control block whose only core is the first of cluster 0 or 2, and the block at 0x1000. -/
def wPcbWords (two : Bool) : List Word := (if two then 0x9A7E000010010500 else 0x9A7E000000000500) :: List.replicate 15 0
def wPcbMem (two : Bool) : List Host.Cell :=
  [(0x1001, 5)] ++ (if two then [(0x1002, 1), (0x1003, 0x10)] else []) ++
    [(0x1006, 0x7E), (0x1007, 0x9A), (0x10000, 1), (0x10001, 0x30), (0x30000, 0x7F)]

/-- The state with a request in flight. -/
def WR (r : Req) : State := { W with inflight := [(9, r)], nextId := 10 }

/-- An access of 32 bytes that slot 0 makes, and a record of its launch. -/
def wAcc (pa : Nat) : Acc := ⟨0, 0, .mem pa, 32, true, .rc, none, false⟩
def wRec : CRec := ⟨0x1000, 0x9000, 0x8000, 0, 64, 0, true⟩
/-- A launch of partition 0. -/
def wLaunch : Launch := ⟨0, 0, 0, [0, 0, 0, 0, 0, 0, 0, 0], 64, 0, none, true, 0, 0, false, false, 0⟩
/-- The state with a request in flight and slot 1 held. -/
def WH (h : Held) (r : Req) : State := { WR r with slots := [(0, wSlot), (1, heldSlot Slot.reset h)] }
/-- The state with another slot 0. -/
def WX (x : Slot) : State := { W with slots := [(0, x)] }

/-- The state with a name 27 whose elements trap. -/
def WY : State := WX { wSlot with names := wNames ++ [num 0, full (.ivec false 8 .trap 2 2) [255, 255, 255, 255]] }

/-- The header of a capsule: NSTOP, CUR, FSTOP, tile length in lines less one. -/
def wHdr (nstop cur fstop tbm1 : Nat) : List Word :=
  [BitVec.ofNat 64 (2 ^ 56 + nstop * 2 ^ 51 + cur * 2 ^ 47 + fstop * 2 ^ 43 + tbm1 * 2 ^ 28), 0, 0, 0, 0, 0, 0, 0]
/-- A capsule whose first stop has the words `w0` and `w1`. -/
def wCaps (w0 w1 : Word) (hops : Nat) : Capsule :=
  ⟨[BitVec.ofNat 64 (2 ^ 56 + 2 ^ 51 + hops * 2 ^ 35), 0, 0, 0, 0, 0, 0, 0], w0 :: w1 :: List.replicate 30 0,
    List.replicate 8 (0, false), 0, true, some 0⟩
/-- A buffer with a capsule of that header. -/
def wBuf (h : List Word) (holder : Option Tid) (waiting : Bool) : CapBuf :=
  ⟨h, List.replicate 32 0, 0, wCaps 0 0 0, holder, waiting, 0, 0⟩
/-- The state in which slot 0 holds a capsule. -/
def WC (h : List Word) : State := { W with cores := [(0, { Core.reset with capBufs := [(0, wBuf h (some 0) false)] })] }

/-- The state with port 0 up, flits that wait for their acknowledgement and a cycle. -/
def WP (u : List KeptFlit) (n : Nat) : State := { W with
  cycle := n, ports := [(0, { Port.reset with up := true, peer := 1, unacked := u })] }

/-- The same slot on core 1, with core 0 in no partition. -/
def WOther : State := { W with
  slots := [(16, wSlot)], cur := 16, parts := [(0, { Part.reset with cfg := some { wPcb with first := 1 } })] }

/-- A command of slot 0, its status bound for name 4. -/
def wCmd (k : CmdKind) : Cmd := ⟨0, 0, 0, true, 0, false, k, none, some ⟨0, 0, 4, 5⟩, 0, 0, [], false, false, 0, false, none⟩
/-- The state with a command at the head of its engine. -/
def WE (c : Cmd) : State := { W with
  cmds := [(9, c)], nextId := 10, clus := [(0, { Cluster.reset with tcache := [⟨0, false, wLeaf⟩], mfifo := [9] })] }
/-- The state with a command at the head of its engine, launch queues whose headers start at 0xE000, and a queue 0. -/
def WQ (k : CmdKind) (m : List Host.Cell) (q : LQueue) : State := { WE (wCmd k) with
  parts := [(0, { Part.reset with cfg := some { wPcb with lqb := 0xE000 }, q0 := q })], mem := m }
/-- A queue whose header stands at 0xE000. -/
def wQueue : LQueue := { LQueue.reset with pa := 0xE000 }
/-- A launch of partition 0 with words. -/
def wLaunchOf (ws : List Word) : Launch := { wLaunch with words := ws }
/-- A state whose page 0 is coded, with a Pegbox table of one chunk at 0xC000. -/
def wCoded : State := { WE (wCmd (.dtload 0x8000)) with
  parts := [(0, { Part.reset with cfg := some { wPcb with fdt := 0xB000 } })]
  clus := [(0, { Cluster.reset with tcache := [⟨0, false, { wLeaf with fdx := 1 }⟩] })]
  mem := [(0xB020, 3), (0xB021, 1), (0xB039, 0xC0), (0xC804, 1), (0x10000, 1), (0x10001, 0x30), (0x30000, 0x7F)] }
/-- A configuration of the matrix engine: one row, one column, 32 int8 elements. -/
def wConf : Word := 0x8208000000
/-- A membership set of this device. -/
def wSet (devs : List Nat) : XSet := ⟨false, 0, devs, 0, []⟩

/-- No guard. -/
def g0 : Guard := ⟨0, false⟩
/-- A vector op without a guard and a mask. -/
def h0 : VH := ⟨g0, 0, false⟩
/-- An operand without `!`. -/
def o (i : Ix) : Opd := ⟨i, false⟩

variable {s st : State} {g : Guard} {fs : List Ix} {m : List Opd} {d : Option Opd}

/-- Without a guard and without `!`, an op is ready when its names are declared. -/
theorem ready_plain (hg : g = g0) (hf : fs.all (fun i => decide (i.toNat ≤ s.me.names.length)) = true)
    (hq : (m ++ d.toList).all (fun q => !q.sync) = true) : Ready s g fs m d := by
  subst hg
  have hq' : ∀ q ∈ m ++ d.toList, q.sync = false := fun q h => by simpa using List.all_eq_true.1 hq q h
  refine ⟨?_, .inl rfl, ?_, ?_, ?_⟩
  · intro i hi
    rcases List.mem_cons.1 hi with rfl | hi
    · exact Nat.zero_le _
    · exact of_decide_eq_true (List.all_eq_true.1 hf i hi)
  · intro q h1 h2
    simp [hq' q h1] at h2
  · intro q h1 h2
    simp [hq' q (List.mem_append_left _ h1)] at h2
  · rintro q rfl h2
    have := hq' q (by simp)
    simp [this] at h2

/-- A full integer name with its value and poison. -/
def isInt (n : Option NameSt) (v : Int) (p : Bool) : Bool :=
  match n with
  | some ⟨.int _ _ _, x :: _, true, q, _, _⟩ => decide (x = v) && decide (q = p)
  | _ => false
/-- A full float name with its kind, pattern and poison. -/
def isFlt (n : Option NameSt) (k : FK) (v : Nat) (p : Bool) : Bool :=
  match n with
  | some ⟨.flt l, x :: _, true, q, _, _⟩ => decide (k = l) && decide (x.toNat = v) && decide (q = p)
  | _ => false

/-- A run of an engine that succeeds. -/
def gotOk {ε α : Type} (x : Except ε α) : Bool :=
  match x with
  | .ok _ => true
  | .error _ => false
theorem got_ok {ε α β : Type} {x : Except ε (α × β)} (h : gotOk x = true) : ∃ r t, x = .ok (r, t) := by
  match x, h with
  | .ok (r, t), _ => exact ⟨r, t, rfl⟩
  | .error _, h => cases h
/-- A result, checked. -/
def okIs {ε α : Type} [DecidableEq α] (x : Except ε α) (v : α) : Bool :=
  match x with
  | .ok w => decide (w = v)
  | .error _ => false
theorem ok_is {ε α : Type} [DecidableEq α] {x : Except ε α} {v : α} (h : okIs x v = true) : x = .ok v := by
  match x, h with
  | .ok w, h => rw [of_decide_eq_true h]
  | .error _, h => cases h
/-- A request to a slot of a core that does not repack can be performed. -/
theorem wr_slot {r : Req} {t : Tid} {u : List (Nat × Slot)} (hc : coreOf t = 0) :
    AtTarget { WR r with slots := u } 9 r t := by
  refine ⟨rfl, by rw [hc]; rfl, ?_⟩
  intro e he hlt
  rcases List.mem_singleton.1 he with rfl
  exact absurd hlt (Nat.lt_irrefl _)
/-- The cached leaf maps the low addresses to themselves. -/
theorem mapped_low {c : Cmd} {va n : Nat} {k : AKind} (h : (s.clu 0).tcache = [⟨0, false, wLeaf⟩]) (hc : c.clu = 0)
    (hp : c.part = 0) (hm : c.smode = false) (hk : k ≠ .fetch) (hv : va + n ≤ 0x4000000) : Mapped s c va va n k := by
  refine ⟨by omega, rfl, fun j hj => ⟨?_, by simp [isPeer]; omega, wLeaf, ?_, ?_, rfl⟩⟩
  · have : (va + j) / 2 ^ 55 = 0 := Nat.div_eq_of_lt (by omega)
    simp [canonical, this]; omega
  · have h1 : (va + j) / 2 ^ 55 = 0 := Nat.div_eq_of_lt (by omega)
    simp only [State.cached, hc, hp, h, List.find?]
    rw [show (decide True && (false == inSys (va + j)) &&
      decide (wLeaf.base ≤ va + j ∧ va + j < wLeaf.base + wLeaf.size)) = true by simp [inSys, h1, wLeaf]; omega]
    rfl
  · have h2 : wLeaf.pa + (va + j - wLeaf.base) = va + j := by simp [wLeaf]
    have h3 : permFault wLeaf false k = none := by cases k <;> first | rfl | exact absurd rfl hk
    simp only [throughLeaf, h2, hm, h3]
    rw [show backed (va + j) = true by simp [backed]; omega]
    rfl
/-- A state without repacks and commands is settled. -/
theorem settled {w : Cmd → Prop} (h : s.cores = []) (hc : s.cmds = []) : Settled s w :=
  ⟨by rw [h]; exact fun _ he => absurd he List.not_mem_nil, by rw [hc]; exact fun _ he => absurd he List.not_mem_nil⟩
/-- A request has no access to memory of another device. -/
def nearBy (r : Req) : Bool :=
  match r.acc with
  | some a => !a.far
  | none => true
theorem near {r : Req} (h : nearBy r = true) : ∀ a, r.acc = some a → a.far = false := by
  intro a e
  rw [nearBy, e] at h
  simpa using h
theorem fst_none {α β : Type} {x : Option α × β} (h : x.1.isNone = true) : x = (none, x.2) := by
  obtain ⟨a, b⟩ := x
  cases a
  · rfl
  · cases h
theorem declared (h : (g.name :: fs).all (fun i => decide (i.toNat ≤ s.me.names.length)) = true) : Declared s g fs :=
  fun i hi => of_decide_eq_true (List.all_eq_true.1 h i hi)
theorem no_queue (h : (m ++ d.toList).all (fun q => !s.me.isQ q.ix) = true) : NoSyncQueue s m d :=
  fun q hq _ => by simpa using List.all_eq_true.1 h q hq
theorem reads_int {i : Ix} {v : Int} {p : Bool} (h : isInt (s.me.nm i) v p = true) : ReadsInt s st i v p st := by
  unfold isInt at h
  split at h
  case h_1 hn => simp at h; exact .inr (.inl ⟨_, _, _, _, hn, rfl, rfl, by simp [h.1], h.2.symm, rfl⟩)
  case h_2 => simp at h
theorem flt_is {i : Ix} {k : FK} {v : Nat} {p : Bool} (h : isFlt (s.me.nm i) k v p = true) : FltIs s i k v p := by
  unfold isFlt at h
  split at h
  case h_1 hn => simp at h; exact ⟨_, hn, by rw [h.1.1], rfl, h.1.2.symm, h.2.symm⟩
  case h_2 => simp at h
theorem reads_flt {i : Ix} {k : FK} {v : Nat} {p : Bool} (h : isFlt (s.me.nm i) k v p = true) :
    Reads s st i (.flt k v) p st := by
  obtain ⟨n, h1, h2, h3, h4, h5⟩ := flt_is h
  exact .inr (.inr (.inl ⟨n, k, h1, h2, h3, by rw [h4], h5, rfl⟩))
theorem writes_int {i : Ix} {n : NameSt} {sg w md v y p} (h : s.me.nm i = some n) (hk : n.kind = .int sg w md)
    (hf : fitInt sg w md v = some y) : WritesInt s st i v p (st.modName s.cur i (·.put [y] p)) :=
  .inr (.inl ⟨n, sg, w, md, y, h, hk, hf, rfl⟩)
theorem writes_nil {v p} : WritesInt s st 0 v p st := .inl ⟨rfl, rfl⟩
theorem writes_pat {i : Ix} {n : NameSt} {k v p} (h : s.me.nm i = some n) (hk : n.kind = .flt k) :
    WritesPat s st i k v p (st.modName s.cur i (·.put [(v : Int)] p)) := .inr (.inl ⟨n, h, hk, rfl⟩)
/-- What a vector op reads from a name. -/
def vin (s : State) (i : Ix) : VIn :=
  match s.me.nm i with
  | some n => ⟨n.kind.fk, n.kind.vshape, n.vals⟩
  | none => ⟨none, none, [0]⟩
/-- A full name without poison. -/
def isFull (n : Option NameSt) : Bool :=
  match n with
  | some n => n.f && !n.p
  | none => false
/-- The results of a vector op fit a name and raise no enabled flag. -/
def fits (s : State) (u : Bool) (n : NameSt) (f : NameSt → Nat → Nat → Option ERes) : Bool :=
  let es := (cells n.kind.shape.1 n.kind.shape.2).map (fun e => f n e.1 e.2)
  (n.f || !(u || es.contains none)) && es.all (fun e => match e with
    | some (none, _) => false
    | _ => true) && decide (eflags es &&& s.fpeMask = 0)

theorem v_reads {i : Ix} (h : isFull (s.me.nm i) = true) : VReads s i (vin s i) false := by
  unfold isFull at h
  split at h
  case h_1 n hn => simp at h; exact .inr ⟨n, hn, h.1, by simp [vin, hn], h.2.symm⟩
  case h_2 => simp at h
theorem v_nomask : VMasks s h0 none false := .inl ⟨rfl, rfl, rfl⟩
theorem v_mask {h : VH} (hm : (decide (h.msk ≠ 0) && s.me.isIVec h.msk) = true) (hn : isFull (s.me.nm h.msk) = true) :
    VMasks s h (some (vin s h.msk)) false := by
  simp only [Bool.and_eq_true, decide_eq_true_eq] at hm
  exact .inr ⟨hm.1, hm.2, _, rfl, v_reads hn⟩
theorem v_writes {i : Ix} {u p : Bool} {n : NameSt} {f : NameSt → Nat → Nat → Option ERes} (h : s.me.nm i = some n)
    (hf : fits s u n f = true) : VWrites s st i u p f
      ((s.raised st (eflags ((cells n.kind.shape.1 n.kind.shape.2).map (fun e => f n e.1 e.2)))).modName s.cur i
        (·.put ((n.vals.zip ((cells n.kind.shape.1 n.kind.shape.2).map (fun e => f n e.1 e.2))).map (fun e => match e.2 with
          | some (some v, _) => v
          | _ => e.1)) (p || (u || ((cells n.kind.shape.1 n.kind.shape.2).map (fun e => f n e.1 e.2)).any Option.isNone) && n.p))) := by
  simp only [fits, Bool.and_eq_true, Bool.or_eq_true, Bool.not_eq_true', Bool.or_eq_false_iff, List.all_eq_true,
    decide_eq_true_eq] at hf
  refine ⟨n, _, h, rfl, ?_, ?_, hf.2, rfl⟩
  · intro hu
    rcases hf.1.1 with h | ⟨h1, h2⟩
    · exact h
    · rcases hu with hu | hu
      · simp [h1] at hu
      · simp [List.contains_eq_mem] at h2
        simp at hu
        exact absurd hu (by simpa using h2)
  · intro fl hm
    exact absurd (hf.1.2 _ hm) (by simp)

theorem desc_word {va : Nat} (l : Leaf) (pa : Nat)
    (h : st.xlate (cluOf (coreOf s.cur)) (s.partNum (coreOf s.cur)) s.me.smode (va % 2 ^ 64) .rd = .ok pa l)
    (hp : st.memPoison pa = false) : DescWord s st va (st.memWord pa) := ⟨pa, l, h, hp, rfl⟩

theorem acc_int {i : Ix} {y : NameSt} {sg w md} {n : Nat} (h : s.me.nm i = some y) (hk : y.kind = .int sg w md)
    (hn : n = if w ≤ 8 then 1 else if w ≤ 16 then 2 else if w ≤ 32 then 4 else 8) : AccBytes s i n :=
  .inr (.inr ⟨y, w, h, .inl ⟨sg, md, hk⟩, hn⟩)

/-- The state whose partition traps on every float exception; name 26 is 2^24 + 1. -/
def WFpe : State := { WN 16777217 with parts := [(0, { Part.reset with cfg := some { wPcb with fpe := 31 } })] }

/-- The state with as many reads of slot 0 in flight as fill the fabric. -/
def WFab : State := { W with
  inflight := List.replicate (Config.fabricSpare + 128)
    (9, .read ⟨0, 0, .mem 0x8000, 8, false, .rc, none, false⟩ ⟨0, 0, 4, 5⟩) }
theorem fabric_full (h : s.inflight = WFab.inflight) : s.fabricFull 0 = true := by
  have hu : s.fabricUse 0 = Config.fabricSpare + 128 := by
    rw [State.fabricUse, h]
    simp only [WFab, List.filter_replicate]
    rw [if_pos (by decide), List.length_replicate]
  simp [State.fabricFull, hu]

/-- No request in flight is earlier than the only one. -/
theorem wr_first {r : Req} {P : Nat × Req → Prop} : ∀ e ∈ (WR r).inflight, e.1 < 9 → P e := by
  intro e he h
  rcases List.mem_singleton.1 he with rfl
  exact absurd h (Nat.lt_irrefl 9)

end Sys2Proof.Machine.Tests
end

