-- ==== Sys2Proof/Tests/Area.lean ====
section
/-! SUPPORT. A save area of one core that RESUME can read, at 0x1000: its block is too long to be computed with. -/

namespace Sys2Proof.Machine.Tests

/-- The state in S mode with a save area at 0x1000: launch 7 of partition 0, of core 1, still to be resumed. -/
def WA : State := { WS with
  mem := [(0x1005, 1), (0x1006, 0x7E), (0x1007, 0x5A), (0x1008, 7), (0x1010, 1), (0x1038, 1), (0x1062, 8),
    (0x10000, 1), (0x10001, 0x30), (0x30000, 0x7F)] }

/-- The tables map the low addresses. -/
theorem low_maps (va : Nat) (k : AKind) (hk : k ≠ .fetch) (hv : va < 0x4000000) : ∃ p l, WA.xlatePart 0 true va k = .ok p l := by
  have h0 : va / 2 ^ 55 = 0 := Nat.div_eq_of_lt (by omega)
  have h1 : bits va 54 42 = 0 := by rw [bits, Nat.div_eq_of_lt (b := 2 ^ 42) (by omega), Nat.zero_mod]
  have h2 : bits va 41 29 = 0 := by rw [bits, Nat.div_eq_of_lt (b := 2 ^ 29) (by omega), Nat.zero_mod]
  have hw : WA.walkVa 0 va = .ok (mkLeaf 0x7F 0 0x20000000 0) := by
    have hs : inSys va = false := by rw [inSys, h0]; rfl
    have e1 : WA.pte 0x10000 = some 0x3001 := by decide
    have e2 : WA.pte 0x30000 = some 0x7F := by decide
    have hr : WA.walkVa 0 va = WA.walkFrom 0x10000 va := by
      simp only [State.walkVa, hs]; rfl
    rw [hr, State.walkFrom, h1, e1]
    simp only [h2]
    rw [show epa 0x3001 + 8 * 0 = 0x30000 from by decide, e2]
    rw [if_neg (by decide), if_neg (by decide)]
    simp only []
    rw [if_neg (by decide), if_pos (by decide), leaf2, if_neg (by decide), if_neg (by decide)]
    rw [show floorTo va 0x20000000 = 0 by simp [floorTo]; omega]
    rfl
  have hc : canonical va = true := by simp [canonical]; omega
  rw [State.xlatePart, hc, hw]
  have hb : backed va = true := by simp [backed]; omega
  have hp : permFault (mkLeaf 0x7F 0 0x20000000 0) true k = none := by cases k <;> first | rfl | exact absurd rfl hk
  refine ⟨va, mkLeaf 0x7F 0 0x20000000 0, ?_⟩
  simp only [throughLeaf, hp]
  rw [show (mkLeaf 0x7F 0 0x20000000 0).pa + (va - (mkLeaf 0x7F 0 0x20000000 0).base) = va by simp [mkLeaf], hb]
  rfl

/-- A low part of memory can be read into a save block, without poison. -/
theorem area_some : ∀ n va pa, va + 8 * n ≤ 0x4000000 → ∃ ws, WA.areaGet 0 n va pa = some ws ∧ ∀ w ∈ ws, w.2 = false := by
  intro n
  induction n with
  | zero => intro va pa _; exact ⟨[], rfl, nofun⟩
  | succ n ih =>
    intro va pa h
    obtain ⟨p, l, hx⟩ := low_maps va .rd nofun (by omega)
    unfold State.areaGet
    rw [Nat.mod_eq_of_lt (show va < 2 ^ 64 by omega), hx]
    have step : ∀ q, ∃ ws, Option.map (fun x => (WA.memWord q, WA.memPoison q) :: x)
        (WA.areaGet 0 n (va + 8) (some (q + 8))) = some ws ∧ ∀ w ∈ ws, w.2 = false := by
      intro q
      obtain ⟨ws, hw, hp⟩ := ih (va + 8) (some (q + 8)) (by omega)
      exact ⟨_, by rw [hw]; rfl, List.forall_mem_cons.2 ⟨rfl, hp⟩⟩
    cases pa with
    | none => exact step p
    | some q =>
      by_cases hz : va % 65536 = 0
      · simp only [hz, if_true]; exact step p
      · simp only [hz, if_false]; exact step q

/-- The words of the area before its block. -/
def areaHead : List (Word × Bool) :=
  ([0x5A7E010000000000, 7, 1, 0, 0, 0, 0, 1, 0, 0, 0, 0, 0x80000, 0, 0, 0] ++ List.replicate 16 (0 : Word)).map
    (fun w => (w, false))

theorem area_head : WA.areaGet 0 32 0x1000 none = some areaHead := by decide +kernel

/-- How an area of one core is read. -/
theorem read_one (s : State) (va : Nat) (ws b : List (Word × Bool)) (cs : List Nat) (pa : Nat) (l : Leaf)
    (h : s.areaGet 0 32 va none = some ws) (hb : s.areaGet 0 28080 (va + 256) none = some b)
    (c0 : areaHeadOk ws = true) (hp : ∀ w ∈ b, w.2 = false)
    (n1 : (nthW (ws.map (·.1)) 1).toNat = 7) (n2 : (nthW (ws.map (·.1)) 2).toNat = 1)
    (n3 : (nthW (ws.map (·.1)) 3).toNat = 0) (n4 : (nthW (ws.map (·.1)) 4).toNat = 0)
    (n5 : (nthW (ws.map (·.1)) 5).toNat = 0) (n7 : (nthW (ws.map (·.1)) 7).toNat = 1)
    (hl : mfind 7 s.launches = none) (hc : s.saveCores 7 1 (((ws.map (·.1)).drop 8).take 8) = some cs)
    (hx : s.xlatePart 0 true va .wr = .ok pa l) :
    s.readArea 0 va = .ok ⟨7, (nthW (ws.map (·.1)) 6).toNat, ((ws.map (·.1)).drop 8).take 8, cs, [b], [], [], []⟩ := by
  have hp' : (b.drop spillWords).any (·.2) = false := by
    rw [List.any_eq_false]; intro w hw; simp [hp w (List.mem_of_mem_drop hw)]
  rw [State.readArea, h]
  refine (if_neg ?_).trans ?_
  · simp [c0]
  refine (if_neg ?_).trans ?_
  · simp [n7]
  refine (if_neg ?_).trans ?_
  · simp [n1, hl]
  have hm : List.mapM (fun j => s.areaGet 0 (224640 / 8) (va + 256 + 224640 * j) none) (List.range 1) = some [b] := by
    rw [show List.range 1 = [0] from rfl, List.mapM_cons, Nat.mul_zero, Nat.add_zero, hb]
    rfl
  have hz : ∀ f : Nat → Option (List (Word × Bool)), List.mapM f (List.range 0) = some [] := fun f => rfl
  simp only [n1, n2, n3, n4, n5, hc, hx, hm, hz]
  exact (if_neg (by simp [hp'])).trans rfl

/-- The area can be read. -/
theorem area_read : ∃ b, WA.readArea 0 0x1000 = .ok ⟨7, 0, [0, 0, 0, 0, 0x80000, 0, 0, 0], [1], [b], [], [], []⟩ := by
  obtain ⟨b, hb, hp⟩ := area_some 28080 0x1100 none (by omega)
  obtain ⟨p, l, hx⟩ := low_maps 0x1000 .wr nofun (by omega)
  exact ⟨b, read_one WA 0x1000 areaHead b [1] p l area_head hb (by decide) hp (by decide) (by decide) (by decide) (by decide)
    (by decide) (by decide) rfl (by decide +kernel) hx⟩

theorem lsWrite_slots (s : State) (c a n v : Nat) (p : Bool) : (s.lsWrite c a n v p).slots = s.slots := rfl
theorem lsPut_slots (c : Nat) (f : Bool) : ∀ ws (s : State) o, (s.lsPut c o f ws).slots = s.slots := by
  intro ws
  induction ws with
  | nil => intro s o; rfl
  | cons w ws ih => intro s o; rw [State.lsPut, ih]; cases f <;> rfl
theorem restoreCore_slots (s : State) (c : Nat) (b : List (Word × Bool)) : (s.restoreCore c b).slots = s.slots := by
  have h : ∀ (f : Nat → Nat) (g : Nat → Bool) (ks : List Nat) (u : State),
      (ks.foldl (fun st k => st.setLsF c (f k) (g k)) u).slots = u.slots := by
    intro f g ks
    induction ks with
    | nil => intro u; rfl
    | cons k ks ih => intro u; rw [List.foldl_cons, ih]; rfl
  rw [State.restoreCore]
  exact (h _ _ _ _).trans (lsPut_slots _ _ _ _ _)
theorem areaPut_slots (p : Nat) : ∀ ws (s : State) va pa, (s.areaPut p va pa ws).2.slots = s.slots := by
  intro ws
  induction ws with
  | nil => intro s va pa; rfl
  | cons w ws ih =>
    intro s va pa
    unfold State.areaPut
    have step : ∀ q, ((s.sysWrite q 8 w.1.toNat w.2).areaPut p (va + 8) (some (q + 8)) ws).2.slots = s.slots := by
      intro q
      obtain ⟨m, r, ps, k, h⟩ := s.sysWrite_only q 8 w.1.toNat w.2
      rw [ih, h]
    have hx : ∀ r : XRes, (match (match r with
        | .ok p _ => some p
        | .miss => none
        | .fault _ _ => none : Option Nat) with
        | none => (false, s)
        | some q => (s.sysWrite q 8 w.1.toNat w.2).areaPut p (va + 8) (some (q + 8)) ws).2.slots = s.slots := by
      intro r; cases r <;> first | exact step _ | rfl
    cases pa with
    | none => exact hx _
    | some q =>
      by_cases hz : va % 65536 = 0
      · simp only [hz, if_true]; exact hx _
      · simp only [hz, if_false]; exact step q

/-- Its resume leaves every slot. -/
theorem area_resumed (s : State) (va lid n c : Nat) (ws : List Word) (b : List (Word × Bool)) :
    (s.resume 0 va ⟨lid, n, ws, [c], [b], [], [], []⟩).slots = s.slots := by
  rw [State.resume]
  simp only [List.zip_cons_cons, List.zip_nil_right, List.foldl_cons, List.foldl_nil]
  rw [areaPut_slots, restoreCore_slots]

end Sys2Proof.Machine.Tests
end

