-- ==== Sys2Proof/Tests/DecodeWords.lean ====
section
/-! SUPPORT. Decoding tests: for every constructor of an op one word, put together by hand from the encoding tables of the
spec (spec/15_encoding.md R320 to R331, and the entry of each op), and the instruction it stands for. -/

namespace Sys2Proof.Tests

theorem test_decode_nop : decodeTableWord 64 0x2120000000000 =
    some (.nop ⟨9, true⟩ false) := by decide
theorem test_decode_b : decodeTableWord 64 0xFFE2120000000010 =
    some (.b ⟨9, true⟩ (.i14 0x3FF8)) := by decide
theorem test_decode_bl : decodeTableWord 96 0xFFFFFFF80002120000014021 =
    some (.bl ⟨9, true⟩ 5 (.x32 0xFFFFFFF8)) := by decide
theorem test_decode_bx : decodeTableWord 64 0x2120089014030 =
    some (.bx ⟨9, true⟩ 5 ⟨18, true⟩) := by decide
theorem test_decode_ret : decodeTableWord 64 0x2120089000040 =
    some (.ret ⟨9, true⟩ ⟨18, true⟩) := by decide
theorem test_decode_loop : decodeTableWord 64 0x12120089000050 =
    some (.loop ⟨9, true⟩ (.name ⟨18, true⟩) 4) := by decide
theorem test_decode_loop_x32 : decodeTableWord 96 0x50048000000000051 =
    some (.loop ⟨0, false⟩ (.x32 5) 18) := by decide
theorem test_decode_lexit : decodeTableWord 64 0x2120000000060 =
    some (.lexit ⟨9, true⟩) := by decide
theorem test_decode_trap : decodeTableWord 64 0x296120000000070 =
    some (.trap ⟨9, true⟩ 0xA5) := by decide
theorem test_decode_eret : decodeTableWord 64 0x2120000000080 =
    some (.eret ⟨9, true⟩) := by decide
theorem test_decode_sread : decodeTableWord 64 0x36120000414090 =
    some (.sread ⟨9, true⟩ ⟨5, true⟩ 0x0D) := by decide
theorem test_decode_swrite : decodeTableWord 64 0x6A1200890000A0 =
    some (.swrite ⟨9, true⟩ 0x1A ⟨18, true⟩) := by decide
theorem test_decode_rgn : decodeTableWord 128 0x807060504030201844A1200000000B6 =
    some (.rgn ⟨9, true⟩ 0x12 0x21 (some 0x0807060504030201)) := by decide
theorem test_decode_rgnend : decodeTableWord 64 0x21200000000C0 =
    some (.rgnend ⟨9, true⟩) := by decide
theorem test_decode_ifence : decodeTableWord 64 0x21200000000D0 =
    some (.ifence ⟨9, true⟩) := by decide
theorem test_decode_yield : decodeTableWord 64 0x21200000000E0 =
    some (.yield ⟨9, true⟩) := by decide
theorem test_decode_tune : decodeTableWord 64 0x2120089000100 =
    some (.tune ⟨9, true⟩ (.name ⟨18, true⟩)) := by decide
theorem test_decode_tune_x64 : decodeTableWord 128 0x123456789ABCDEF00002120000000106 =
    some (.tune ⟨9, true⟩ (.x64 0x123456789ABCDEF0)) := by decide
theorem test_decode_resize : decodeTableWord 64 0xAE120000014110 =
    some (.resize ⟨9, true⟩ 5 0x2B) := by decide
theorem test_decode_shape : decodeTableWord 64 0x2122309014120 =
    some (.shape ⟨9, true⟩ 5 18 (.name 35)) := by decide
theorem test_decode_shape_x32 : decodeTableWord 96 0x400400002120009014121 =
    some (.shape ⟨9, true⟩ 5 18 (.x32 0x40040)) := by decide
theorem test_decode_width : decodeTableWord 64 0x2120089014130 =
    some (.width ⟨9, true⟩ 5 ⟨18, true⟩) := by decide
theorem test_decode_fset : decodeTableWord 64 0x2120000014140 =
    some (.fset ⟨9, true⟩ 5) := by decide
theorem test_decode_fclr : decodeTableWord 64 0x2120000014150 =
    some (.fclr ⟨9, true⟩ 5) := by decide
theorem test_decode_ftest : decodeTableWord 64 0x2120009014160 =
    some (.ftest ⟨9, true⟩ 5 18) := by decide
theorem test_decode_pdrainDrain : decodeTableWord 64 0x2120089014400 =
    some (.pdrainDrain ⟨9, true⟩ 5 ⟨18, true⟩) := by decide
theorem test_decode_pdrainDrainPart : decodeTableWord 64 0x12120089014400 =
    some (.pdrainDrainPart ⟨9, true⟩ 5 ⟨18, true⟩) := by decide
theorem test_decode_pdrainSave : decodeTableWord 64 0x6132309014400 =
    some (.pdrainSave ⟨9, true⟩ 5 ⟨18, false⟩ ⟨35, true⟩) := by decide
theorem test_decode_pdrainResume : decodeTableWord 64 0xA132300014400 =
    some (.pdrainResume ⟨9, true⟩ 5 ⟨35, true⟩) := by decide
theorem test_decode_preset : decodeTableWord 64 0x2132309014410 =
    some (.preset ⟨9, true⟩ 5 ⟨18, false⟩ ⟨35, true⟩) := by decide
theorem test_decode_presetKeep : decodeTableWord 64 0x6120089014410 =
    some (.presetKeep ⟨9, true⟩ 5 ⟨18, true⟩) := by decide
theorem test_decode_slotrd : decodeTableWord 64 0x58E120089014420 =
    some (.slotrd ⟨9, true⟩ 5 ⟨18, true⟩ .nv 0x63) := by decide
theorem test_decode_slotwr : decodeTableWord 64 0x898E132309014430 =
    some (.slotwr ⟨9, true⟩ 5 ⟨18, false⟩ ⟨35, true⟩ .nf 0x63 true) := by decide
theorem test_decode_slotkill : decodeTableWord 64 0x2120089014440 =
    some (.slotkill ⟨9, true⟩ 5 ⟨18, true⟩) := by decide
theorem test_decode_tlbinvPage : decodeTableWord 64 0x2120089014450 =
    some (.tlbinvPage ⟨9, true⟩ 5 ⟨18, true⟩) := by decide
theorem test_decode_tlbinvRange : decodeTableWord 64 0x6132309014450 =
    some (.tlbinvRange ⟨9, true⟩ 5 ⟨18, false⟩ ⟨35, true⟩) := by decide
theorem test_decode_tlbinvCtx : decodeTableWord 64 0xA120000014450 =
    some (.tlbinvCtx ⟨9, true⟩ 5) := by decide
theorem test_decode_tlbinvAll : decodeTableWord 64 0xE120000014450 =
    some (.tlbinvAll ⟨9, true⟩ 5) := by decide
theorem test_decode_wdset : decodeTableWord 64 0x2132309014460 =
    some (.wdset ⟨9, true⟩ 5 ⟨18, false⟩ ⟨35, true⟩) := by decide
theorem test_decode_pmcfg : decodeTableWord 64 0x6132309000470 =
    some (.pmcfg ⟨9, true⟩ ⟨18, false⟩ ⟨35, true⟩ true) := by decide
theorem test_decode_pmrd : decodeTableWord 64 0x6120089014480 =
    some (.pmrd ⟨9, true⟩ 5 ⟨18, true⟩ true) := by decide
theorem test_decode_tracerd : decodeTableWord 64 0x2132309014490 =
    some (.tracerd ⟨9, true⟩ 5 ⟨18, false⟩ (some ⟨35, true⟩)) := by decide
theorem test_decode_tracerd_cnt : decodeTableWord 64 0x6120089014490 =
    some (.tracerd ⟨9, true⟩ 5 ⟨18, true⟩ none) := by decide
theorem test_decode_add : decodeTableWord 64 0x2132309414800 =
    some (.add ⟨9, true⟩ ⟨5, true⟩ ⟨18, false⟩ ⟨35, true⟩) := by decide
theorem test_decode_sub : decodeTableWord 64 0x2132309414820 =
    some (.sub ⟨9, true⟩ ⟨5, true⟩ ⟨18, false⟩ ⟨35, true⟩) := by decide
theorem test_decode_mul : decodeTableWord 64 0x2132309414830 =
    some (.mul ⟨9, true⟩ ⟨5, true⟩ ⟨18, false⟩ ⟨35, true⟩) := by decide
theorem test_decode_mulh : decodeTableWord 64 0x2132309414840 =
    some (.mulh ⟨9, true⟩ ⟨5, true⟩ ⟨18, false⟩ ⟨35, true⟩) := by decide
theorem test_decode_and : decodeTableWord 64 0x2132309414880 =
    some (.and ⟨9, true⟩ ⟨5, true⟩ ⟨18, false⟩ ⟨35, true⟩) := by decide
theorem test_decode_or : decodeTableWord 64 0x2132309414890 =
    some (.or ⟨9, true⟩ ⟨5, true⟩ ⟨18, false⟩ ⟨35, true⟩) := by decide
theorem test_decode_xor : decodeTableWord 64 0x21323094148A0 =
    some (.xor ⟨9, true⟩ ⟨5, true⟩ ⟨18, false⟩ ⟨35, true⟩) := by decide
theorem test_decode_andn : decodeTableWord 64 0x21323094148B0 =
    some (.andn ⟨9, true⟩ ⟨5, true⟩ ⟨18, false⟩ ⟨35, true⟩) := by decide
theorem test_decode_min : decodeTableWord 64 0x2132309414900 =
    some (.min ⟨9, true⟩ ⟨5, true⟩ ⟨18, false⟩ ⟨35, true⟩) := by decide
theorem test_decode_max : decodeTableWord 64 0x2132309414910 =
    some (.max ⟨9, true⟩ ⟨5, true⟩ ⟨18, false⟩ ⟨35, true⟩) := by decide
theorem test_decode_addi : decodeTableWord 64 0x8002120089014810 =
    some (.addi ⟨9, true⟩ ⟨5, false⟩ ⟨18, true⟩ (.i14 0x2000)) := by decide
theorem test_decode_addi_x64 : decodeTableWord 128 0x80000000000000010002120089014816 =
    some (.addi ⟨9, true⟩ ⟨5, false⟩ ⟨18, true⟩ (.x64 0x8000000000000001)) := by decide
theorem test_decode_madd : decodeTableWord 64 0xC62122389014850 =
    some (.madd ⟨9, true⟩ ⟨5, false⟩ ⟨18, true⟩ ⟨35, false⟩ 0x63) := by decide
theorem test_decode_div : decodeTableWord 64 0x6122389014860 =
    some (.div ⟨9, true⟩ ⟨5, false⟩ ⟨18, true⟩ ⟨35, false⟩ true) := by decide
theorem test_decode_rem : decodeTableWord 64 0x6122389014870 =
    some (.rem ⟨9, true⟩ ⟨5, false⟩ ⟨18, true⟩ ⟨35, false⟩ true) := by decide
theorem test_decode_shl : decodeTableWord 64 0x80AE1200094148C0 =
    some (.shl ⟨9, true⟩ ⟨5, true⟩ ⟨18, false⟩ (.imm 0x2B)) := by decide
theorem test_decode_shr : decodeTableWord 64 0x21323094148D0 =
    some (.shr ⟨9, true⟩ ⟨5, true⟩ ⟨18, false⟩ (.name ⟨35, true⟩)) := by decide
theorem test_decode_sra : decodeTableWord 64 0x80AE1200094148E0 =
    some (.sra ⟨9, true⟩ ⟨5, true⟩ ⟨18, false⟩ (.imm 0x2B)) := by decide
theorem test_decode_rot : decodeTableWord 64 0x21323094148F0 =
    some (.rot ⟨9, true⟩ ⟨5, true⟩ ⟨18, false⟩ (.name ⟨35, true⟩)) := by decide
theorem test_decode_abs : decodeTableWord 64 0x2120009414920 =
    some (.abs ⟨9, true⟩ ⟨5, true⟩ ⟨18, false⟩) := by decide
theorem test_decode_clz : decodeTableWord 64 0x2120009414930 =
    some (.clz ⟨9, true⟩ ⟨5, true⟩ ⟨18, false⟩) := by decide
theorem test_decode_ctz : decodeTableWord 64 0x2120009414940 =
    some (.ctz ⟨9, true⟩ ⟨5, true⟩ ⟨18, false⟩) := by decide
theorem test_decode_popc : decodeTableWord 64 0x2120009414950 =
    some (.popc ⟨9, true⟩ ⟨5, true⟩ ⟨18, false⟩) := by decide
theorem test_decode_mov : decodeTableWord 64 0x2120009414990 =
    some (.mov ⟨9, true⟩ ⟨5, true⟩ ⟨18, false⟩) := by decide
theorem test_decode_cmp : decodeTableWord 64 0x16132309014960 =
    some (.cmp ⟨9, true⟩ .ge ⟨5, false⟩ ⟨18, false⟩ ⟨35, true⟩) := by decide
theorem test_decode_cmpi : decodeTableWord 64 0x824A120089014970 =
    some (.cmpi ⟨9, true⟩ .lt ⟨5, false⟩ ⟨18, true⟩ (.i11 0x412)) := by decide
theorem test_decode_cmpi_x32 : decodeTableWord 96 0x800000000012120089014971 =
    some (.cmpi ⟨9, true⟩ .gt ⟨5, false⟩ ⟨18, true⟩ (.x32 0x80000000)) := by decide
theorem test_decode_sel : decodeTableWord 64 0xC62132309014980 =
    some (.sel ⟨9, true⟩ ⟨5, false⟩ ⟨18, false⟩ ⟨35, true⟩ 0x63) := by decide
theorem test_decode_movi : decodeTableWord 96 0x1000000021200004149A1 =
    some (.movi ⟨9, true⟩ ⟨5, true⟩ (.x32 0x10000)) := by decide
theorem test_decode_ext : decodeTableWord 64 0x5F121200094149B0 =
    some (.ext ⟨9, true⟩ true ⟨5, true⟩ ⟨18, false⟩ 4 0x1F) := by decide
theorem test_decode_ins : decodeTableWord 64 0x1F121200890149C0 =
    some (.ins ⟨9, true⟩ 5 ⟨18, true⟩ 4 0x1F) := by decide
theorem test_decode_ldl : decodeTableWord 64 0xA120089015000 =
    some (.ldl ⟨9, true⟩ .c 5 ⟨18, true⟩) := by decide
theorem test_decode_stl : decodeTableWord 64 0xE132309001010 =
    some (.stl ⟨9, true⟩ true ⟨18, false⟩ ⟨35, true⟩) := by decide
theorem test_decode_ldx : decodeTableWord 64 0x4B02120089015020 =
    some (.ldx ⟨9, true⟩ true (some .qtr) 5 ⟨18, true⟩) := by decide
theorem test_decode_stx : decodeTableWord 64 0x1502132309001030 =
    some (.stx ⟨9, true⟩ false (some .sys) ⟨18, false⟩ ⟨35, true⟩) := by decide
theorem test_decode_fence : decodeTableWord 64 0x202120000001040 =
    some (.fence ⟨9, true⟩ .clu) := by decide
theorem test_decode_copy : decodeTableWord 96 0x1000D17A122389015081 =
    some (.copy ⟨9, true⟩ ⟨true, true, .loc, .va, .f16, .rup, true, true⟩ 5 ⟨18, true⟩ ⟨35, false⟩ 0x1000 none) := by decide
theorem test_decode_copy_ws : decodeTableWord 128 0x1886734512240001230901508A =
    some (.copy ⟨0, false⟩ ⟨false, false, .clu, .loc, .none, .rne, false, false⟩ 5 ⟨18, false⟩ ⟨35, true⟩ 0x18 (some ⟨0x12, 0x345, 0x67, 8⟩)) := by decide
theorem test_decode_gather : decodeTableWord 96 0x86734512A002120089015095 =
    some (.gather ⟨9, true⟩ ⟨true, false, true⟩ 5 ⟨18, true⟩ (some ⟨0x12, 0x345, 0x67, 8⟩)) := by decide
theorem test_decode_scatter : decodeTableWord 96 0x8673451240021200890150A5 =
    some (.scatter ⟨9, true⟩ ⟨false, true, false⟩ 5 ⟨18, true⟩ (some ⟨0x12, 0x345, 0x67, 8⟩)) := by decide
theorem test_decode_scatadd : decodeTableWord 96 0x86734512C0021200890150B5 =
    some (.scatadd ⟨9, true⟩ ⟨true, true, false⟩ 5 ⟨18, true⟩ (some ⟨0x12, 0x345, 0x67, 8⟩)) := by decide
theorem test_decode_bankopFill : decodeTableWord 96 0x8673451280021200890150C5 =
    some (.bankopFill ⟨9, true⟩ true 5 ⟨18, true⟩ (some ⟨0x12, 0x345, 0x67, 8⟩)) := by decide
theorem test_decode_bankopAxpy : decodeTableWord 96 0x8673451280061200890150C5 =
    some (.bankopAxpy ⟨9, true⟩ true 5 ⟨18, true⟩ (some ⟨0x12, 0x345, 0x67, 8⟩)) := by decide
theorem test_decode_bankopCvt : decodeTableWord 96 0x86734512800A1200890150C5 =
    some (.bankopCvt ⟨9, true⟩ true 5 ⟨18, true⟩ (some ⟨0x12, 0x345, 0x67, 8⟩)) := by decide
theorem test_decode_bankopSum : decodeTableWord 96 0x86734512800E1200890150C5 =
    some (.bankopSum ⟨9, true⟩ true 5 ⟨18, true⟩ (some ⟨0x12, 0x345, 0x67, 8⟩)) := by decide
theorem test_decode_dtload : decodeTableWord 64 0x80021200890150D0 =
    some (.dtload ⟨9, true⟩ true 5 ⟨18, true⟩ none) := by decide
theorem test_decode_aadd : decodeTableWord 64 0x8002132309015200 =
    some (.aadd ⟨9, true⟩ ⟨true, .va, .plain, 5, ⟨18, false⟩, ⟨35, true⟩⟩ .s64) := by decide
theorem test_decode_aand : decodeTableWord 64 0x2912132309001210 =
    some (.aand ⟨9, true⟩ ⟨false, .ls, (.acq .core), 0, ⟨18, false⟩, ⟨35, true⟩⟩ .u64) := by decide
theorem test_decode_acas : decodeTableWord 64 0xD222132309015220 =
    some (.acas ⟨9, true⟩ ⟨true, .cl, (.rel .clu), 5, ⟨18, false⟩, ⟨35, true⟩⟩ .s32) := by decide
theorem test_decode_afadd : decodeTableWord 64 0x1B5A132309001230 =
    some (.afadd ⟨9, true⟩ ⟨false, .va, (.ar .qtr), 0, ⟨18, false⟩, ⟨35, true⟩⟩ .a56 .rdn) := by decide
theorem test_decode_afmax : decodeTableWord 64 0xA042132309015240 =
    some (.afmax ⟨9, true⟩ ⟨true, .ls, .plain, 5, ⟨18, false⟩, ⟨35, true⟩⟩ .f32) := by decide
theorem test_decode_afmin : decodeTableWord 64 0x4D52132309001250 =
    some (.afmin ⟨9, true⟩ ⟨false, .cl, (.acq .sys), 0, ⟨18, false⟩, ⟨35, true⟩⟩ .a56) := by decide
theorem test_decode_amax : decodeTableWord 64 0x9022132309015260 =
    some (.amax ⟨9, true⟩ ⟨true, .va, (.rel .slot), 5, ⟨18, false⟩, ⟨35, true⟩⟩ .s32) := by decide
theorem test_decode_amin : decodeTableWord 64 0x3932132309001270 =
    some (.amin ⟨9, true⟩ ⟨false, .ls, (.ar .core), 0, ⟨18, false⟩, ⟨35, true⟩⟩ .u32) := by decide
theorem test_decode_aor : decodeTableWord 64 0xC002132309015280 =
    some (.aor ⟨9, true⟩ ⟨true, .cl, .plain, 5, ⟨18, false⟩, ⟨35, true⟩⟩ .s64) := by decide
theorem test_decode_aswap : decodeTableWord 64 0xB12132309001290 =
    some (.aswap ⟨9, true⟩ ⟨false, .va, (.acq .qtr), 0, ⟨18, false⟩, ⟨35, true⟩⟩ .u64) := by decide
theorem test_decode_axor : decodeTableWord 64 0xB4221323090152A0 =
    some (.axor ⟨9, true⟩ ⟨true, .ls, (.rel .dev), 5, ⟨18, false⟩, ⟨35, true⟩⟩ .s32) := by decide
theorem test_decode_fadd : decodeTableWord 64 0x12132309415800 =
    some (.fadd ⟨9, true⟩ .rne true ⟨5, true⟩ ⟨18, false⟩ ⟨35, true⟩) := by decide
theorem test_decode_fsub : decodeTableWord 64 0x16132309415810 =
    some (.fsub ⟨9, true⟩ .rtz true ⟨5, true⟩ ⟨18, false⟩ ⟨35, true⟩) := by decide
theorem test_decode_fmul : decodeTableWord 64 0x1A132309415820 =
    some (.fmul ⟨9, true⟩ .rdn true ⟨5, true⟩ ⟨18, false⟩ ⟨35, true⟩) := by decide
theorem test_decode_fdiv : decodeTableWord 64 0x1E132309415840 =
    some (.fdiv ⟨9, true⟩ .rup true ⟨5, true⟩ ⟨18, false⟩ ⟨35, true⟩) := by decide
theorem test_decode_ffma : decodeTableWord 64 0xC7E122389015830 =
    some (.ffma ⟨9, true⟩ .rup true ⟨5, false⟩ ⟨18, true⟩ ⟨35, false⟩ 0x63) := by decide
theorem test_decode_fsqrt : decodeTableWord 64 0x16120009415850 =
    some (.fsqrt ⟨9, true⟩ .rtz true ⟨5, true⟩ ⟨18, false⟩) := by decide
theorem test_decode_fmin : decodeTableWord 64 0x2132309415860 =
    some (.fmin ⟨9, true⟩ ⟨5, true⟩ ⟨18, false⟩ ⟨35, true⟩) := by decide
theorem test_decode_fmax : decodeTableWord 64 0x2132309415870 =
    some (.fmax ⟨9, true⟩ ⟨5, true⟩ ⟨18, false⟩ ⟨35, true⟩) := by decide
theorem test_decode_fcmp : decodeTableWord 64 0x1A122389015880 =
    some (.fcmp ⟨9, true⟩ .un ⟨5, false⟩ ⟨18, true⟩ ⟨35, false⟩) := by decide
theorem test_decode_fsgn : decodeTableWord 64 0xA122389015890 =
    some (.fsgn ⟨9, true⟩ .xor ⟨5, false⟩ ⟨18, true⟩ ⟨35, false⟩) := by decide
theorem test_decode_cvt : decodeTableWord 64 0x1A1200094158A0 =
    some (.cvt ⟨9, true⟩ .rdn true ⟨5, true⟩ ⟨18, false⟩) := by decide
theorem test_decode_fsfu : decodeTableWord 64 0xB61200094158B0 =
    some (.fsfu ⟨9, true⟩ .cos .rtz true ⟨5, true⟩ ⟨18, false⟩) := by decide
theorem test_decode_vadd : decodeTableWord 64 0x6392132309416000 =
    some (.vadd ⟨⟨9, true⟩, 0x63, true⟩ .rne true ⟨5, true⟩ ⟨18, false⟩ ⟨35, true⟩) := by decide
theorem test_decode_vsub : decodeTableWord 64 0x6396132309416010 =
    some (.vsub ⟨⟨9, true⟩, 0x63, true⟩ .rtz true ⟨5, true⟩ ⟨18, false⟩ ⟨35, true⟩) := by decide
theorem test_decode_vmul : decodeTableWord 64 0x639A132309416020 =
    some (.vmul ⟨⟨9, true⟩, 0x63, true⟩ .rdn true ⟨5, true⟩ ⟨18, false⟩ ⟨35, true⟩) := by decide
theorem test_decode_vfma : decodeTableWord 64 0x639E132309416030 =
    some (.vfma ⟨⟨9, true⟩, 0x63, true⟩ .rup true ⟨5, true⟩ ⟨18, false⟩ ⟨35, true⟩) := by decide
theorem test_decode_vmin : decodeTableWord 64 0x6382132309416040 =
    some (.vmin ⟨⟨9, true⟩, 0x63, true⟩ ⟨5, true⟩ ⟨18, false⟩ ⟨35, true⟩) := by decide
theorem test_decode_vmax : decodeTableWord 64 0x6382132309416050 =
    some (.vmax ⟨⟨9, true⟩, 0x63, true⟩ ⟨5, true⟩ ⟨18, false⟩ ⟨35, true⟩) := by decide
theorem test_decode_vand : decodeTableWord 64 0x6382132309416060 =
    some (.vand ⟨⟨9, true⟩, 0x63, true⟩ ⟨5, true⟩ ⟨18, false⟩ ⟨35, true⟩) := by decide
theorem test_decode_vor : decodeTableWord 64 0x6382132309416070 =
    some (.vor ⟨⟨9, true⟩, 0x63, true⟩ ⟨5, true⟩ ⟨18, false⟩ ⟨35, true⟩) := by decide
theorem test_decode_vxor : decodeTableWord 64 0x6382132309416080 =
    some (.vxor ⟨⟨9, true⟩, 0x63, true⟩ ⟨5, true⟩ ⟨18, false⟩ ⟨35, true⟩) := by decide
theorem test_decode_vshl : decodeTableWord 64 0x6382132309416090 =
    some (.vshl ⟨⟨9, true⟩, 0x63, true⟩ ⟨5, true⟩ ⟨18, false⟩ ⟨35, true⟩) := by decide
theorem test_decode_vshr : decodeTableWord 64 0x63821323094160A0 =
    some (.vshr ⟨⟨9, true⟩, 0x63, true⟩ ⟨5, true⟩ ⟨18, false⟩ ⟨35, true⟩) := by decide
theorem test_decode_vsel : decodeTableWord 64 0x63821323094160C0 =
    some (.vsel ⟨⟨9, true⟩, 0x63, true⟩ ⟨5, true⟩ ⟨18, false⟩ ⟨35, true⟩) := by decide
theorem test_decode_vperm : decodeTableWord 64 0x6382132309416140 =
    some (.vperm ⟨⟨9, true⟩, 0x63, true⟩ ⟨5, true⟩ ⟨18, false⟩ ⟨35, true⟩) := by decide
theorem test_decode_vcmp : decodeTableWord 64 0x639A1223890160B0 =
    some (.vcmp ⟨⟨9, true⟩, 0x63, true⟩ .un ⟨5, false⟩ ⟨18, true⟩ ⟨35, false⟩) := by decide
theorem test_decode_vcvt : decodeTableWord 64 0x639A1200094160D0 =
    some (.vcvt ⟨⟨9, true⟩, 0x63, true⟩ .rdn true ⟨5, true⟩ ⟨18, false⟩) := by decide
theorem test_decode_vld : decodeTableWord 64 0x63F61323094160E0 =
    some (.vld ⟨⟨9, true⟩, 0x63, true⟩ true true .rtz true ⟨5, true⟩ ⟨18, false⟩ ⟨35, true⟩) := by decide
theorem test_decode_vst : decodeTableWord 64 0x63C21323090160F0 =
    some (.vst ⟨⟨9, true⟩, 0x63, true⟩ true 5 ⟨18, false⟩ ⟨35, true⟩) := by decide
theorem test_decode_vldt : decodeTableWord 64 0x63C2122389016100 =
    some (.vldt ⟨⟨9, true⟩, 0x63, true⟩ true ⟨5, false⟩ ⟨18, true⟩ ⟨35, false⟩) := by decide
theorem test_decode_vbcast : decodeTableWord 64 0x639E120009416110 =
    some (.vbcast ⟨⟨9, true⟩, 0x63, true⟩ .rup true ⟨5, true⟩ ⟨18, false⟩) := by decide
theorem test_decode_vred : decodeTableWord 64 0x63C6120009416120 =
    some (.vred ⟨⟨9, true⟩, 0x63, true⟩ .or .rtz ⟨5, true⟩ ⟨18, false⟩) := by decide
theorem test_decode_vscan : decodeTableWord 64 0x63AA120009416130 =
    some (.vscan ⟨⟨9, true⟩, 0x63, true⟩ .max .rdn ⟨5, true⟩ ⟨18, false⟩) := by decide
theorem test_decode_vcomp : decodeTableWord 64 0x6382120009416150 =
    some (.vcomp ⟨⟨9, true⟩, 0x63, true⟩ ⟨5, true⟩ ⟨18, false⟩) := by decide
theorem test_decode_vexpd : decodeTableWord 64 0x6382120009416160 =
    some (.vexpd ⟨⟨9, true⟩, 0x63, true⟩ ⟨5, true⟩ ⟨18, false⟩) := by decide
theorem test_decode_viota : decodeTableWord 64 0x6382120009416170 =
    some (.viota ⟨⟨9, true⟩, 0x63, true⟩ ⟨5, true⟩ ⟨18, false⟩) := by decide
theorem test_decode_vsfu : decodeTableWord 64 0x63EE120009416180 =
    some (.vsfu ⟨⟨9, true⟩, 0x63, true⟩ .tanh .rup ⟨5, true⟩ ⟨18, false⟩) := by decide
theorem test_decode_vquant : decodeTableWord 64 0x42122389016190 =
    some (.vquant ⟨9, true⟩ .g128 ⟨5, false⟩ ⟨18, true⟩ ⟨35, false⟩) := by decide
theorem test_decode_vdeq : decodeTableWord 64 0x63B61223890161A0 =
    some (.vdeq ⟨⟨9, true⟩, 0x63, true⟩ .g64 .rtz true ⟨5, false⟩ ⟨18, true⟩ ⟨35, false⟩) := by decide
theorem test_decode_vmovs : decodeTableWord 64 0x21223890161B0 =
    some (.vmovs ⟨9, true⟩ ⟨5, false⟩ ⟨18, true⟩ ⟨35, false⟩) := by decide
theorem test_decode_mcfg : decodeTableWord 64 0x2120089002800 =
    some (.mcfg ⟨9, true⟩ (.name ⟨18, true⟩)) := by decide
theorem test_decode_mma : decodeTableWord 96 0x86734512A002120089016815 =
    some (.mma ⟨9, true⟩ true false true false 5 ⟨18, true⟩ (some ⟨0x12, 0x345, 0x67, 8⟩)) := by decide
theorem test_decode_mdrain : decodeTableWord 64 0x4002120000016820 =
    some (.mdrain ⟨9, true⟩ false true 5 none) := by decide
theorem test_decode_mmap : decodeTableWord 64 0x8002120089016830 =
    some (.mmap ⟨9, true⟩ true 5 ⟨18, true⟩ none) := by decide
theorem test_decode_mclr : decodeTableWord 96 0x867345128002120000016845 =
    some (.mclr ⟨9, true⟩ true 5 (some ⟨0x12, 0x345, 0x67, 8⟩)) := by decide
theorem test_decode_xreduce : decodeTableWord 96 0x867345124002120089016905 =
    some (.xreduce ⟨9, true⟩ false true 5 ⟨18, true⟩ (some ⟨0x12, 0x345, 0x67, 8⟩)) := by decide
theorem test_decode_xgather : decodeTableWord 96 0x867345124002120089016915 =
    some (.xgather ⟨9, true⟩ false true 5 ⟨18, true⟩ (some ⟨0x12, 0x345, 0x67, 8⟩)) := by decide
theorem test_decode_xbcast : decodeTableWord 96 0x867345124002120089016925 =
    some (.xbcast ⟨9, true⟩ false true 5 ⟨18, true⟩ (some ⟨0x12, 0x345, 0x67, 8⟩)) := by decide
theorem test_decode_xmemberCreate : decodeTableWord 64 0x2122309016930 =
    some (.xmemberCreate ⟨9, true⟩ 5 18 35) := by decide
theorem test_decode_xmemberShrink : decodeTableWord 64 0x6122309016930 =
    some (.xmemberShrink ⟨9, true⟩ 5 18 35) := by decide
theorem test_decode_xmemberJoin : decodeTableWord 64 0xA122309016930 =
    some (.xmemberJoin ⟨9, true⟩ 5 18 35) := by decide
theorem test_decode_xmemberLeave : decodeTableWord 64 0xE120009016930 =
    some (.xmemberLeave ⟨9, true⟩ 5 18) := by decide
theorem test_decode_xlog : decodeTableWord 64 0x4002120089016940 =
    some (.xlog ⟨9, true⟩ false true 5 ⟨18, true⟩ none) := by decide
theorem test_decode_semwait : decodeTableWord 64 0x4D16120000017000 =
    some (.semwait ⟨9, true⟩ 5 0x345 true) := by decide
theorem test_decode_semsig : decodeTableWord 64 0xD16120000017010 =
    some (.semsig ⟨9, true⟩ 5 0x345) := by decide
theorem test_decode_semset : decodeTableWord 64 0x8D16120000017020 =
    some (.semset ⟨9, true⟩ 5 (.i14 0x2345)) := by decide
theorem test_decode_semset_x32 : decodeTableWord 96 0x9C400002120000017021 =
    some (.semset ⟨9, true⟩ 5 (.x32 40000)) := by decide
theorem test_decode_semrd : decodeTableWord 64 0x18E120000417030 =
    some (.semrd ⟨9, true⟩ ⟨5, true⟩ 0x63) := by decide
theorem test_decode_qcfg : decodeTableWord 64 0x4E120089017040 =
    some (.qcfg ⟨9, true⟩ 5 ⟨18, true⟩ 0x13) := by decide
theorem test_decode_qcount : decodeTableWord 64 0x4E120000417050 =
    some (.qcount ⟨9, true⟩ ⟨5, true⟩ 0x13) := by decide
theorem test_decode_msend : decodeTableWord 96 0x3020103AE120089003061 =
    some (.msend ⟨9, true⟩ 0x2B ⟨18, true⟩ [1, 2, 3]) := by decide
theorem test_decode_spawn : decodeTableWord 64 0xFFE2120089003080 =
    some (.spawn ⟨9, true⟩ ⟨18, true⟩ (.i14 0x3FF8)) := by decide
theorem test_decode_sync : decodeTableWord 64 0x2120000003090 =
    some (.sync ⟨9, true⟩) := by decide
theorem test_decode_done : decodeTableWord 64 0x21200000030A0 =
    some (.done ⟨9, true⟩) := by decide
theorem test_decode_gleave : decodeTableWord 64 0x21200000030D0 =
    some (.gleave ⟨9, true⟩) := by decide
theorem test_decode_gbar : decodeTableWord 64 0x21200000030E0 =
    some (.gbar ⟨9, true⟩) := by decide
theorem test_decode_csend : decodeTableWord 64 0x2120000003210 =
    some (.csend ⟨9, true⟩) := by decide
theorem test_decode_launch : decodeTableWord 64 0x800A1200890170B0 =
    some (.launch ⟨9, true⟩ true 2 5 ⟨18, true⟩ none) := by decide
theorem test_decode_genter : decodeTableWord 64 0x21200890030C0 =
    some (.genter ⟨9, true⟩ ⟨18, true⟩) := by decide
theorem test_decode_gsize : decodeTableWord 64 0x21200004170F0 =
    some (.gsize ⟨9, true⟩ ⟨5, true⟩) := by decide
theorem test_decode_cmake : decodeTableWord 64 0x2120089017200 =
    some (.cmake ⟨9, true⟩ 5 ⟨18, true⟩) := by decide
theorem test_decode_cstop : decodeTableWord 64 0x86120000017220 =
    some (.cstop ⟨9, true⟩ 5 0x21) := by decide
theorem test_decode_cins : decodeTableWord 64 0x2132309003230 =
    some (.cins ⟨9, true⟩ ⟨18, false⟩ ⟨35, true⟩) := by decide
theorem test_decode_cdel : decodeTableWord 64 0x26120000003240 =
    some (.cdel ⟨9, true⟩ 9) := by decide
theorem test_decode_csetp : decodeTableWord 64 0x26120089003250 =
    some (.csetp ⟨9, true⟩ 9 ⟨18, true⟩) := by decide
theorem test_decode_csplit : decodeTableWord 64 0x2132309003260 =
    some (.csplit ⟨9, true⟩ ⟨18, false⟩ ⟨35, true⟩) := by decide
theorem test_decode_cdivert : decodeTableWord 64 0x2120089003270 =
    some (.cdivert ⟨9, true⟩ ⟨18, true⟩) := by decide
theorem test_decode_vtopk : decodeTableWord 64 0x6120009417800 =
    some (.vtopk ⟨9, true⟩ true ⟨5, true⟩ ⟨18, false⟩) := by decide
theorem test_decode_instructionPair : decodeTableWord 128 0x10B0401E0400002132309414802 =
    some (.instructionPair (.add ⟨9, true⟩ ⟨5, true⟩ ⟨18, false⟩ ⟨35, true⟩) (.vmin ⟨⟨0, false⟩, 0, false⟩ ⟨7, false⟩ ⟨8, false⟩ ⟨11, true⟩)) := by decide

end Sys2Proof.Tests
end

