-- ==== Sys2Proof/Tests/Slice0.lean ====
section
/-! SUPPORT. Tests: the words that the spec prints decode to the instructions it gives for them, an ill-formed term for each
check of well-formedness is refused, and worked cases of the spec, each one step on a small state. -/

namespace Sys2Proof.Machine.Tests

/-! ### Words that the spec prints -/

theorem test_word_trap : decodeTableWord 64 0x0004000000000070 = some (.trap g0 1) := by decide
theorem test_word_ret : decodeTableWord 64 0x0000000004800040 = some (.ret g0 (o 9)) := by decide
theorem test_word_b_guarded : decodeTableWord 64 0x00120A0000000010 = some (.b ⟨5, true⟩ (.i14 4)) := by decide
theorem test_word_sread : decodeTableWord 64 0x0034000000004090 = some (.sread g0 (o 1) 0x0D) := by decide
theorem test_word_slotwr : decodeTableWord 64 0x802C000D05000430 = some (.slotwr g0 0 (o 10) (o 13) .reg 0x0B true) := by decide
theorem test_word_movi_negative : decodeTableWord 64 0xFFF40000000049A0 = some (.movi g0 (o 1) (.i14 0x3FFD)) := by decide
theorem test_word_shl : decodeTableWord 64 0x800C00000582C8C0 = some (.shl g0 (o 11) (o 11) (.imm 3)) := by decide
theorem test_word_ext : decodeTableWord 64 0x47100000010049B0 = some (.ext g0 true (o 1) (o 2) 4 7) := by decide
theorem test_word_afmax :
    decodeTableWord 64 0x0040010404001240 = some (.afmax g0 ⟨false, .va, .plain, 0, o 8, ⟨4, true⟩⟩ .f32) := by decide
theorem test_word_stx_release : decodeTableWord 64 0x1400000301001030 = some (.stx g0 false (some .dev) (o 2) (o 3)) := by decide
theorem test_word_ffma : decodeTableWord 64 0x0060000200811830 = some (.ffma g0 .rne false (o 4) (o 1) (o 2) 3) := by decide
theorem test_word_vld : decodeTableWord 64 0x000000000102E0E0 = some (.vld h0 false false .rne false (o 11) (o 2) (o 0)) := by
  decide
theorem test_word_mma : decodeTableWord 64 0x6000000001816810 = some (.mma g0 false true true false 5 (o 3) none) := by decide
theorem test_word_semset : decodeTableWord 96 0x00009C40000000000001F021 = some (.semset g0 7 (.x32 40000)) := by decide
theorem test_word_cstop : decodeTableWord 64 0x0084000000007220 = some (.cstop g0 1 33) := by decide
theorem test_word_vtopk : decodeTableWord 64 0x0000000001007800 = some (.vtopk g0 false (o 1) (o 2)) := by decide

/-! ### Ill-formed terms -/

theorem test_wf_ok : (Instr.add g0 (o 4) (o 1) (o 2)).wf = true := by decide
theorem test_wf_guard : (Instr.nop ⟨0, true⟩ false).wf = false := by decide
theorem test_wf_mask : (Instr.vmin ⟨g0, 0, true⟩ (o 1) (o 2) (o 3)).wf = false := by decide
theorem test_wf_loop : (Instr.loop g0 (.name (o 1)) 2).wf = false ∧ (Instr.loop g0 (.x32 5) 3).wf = false := by decide
theorem test_wf_sread : (Instr.sread g0 (o 1) 0x18).wf = false := by decide
theorem test_wf_swrite : (Instr.swrite g0 0x08 (o 1)).wf = false := by decide
theorem test_wf_rgn : (Instr.rgn g0 250 7 none).wf = false := by decide
theorem test_wf_slotrd : (Instr.slotrd g0 1 (o 2) .reg 0x1D).wf = false ∧ (Instr.slotrd g0 1 (o 2) .nv 0).wf = false := by decide
theorem test_wf_slotwr : (Instr.slotwr g0 1 (o 2) (o 3) .reg 0 false).wf = false ∧
    (Instr.slotwr g0 1 (o 2) (o 3) .nf 0 false).wf = false := by decide
theorem test_wf_ext : (Instr.ext g0 false (o 1) (o 2) 60 4).wf = false ∧ (Instr.ins g0 1 (o 2) 60 4).wf = false := by decide
theorem test_wf_copy_kind : (Instr.copy g0 ⟨false, false, .loc, .va, .f32, .rne, false, false⟩ 1 (o 2) (o 3) 128 none).wf = false ∧
    (Instr.copy g0 ⟨false, false, .loc, .va, .none, .rup, false, false⟩ 1 (o 2) (o 3) 128 none).wf = false := by decide
theorem test_wf_copy_coded : (Instr.copy g0 ⟨false, false, .loc, .loc, .none, .rne, false, true⟩ 1 (o 2) (o 3) 128 none).wf = false ∧
    (Instr.copy g0 ⟨false, false, .va, .va, .none, .rne, false, true⟩ 1 (o 2) (o 3) 128 none).wf = false ∧
    (Instr.copy g0 ⟨false, false, .loc, .va, .none, .rne, false, true⟩ 1 (o 2) (o 3) 64 none).wf = false := by decide
theorem test_wf_copy_keepf : (Instr.copy g0 ⟨false, true, .va, .loc, .none, .rne, false, false⟩ 1 (o 2) (o 3) 8 none).wf = false := by
  decide
theorem test_wf_copy_empty : (Instr.copy g0 ⟨false, false, .loc, .va, .none, .rne, false, false⟩ 1 (o 2) (o 3) 0 none).wf = false := by
  decide
theorem test_wf_wait_signal : (Instr.mmap g0 false 1 (o 2) (some ⟨3, 0, 0, 0⟩)).wf = false ∧
    (Instr.mmap g0 false 1 (o 2) (some ⟨0, 0, 3, 0⟩)).wf = false := by decide
theorem test_wf_atomic : (Instr.aadd g0 ⟨false, .va, .plain, 7, o 2, o 3⟩ .s64).wf = false := by decide
theorem test_wf_fsgn : (Instr.fsgn g0 .abs (o 1) (o 2) (o 3)).wf = false := by decide
theorem test_wf_needs_mask : (Instr.vsel h0 (o 1) (o 2) (o 3)).wf = false ∧ (Instr.vcomp h0 (o 1) (o 2)).wf = false ∧
    (Instr.vexpd h0 (o 1) (o 2)).wf = false := by decide
theorem test_wf_vld : (Instr.vld h0 false false .rup false (o 1) (o 2) (o 3)).wf = false := by decide
theorem test_wf_semsig : (Instr.semsig g0 1 0).wf = false := by decide
theorem test_wf_semset : (Instr.semset g0 1 (.x32 65536)).wf = false := by decide
theorem test_wf_msend : (Instr.msend g0 1 (o 2) [1, 2, 3, 4, 5]).wf = false := by decide
theorem test_wf_pair : (Instr.instructionPair (.b g0 (.i14 4)) (.vmin h0 (o 1) (o 2) (o 3))).wf = false ∧
    (Instr.instructionPair (.add g0 (o 1) (o 2) (o 3)) (.add g0 (o 1) (o 2) (o 3))).wf = false ∧
    (Instr.instructionPair (.addi g0 (o 1) (o 2) (.x32 5)) (.vmin h0 (o 1) (o 2) (o 3))).wf = false := by decide

/-! ### Worked cases, one step each -/

/-- What a name holds after an op: values, F and P. -/
def nameAfter (i : Instr) (ns : List NameSt) (k : Ix) : Option (List Int × Bool × Bool) :=
  match exec i (WX { wSlot with names := ns }) with
  | .next t => (t.me.nm k).map (fun n => (n.vals, n.f, n.p))
  | .fault _ => none
  | .refused _ => none
/-- The slot is trapped after an op. -/
def trapsAfter (i : Instr) (ns : List NameSt) : Bool :=
  match exec i (WX { wSlot with names := ns }) with
  | .next t => decide (t.me.st = .trapped)
  | .fault _ => false
  | .refused _ => false
/-- A full signed 8-bit integer of a mode. -/
def i8 (m : Mode) (v : Int) : NameSt := full (.int true 8 m) [v]
/-- An f32 vector of one row. -/
def row (vs : List Int) : NameSt := full (.fvec .f32 1 4) vs

/-! R406: 100 shifted left by 1 in an `i8`: −56, 127 or WIDTH. -/
theorem test_shl_wraps : nameAfter (.shl g0 (o 1) (o 1) (.imm 1)) [i8 .wrap 100] 1 = some ([-56], true, false) := by decide
theorem test_shl_saturates : nameAfter (.shl g0 (o 1) (o 1) (.imm 1)) [i8 .sat 100] 1 = some ([127], true, false) := by decide
theorem test_shl_traps : trapsAfter (.shl g0 (o 1) (o 1) (.imm 1)) [i8 .trap 100] = true := by decide
/-! R338: 84 + 45 does not fit an `i8`. -/
theorem test_add_traps : trapsAfter (.add g0 (o 1) (o 1) (o 2)) [i8 .trap 84, num 45] = true := by decide
/-! R414: nil − 31 in an `n8`. -/
theorem test_sub_nil_wraps :
    nameAfter (.sub g0 (o 2) (o 0) (o 1)) [num 31, full (.int false 8 .wrap) [0]] 2 = some ([225], true, false) := by decide
/-! R438: 14 XOR 8 is 6. -/
theorem test_xor : nameAfter (.xor g0 (o 3) (o 1) (o 2)) [num 14, num 8, num 0] 3 = some ([6], true, false) := by decide
/-! R35: a `!` source is emptied. -/
theorem test_sync_source_empties :
    nameAfter (.mov g0 (o 2) ⟨1, true⟩) [num 7, num 0] 1 = some ([7], false, false) := by decide
/-! R370: 0x7F of e4m3 becomes 0xFF under a set sign. -/
theorem test_fsgn_keeps_nan : nameAfter (.fsgn g0 .cpy (o 3) (o 1) (o 2))
    [full (.flt .e4m3) [0x7F], full (.flt .f32) [0x80000000], full (.flt .e4m3) [0]] 3 = some ([0xFF], true, false) := by decide
/-! R428: the worked case of VQUANT, q4 with groups of 32: codes and entry. -/
theorem test_vquant_codes : nameAfter (.vquant g0 .g32 (o 2) (o 1) (o 3))
    [row [0x3F800000, 0xC0600000, 0x3E800000, 0x40E00000], full (.ivec true 4 .wrap 1 4) [0, 0, 0, 0],
     full (.ivec false 32 .wrap 1 4) [9, 9, 9, 9]] 2 = some ([1, -4, 0, 7], true, false) := by decide
theorem test_vquant_entry : nameAfter (.vquant g0 .g32 (o 2) (o 1) (o 3))
    [row [0x3F800000, 0xC0600000, 0x3E800000, 0x40E00000], full (.ivec true 4 .wrap 1 4) [0, 0, 0, 0],
     full (.ivec false 32 .wrap 1 4) [9, 9, 9, 9]] 3 = some ([0x3C00, 9, 9, 9], true, false) := by decide
/-! R428, R424: VDEQ of these codes gives 1.0, −4.0, +0 and 7.0. -/
theorem test_vdeq : nameAfter (.vdeq h0 .g32 .rne false (o 3) (o 1) (o 2))
    [full (.ivec true 4 .wrap 1 4) [1, -4, 0, 7], full (.ivec false 32 .wrap 1 1) [0x3C00], row [0, 0, 0, 0]] 3 =
    some ([0x3F800000, 0xC0800000, 0, 0x40E00000], true, false) := by decide
/-! R36: a guard of value 0 turns the op off. -/
theorem test_guard_off : nameAfter (.add ⟨2, false⟩ (o 1) (o 1) (o 1)) [num 7, num 0] 1 = some ([7], true, false) := by decide

end Sys2Proof.Machine.Tests
end

