-- ==== Sys2Proof/Tests/WitnessEngines.lean ====
section
/-! SUPPORT. The hypotheses of the statements about engines and collectives, met by a small state. -/

namespace Sys2Proof.Machine.Tests

set_option Elab.async false

/-- A reduction that is under way, with its contribution still to be read. -/
def wUnder : Cmd := { wCmd (.xreduce 64 false) with aux := [0, 0, 0, 0, 0xA000, 0xB000, 1, 0], prog := 1, begun := true }
/-- The same, its contribution given. -/
def wGiven : Cmd := { wUnder with aux := [0, 0, 0, 1, 0xA000, 0xB000, 1, 0] }
/-- The state with a reduction of a set under way, the pieces that have arrived, and a cycle. -/
def WCo (given : Bool) (devs : List Nat) (xs : List XIn) (n : Nat) : State := { WE (if given then wGiven else wUnder) with
  xsets := [(0, wSet devs)], xin := xs, cycle := n }
/-- A contribution of one element, and a mask of missing members. -/
def wPart : XIn := ⟨1, 0, 0, 0, 0, [(0x3F800000, false)], 0⟩
def wMask (w : Word) : XIn := ⟨14, 0, 0, 0, 0, (w, false) :: List.replicate 15 (0, false), 0⟩
/-- The sponsor's word that device 1 joins a set whose LSEQ is 0. -/
def wJoined : XIn := ⟨17, 2, 0, 0, 0, [(0, false), (2, false), (1, false), (1, false)], 0⟩
def wJoins : State := { W with xsets := [(0, { wSet [2, 0] with lseq := 1 })], xin := [wJoined] }

/-- A copy whose source lies in the peer window of device 1. -/
def wFarLeaf : Leaf := { wLeaf with pa := 0x80040000000000 }
def wFarCopy : State := { WE (wCmd (.copy ⟨false, false, .loc, .va, .none, .rne, false, false⟩ 64 0x8000 16)) with
  clus := [(0, { Cluster.reset with tcache := [⟨0, false, wFarLeaf⟩] })], ports := [(0, { Port.reset with up := true, peer := 1 })] }
theorem wFarCopy_leaf : ∀ j < 8 * 2, canonical (0x8000 + j) = true ∧ ∃ l, wFarCopy.cached 0 0 (0x8000 + j) = some l ∧
    throughLeaf l (0x8000 + j) false .rd = .ok (0x80040000008000 + j) l := by
  have h : ∀ j < 16, canonical (0x8000 + j) = true ∧ wFarCopy.cached 0 0 (0x8000 + j) = some wFarLeaf ∧
      throughLeaf wFarLeaf (0x8000 + j) false .rd = .ok (0x80040000008000 + j) wFarLeaf := by decide +kernel
  exact fun j hj => ⟨(h j hj).1, _, (h j hj).2⟩

theorem witness_EngineCommandsEnter :
    (∃ g, ∃ m : CopyMods, ∃ (d : Ix), ∃ a b, ∃ (n : BitVec 32) (s : State), ∃ va vb da db, ∃ (st : State), ∃ st2, Ready s g [d, a.ix, b.ix] [a, b] none ∧
    s.me.intNil d = true ∧
    s.me.intNil a.ix = true ∧
    s.me.intNil b.ix = true ∧
    ReadsInt s (s.emptied [a, b]) a.ix va false st ∧
    ReadsInt s st b.ix vb false st2 ∧
    let ext := if m.fmt && decide (m.ck = .none) then BitVec.toNat n + BitVec.toNat n / 4 else BitVec.toNat n
    CopyPlace s m.dsp va ext da ∧
    CopyPlace s m.ssp vb (BitVec.toNat n) db) ∧
    (∃ (mk : Guard → PlkMods → Ix → Opd → Option Ws → Instr), ∃ op, ((mk = .gather ∧ op = PlkOp.gather) ∨
      (mk = .scatter ∧ op = .scatter) ∨ (mk = .scatadd ∧ op = .scatadd)) ∧
    ∃ g, ∃ (d : Ix), ∃ a, ∃ (s : State), ∃ n sg w md r c, Ready s g [d, a.ix] [a] none ∧
    s.me.intNil d = true ∧
    s.me.nm a.ix = some n ∧
    n.kind = .ivec sg w md r c ∧
    elemW w = 64 ∧
    4 ≤ c ∧
    n.f = true ∧
    n.p = false) ∧
    (∃ (mk : Guard → Bool → Ix → Opd → Option Ws → Instr) (kind : Nat → CmdKind), ∃ len, ((mk = .bankopFill ∧ kind = .bankop 0 ∧ len = 32) ∨ (mk = .bankopAxpy ∧ kind = .bankop 1 ∧ len = 32) ∨
      (mk = .bankopCvt ∧ kind = .bankop 2 ∧ len = 32) ∨ (mk = .bankopSum ∧ kind = .bankop 3 ∧ len = 32) ∨
      (∃ l : BitVec 2, mk = (fun g tr => .launch g tr l) ∧ kind = (fun o => .launch o l.toNat) ∧ len = 64) ∨
      (∃ q, mk = (fun g tr => .xreduce g tr q) ∧ kind = (fun o => .xreduce o q) ∧ len = 32) ∨
      (∃ q, mk = (fun g tr => .xgather g tr q) ∧ kind = (fun o => .xgather o q) ∧ len = 32) ∨
      (∃ q, mk = (fun g tr => .xbcast g tr q) ∧ kind = (fun o => .xbcast o q) ∧ len = 32)) ∧
    ∃ g, ∃ (d : Ix), ∃ a, ∃ (s : State), ∃ v o, ∃ (st : State), Ready s g [d, a.ix] [a] none ∧
    s.me.intNil d = true ∧
    s.me.intOk a.ix = true ∧
    ReadsInt s (s.emptied [a]) a.ix v false st ∧
    ReqPlace s v len o) ∧
    (∃ g, ∃ (d : Ix), ∃ a, ∃ (s : State), ∃ v, ∃ (st : State), Ready s g [d, a.ix] [a] none ∧
    s.me.intNil d = true ∧
    s.me.intOk a.ix = true ∧
    ReadsInt s (s.emptied [a]) a.ix v false st) ∧
    (∃ g, ∃ (d : Ix), ∃ a, ∃ (s : State), ∃ v o, ∃ (st : State), ∃ w0 w1, Ready s g [d, a.ix] [a] none ∧
    s.me.intNil d = true ∧
    s.me.intOk a.ix = true ∧
    ReadsInt s (s.emptied [a]) a.ix v false st ∧
    ReqPlace s v 16 o ∧
    let acc := lsAccOf s (coreOf s.cur) o 16 false none
    (st.drainFor acc).blocked acc = false ∧
    (st.drainFor acc).lsWords (coreOf s.cur) o 2 = [(w0, false), (w1, false)] ∧
    let n := BitVec.toNat w1 / 2 ^ 32 % 2 ^ 13
    let loff := BitVec.toNat w1 % 2 ^ 18
    BitVec.toNat w0 / 2 ^ 42 % 2 ^ 6 = 0 ∧
    BitVec.toNat w1 / 2 ^ 45 = 0 ∧
    BitVec.toNat w1 / 2 ^ 18 % 2 ^ 14 = 0 ∧
    1 ≤ n ∧
    n ≤ 4096 ∧
    loff % 64 = 0 ∧
    loff + 64 * n ≤ (if s.me.smode then 2 ^ 18 else 0x3E000)) ∧
    (∃ (core off n c o : Nat), 0 < n ∧
    off + n ≤ 2 ^ 18 ∧
    o < 2 ^ 18 ∧
    core ≤ 4095 ∧
    c ≤ 4095) :=
  ⟨⟨g0, ⟨false, false, .loc, .va, .none, .rne, false, false⟩, 4, o 19, o 20, 16, W, 64, 0x8000, _, _, _, _,
      ready_plain rfl rfl rfl, rfl, rfl, rfl, reads_int rfl, reads_int rfl,
      ⟨⟨rfl, .inr ⟨by decide, by decide, .inl ⟨rfl, by decide⟩⟩⟩, ⟨rfl, .inl rfl⟩⟩⟩,
    ⟨_, _, .inl ⟨rfl, rfl⟩, g0, 4, o 25, W, _, _, _, _, _, _, ready_plain rfl rfl rfl, rfl, rfl, rfl, rfl, by decide, rfl, rfl⟩,
    ⟨_, _, _, .inl ⟨rfl, rfl, rfl⟩, g0, 4, o 19, W, 64, 64, _, ready_plain rfl rfl rfl, rfl, rfl, reads_int rfl,
      ⟨rfl, by decide, by decide⟩⟩,
    ⟨g0, 4, o 20, W, 0x8000, _, ready_plain rfl rfl rfl, rfl, rfl, reads_int rfl⟩,
    ⟨g0, 4, o 19, { W with lmem := [(76, 1)] }, 64, 64, _, 0, 0x100000000, ready_plain rfl rfl rfl, rfl, rfl, reads_int rfl,
      ⟨rfl, by decide, by decide⟩, by decide, by decide⟩,
    ⟨0, 64, 16, 0, 79, by decide⟩⟩

theorem witness_MatrixCommandsEnter :
    (∃ g, ∃ (d : Ix), ∃ a, ∃ (s : State), ∃ v o, ∃ (st : State), Ready s g [d, a.ix] [a] none ∧
    s.me.intNil d = true ∧
    s.me.intOk a.ix = true ∧
    s.samePart (coreOf s.cur) (cluOf (coreOf s.cur) * 8) = true ∧
    ReadsInt s (s.emptied [a]) a.ix v false st ∧
    ReqPlace s v 32 o) ∧
    (∃ g, ∃ (d : Ix) (s : State), Ready s g [d] [] none ∧
    s.me.intNil d = true ∧
    s.samePart (coreOf s.cur) (cluOf (coreOf s.cur) * 8) = true ∧
    s.counted.fifoUse (coreOf s.cur) < 16) ∧
    (∃ g, ∃ (d : Ix) (s : State), Ready s g [d] [] none ∧
    s.me.intNil d = true ∧
    s.samePart (coreOf s.cur) (cluOf (coreOf s.cur) * 8) = false) ∧
    (∃ g, ∃ (d : Ix), ∃ a, ∃ (s : State), Ready s g [d, a.ix] [a] none ∧
    s.me.intNil d = true ∧
    s.me.intOk a.ix = true ∧
    s.samePart (coreOf s.cur) (cluOf (coreOf s.cur) * 8) = false) ∧
    (∃ g a, ∃ (s : State), ∃ v, ∃ (st : State), Ready s g [a.ix] [a] none ∧
    s.me.intOk a.ix = true ∧
    ReadsInt s (s.emptied [a]) a.ix v false st) ∧
    (∃ g w, ∃ (s : State), Ready s g [] [] none ∧
    mcfgOk w = true) :=
  ⟨⟨g0, 4, o 19, W, 64, 64, _, ready_plain rfl rfl rfl, rfl, rfl, rfl, reads_int rfl, ⟨rfl, by decide, by decide⟩⟩,
    ⟨g0, 4, W, ready_plain rfl rfl rfl, rfl, rfl, by decide⟩,
    ⟨g0, 4, WOther, ready_plain rfl rfl rfl, rfl, rfl⟩,
    ⟨g0, 4, o 19, WOther, ready_plain rfl rfl rfl, rfl, rfl, rfl⟩,
    ⟨g0, o 5, W, 0, _, ready_plain rfl rfl rfl, rfl, reads_int rfl⟩,
    ⟨g0, 0, W, ready_plain rfl rfl rfl, rfl⟩⟩

theorem witness_MembershipRequests :
    (∃ g, ∃ (d a b : Ix) (s : State), ∃ v o h, ∃ ws : List Word, Ready s g [d, a, b] [] none ∧
    s.me.intNil d = true ∧
    IntName s a ∧
    IntName s b ∧
    ReadsInt s s.counted a v false s.counted ∧
    ReadsInt s s.counted b o false s.counted ∧
    0 ≤ v ∧
    v < 2 ^ 17 ∧
    let acc := lsAccOf s (coreOf s.cur) o.toNat 8 false none
    let u := s.counted.drainFor acc
    u.blocked acc = false ∧
    u.lsWords (coreOf s.cur) o.toNat 1 = [(h, false)] ∧
    let n : Nat := (min (BitVec.toNat h % 2 ^ 11) 1024 + 3) / 4
    let all := lsAccOf s (coreOf s.cur) o.toNat (8 * (1 + n)) false none
    let t := u.drainFor all
    t.blocked all = false ∧
    0 ≤ o ∧
    o % 8 = 0 ∧
    o + 8 * (1 + (n : Int)) ≤ (if s.me.smode then 2 ^ 18 else 0x3E000) ∧
    t.lsWords (coreOf s.cur) o.toNat (1 + n) = ws.map (fun w => (w, false))) ∧
    (∃ g, ∃ (d a b : Ix) (s : State), ∃ v o, ∃ ws : List Word, Ready s g [d, a, b] [] none ∧
    s.me.intNil d = true ∧
    IntName s a ∧
    IntName s b ∧
    ReadsInt s s.counted a v false s.counted ∧
    ReadsInt s s.counted b o false s.counted ∧
    0 ≤ v ∧
    v < 2 ^ 16 ∧
    0 ≤ o ∧
    o % 8 = 0 ∧
    o + 128 ≤ (if s.me.smode then 2 ^ 18 else 0x3E000) ∧
    let acc := lsAccOf s (coreOf s.cur) o.toNat 128 false none
    let t := s.counted.drainFor acc
    t.blocked acc = false ∧
    t.lsWords (coreOf s.cur) o.toNat 16 = ws.map (fun w => (w, false))) ∧
    (∃ g, ∃ (d a b : Ix) (s : State), ∃ v w, Ready s g [d, a, b] [] none ∧
    s.me.intNil d = true ∧
    IntName s a ∧
    IntName s b ∧
    ReadsInt s s.counted a v false s.counted ∧
    ReadsInt s s.counted b w false s.counted ∧
    0 ≤ v ∧
    v < 2 ^ 26 ∧
    0 ≤ w ∧
    w < 2 ^ 32) ∧
    (∃ g, ∃ (d a : Ix) (s : State), ∃ v, Ready s g [d, a] [] none ∧
    s.me.intNil d = true ∧
    IntName s a ∧
    ReadsInt s s.counted a v false s.counted) :=
  ⟨⟨g0, 4, 5, 19, W, 0, 64, 0, [0], ready_plain rfl rfl rfl, rfl, ⟨_, _, _, _, rfl, rfl⟩, ⟨_, _, _, _, rfl, rfl⟩,
      reads_int rfl, reads_int rfl, by decide, by decide, by decide, by decide⟩,
    ⟨g0, 4, 5, 19, W, 0, 64, List.replicate 16 0, ready_plain rfl rfl rfl, rfl, ⟨_, _, _, _, rfl, rfl⟩,
      ⟨_, _, _, _, rfl, rfl⟩, reads_int rfl, reads_int rfl, by decide, by decide, by decide, by decide, by decide, by decide⟩,
    ⟨g0, 4, 5, 5, W, 0, 0, ready_plain rfl rfl rfl, rfl, ⟨_, _, _, _, rfl, rfl⟩, ⟨_, _, _, _, rfl, rfl⟩, reads_int rfl,
      reads_int rfl, by decide⟩,
    ⟨g0, 4, 5, W, 0, ready_plain rfl rfl rfl, rfl, ⟨_, _, _, _, rfl, rfl⟩, reads_int rfl⟩⟩

theorem witness_CommandEnds :
    (∃ (s : State) (id : Nat) (c : Cmd), mfind id s.cmds = some c ∧
    s.repacking c.core = true) ∧
    (∃ (s : State) (id : Nat) (c : Cmd) (i : Instr), ∃ code sub det, EngineEvent id i ∧
    mfind id s.cmds = some c ∧
    c.ended = some (code, sub, det) ∧
    s.repacking c.core = true) ∧
    (∃ (s : State) (id : Nat) (c : Cmd) (i : Instr), ∃ code sub det, EngineEvent id i ∧
    mfind id s.cmds = some c ∧
    c.ended = some (code, sub, det) ∧
    s.repacking c.core = false) ∧
    (∃ (s : State) (c : Cmd), s.repacking c.core = false) ∧
    (∃ (s : State) (id : Nat) (c : Cmd) (t : Tid), mfind id s.cmds = some c ∧
    t ≠ c.tid ∧
    (∀ d, c.dst = some d → d.tid ≠ t)) ∧
    (∃ (s : State) (id : Nat) (c : Cmd), ∃ d n, mfind id s.cmds = some c ∧
    c.dst = some d ∧
    Lives s d ∧
    d.ix ≠ 0 ∧
    (s.slot d.tid).names[d.ix - 1]? = some n ∧
    n.pend = some d.tk) :=
  ⟨⟨{ WE (wCmd (.dtload 0x8000)) with cores := [(0, { Core.reset with repack := some ⟨0, 0, 100, [], none⟩ })] }, 9, _, rfl, rfl⟩,
    ⟨{ WE { wCmd (.dtload 0x8000) with ended := some (0, 0, 0) } with
        cores := [(0, { Core.reset with repack := some ⟨0, 0, 100, [], none⟩ })] }, 9, _, _, _, _, _, .dtload, rfl, rfl, rfl⟩,
    ⟨WE { wCmd (.dtload 0x8000) with ended := some (0, 0, 0) }, 9, _, _, _, _, _, .dtload, rfl, rfl, rfl⟩,
    ⟨W, wCmd (.dtload 0x8000), rfl⟩,
    ⟨WE (wCmd (.dtload 0x8000)), 9, _, 17, rfl, by decide, by intro d h; cases h; decide⟩,
    ⟨WE (wCmd (.dtload 0x8000)), 9, _, _, _, rfl, rfl, ⟨rfl, by decide, by decide⟩, by decide, rfl, rfl⟩⟩

theorem witness_CommandsStartInOrder :
    (∃ (s : State) (id : Nat) (c : Cmd), mfind id s.cmds = some c ∧
    c.begun = false ∧
    c.kind.engine ≠ 1 ∧
    c.kind.engine ≠ 5) ∧
    (∃ (s : State) (id : Id) (i : Instr) (c : Cmd), EngineEvent id i ∧
    mfind id s.cmds = some c ∧
    c.ended = none ∧
    s.canRun id c = false) :=
  ⟨⟨WE (wCmd (.dtload 0x8000)), 9, _, rfl, rfl, by decide, by decide⟩,
    ⟨WE { wCmd (.dtload 0x8000) with ws := some ⟨0, 1, 0, 0⟩ }, 9, _, _, .dtload, rfl, rfl, rfl⟩⟩

theorem witness_CopiesMove :
    (∃ (s : State) (id : Nat), ∃ c m da db k, AtEngine s id c ∧
    c.kind = .copy m da db (8 * k) ∧
    m.fmt = false ∧
    m.dsp = .loc ∧
    m.ssp = .loc ∧
    c.prog = 0 ∧
    0 < k ∧
    8 * k ≤ 4096 ∧
    da % 8 = 0 ∧
    db % 8 = 0 ∧
    da + 8 * k ≤ 2 ^ 18 ∧
    db + 8 * k ≤ 2 ^ 18) ∧
    (∃ (s : State) (id : Nat), ∃ c m da db k pa, AtEngine s id c ∧
    c.kind = .copy m da db (8 * k) ∧
    m.fmt = false ∧
    m.dsp = .loc ∧
    m.ssp = .va ∧
    c.prog = 0 ∧
    0 < k ∧
    8 * k ≤ 4096 ∧
    da % 8 = 0 ∧
    db % 8 = 0 ∧
    da + 8 * k ≤ 2 ^ 18 ∧
    Mapped s c db pa (8 * k) .rd) ∧
    (∃ (s : State) (id : Nat), ∃ c m da db k pa, AtEngine s id c ∧
    c.kind = .copy m da db (8 * k) ∧
    m.fmt = false ∧
    m.dsp = .loc ∧
    m.ssp = .va ∧
    c.prog = 0 ∧
    0 < k ∧
    8 * k ≤ 4096 ∧
    db % 8 = 0 ∧
    db + 8 * k ≤ 2 ^ 64 ∧
    (∀ j < 8 * k, canonical (db + j) = true ∧ ∃ l, s.cached c.clu c.part (db + j) = some l ∧
      throughLeaf l (db + j) c.smode .rd = .ok (pa + j) l) ∧
    let dev := pa / 2 ^ 42 % 1024
    isPeer pa = true ∧
    s.reaches dev = true ∧
    dev ≠ s.devNum ∧
    (∀ a ∈ s.asked, a.id ≠ c.key)) ∧
    (∃ (s : State) (id : Nat), ∃ c m da db n q sc s', AtEngine s id c ∧
    c.kind = .copy m da db n ∧
    m.fmt = false ∧
    m.ssp = .va ∧
    c.prog = 0 ∧
    0 < n ∧
    db < 2 ^ 64 ∧
    s.xlateNow c.clu c.part c.smode db .rd = (.fault q sc, s') ∧
    (q = 8 ∨ q = 9)) ∧
    (∃ (s : State) (id : Nat), ∃ c va e s1, AtEngine s id c ∧
    c.kind = .dtload va ∧
    c.aux = [] ∧
    s.pegBusy id c.clu = false ∧
    (dtEntry c.started va).run s = .ok (e, s1)) ∧
    (∃ (s : State) (id : Nat), ∃ c va ptab nch ws pa, AtEngine s id c ∧
    c.kind = .dtload va ∧
    c.aux = ptab :: nch :: ws ∧
    let n := 2048 + 4 * (nch + 1)
    let lo := 4096 * c.prog
    let k := min 4096 (n - lo)
    lo < n ∧
    ptab % 8 = 0 ∧
    Mapped s c (ptab + lo) pa k .rd ∧
    (∀ j < k, isDev (pa + j) = true) ∧
    (∀ j < k, s.memPoison (pa + j) = false)) ∧
    (∃ (s : State) (id : Nat), ∃ c va pa l s', AtEngine s id c ∧
    c.kind = .dtload va ∧
    c.aux = [] ∧
    s.pegBusy id c.clu = false ∧
    va < 2 ^ 64 ∧
    s.xlateNow c.clu c.part c.smode va .rd = (.ok pa l, s') ∧
    s'.fdtEntry c.part l.fdx = some none) :=
  ⟨⟨WE (wCmd (.copy ⟨false, false, .loc, .loc, .none, .rne, false, false⟩ 64 128 16)), 9, _, _, 64, 128, 2, ⟨rfl, rfl, rfl⟩, rfl, rfl,
      rfl, rfl, rfl, by decide⟩,
    ⟨WE (wCmd (.copy ⟨false, false, .loc, .va, .none, .rne, false, false⟩ 64 0x8000 16)), 9, _, _, 64, 0x8000, 2, 0x8000,
      ⟨rfl, rfl, rfl⟩, rfl, rfl, rfl, rfl, rfl, by decide, by decide, by decide, by decide, by decide,
      mapped_low rfl rfl rfl rfl (by decide) (by decide)⟩,
    ⟨wFarCopy, 9, _, _, 64, 0x8000, 2, 0x80040000008000, ⟨rfl, rfl, rfl⟩, rfl, rfl, rfl, rfl, rfl, by decide, by decide, by decide,
      by decide, wFarCopy_leaf, by decide, by decide, by decide, nofun⟩,
    ⟨WE (wCmd (.copy ⟨false, false, .loc, .va, .none, .rne, false, false⟩ 64 0x40000000000 16)), 9, _, _, 64, 0x40000000000, 16,
      8, 2, _, ⟨rfl, rfl, rfl⟩, rfl, rfl, rfl, rfl, by decide, by decide, rfl, .inl rfl⟩,
    by
      obtain ⟨e, s1, h⟩ := got_ok (x := (dtEntry (wCmd (.dtload 0x8000)).started 0x8000).run wCoded) (by decide +kernel)
      exact ⟨wCoded, 9, _, _, e, s1, ⟨rfl, rfl, rfl⟩, rfl, rfl, rfl, h⟩,
    ⟨WE { wCmd (.dtload 0x8000) with aux := [0xC000, 512], prog := 1 }, 9, _, _, 0xC000, 512, [], 0xD000, ⟨rfl, rfl, rfl⟩, rfl,
      rfl, by decide, by decide, mapped_low rfl rfl rfl rfl (by decide) (by decide), by decide, by decide⟩,
    ⟨WE (wCmd (.dtload 0x8000)), 9, _, _, _, _, _, ⟨rfl, rfl, rfl⟩, rfl, rfl, rfl, by decide, rfl, rfl⟩⟩

theorem witness_CopiesMove_loads :
    (∃ (s : State) (id : Nat) (c : Cmd) (va ptab nch : Nat) (ws : List Nat) (pa : Nat), AtEngine s id c ∧ c.kind = .dtload va ∧
    c.aux = ptab :: nch :: ws ∧
    let n := 2048 + 4 * (nch + 1)
    let lo := 4096 * c.prog
    let k := min 4096 (n - lo)
    lo < n ∧ ptab % 8 = 0 ∧ Mapped s c (ptab + lo) pa k .rd ∧ (∀ j < k, isDev (pa + j) = true) ∧
    (∀ j < k, s.memPoison (pa + j) = false) ∧ lo + k < n) ∧
    (∃ (s : State) (id : Nat) (c : Cmd) (va ptab nch : Nat) (ws : List Nat) (pa : Nat), AtEngine s id c ∧ c.kind = .dtload va ∧
    c.aux = ptab :: nch :: ws ∧
    let n := 2048 + 4 * (nch + 1)
    let lo := 4096 * c.prog
    let k := min 4096 (n - lo)
    lo < n ∧ ptab % 8 = 0 ∧ Mapped s c (ptab + lo) pa k .rd ∧ (∀ j < k, isDev (pa + j) = true) ∧
    (∀ j < k, s.memPoison (pa + j) = false) ∧
    let got := ws ++ (List.range (k / 4)).map (fun j => s.memRead (pa + 4 * j) 4)
    lo + k = n ∧ increasing ((got.drop 512).map (BitVec.ofNat 64)) = true) ∧
    (∃ (s : State) (id : Nat) (c : Cmd) (va ptab nch : Nat) (ws : List Nat) (pa : Nat), AtEngine s id c ∧ c.kind = .dtload va ∧
    c.aux = ptab :: nch :: ws ∧
    let n := 2048 + 4 * (nch + 1)
    let lo := 4096 * c.prog
    let k := min 4096 (n - lo)
    lo < n ∧ ptab % 8 = 0 ∧ Mapped s c (ptab + lo) pa k .rd ∧ (∀ j < k, isDev (pa + j) = true) ∧
    (∀ j < k, s.memPoison (pa + j) = false) ∧
    let got := ws ++ (List.range (k / 4)).map (fun j => s.memRead (pa + 4 * j) 4)
    lo + k = n ∧ increasing ((got.drop 512).map (BitVec.ofNat 64)) = false) := by
  have hd : ∀ k, k ≤ 4096 → ∀ j < k, isDev (0xC000 + j) = true := by intro k hk j hj; simp [isDev]; omega
  refine ⟨⟨WE { wCmd (.dtload 0x8000) with aux := [0xC000, 1000] }, 9, _, _, 0xC000, 1000, [], 0xC000, ⟨rfl, rfl, rfl⟩, rfl, rfl,
      by decide, by decide, mapped_low rfl rfl rfl rfl (by decide) (by decide), hd _ (by decide), fun _ _ => rfl, by decide⟩,
    ⟨WE { wCmd (.dtload 0x8000) with aux := [0xC000, 0] }, 9, _, _, 0xC000, 0, [], 0xC000, ⟨rfl, rfl, rfl⟩, rfl, rfl,
      by decide, by decide, mapped_low rfl rfl rfl rfl (by decide) (by decide), hd _ (by decide), fun _ _ => rfl, by decide,
      by decide +kernel⟩,
    ⟨WE { wCmd (.dtload 0x8000) with aux := [0xC000, 1] }, 9, _, _, 0xC000, 1, [], 0xC000, ⟨rfl, rfl, rfl⟩, rfl, rfl,
      by decide, by decide, mapped_low rfl rfl rfl rfl (by decide) (by decide), hd _ (by decide), fun _ _ => rfl, by decide,
      by decide +kernel⟩⟩

theorem witness_GathersAndScatters :
    (∃ (s : State) (id : Nat), ∃ c req psn keepf op code sub, AtEngine s id c ∧
    c.kind = op.kind req psn keepf ∧
    (plkReq req).check op c.smode = some (code, sub)) ∧
    (∃ (s : State) (id : Nat), ∃ c req psn keepf a pa, AtEngine s id c ∧
    c.kind = .gather req psn keepf ∧
    OneRow s c req .gather a pa .rd ∧
    (plkReq req).sce = false ∧
    s.memPoison pa = false) ∧
    (∃ (s : State) (id : Nat), ∃ c req psn keepf, AtEngine s id c ∧
    c.kind = .gather req psn keepf ∧
    (plkReq req).check .gather c.smode = none ∧
    (plkReq req).n = 1 ∧
    (plkReq req).rb = 8 ∧
    (plkReq req).sce = false ∧
    c.aux = [] ∧
    s.lsP c.core (plkReq req).ioff = true) ∧
    (∃ (s : State) (id : Nat), ∃ c req psn keepf a pa, AtEngine s id c ∧
    c.kind = .scatter req psn keepf ∧
    OneRow s c req .scatter a pa .wr ∧
    (s.lsP c.core (plkReq req).loff = false ∨ psn = true)) ∧
    (∃ (s : State) (id : Nat), ∃ c req psn keepf a pa, AtEngine s id c ∧
    c.kind = .scatadd req psn keepf ∧
    OneRow s c req .scatadd a pa .rw ∧
    (plkReq req).ek = 9 ∧
    isHost pa = false ∧
    (s.lsP c.core (plkReq req).loff = false ∨ psn = true)) ∧
    (∃ (s : State) (id : Nat), ∃ c req psn keepf, AtEngine s id c ∧
    c.kind = .scatter req psn keepf ∧
    (plkReq req).check .scatter c.smode = none ∧
    (plkReq req).n = 1 ∧
    c.aux = [] ∧
    c.prog = 0 ∧
    s.lsP c.core (plkReq req).ioff = true) :=
  ⟨⟨WE (wCmd (.gather [0x9001, 0x10000000008, 0x10008030000, 0] false false)), 9, _, _, _, _, .gather, 0x0104, 0, ⟨rfl, rfl, rfl⟩, rfl,
      by decide⟩,
    ⟨WE (wCmd (.gather [0x9000, 0x10000000008, 0x10008030000, 0] false false)), 9, _, _, _, _, 0x9000, 0x9000, ⟨rfl, rfl, rfl⟩, rfl,
      ⟨by decide, by decide, by decide, ⟨rfl, rfl⟩, by decide, by decide, by decide,
        mapped_low rfl rfl rfl rfl (by decide) (by decide), by decide⟩, by decide, by decide⟩,
    ⟨{ WE (wCmd (.gather [0x9000, 0x10000000008, 0x10008030000, 0] false false)) with lp := [(0, true)] }, 9, _, _, _, _,
      ⟨rfl, rfl, rfl⟩, rfl, by decide, by decide, by decide, by decide, rfl, by decide⟩,
    ⟨WE (wCmd (.scatter [0x9000, 0x10000000008, 0x10008030000, 0] false false)), 9, _, _, _, _, 0x9000, 0x9000, ⟨rfl, rfl, rfl⟩, rfl,
      ⟨by decide, by decide, by decide, ⟨rfl, rfl⟩, by decide, by decide, by decide,
        mapped_low rfl rfl rfl rfl (by decide) (by decide), by decide⟩, .inl (by decide)⟩,
    ⟨WE (wCmd (.scatadd [0x9000, 0x10000000008, 0x10008030000, 0x120000000000] false false)), 9, _, _, _, _, 0x9000, 0x9000,
      ⟨rfl, rfl, rfl⟩, rfl, ⟨by decide, by decide, by decide, ⟨rfl, rfl⟩, by decide, by decide, by decide,
        mapped_low rfl rfl rfl rfl (by decide) (by decide), by decide⟩, by decide, by decide, .inl (by decide)⟩,
    ⟨{ WE (wCmd (.scatter [0x9000, 0x10000000008, 0x10008030000, 0] false false)) with lp := [(0, true)] }, 9, _, _, _, _,
      ⟨rfl, rfl, rfl⟩, rfl, by decide, by decide, rfl, rfl, by decide⟩⟩

theorem witness_BankTransforms :
    (∃ (s : State) (id : Nat), ∃ c op off, AtEngine s id c ∧
    c.kind = .bankop op off ∧
    c.aux = [] ∧
    (∃ w ∈ s.lsWords c.core off 4, w.2 = true)) ∧
    (∃ (s : State) (id : Nat), ∃ c op off ws, AtEngine s id c ∧
    c.kind = .bankop op off ∧
    c.aux = [] ∧
    s.lsWords c.core off 4 = ws.map (fun w => (w, false)) ∧
    bankReq op ws = none) ∧
    (∃ (s : State) (id : Nat), ∃ c op off ws r pa pb, AtEngine s id c ∧
    c.kind = .bankop op off ∧
    c.aux = [] ∧
    c.prog = 0 ∧
    op < 3 ∧
    s.lsWords c.core off 4 = ws.map (fun w => (w, false)) ∧
    bankReq op ws = some r ∧
    r.n * r.dk.bytes ≤ 128 ∧
    Mapped s c r.dva pa (r.n * r.dk.bytes) .wr ∧
    (∀ j < r.n * r.dk.bytes, isDev (pa + j) = true) ∧
    (op ≠ 0 → Mapped s c r.sva pb (r.n * r.sk.bytes) .rd ∧ ∀ j < r.n * r.sk.bytes, isDev (pb + j) = true)) ∧
    (∃ (s : State) (id : Nat), ∃ c off ws r pa pb, AtEngine s id c ∧
    c.kind = .bankop 3 off ∧
    c.aux = [] ∧
    c.prog = 0 ∧
    s.lsWords c.core off 4 = ws.map (fun w => (w, false)) ∧
    bankReq 3 ws = some r ∧
    r.n * r.sk.bytes ≤ 128 ∧
    Mapped s c r.dva pa 8 .wr ∧
    isDev pa = true ∧
    Mapped s c r.sva pb (r.n * r.sk.bytes) .rd ∧
    (∀ j < r.n * r.sk.bytes, isDev (pb + j) = true)) :=
  ⟨⟨{ WE (wCmd (.bankop 0 64)) with lp := [(8, true)] }, 9, _, _, _, ⟨rfl, rfl, rfl⟩, rfl, rfl, by decide⟩,
    ⟨WE (wCmd (.bankop 0 64)), 9, _, _, _, [0, 0, 0, 0], ⟨rfl, rfl, rfl⟩, rfl, rfl, by decide, by decide⟩,
    ⟨{ WE (wCmd (.bankop 0 64)) with lmem := [(65, 0xA0), (80, 1)] }, 9, _, _, _, [0xA000, 0, 1, 0], _, 0xA000, 0, ⟨rfl, rfl, rfl⟩,
      rfl, rfl, rfl, by decide, by decide, rfl, by decide, mapped_low rfl rfl rfl rfl (by decide) (by decide), by decide,
      fun h => absurd rfl h⟩,
    ⟨{ WE (wCmd (.bankop 3 64)) with lmem := [(65, 0xA0), (72, 0x80), (73, 0xA0), (80, 1), (85, 5)] }, 9, _, _,
      [0xA000, 0xA080, 0x50000000001, 0], _, 0xA000, 0xA080, ⟨rfl, rfl, rfl⟩, rfl, rfl, rfl, by decide, rfl, by decide,
      mapped_low rfl rfl rfl rfl (by decide) (by decide), by decide,
      mapped_low rfl rfl rfl rfl (by decide) (by decide), by decide⟩⟩

theorem witness_MatrixCommandsRun_1 :
    (∃ (s : State) (id : Id) (c : Cmd), mfind id s.cmds = some c ∧
    c.kind.engine = 5 ∧
    c.inFifo = false ∧
    (s.clu c.clu).mfifo.length < 32 ∧
    (∀ e ∈ s.cmds, e.1 ≠ id → e.2.inFifo = false → e.2.kind.engine = 5 → e.2.clu = c.clu →
      if e.2.core = c.core then id < e.1 else (e.2.since = c.since → c.core < e.2.core))) :=
  ⟨WE (wCmd (.mclr 0)), 9, _, rfl, rfl, rfl, by decide, by
        intro e he hne
        rcases List.mem_singleton.1 he with rfl
        exact absurd rfl hne⟩

theorem witness_MatrixCommandsRun_2 :
    (∃ (s : State) (id : Nat), ∃ c off z t gg conf a b d, AtEngine s id c ∧
    c.kind = .mma off z gg t conf ∧
    c.aux = [] ∧
    c.prog = 0 ∧
    gg = false ∧
    t = false ∧
    s.lsWords c.core off 4 = d.map (fun w => (w, false)) ∧
    mmaOpds (mcfgOf conf) false false d [] = some (a, b) ∧
    (mcfgOf conf).int = true ∧
    (mcfgOf conf).af = 4 ∧
    (mcfgOf conf).bf = 4 ∧
    (mcfgOf conf).ags = 0 ∧
    (mcfgOf conf).bgs = 0 ∧
    (mcfgOf conf).k ≤ 256 ∧
    rowsClean s c.clu a (mcfgOf conf).k ∧
    rowsClean s c.clu b (mcfgOf conf).k ∧
    (∀ r ∈ a.rows ++ b.rows, s.partOf (c.clu * 8 + r.1 / 2 ^ 18) = some c.part) ∧
    ∃ i < (mcfgOf conf).m, ∃ j < (mcfgOf conf).n, ∃ ra rb, a.rows[i]? = some (ra, false) ∧
    b.rows[j]? = some (rb, false)) :=
  ⟨{ WE (wCmd (.mma 64 true false false wConf)) with lmem := [(69, 0x80), (77, 0x80)] }, 9, _, _, _, _, _, _, _, _,
      [0x800000000000, 0x800000000000, 0, 0], ⟨rfl, rfl, rfl⟩, rfl, rfl, rfl, rfl, rfl, by decide, rfl, by decide, by decide, by decide,
      by decide, by decide, by decide, by unfold rowsClean; decide, by unfold rowsClean; decide, by decide, 0, by decide, 0, by decide, _, _,
      rfl, rfl⟩

theorem witness_MatrixCommandsRun_3 :
    (∃ (s : State) (id : Nat), ∃ c off z t gg conf a b d, AtEngine s id c ∧
    c.kind = .mma off z gg t conf ∧
    c.aux = [] ∧
    c.prog = 0 ∧
    gg = false ∧
    t = false ∧
    s.lsWords c.core off 4 = d.map (fun w => (w, false)) ∧
    mmaOpds (mcfgOf conf) false false d [] = some (a, b) ∧
    (mcfgOf conf).int = true ∧
    (mcfgOf conf).af = 4 ∧
    (mcfgOf conf).bf = 4 ∧
    (mcfgOf conf).ags = 0 ∧
    (mcfgOf conf).bgs = 0 ∧
    (mcfgOf conf).k ≤ 256 ∧
    rowsClean s c.clu a (mcfgOf conf).k ∧
    rowsClean s c.clu b (mcfgOf conf).k ∧
    (∀ r ∈ a.rows ++ b.rows, s.partOf (c.clu * 8 + r.1 / 2 ^ 18) = some c.part) ∧
    ∃ i j, i < 256 ∧
    j < 256 ∧
    ¬(i < (mcfgOf conf).m ∧ j < (mcfgOf conf).n)) :=
  ⟨{ WE (wCmd (.mma 64 true false false wConf)) with lmem := [(69, 0x80), (77, 0x80)] }, 9, _, _, _, _, _, _, _, _,
      [0x800000000000, 0x800000000000, 0, 0], ⟨rfl, rfl, rfl⟩, rfl, rfl, rfl, rfl, rfl, by decide, rfl, by decide, by decide, by decide,
      by decide, by decide, by decide, by unfold rowsClean; decide, by unfold rowsClean; decide, by decide, 1, 0, by decide⟩

theorem witness_MatrixCommandsRun_4 :
    (∃ (s : State) (id : Nat), ∃ c off z t conf a b d, AtEngine s id c ∧
    c.kind = .mma off z false t conf ∧
    c.aux = [] ∧
    s.lsWords c.core off 4 = d.map (fun w => (w, false)) ∧
    mmaOpds (mcfgOf conf) false t d [] = some (a, b) ∧
    (∃ r ∈ a.rows ++ b.rows, s.partOf (c.clu * 8 + r.1 / 2 ^ 18) ≠ some c.part)) :=
  ⟨{ WE (wCmd (.mma 64 false false false wConf)) with
        parts := [(0, { Part.reset with cfg := some { wPcb with first := 1 } })], lmem := [(69, 0x80), (77, 0x80)] },
      9, _, _, _, _, _, _, _, [0x800000000000, 0x800000000000, 0, 0], ⟨rfl, rfl, rfl⟩, rfl, rfl, by decide, rfl, by decide⟩

theorem witness_MatrixCommandsRun_5 :
    (∃ (s : State) (id : Nat), ∃ c off z gg t conf d, AtEngine s id c ∧
    c.kind = .mma off z gg t conf ∧
    c.aux = [] ∧
    gg = false ∧
    s.lsWords c.core off 4 = d.map (fun w => (w, false)) ∧
    mmaOpds (mcfgOf conf) false t d [] = none) :=
  ⟨WE (wCmd (.mma 64 true false false wConf)), 9, _, _, _, _, _, _, [0, 0, 0, 0], ⟨rfl, rfl, rfl⟩, rfl, rfl, rfl, by decide,
      by decide⟩

theorem witness_MatrixCommandsRun_6 :
    (∃ (s : State) (id : Nat), ∃ c conf, AtEngine s id c ∧
    c.kind = .mclr conf) :=
  ⟨WE (wCmd (.mclr 0)), 9, _, _, ⟨rfl, rfl, rfl⟩, rfl⟩

theorem witness_MatrixCommandsRun_7 :
    (∃ (s : State) (id : Nat), ∃ c off conf h es, AtEngine s id c ∧
    c.kind = .mmap off conf ∧
    s.lsWords c.core off 4 = h.map (fun w => (w, false)) ∧
    mapHeaderOk h = true ∧
    off + 32 + 4 * mapRows h ≤ (if c.smode then 2 ^ 18 else 0x3E000) ∧
    (∀ k < mapRows h, s.lsP c.core (off + 32 + 4 * k) = false) ∧
    es = (List.range (mapRows h)).map (fun k => s.lsRead c.core (off + 32 + 4 * k) 4) ∧
    (∀ e ∈ es, e < 2 ^ 30 ∧ e % 8 = 0)) :=
  ⟨{ WE (wCmd (.mmap 64 wConf)) with lmem := [(72, 1)] }, 9, _, _, _, [0, 1, 0, 0], [0], ⟨rfl, rfl, rfl⟩, rfl, by decide, by decide,
      by decide, by decide, by decide, by decide⟩

theorem witness_MatrixCommandsRun_8 :
    (∃ (s : State) (id : Nat), ∃ c conf core off, AtEngine s id c ∧
    c.kind = .mdrain false conf ∧
    c.aux = [] ∧
    c.prog = 0 ∧
    let mc := mcfgOf conf
    let t := s.acc c.clu mc.set
    t.map ≠ [] ∧
    mc.m = 1 ∧
    1 ≤ mapRows t.map ∧
    mc.ok = 0 ∧
    mapEntry t.map 0 = (core, off) ∧
    s.partOf core = some c.part ∧
    off % 8 = 0 ∧
    off + 8 * mc.n ≤ 0x3E000 ∧
    wbits (nthW t.map 2) 18 18 = 0) :=
  ⟨{ WE (wCmd (.mdrain false wConf)) with
        clus := [(0, { Cluster.reset with mfifo := [9], acc0 := { AccSet.reset with map := [0, 1, 0, 0, 0x2000] } })] }, 9, _, _,
      0, 0x2000, ⟨rfl, rfl, rfl⟩, rfl, rfl, rfl, by decide⟩

theorem witness_MatrixCommandsRun_9 :
    (∃ (s : State) (id : Nat), ∃ c acc conf, AtEngine s id c ∧
    c.kind = .mdrain acc conf ∧
    (s.acc c.clu (mcfgOf conf).set).map = []) :=
  ⟨WE (wCmd (.mdrain false wConf)), 9, _, _, _, ⟨rfl, rfl, rfl⟩, rfl, rfl⟩

theorem witness_MatrixCommandsRun_10 :
    (∃ (s : State) (id : Nat), ∃ c acc conf, AtEngine s id c ∧
    c.kind = .mdrain acc conf ∧
    let d := mdrainSt c
    let t := s.acc c.clu (mcfgOf conf).set
    let box := wbits (nthW t.map 0) 39 19
    d.since ≠ 0 ∧
    d.since - 1 + 16 * s.waitLimit c.core < s.cycle ∧
    wbits (nthW t.map 2) 18 18 = 0 ∧
    s.lsF (c.clu * 8 + box / 2 ^ 18) (box % 2 ^ 18 + 8 * (mcfgOf conf).n * c.prog + 8 * d.got.length) = false) :=
  ⟨{ WE { wCmd (.mdrain true wConf) with aux := [0, 0, 1] } with cycle := 1000 }, 9, _, _, _, ⟨rfl, rfl, rfl⟩, rfl, by decide⟩

theorem witness_MatrixCommandsRun_11 :
    (∃ (s : State) (id : Nat), ∃ c conf core off, AtEngine s id c ∧
    c.kind = .mdrain true conf ∧
    c.aux = [] ∧
    c.prog = 0 ∧
    let mc := mcfgOf conf
    let t := s.acc c.clu mc.set
    let box := wbits (nthW t.map 0) 39 19
    1 ≤ mc.m ∧
    mc.m ≤ mapRows t.map ∧
    t.map ≠ [] ∧
    mapEntry t.map 0 = (core, off) ∧
    s.partOf core = some c.part ∧
    off + mc.n * outBytes mc.ok ≤ 0x3E000 ∧
    box % 2 ^ 18 + 8 * mc.n ≤ 0x3E000 ∧
    s.partOf (c.clu * 8 + box / 2 ^ 18) ≠ some c.part ∧
    wbits (nthW t.map 2) 18 18 = 0) :=
  ⟨{ WE (wCmd (.mdrain true wConf)) with
        parts := [(0, { Part.reset with cfg := some { wPcb with ncm1 := 0 } })],
        clus := [(0, { Cluster.reset with mfifo := [9], acc0 := { AccSet.reset with map := [0x2000000000, 1, 0, 0, 0x2000] } })] },
      9, _, _, 0, 0x2000, ⟨rfl, rfl, rfl⟩, rfl, by decide⟩

theorem witness_MatrixCommandsRun_12 :
    (∃ (s : State) (id : Nat), ∃ c acc conf, AtEngine s id c ∧
    c.kind = .mdrain acc conf ∧
    let d := mdrainSt c
    let t := s.acc c.clu (mcfgOf conf).set
    let box := wbits (nthW t.map 0) 39 19
    d.since ≠ 0 ∧
    d.since - 1 + 16 * s.waitLimit c.core < s.cycle ∧
    wbits (nthW t.map 2) 18 18 = 1 ∧
    (wbits (nthW t.map 2) 17 0 < 0x3E000 ∨ c.smode = true) ∧
    s.lsF (c.clu * 8 + box / 2 ^ 18) (box % 2 ^ 18 + 8 * (mcfgOf conf).n * c.prog + 8 * d.got.length) = false) :=
  ⟨{ WE { wCmd (.mdrain true wConf) with aux := [0, 0, 1] } with
        cycle := 1000
        clus := [(0, { Cluster.reset with mfifo := [9], acc0 := { AccSet.reset with map := [0, 0, 0x40000, 0, 0x2000] } })] }, 9,
      _, _, _, ⟨rfl, rfl, rfl⟩, rfl, by decide⟩

theorem witness_MatrixCommandsRun :
    (∃ (s : State) (id : Id) (c : Cmd), mfind id s.cmds = some c ∧
    c.kind.engine = 5 ∧
    c.inFifo = false ∧
    (s.clu c.clu).mfifo.length < 32 ∧
    (∀ e ∈ s.cmds, e.1 ≠ id → e.2.inFifo = false → e.2.kind.engine = 5 → e.2.clu = c.clu →
      if e.2.core = c.core then id < e.1 else (e.2.since = c.since → c.core < e.2.core))) ∧
    (∃ (s : State) (id : Nat), ∃ c off z t gg conf a b d, AtEngine s id c ∧
    c.kind = .mma off z gg t conf ∧
    c.aux = [] ∧
    c.prog = 0 ∧
    gg = false ∧
    t = false ∧
    s.lsWords c.core off 4 = d.map (fun w => (w, false)) ∧
    mmaOpds (mcfgOf conf) false false d [] = some (a, b) ∧
    (mcfgOf conf).int = true ∧
    (mcfgOf conf).af = 4 ∧
    (mcfgOf conf).bf = 4 ∧
    (mcfgOf conf).ags = 0 ∧
    (mcfgOf conf).bgs = 0 ∧
    (mcfgOf conf).k ≤ 256 ∧
    rowsClean s c.clu a (mcfgOf conf).k ∧
    rowsClean s c.clu b (mcfgOf conf).k ∧
    (∀ r ∈ a.rows ++ b.rows, s.partOf (c.clu * 8 + r.1 / 2 ^ 18) = some c.part) ∧
    ∃ i < (mcfgOf conf).m, ∃ j < (mcfgOf conf).n, ∃ ra rb, a.rows[i]? = some (ra, false) ∧
    b.rows[j]? = some (rb, false)) ∧
    (∃ (s : State) (id : Nat), ∃ c off z t gg conf a b d, AtEngine s id c ∧
    c.kind = .mma off z gg t conf ∧
    c.aux = [] ∧
    c.prog = 0 ∧
    gg = false ∧
    t = false ∧
    s.lsWords c.core off 4 = d.map (fun w => (w, false)) ∧
    mmaOpds (mcfgOf conf) false false d [] = some (a, b) ∧
    (mcfgOf conf).int = true ∧
    (mcfgOf conf).af = 4 ∧
    (mcfgOf conf).bf = 4 ∧
    (mcfgOf conf).ags = 0 ∧
    (mcfgOf conf).bgs = 0 ∧
    (mcfgOf conf).k ≤ 256 ∧
    rowsClean s c.clu a (mcfgOf conf).k ∧
    rowsClean s c.clu b (mcfgOf conf).k ∧
    (∀ r ∈ a.rows ++ b.rows, s.partOf (c.clu * 8 + r.1 / 2 ^ 18) = some c.part) ∧
    ∃ i j, i < 256 ∧
    j < 256 ∧
    ¬(i < (mcfgOf conf).m ∧ j < (mcfgOf conf).n)) ∧
    (∃ (s : State) (id : Nat), ∃ c off z t conf a b d, AtEngine s id c ∧
    c.kind = .mma off z false t conf ∧
    c.aux = [] ∧
    s.lsWords c.core off 4 = d.map (fun w => (w, false)) ∧
    mmaOpds (mcfgOf conf) false t d [] = some (a, b) ∧
    (∃ r ∈ a.rows ++ b.rows, s.partOf (c.clu * 8 + r.1 / 2 ^ 18) ≠ some c.part)) ∧
    (∃ (s : State) (id : Nat), ∃ c off z gg t conf d, AtEngine s id c ∧
    c.kind = .mma off z gg t conf ∧
    c.aux = [] ∧
    gg = false ∧
    s.lsWords c.core off 4 = d.map (fun w => (w, false)) ∧
    mmaOpds (mcfgOf conf) false t d [] = none) ∧
    (∃ (s : State) (id : Nat), ∃ c conf, AtEngine s id c ∧
    c.kind = .mclr conf) ∧
    (∃ (s : State) (id : Nat), ∃ c off conf h es, AtEngine s id c ∧
    c.kind = .mmap off conf ∧
    s.lsWords c.core off 4 = h.map (fun w => (w, false)) ∧
    mapHeaderOk h = true ∧
    off + 32 + 4 * mapRows h ≤ (if c.smode then 2 ^ 18 else 0x3E000) ∧
    (∀ k < mapRows h, s.lsP c.core (off + 32 + 4 * k) = false) ∧
    es = (List.range (mapRows h)).map (fun k => s.lsRead c.core (off + 32 + 4 * k) 4) ∧
    (∀ e ∈ es, e < 2 ^ 30 ∧ e % 8 = 0)) ∧
    (∃ (s : State) (id : Nat), ∃ c conf core off, AtEngine s id c ∧
    c.kind = .mdrain false conf ∧
    c.aux = [] ∧
    c.prog = 0 ∧
    let mc := mcfgOf conf
    let t := s.acc c.clu mc.set
    t.map ≠ [] ∧
    mc.m = 1 ∧
    1 ≤ mapRows t.map ∧
    mc.ok = 0 ∧
    mapEntry t.map 0 = (core, off) ∧
    s.partOf core = some c.part ∧
    off % 8 = 0 ∧
    off + 8 * mc.n ≤ 0x3E000 ∧
    wbits (nthW t.map 2) 18 18 = 0) ∧
    (∃ (s : State) (id : Nat), ∃ c acc conf, AtEngine s id c ∧
    c.kind = .mdrain acc conf ∧
    (s.acc c.clu (mcfgOf conf).set).map = []) ∧
    (∃ (s : State) (id : Nat), ∃ c acc conf, AtEngine s id c ∧
    c.kind = .mdrain acc conf ∧
    let d := mdrainSt c
    let t := s.acc c.clu (mcfgOf conf).set
    let box := wbits (nthW t.map 0) 39 19
    d.since ≠ 0 ∧
    d.since - 1 + 16 * s.waitLimit c.core < s.cycle ∧
    wbits (nthW t.map 2) 18 18 = 0 ∧
    s.lsF (c.clu * 8 + box / 2 ^ 18) (box % 2 ^ 18 + 8 * (mcfgOf conf).n * c.prog + 8 * d.got.length) = false) ∧
    (∃ (s : State) (id : Nat), ∃ c conf core off, AtEngine s id c ∧
    c.kind = .mdrain true conf ∧
    c.aux = [] ∧
    c.prog = 0 ∧
    let mc := mcfgOf conf
    let t := s.acc c.clu mc.set
    let box := wbits (nthW t.map 0) 39 19
    1 ≤ mc.m ∧
    mc.m ≤ mapRows t.map ∧
    t.map ≠ [] ∧
    mapEntry t.map 0 = (core, off) ∧
    s.partOf core = some c.part ∧
    off + mc.n * outBytes mc.ok ≤ 0x3E000 ∧
    box % 2 ^ 18 + 8 * mc.n ≤ 0x3E000 ∧
    s.partOf (c.clu * 8 + box / 2 ^ 18) ≠ some c.part ∧
    wbits (nthW t.map 2) 18 18 = 0) ∧
    (∃ (s : State) (id : Nat), ∃ c acc conf, AtEngine s id c ∧
    c.kind = .mdrain acc conf ∧
    let d := mdrainSt c
    let t := s.acc c.clu (mcfgOf conf).set
    let box := wbits (nthW t.map 0) 39 19
    d.since ≠ 0 ∧
    d.since - 1 + 16 * s.waitLimit c.core < s.cycle ∧
    wbits (nthW t.map 2) 18 18 = 1 ∧
    (wbits (nthW t.map 2) 17 0 < 0x3E000 ∨ c.smode = true) ∧
    s.lsF (c.clu * 8 + box / 2 ^ 18) (box % 2 ^ 18 + 8 * (mcfgOf conf).n * c.prog + 8 * d.got.length) = false) :=
  ⟨witness_MatrixCommandsRun_1, witness_MatrixCommandsRun_2, witness_MatrixCommandsRun_3, witness_MatrixCommandsRun_4, witness_MatrixCommandsRun_5, witness_MatrixCommandsRun_6, witness_MatrixCommandsRun_7, witness_MatrixCommandsRun_8, witness_MatrixCommandsRun_9, witness_MatrixCommandsRun_10, witness_MatrixCommandsRun_11, witness_MatrixCommandsRun_12⟩

theorem witness_Collectives_1 :
    (∃ mk kind ck, Collective mk kind ck ∧
    ∃ (s : State) (id : Nat), ∃ c off q, AtEngine s id c ∧
    c.kind = ck off q ∧
    c.aux = [] ∧
    (∃ w ∈ s.lsWords c.core off 4, w.2 = true)) :=
  ⟨_, _, _, .reduce, { WE (wCmd (.xreduce 64 false)) with lp := [(8, true)] }, 9, _, _, _, ⟨rfl, rfl, rfl⟩, rfl, rfl, by decide⟩

theorem witness_Collectives_2 :
    (∃ mk kind ck, Collective mk kind ck ∧
    ∃ (s : State) (id : Nat), ∃ c off q, AtEngine s id c ∧
    c.kind = ck off q ∧
    ∃ ws, CollDesc s c kind off ws ∧
    let d := XDesc.of ws
    let key := setKey c.part d.set
    let u := if s.xBusy key then s else s.xSettle key
    mfind key u.xsets = none) :=
  ⟨_, _, _, .reduce, { WE (wCmd (.xreduce 64 false)) with lmem := [(65, 0xA0), (73, 0xB0), (80, 1)] }, 9, _, _, _, ⟨rfl, rfl, rfl⟩, rfl, [0xA000, 0xB000, 1, 0], ⟨rfl, by decide, by decide, by decide⟩, rfl⟩

theorem witness_Collectives_3 :
    (∃ mk kind ck, Collective mk kind ck ∧
    ∃ (s : State) (id : Nat), ∃ c off q, AtEngine s id c ∧
    c.kind = ck off q ∧
    ∃ ws, CollDesc s c kind off ws ∧
    let d := XDesc.of ws
    let key := setKey c.part d.set
    let u := if s.xBusy key then s else s.xSettle key
    ∃ x, mfind key u.xsets = some x ∧
    x.num u.devNum = none) :=
  ⟨_, _, _, .reduce, { WE (wCmd (.xreduce 64 false)) with lmem := [(65, 0xA0), (73, 0xB0), (80, 1)], xsets := [(0, wSet [1])] }, 9, _, _, _, ⟨rfl, rfl, rfl⟩, rfl, [0xA000, 0xB000, 1, 0], ⟨rfl, by decide, by decide, by decide⟩, wSet [1], by decide, by decide⟩

theorem witness_Collectives_4 :
    (∃ mk kind ck, Collective mk kind ck ∧
    ∃ (s : State) (id : Nat), ∃ c off q, AtEngine s id c ∧
    c.kind = ck off q ∧
    ∃ ws, CollDesc s c kind off ws ∧
    let d := XDesc.of ws
    let key := setKey c.part d.set
    let u := if s.xBusy key then s else s.xSettle key
    ∃ x, mfind key u.xsets = some x ∧
    x.num u.devNum ≠ none ∧
    d.gen ≠ x.gen % 65536) :=
  ⟨_, _, _, .reduce, { WE (wCmd (.xreduce 64 false)) with lmem := [(65, 0xA0), (73, 0xB0), (80, 1)], xsets := [(0, { wSet [0] with gen := 5 })] }, 9, _, _, _, ⟨rfl, rfl, rfl⟩, rfl, [0xA000, 0xB000, 1, 0], ⟨rfl, by decide, by decide, by decide⟩, { wSet [0] with gen := 5 }, by decide, by decide, by decide⟩

theorem witness_Collectives_5 :
    (∃ mk kind ck, Collective mk kind ck ∧
    ∃ (s : State) (id : Nat), ∃ c off q, AtEngine s id c ∧
    c.kind = ck off q ∧
    ∃ ws, CollDesc s c kind off ws ∧
    let d := XDesc.of ws
    let key := setKey c.part d.set
    let u := if s.xBusy key then s else s.xSettle key
    ∃ x n, mfind key u.xsets = some x ∧
    x.num u.devNum = some n ∧
    d.gen = x.gen % 65536 ∧
    s.xBusy key = false ∧
    u.leaving key = false ∧
    u.pledged key = false ∧
    (∀ p ∈ u.xin, ¬(p.kind = 13 ∧ p.key = key ∧ p.lseq = x.lseq)) ∧
    (kind = 3 → d.root < x.devs.length)) :=
  ⟨_, _, _, .reduce, { WE (wCmd (.xreduce 64 false)) with lmem := [(65, 0xA0), (73, 0xB0), (80, 1)], xsets := [(0, wSet [0])] }, 9, _, _, _, ⟨rfl, rfl, rfl⟩, rfl, [0xA000, 0xB000, 1, 0], ⟨rfl, by decide, by decide, by decide⟩, wSet [0], 0, by decide, by decide, by decide, by decide, by decide,
      by decide, by decide, nofun⟩

theorem witness_Collectives_6 :
    (∃ (s : State), ∃ key, (∀ p ∈ s.xin, p.key ≠ key)) :=
  ⟨W, 0, nofun⟩

theorem witness_Collectives_7 :
    (∃ (s : State), ∃ key x me mask, mfind key s.xsets = some x ∧
    x.devs.Nodup ∧
    x.auto_ = true ∧
    x.num s.devNum = some me ∧
    s.left key = none ∧
    s.verdict key x.lseq x = some mask ∧
    maskBit mask me = true) :=
  ⟨{ W with xsets := [(0, { wSet [0] with auto_ := true })], xin := [wMask 1] }, 0, { wSet [0] with auto_ := true }, 0,
      1 :: List.replicate 15 0, by decide, by decide, rfl, by decide, by decide, by decide, by decide⟩

theorem witness_Collectives_8 :
    (∃ mk kind ck, Collective mk kind ck ∧
    ∃ (s : State) (id : Nat), ∃ c off q key lseq first ws x, AtEngine s id c ∧
    c.kind = ck off q ∧
    CollUnder s c kind key lseq first false ws x ∧
    let d := XDesc.of ws
    kind = 3 ∧
    x.num s.devNum ≠ some d.root) :=
  ⟨_, _, _, .bcast, { WE { wCmd (.xbcast 64 false) with
        aux := [0, 0, 0, 0, 0xA000, 0xB000, 1, 0x40000000000000], prog := 3, begun := true } with xsets := [(0, wSet [0])] },
      9, _, _, _, 0, 0, 0, [0xA000, 0xB000, 1, 0x40000000000000], wSet [0], ⟨rfl, rfl, rfl⟩, rfl, ⟨rfl, rfl, rfl, rfl⟩, rfl, by decide⟩

theorem witness_Collectives_9 :
    (∃ mk kind ck, Collective mk kind ck ∧
    ∃ (s : State) (id : Nat), ∃ c off q key lseq first ws x, AtEngine s id c ∧
    c.kind = ck off q ∧
    CollUnder s c kind key lseq first false ws x ∧
    let d := XDesc.of ws
    ∃ bs s', (kind = 3 → x.num s.devNum = some d.root) ∧
    (engRead c.started (.va d.sva) (d.n * d.sz)).run s = .ok (bs, s')) :=
  by
    obtain ⟨bs, s2, h⟩ := got_ok (x := (engRead wUnder.started (.va 0xA000) 4).run (WCo false [0] [] 0)) (by decide +kernel)
    exact ⟨_, _, _, .reduce, WCo false [0] [] 0, 9, _, _, _, 0, 0, 0, [0xA000, 0xB000, 1, 0], wSet [0], ⟨rfl, rfl, rfl⟩, rfl,
      ⟨rfl, rfl, rfl, rfl⟩, bs, s2, by decide, h⟩

theorem witness_Collectives_10 :
    (∃ mk kind ck, Collective mk kind ck ∧
    ∃ (s : State) (id : Nat), ∃ c off q key lseq first ws x, AtEngine s id c ∧
    c.kind = ck off q ∧
    CollUnder s c kind key lseq first true ws x ∧
    (∀ p ∈ s.xin, ¬(p.kind = 14 ∧ p.key = key ∧ p.lseq = lseq)) ∧
    let d := XDesc.of ws
    let last := first + 2 * s.dlineOf c.part d
    x.devs.head? ≠ some s.devNum ∧
    s.cycle < last) :=
  ⟨_, _, _, .reduce, WCo true [1, 0] [] 0, 9, _, _, _, 0, 0, 0, [0xA000, 0xB000, 1, 0], wSet [1, 0], ⟨rfl, rfl, rfl⟩, rfl, ⟨rfl, rfl, rfl, rfl⟩, by decide, by decide, by decide⟩

theorem witness_Collectives_11 :
    (∃ mk kind ck, Collective mk kind ck ∧
    ∃ (s : State) (id : Nat), ∃ c off q key lseq first ws x, AtEngine s id c ∧
    c.kind = ck off q ∧
    CollUnder s c kind key lseq first true ws x ∧
    (∀ p ∈ s.xin, ¬(p.kind = 14 ∧ p.key = key ∧ p.lseq = lseq)) ∧
    let d := XDesc.of ws
    let last := first + 2 * s.dlineOf c.part d
    x.devs.head? ≠ some s.devNum ∧
    last ≤ s.cycle) :=
  ⟨_, _, _, .reduce, WCo true [1, 0] [] 1000, 9, _, _, _, 0, 0, 0, [0xA000, 0xB000, 1, 0], wSet [1, 0], ⟨rfl, rfl, rfl⟩, rfl, ⟨rfl, rfl, rfl, rfl⟩, by decide, by decide, by decide⟩

theorem witness_Collectives_12 :
    (∃ mk kind ck, Collective mk kind ck ∧
    ∃ (s : State) (id : Nat), ∃ c off q key lseq first ws x, AtEngine s id c ∧
    c.kind = ck off q ∧
    CollUnder s c kind key lseq first true ws x ∧
    (∀ p ∈ s.xin, ¬(p.kind = 14 ∧ p.key = key ∧ p.lseq = lseq)) ∧
    let d := XDesc.of ws
    let by_ := first + s.dlineOf c.part d
    let miss := s.missingBy x kind key lseq by_ d
    x.devs.head? = some s.devNum ∧
    miss = []) :=
  ⟨_, _, _, .reduce, WCo true [0] [wPart] 0, 9, _, _, _, 0, 0, 0, [0xA000, 0xB000, 1, 0], wSet [0], ⟨rfl, rfl, rfl⟩, rfl, ⟨rfl, rfl, rfl, rfl⟩, by decide, by decide, by decide⟩

theorem witness_Collectives_13 :
    (∃ mk kind ck, Collective mk kind ck ∧
    ∃ (s : State) (id : Nat), ∃ c off q key lseq first ws x, AtEngine s id c ∧
    c.kind = ck off q ∧
    CollUnder s c kind key lseq first true ws x ∧
    (∀ p ∈ s.xin, ¬(p.kind = 14 ∧ p.key = key ∧ p.lseq = lseq)) ∧
    let d := XDesc.of ws
    let by_ := first + s.dlineOf c.part d
    let miss := s.missingBy x kind key lseq by_ d
    x.devs.head? = some s.devNum ∧
    miss ≠ []) :=
  ⟨_, _, _, .reduce, WCo true [0] [] 0, 9, _, _, _, 0, 0, 0, [0xA000, 0xB000, 1, 0], wSet [0], ⟨rfl, rfl, rfl⟩, rfl, ⟨rfl, rfl, rfl, rfl⟩, by decide, by decide, by decide⟩

theorem witness_Collectives_14 :
    (∃ mk kind ck, Collective mk kind ck ∧
    ∃ (s : State) (id : Nat), ∃ c off q key lseq first ws x, AtEngine s id c ∧
    c.kind = ck off q ∧
    CollUnder s c kind key lseq first true ws x ∧
    (∀ p ∈ s.xin, ¬(p.kind = 14 ∧ p.key = key ∧ p.lseq = lseq)) ∧
    let d := XDesc.of ws
    let by_ := first + s.dlineOf c.part d
    let miss := s.missingBy x kind key lseq by_ d
    x.devs.head? = some s.devNum ∧
    miss ≠ [] ∧
    s.cycle < by_) :=
  ⟨_, _, _, .reduce, WCo true [0] [] 0, 9, _, _, _, 0, 0, 0, [0xA000, 0xB000, 1, 0], wSet [0], ⟨rfl, rfl, rfl⟩, rfl, ⟨rfl, rfl, rfl, rfl⟩, by decide, by decide, by decide, by decide⟩

theorem witness_Collectives_15 :
    (∃ mk kind ck, Collective mk kind ck ∧
    ∃ (s : State) (id : Nat), ∃ c off q key lseq first ws x, AtEngine s id c ∧
    c.kind = ck off q ∧
    CollUnder s c kind key lseq first true ws x ∧
    (∀ p ∈ s.xin, ¬(p.kind = 14 ∧ p.key = key ∧ p.lseq = lseq)) ∧
    let d := XDesc.of ws
    let by_ := first + s.dlineOf c.part d
    let miss := s.missingBy x kind key lseq by_ d
    x.devs.head? = some s.devNum ∧
    miss ≠ [] ∧
    by_ ≤ s.cycle) :=
  ⟨_, _, _, .reduce, WCo true [0] [] 1000, 9, _, _, _, 0, 0, 0, [0xA000, 0xB000, 1, 0], wSet [0], ⟨rfl, rfl, rfl⟩, rfl, ⟨rfl, rfl, rfl, rfl⟩, by decide, by decide, by decide, by decide⟩

theorem witness_Collectives_16 :
    (∃ mk kind ck, Collective mk kind ck ∧
    ∃ (s : State) (id : Nat), ∃ c off key lseq first given ws x mask, ∃ (f : Nat → List (Word × Bool)), ∃ i, AtEngine s id c ∧
    c.kind = ck off false ∧
    CollUnder s c kind key lseq first given ws x ∧
    s.verdict key lseq x = some mask ∧
    ((i = mk id ∧ given = true) ∨ i = .collectiveDeadline id) ∧
    let d := XDesc.of ws
    (∀ l ∈ needed kind x d, maskBit mask l = false → s.broughtBy x kind key lseq s.cycle d l = some (f l)) ∧
    ∃ s', needed kind x d ≠ [] ∧
    (∀ l ∈ needed kind x d, maskBit mask l = false) ∧
    ((xWrite c.started d.dva (xPlaces kind d ((needed kind x d).map (fun l => (l, (tileBytes (f l)).take (d.n * d.sz)))))).run s =
        .ok ((), s'))) :=
  by
    obtain ⟨r, s2, h⟩ := got_ok (x := (xWrite wGiven.started 0xB000 (xPlaces 1 (XDesc.of [0xA000, 0xB000, 1, 0])
      ([0].map (fun l => (l, (tileBytes [((0x3F800000 : Word), false)]).take 4))))).run (WCo true [0] [wPart, wMask 0] 0))
      (by decide +kernel)
    exact ⟨_, _, _, .reduce, WCo true [0] [wPart, wMask 0] 0, 9, _, _, 0, 0, 0, true, [0xA000, 0xB000, 1, 0], wSet [0],
      List.replicate 16 0, fun _ => [(0x3F800000, false)], _, ⟨rfl, rfl, rfl⟩, rfl, ⟨rfl, rfl, rfl, rfl⟩, by decide,
      .inl ⟨rfl, rfl⟩, by decide, s2, by decide, by decide, h⟩

theorem witness_Collectives_17 :
    (∃ mk kind ck, Collective mk kind ck ∧
    ∃ (s : State) (id : Nat), ∃ c off key lseq first given ws x mask, ∃ (f : Nat → List (Word × Bool)), ∃ i, AtEngine s id c ∧
    c.kind = ck off false ∧
    CollUnder s c kind key lseq first given ws x ∧
    s.verdict key lseq x = some mask ∧
    ((i = mk id ∧ given = true) ∨ i = .collectiveDeadline id) ∧
    let d := XDesc.of ws
    (∀ l ∈ needed kind x d, maskBit mask l = false → s.broughtBy x kind key lseq s.cycle d l = some (f l)) ∧
    ∃ m, (needed kind x d).find? (maskBit mask) = some m) :=
  ⟨_, _, _, .reduce, WCo true [0] [wMask 1] 0, 9, _, _, 0, 0, 0, true, [0xA000, 0xB000, 1, 0], wSet [0], 1 :: List.replicate 15 0, fun _ => [], _, ⟨rfl, rfl, rfl⟩, rfl, ⟨rfl, rfl, rfl, rfl⟩, by decide,
      .inl ⟨rfl, rfl⟩, by decide, 0, by decide⟩

theorem witness_Collectives_18 :
    (∃ mk kind ck, Collective mk kind ck ∧
    ∃ (s : State) (id : Nat), ∃ c off key lseq first given ws x mask l i, AtEngine s id c ∧
    c.kind = ck off false ∧
    CollUnder s c kind key lseq first given ws x ∧
    s.verdict key lseq x = some mask ∧
    ((i = mk id ∧ given = true) ∨ i = .collectiveDeadline id) ∧
    let d := XDesc.of ws
    let last := first + 2 * s.dlineOf c.part d
    l ∈ needed kind x d ∧
    maskBit mask l = false ∧
    s.broughtBy x kind key lseq s.cycle d l = none ∧
    (i = mk id ∨ s.cycle < last)) :=
  ⟨_, _, _, .reduce, WCo true [0] [wMask 0] 0, 9, _, _, 0, 0, 0, true, [0xA000, 0xB000, 1, 0], wSet [0], List.replicate 16 0, 0, _, ⟨rfl, rfl, rfl⟩, rfl, ⟨rfl, rfl, rfl, rfl⟩, by decide,
      .inl ⟨rfl, rfl⟩, by decide, by decide, by decide, .inl rfl⟩

theorem witness_Collectives_19 :
    (∃ mk kind ck, Collective mk kind ck ∧
    ∃ (s : State) (id : Nat), ∃ c off key lseq first given ws x mask l i, AtEngine s id c ∧
    c.kind = ck off false ∧
    CollUnder s c kind key lseq first given ws x ∧
    s.verdict key lseq x = some mask ∧
    ((i = mk id ∧ given = true) ∨ i = .collectiveDeadline id) ∧
    let d := XDesc.of ws
    let last := first + 2 * s.dlineOf c.part d
    l ∈ needed kind x d ∧
    maskBit mask l = false ∧
    s.broughtBy x kind key lseq s.cycle d l = none ∧
    i = .collectiveDeadline id ∧
    last ≤ s.cycle) :=
  ⟨_, _, _, .reduce, WCo true [0] [wMask 0] 1000, 9, _, _, 0, 0, 0, true, [0xA000, 0xB000, 1, 0], wSet [0], List.replicate 16 0, 0, _, ⟨rfl, rfl, rfl⟩, rfl, ⟨rfl, rfl, rfl, rfl⟩, by decide,
      .inr rfl, by decide, by decide, by decide, rfl, by decide⟩

theorem witness_Collectives_20 :
    (∃ (d : XDesc) (cs : List PBytes), ∃ i, d.sk = 9 ∧
    d.dk = 9 ∧
    i < d.n ∧
    cs ≠ [] ∧
    (∀ bs ∈ cs, bs.length = 8 * d.n)) :=
  ⟨⟨0, 0, 0, 0, 1, 0, 9, 9, .rne, false, 0, 0⟩, [List.replicate 8 (1, false)], 0, by decide⟩

theorem witness_Collectives :
    (∃ mk kind ck, Collective mk kind ck ∧
    ∃ (s : State) (id : Nat), ∃ c off q, AtEngine s id c ∧
    c.kind = ck off q ∧
    c.aux = [] ∧
    (∃ w ∈ s.lsWords c.core off 4, w.2 = true)) ∧
    (∃ mk kind ck, Collective mk kind ck ∧
    ∃ (s : State) (id : Nat), ∃ c off q, AtEngine s id c ∧
    c.kind = ck off q ∧
    ∃ ws, CollDesc s c kind off ws ∧
    let d := XDesc.of ws
    let key := setKey c.part d.set
    let u := if s.xBusy key then s else s.xSettle key
    mfind key u.xsets = none) ∧
    (∃ mk kind ck, Collective mk kind ck ∧
    ∃ (s : State) (id : Nat), ∃ c off q, AtEngine s id c ∧
    c.kind = ck off q ∧
    ∃ ws, CollDesc s c kind off ws ∧
    let d := XDesc.of ws
    let key := setKey c.part d.set
    let u := if s.xBusy key then s else s.xSettle key
    ∃ x, mfind key u.xsets = some x ∧
    x.num u.devNum = none) ∧
    (∃ mk kind ck, Collective mk kind ck ∧
    ∃ (s : State) (id : Nat), ∃ c off q, AtEngine s id c ∧
    c.kind = ck off q ∧
    ∃ ws, CollDesc s c kind off ws ∧
    let d := XDesc.of ws
    let key := setKey c.part d.set
    let u := if s.xBusy key then s else s.xSettle key
    ∃ x, mfind key u.xsets = some x ∧
    x.num u.devNum ≠ none ∧
    d.gen ≠ x.gen % 65536) ∧
    (∃ mk kind ck, Collective mk kind ck ∧
    ∃ (s : State) (id : Nat), ∃ c off q, AtEngine s id c ∧
    c.kind = ck off q ∧
    ∃ ws, CollDesc s c kind off ws ∧
    let d := XDesc.of ws
    let key := setKey c.part d.set
    let u := if s.xBusy key then s else s.xSettle key
    ∃ x n, mfind key u.xsets = some x ∧
    x.num u.devNum = some n ∧
    d.gen = x.gen % 65536 ∧
    s.xBusy key = false ∧
    u.leaving key = false ∧
    u.pledged key = false ∧
    (∀ p ∈ u.xin, ¬(p.kind = 13 ∧ p.key = key ∧ p.lseq = x.lseq)) ∧
    (kind = 3 → d.root < x.devs.length)) ∧
    (∃ (s : State), ∃ key, (∀ p ∈ s.xin, p.key ≠ key)) ∧
    (∃ (s : State), ∃ key x me mask, mfind key s.xsets = some x ∧
    x.devs.Nodup ∧
    x.auto_ = true ∧
    x.num s.devNum = some me ∧
    s.left key = none ∧
    s.verdict key x.lseq x = some mask ∧
    maskBit mask me = true) ∧
    (∃ mk kind ck, Collective mk kind ck ∧
    ∃ (s : State) (id : Nat), ∃ c off q key lseq first ws x, AtEngine s id c ∧
    c.kind = ck off q ∧
    CollUnder s c kind key lseq first false ws x ∧
    let d := XDesc.of ws
    kind = 3 ∧
    x.num s.devNum ≠ some d.root) ∧
    (∃ mk kind ck, Collective mk kind ck ∧
    ∃ (s : State) (id : Nat), ∃ c off q key lseq first ws x, AtEngine s id c ∧
    c.kind = ck off q ∧
    CollUnder s c kind key lseq first false ws x ∧
    let d := XDesc.of ws
    ∃ bs s', (kind = 3 → x.num s.devNum = some d.root) ∧
    (engRead c.started (.va d.sva) (d.n * d.sz)).run s = .ok (bs, s')) ∧
    (∃ mk kind ck, Collective mk kind ck ∧
    ∃ (s : State) (id : Nat), ∃ c off q key lseq first ws x, AtEngine s id c ∧
    c.kind = ck off q ∧
    CollUnder s c kind key lseq first true ws x ∧
    (∀ p ∈ s.xin, ¬(p.kind = 14 ∧ p.key = key ∧ p.lseq = lseq)) ∧
    let d := XDesc.of ws
    let last := first + 2 * s.dlineOf c.part d
    x.devs.head? ≠ some s.devNum ∧
    s.cycle < last) ∧
    (∃ mk kind ck, Collective mk kind ck ∧
    ∃ (s : State) (id : Nat), ∃ c off q key lseq first ws x, AtEngine s id c ∧
    c.kind = ck off q ∧
    CollUnder s c kind key lseq first true ws x ∧
    (∀ p ∈ s.xin, ¬(p.kind = 14 ∧ p.key = key ∧ p.lseq = lseq)) ∧
    let d := XDesc.of ws
    let last := first + 2 * s.dlineOf c.part d
    x.devs.head? ≠ some s.devNum ∧
    last ≤ s.cycle) ∧
    (∃ mk kind ck, Collective mk kind ck ∧
    ∃ (s : State) (id : Nat), ∃ c off q key lseq first ws x, AtEngine s id c ∧
    c.kind = ck off q ∧
    CollUnder s c kind key lseq first true ws x ∧
    (∀ p ∈ s.xin, ¬(p.kind = 14 ∧ p.key = key ∧ p.lseq = lseq)) ∧
    let d := XDesc.of ws
    let by_ := first + s.dlineOf c.part d
    let miss := s.missingBy x kind key lseq by_ d
    x.devs.head? = some s.devNum ∧
    miss = []) ∧
    (∃ mk kind ck, Collective mk kind ck ∧
    ∃ (s : State) (id : Nat), ∃ c off q key lseq first ws x, AtEngine s id c ∧
    c.kind = ck off q ∧
    CollUnder s c kind key lseq first true ws x ∧
    (∀ p ∈ s.xin, ¬(p.kind = 14 ∧ p.key = key ∧ p.lseq = lseq)) ∧
    let d := XDesc.of ws
    let by_ := first + s.dlineOf c.part d
    let miss := s.missingBy x kind key lseq by_ d
    x.devs.head? = some s.devNum ∧
    miss ≠ []) ∧
    (∃ mk kind ck, Collective mk kind ck ∧
    ∃ (s : State) (id : Nat), ∃ c off q key lseq first ws x, AtEngine s id c ∧
    c.kind = ck off q ∧
    CollUnder s c kind key lseq first true ws x ∧
    (∀ p ∈ s.xin, ¬(p.kind = 14 ∧ p.key = key ∧ p.lseq = lseq)) ∧
    let d := XDesc.of ws
    let by_ := first + s.dlineOf c.part d
    let miss := s.missingBy x kind key lseq by_ d
    x.devs.head? = some s.devNum ∧
    miss ≠ [] ∧
    s.cycle < by_) ∧
    (∃ mk kind ck, Collective mk kind ck ∧
    ∃ (s : State) (id : Nat), ∃ c off q key lseq first ws x, AtEngine s id c ∧
    c.kind = ck off q ∧
    CollUnder s c kind key lseq first true ws x ∧
    (∀ p ∈ s.xin, ¬(p.kind = 14 ∧ p.key = key ∧ p.lseq = lseq)) ∧
    let d := XDesc.of ws
    let by_ := first + s.dlineOf c.part d
    let miss := s.missingBy x kind key lseq by_ d
    x.devs.head? = some s.devNum ∧
    miss ≠ [] ∧
    by_ ≤ s.cycle) ∧
    (∃ mk kind ck, Collective mk kind ck ∧
    ∃ (s : State) (id : Nat), ∃ c off key lseq first given ws x mask, ∃ (f : Nat → List (Word × Bool)), ∃ i, AtEngine s id c ∧
    c.kind = ck off false ∧
    CollUnder s c kind key lseq first given ws x ∧
    s.verdict key lseq x = some mask ∧
    ((i = mk id ∧ given = true) ∨ i = .collectiveDeadline id) ∧
    let d := XDesc.of ws
    (∀ l ∈ needed kind x d, maskBit mask l = false → s.broughtBy x kind key lseq s.cycle d l = some (f l)) ∧
    ∃ s', needed kind x d ≠ [] ∧
    (∀ l ∈ needed kind x d, maskBit mask l = false) ∧
    ((xWrite c.started d.dva (xPlaces kind d ((needed kind x d).map (fun l => (l, (tileBytes (f l)).take (d.n * d.sz)))))).run s =
        .ok ((), s'))) ∧
    (∃ mk kind ck, Collective mk kind ck ∧
    ∃ (s : State) (id : Nat), ∃ c off key lseq first given ws x mask, ∃ (f : Nat → List (Word × Bool)), ∃ i, AtEngine s id c ∧
    c.kind = ck off false ∧
    CollUnder s c kind key lseq first given ws x ∧
    s.verdict key lseq x = some mask ∧
    ((i = mk id ∧ given = true) ∨ i = .collectiveDeadline id) ∧
    let d := XDesc.of ws
    (∀ l ∈ needed kind x d, maskBit mask l = false → s.broughtBy x kind key lseq s.cycle d l = some (f l)) ∧
    ∃ m, (needed kind x d).find? (maskBit mask) = some m) ∧
    (∃ mk kind ck, Collective mk kind ck ∧
    ∃ (s : State) (id : Nat), ∃ c off key lseq first given ws x mask l i, AtEngine s id c ∧
    c.kind = ck off false ∧
    CollUnder s c kind key lseq first given ws x ∧
    s.verdict key lseq x = some mask ∧
    ((i = mk id ∧ given = true) ∨ i = .collectiveDeadline id) ∧
    let d := XDesc.of ws
    let last := first + 2 * s.dlineOf c.part d
    l ∈ needed kind x d ∧
    maskBit mask l = false ∧
    s.broughtBy x kind key lseq s.cycle d l = none ∧
    (i = mk id ∨ s.cycle < last)) ∧
    (∃ mk kind ck, Collective mk kind ck ∧
    ∃ (s : State) (id : Nat), ∃ c off key lseq first given ws x mask l i, AtEngine s id c ∧
    c.kind = ck off false ∧
    CollUnder s c kind key lseq first given ws x ∧
    s.verdict key lseq x = some mask ∧
    ((i = mk id ∧ given = true) ∨ i = .collectiveDeadline id) ∧
    let d := XDesc.of ws
    let last := first + 2 * s.dlineOf c.part d
    l ∈ needed kind x d ∧
    maskBit mask l = false ∧
    s.broughtBy x kind key lseq s.cycle d l = none ∧
    i = .collectiveDeadline id ∧
    last ≤ s.cycle) ∧
    (∃ (d : XDesc) (cs : List PBytes), ∃ i, d.sk = 9 ∧
    d.dk = 9 ∧
    i < d.n ∧
    cs ≠ [] ∧
    (∀ bs ∈ cs, bs.length = 8 * d.n)) :=
  ⟨witness_Collectives_1, witness_Collectives_2, witness_Collectives_3, witness_Collectives_4, witness_Collectives_5, witness_Collectives_6, witness_Collectives_7, witness_Collectives_8, witness_Collectives_9, witness_Collectives_10, witness_Collectives_11, witness_Collectives_12, witness_Collectives_13, witness_Collectives_14, witness_Collectives_15, witness_Collectives_16, witness_Collectives_17, witness_Collectives_18, witness_Collectives_19, witness_Collectives_20⟩

theorem witness_SetsAndTheirLogs_1 :
    (∃ (s : State) (id : Nat), ∃ c r0 r1 q, AtEngine s id c ∧
    c.kind = .xlog [r0, r1] q ∧
    (XlogReq.of [r0, r1]).bad = false ∧
    let r := XlogReq.of [r0, r1]
    r.dev = s.devNum ∧
    mfind (setKey c.part r.set) s.xsets = none) :=
  ⟨WE (wCmd (.xlog [0, 0x100000000] false)), 9, _, _, _, _, ⟨rfl, rfl, rfl⟩, rfl, by decide, ⟨by decide, by decide⟩⟩

theorem witness_SetsAndTheirLogs_2 :
    (∃ (s : State) (id : Nat), ∃ c r0 r1 q, AtEngine s id c ∧
    c.kind = .xlog [r0, r1] q ∧
    (XlogReq.of [r0, r1]).bad = false ∧
    let r := XlogReq.of [r0, r1]
    r.dev = s.devNum ∧
    ∃ x : XSet, mfind (setKey c.part r.set) s.xsets = some x ∧
    x.num r.dev ≠ none ∧
    c.prog = 0 ∧
    s.piecesOf 11 r.dev (setKey c.part r.set) 0 s.cycle = [] ∧
    (∀ e ∈ x.log, e.data.length = 8)) :=
  ⟨{ WE (wCmd (.xlog [0, 0x100000000] false)) with xsets := [(0, wSet [0])] }, 9, _, _, _, _, ⟨rfl, rfl, rfl⟩, rfl, by decide,
      ⟨by decide, wSet [0], by decide, by decide, by decide, by decide, by decide⟩⟩

theorem witness_SetsAndTheirLogs_3 :
    (∃ (s : State) (id : Nat), ∃ d part set au ws since, OneChange s id d part (.create set au ws) since ∧
    mfind (setKey part set) s.xsets = none ∧
    listOk ws s.devNum = true ∧
    listDevs ws = [s.devNum]) :=
  ⟨WR (.xmember ⟨0, 0, 4, 5⟩ 0 (.create 0 false [1, 0]) 0), 9, _, _, _, _, _, _, ⟨rfl, rfl⟩, rfl, by decide, by decide⟩

theorem witness_SetsAndTheirLogs_4 :
    (∃ (s : State) (id : Nat), ∃ d part set mask since x n, OneChange s id d part (.shrink set mask) since ∧
    mfind (setKey part set) s.xsets = some x ∧
    x.num s.devNum = some n ∧
    (∀ l < 1024, maskBit mask l = true ↔ l < x.devs.length ∧ l ≠ n) ∧
    x.devs.length ≤ 1024) :=
  ⟨{ WR (.xmember ⟨0, 0, 4, 5⟩ 0 (.shrink 0 [2]) 0) with xsets := [(0, wSet [0, 1])] }, 9, _, _, _, [2], _, _, 0, ⟨rfl, rfl⟩,
      rfl, rfl, by decide +kernel, by decide⟩

theorem witness_SetsAndTheirLogs_5 :
    (∃ (s : State) (id : Nat), ∃ d part set since x, OneChange s id d part (.leave set) since ∧
    mfind (setKey part set) s.xsets = some x ∧
    x.num s.devNum ≠ none) :=
  ⟨{ WR (.xmember ⟨0, 0, 4, 5⟩ 0 (.leave 0) 0) with xsets := [(0, wSet [0])] }, 9, _, _, _, _, _, ⟨rfl, rfl⟩, rfl, by decide⟩

theorem witness_SetsAndTheirLogs_6 :
    (∃ (s : State) (id : Nat), ∃ d part set au ws since x, OneChange s id d part (.create set au ws) since ∧
    mfind (setKey part set) s.xsets = some x) :=
  ⟨{ WR (.xmember ⟨0, 0, 4, 5⟩ 0 (.create 0 false [1, 0]) 0) with xsets := [(0, wSet [0])] }, 9, _, _, _, _, _, _, _,
      ⟨rfl, rfl⟩, rfl⟩

theorem witness_SetsAndTheirLogs_7 :
    (∃ (s : State) (id : Id), ∃ d part op since, mfind id s.inflight = some (.xmember d part op since) ∧
    mfind (setKey part op.set) s.xsets = none ∧
    since + s.limitCycles part ≤ s.cycle) :=
  ⟨{ WR (.xmember ⟨0, 0, 4, 5⟩ 0 (.leave 0) 0) with cycle := 16 }, 9, _, _, _, _, rfl, rfl, by decide⟩

theorem witness_SetsAndTheirLogs_8 :
    (∃ (s : State), ∃ key x pre p post t, s.xBusy key = false ∧
    (∀ e ∈ s.inflight, ∀ d part op since, e.2 ≠ .xmember d part op since) ∧
    mfind key s.xsets = some x ∧
    s.xin = pre ++ p :: post ∧
    (∀ q ∈ pre, s.heard key x q = none) ∧
    s.heard key x p = some t) :=
  by
      obtain ⟨t, h⟩ := Option.isSome_iff_exists.1 (show (wJoins.heard 0 { wSet [2, 0] with lseq := 1 } wJoined).isSome = true by
        decide +kernel)
      exact ⟨wJoins, 0, { wSet [2, 0] with lseq := 1 }, [], wJoined, [], t, rfl, (fun e he => absurd he (List.not_mem_nil)), rfl, rfl,
        (fun e he => absurd he (List.not_mem_nil)), h⟩

theorem witness_SetsAndTheirLogs_9 :
    (∃ (s : State), ∃ (key : Nat) (x : XSet) (p : XIn), p.key = key ∧
    let dv := p.num 2 % 1024
    ((p.kind = 17 ∧ p.num 3 = 1 ∧ x.lseq = p.num 0 + 1 ∧ dv ∉ x.devs) ∨
      (p.kind = 6 ∧ p.num 1 = s.devNum ∧ s.devNum ∈ x.devs ∧
        ∀ m ∈ x.devs, ∃ v, s.voteOf key m (p.num 0) dv = some v ∧ v.num 2 = 1))) :=
  ⟨W, 0, { wSet [2, 0] with lseq := 1 }, wJoined, rfl, .inl (by decide)⟩

theorem witness_SetsAndTheirLogs :
    (∃ (s : State) (id : Nat), ∃ c r0 r1 q, AtEngine s id c ∧
    c.kind = .xlog [r0, r1] q ∧
    (XlogReq.of [r0, r1]).bad = false ∧
    let r := XlogReq.of [r0, r1]
    r.dev = s.devNum ∧
    mfind (setKey c.part r.set) s.xsets = none) ∧
    (∃ (s : State) (id : Nat), ∃ c r0 r1 q, AtEngine s id c ∧
    c.kind = .xlog [r0, r1] q ∧
    (XlogReq.of [r0, r1]).bad = false ∧
    let r := XlogReq.of [r0, r1]
    r.dev = s.devNum ∧
    ∃ x : XSet, mfind (setKey c.part r.set) s.xsets = some x ∧
    x.num r.dev ≠ none ∧
    c.prog = 0 ∧
    s.piecesOf 11 r.dev (setKey c.part r.set) 0 s.cycle = [] ∧
    (∀ e ∈ x.log, e.data.length = 8)) ∧
    (∃ (s : State) (id : Nat), ∃ d part set au ws since, OneChange s id d part (.create set au ws) since ∧
    mfind (setKey part set) s.xsets = none ∧
    listOk ws s.devNum = true ∧
    listDevs ws = [s.devNum]) ∧
    (∃ (s : State) (id : Nat), ∃ d part set mask since x n, OneChange s id d part (.shrink set mask) since ∧
    mfind (setKey part set) s.xsets = some x ∧
    x.num s.devNum = some n ∧
    (∀ l < 1024, maskBit mask l = true ↔ l < x.devs.length ∧ l ≠ n) ∧
    x.devs.length ≤ 1024) ∧
    (∃ (s : State) (id : Nat), ∃ d part set since x, OneChange s id d part (.leave set) since ∧
    mfind (setKey part set) s.xsets = some x ∧
    x.num s.devNum ≠ none) ∧
    (∃ (s : State) (id : Nat), ∃ d part set au ws since x, OneChange s id d part (.create set au ws) since ∧
    mfind (setKey part set) s.xsets = some x) ∧
    (∃ (s : State) (id : Id), ∃ d part op since, mfind id s.inflight = some (.xmember d part op since) ∧
    mfind (setKey part op.set) s.xsets = none ∧
    since + s.limitCycles part ≤ s.cycle) ∧
    (∃ (s : State), ∃ key x pre p post t, s.xBusy key = false ∧
    (∀ e ∈ s.inflight, ∀ d part op since, e.2 ≠ .xmember d part op since) ∧
    mfind key s.xsets = some x ∧
    s.xin = pre ++ p :: post ∧
    (∀ q ∈ pre, s.heard key x q = none) ∧
    s.heard key x p = some t) ∧
    (∃ (s : State), ∃ (key : Nat) (x : XSet) (p : XIn), p.key = key ∧
    let dv := p.num 2 % 1024
    ((p.kind = 17 ∧ p.num 3 = 1 ∧ x.lseq = p.num 0 + 1 ∧ dv ∉ x.devs) ∨
      (p.kind = 6 ∧ p.num 1 = s.devNum ∧ s.devNum ∈ x.devs ∧
        ∀ m ∈ x.devs, ∃ v, s.voteOf key m (p.num 0) dv = some v ∧ v.num 2 = 1))) :=
  ⟨witness_SetsAndTheirLogs_1, witness_SetsAndTheirLogs_2, witness_SetsAndTheirLogs_3, witness_SetsAndTheirLogs_4, witness_SetsAndTheirLogs_5, witness_SetsAndTheirLogs_6, witness_SetsAndTheirLogs_7, witness_SetsAndTheirLogs_8, witness_SetsAndTheirLogs_9⟩

end Sys2Proof.Machine.Tests
end

