-- ==== Sys2Proof/Tests/WitnessFlow.lean ====
section
/-! SUPPORT. The hypotheses of the statements about control flow, tuning and memory, met by a small state. -/

namespace Sys2Proof.Machine.Tests

set_option Elab.async false

theorem witness_BranchTargets :
    (∃ g i t, ∃ (s : State), Ready s g [] [] none ∧
    BranchTo s i t) ∧
    (∃ g d i t, ∃ (s : State) (st : State), Ready s g [d] [] none ∧
    BranchTo s i t ∧
    (d = 0 ∨ IntName s d) ∧
    WritesInt s s.counted d s.afterPc.toNat false st) ∧
    (∃ g d a v, ∃ (s : State), ∃ st1 st2, Ready s g [d, a.ix] [a] none ∧
    a.ix ≠ 0 ∧
    ReadsInt s (s.emptied [a]) a.ix v false st1 ∧
    WritesInt s st1 d s.afterPc.toNat false st2) ∧
    (∃ g a v, ∃ (s : State) (st : State), Ready s g [a.ix] [a] none ∧
    a.ix ≠ 0 ∧
    ReadsInt s (s.emptied [a]) a.ix v false st) :=
  ⟨⟨g0, .i14 4, _, W, ready_plain rfl rfl rfl, rfl⟩,
    ⟨g0, 4, .x64 0x2000, _, W, _, ready_plain rfl rfl rfl, rfl, .inr ⟨_, _, _, _, rfl, rfl⟩, writes_int rfl rfl rfl⟩,
    ⟨g0, 4, o 20, 0x8000, W, _, _, ready_plain rfl rfl rfl, by decide, reads_int rfl, writes_int rfl rfl rfl⟩,
    ⟨g0, o 20, 0x8000, W, _, ready_plain rfl rfl rfl, by decide, reads_int rfl⟩⟩

theorem witness_LoopEndCheck :
    (∃ (y : Slot) (a : Word), y.lc1 > 1 ∧
    a = y.le1) ∧
    (∃ (y : Slot) (a : Word), ∃ c1, ((y.lc1 = 1 ∧ a = y.le1 ∧ c1 = 0) ∨ (y.lc1 = 0 ∧ c1 = 0) ∨ (a ≠ y.le1 ∧ c1 = y.lc1)) ∧
    y.lc0 > 1 ∧
    a = y.le0) ∧
    (∃ (y : Slot) (a : Word), ∃ c1, ((y.lc1 = 1 ∧ a = y.le1 ∧ c1 = 0) ∨ (y.lc1 = 0 ∧ c1 = 0) ∨ (a ≠ y.le1 ∧ c1 = y.lc1)) ∧
    y.lc0 = 1 ∧
    a = y.le0) ∧
    (∃ (y : Slot) (a : Word), ∃ c1, ((y.lc1 = 1 ∧ a = y.le1 ∧ c1 = 0) ∨ (y.lc1 = 0 ∧ c1 = 0) ∨ (a ≠ y.le1 ∧ c1 = y.lc1)) ∧
    (y.lc0 = 0 ∨ a ≠ y.le0)) :=
  ⟨⟨{ wSlot with lc1 := 2, le1 := 0x1008 }, 0x1008, by decide⟩,
    ⟨{ wSlot with lc1 := 1, le1 := 0x1008, lc0 := 2, le0 := 0x1008 }, 0x1008, 0, by decide⟩,
    ⟨{ wSlot with lc1 := 0, le1 := 0x1008, lc0 := 1, le0 := 0x1008 }, 0x1008, 0, by decide⟩,
    ⟨{ wSlot with lc1 := 3, le1 := 0x1008, lc0 := 1, le0 := 0x1010 }, 0x1018, 3, by decide⟩⟩

theorem witness_LoopArms :
    (∃ g, ∃ cnt : LoopCnt, ∃ c fs m st0, ∃ (s : State), Ready s g fs m none ∧
    ((∃ a v, cnt = .name a ∧ fs = [a.ix] ∧ m = [a] ∧ a.ix ≠ 0 ∧ ReadsInt s (s.emptied [a]) a.ix v false st0 ∧
        c = min v.toNat (2 ^ 32 - 1)) ∨
      (∃ n : BitVec 32, cnt = .x32 n ∧ fs = [] ∧ m = [] ∧ st0 = s.counted ∧ c = n.toNat)) ∧
    c = 0) ∧
    (∃ g, ∃ cnt : LoopCnt, ∃ c fs m st0, ∃ (s : State), Ready s g fs m none ∧
    ((∃ a v, cnt = .name a ∧ fs = [a.ix] ∧ m = [a] ∧ a.ix ≠ 0 ∧ ReadsInt s (s.emptied [a]) a.ix v false st0 ∧
        c = min v.toNat (2 ^ 32 - 1)) ∨
      (∃ n : BitVec 32, cnt = .x32 n ∧ fs = [] ∧ m = [] ∧ st0 = s.counted ∧ c = n.toNat)) ∧
    c ≠ 0 ∧
    (st0.slot s.cur).lc0 = 0) ∧
    (∃ g, ∃ cnt : LoopCnt, ∃ c fs m st0, ∃ (s : State), Ready s g fs m none ∧
    ((∃ a v, cnt = .name a ∧ fs = [a.ix] ∧ m = [a] ∧ a.ix ≠ 0 ∧ ReadsInt s (s.emptied [a]) a.ix v false st0 ∧
        c = min v.toNat (2 ^ 32 - 1)) ∨
      (∃ n : BitVec 32, cnt = .x32 n ∧ fs = [] ∧ m = [] ∧ st0 = s.counted ∧ c = n.toNat)) ∧
    c ≠ 0 ∧
    (st0.slot s.cur).lc0 ≠ 0) :=
  ⟨⟨g0, .name (o 5), 0, _, _, _, W, ready_plain rfl rfl rfl, .inl ⟨o 5, 0, rfl, rfl, rfl, by decide, reads_int rfl, rfl⟩,
      rfl⟩,
    ⟨g0, .x32 0xFFFFFFFF, 0xFFFFFFFF, _, _, _, W, ready_plain rfl rfl rfl, .inr ⟨_, rfl, rfl, rfl, rfl, rfl⟩,
      by decide, rfl⟩,
    ⟨g0, .x32 1, 1, _, _, _, { W with slots := [(0, { wSlot with lc0 := 3 })] }, ready_plain rfl rfl rfl,
      .inr ⟨_, rfl, rfl, rfl, rfl, rfl⟩, by decide, by decide⟩⟩

theorem witness_LoopExit :
    (∃ g, ∃ (s : State), Ready s g [] [] none ∧
    s.me.lc1 ≠ 0 ∧
    (s.me.lc0 = 0 ∨ s.me.le1 ≠ s.me.le0)) ∧
    (∃ g, ∃ (s : State), Ready s g [] [] none ∧
    s.me.lc1 ≠ 0 ∧
    s.me.lc0 ≠ 0 ∧
    s.me.le1 = s.me.le0) ∧
    (∃ g, ∃ (s : State), Ready s g [] [] none ∧
    s.me.lc1 = 0 ∧
    s.me.lc0 ≠ 0) ∧
    (∃ g, ∃ (s : State), Ready s g [] [] none ∧
    s.me.lc1 = 0 ∧
    s.me.lc0 = 0) :=
  ⟨⟨g0, { W with slots := [(0, { wSlot with lc1 := 3 })] }, ready_plain rfl rfl rfl, by decide⟩,
    ⟨g0, { W with slots := [(0, { wSlot with lc0 := 1, lc1 := 3 })] }, ready_plain rfl rfl rfl, by decide⟩,
    ⟨g0, { W with slots := [(0, { wSlot with lc0 := 1 })] }, ready_plain rfl rfl rfl, by decide⟩,
    ⟨g0, W, ready_plain rfl rfl rfl, by decide⟩⟩

theorem witness_TrapAndReturn :
    (∃ g, ∃ (s : State), Ready s g [] [] none) ∧
    (∃ g, ∃ (s : State), Ready s g [] [] none ∧
    s.me.smode = true ∧
    2 ^ 63 ≤ s.me.ecause.toNat) ∧
    (∃ g, ∃ (s : State), Ready s g [] [] none ∧
    s.me.smode = true ∧
    s.me.ecause.toNat < 2 ^ 63) ∧
    (∃ g, ∃ (s : State), Ready s g [] [] none ∧
    s.me.smode = false) :=
  ⟨⟨g0, W, ready_plain rfl rfl rfl⟩,
    ⟨g0, { W with slots := [(0, { wSlot with smode := true, ecause := 0x8000000000000000 })] }, ready_plain rfl rfl rfl,
      by decide⟩,
    ⟨g0, WS, ready_plain rfl rfl rfl, by decide⟩, ⟨g0, W, ready_plain rfl rfl rfl, by decide⟩⟩

theorem witness_RegistersBySelector :
    (∃ g d, ∃ sel : BitVec 14, ∃ v, ∃ (s : State) (st : State), Ready s g [d.ix] [] (some d) ∧
    s.me.intOk d.ix = true ∧
    (SelReg s (BitVec.toNat sel) v ∨ (SelPriv s (BitVec.toNat sel) v ∧ s.me.smode = true)) ∧
    WritesInt s s.counted d.ix v.toNat false st) ∧
    (∃ g a v, ∃ (s : State) (st : State), Ready s g [a.ix] [a] none ∧
    IntName s a.ix ∧
    ReadsInt s (s.emptied [a]) a.ix v false st ∧
    0 ≤ v ∧
    v < 2 ^ 64 ∧
    v < 32) ∧
    (∃ g a v, ∃ (s : State) (st : State), Ready s g [a.ix] [a] none ∧
    IntName s a.ix ∧
    ReadsInt s (s.emptied [a]) a.ix v false st ∧
    0 ≤ v ∧
    v < 2 ^ 64 ∧
    s.me.smode = true) ∧
    (∃ g a v, ∃ (s : State) (st : State), Ready s g [a.ix] [a] none ∧
    IntName s a.ix ∧
    ReadsInt s (s.emptied [a]) a.ix v false st ∧
    0 ≤ v ∧
    v < 2 ^ 64 ∧
    s.me.smode = true ∧
    v / 2 ^ 24 % 2 ^ 39 = 0) ∧
    (∃ g a v, ∃ (s : State) (st : State), Ready s g [a.ix] [a] none ∧
    IntName s a.ix ∧
    ReadsInt s (s.emptied [a]) a.ix v false st ∧
    0 ≤ v ∧
    v < 2 ^ 64 ∧
    s.me.smode = true) ∧
    (∃ g a v, ∃ (s : State) (st : State), Ready s g [a.ix] [a] none ∧
    IntName s a.ix ∧
    ReadsInt s (s.emptied [a]) a.ix v false st ∧
    0 ≤ v ∧
    v < 2 ^ 64 ∧
    32 ≤ v) ∧
    (∃ g a v, ∃ (s : State) (st : State), Ready s g [a.ix] [a] none ∧
    IntName s a.ix ∧
    ReadsInt s (s.emptied [a]) a.ix v false st ∧
    0 ≤ v ∧
    v < 2 ^ 64 ∧
    s.me.smode = true ∧
    v / 2 ^ 24 % 2 ^ 39 ≠ 0) ∧
    (∃ g a sel v, ∃ (s : State) (st : State), Ready s g [a.ix] [a] none ∧
    IntName s a.ix ∧
    ReadsInt s (s.emptied [a]) a.ix v false st ∧
    (v < 0 ∨ 2 ^ 64 ≤ v) ∧
    (sel = 0x09 ∨ (sel = 0x0A ∨ sel = 0x1A ∨ sel = 0x1B) ∧ s.me.smode = true)) ∧
    (∃ g a sel, ∃ (s : State), Ready s g [a.ix] [a] none ∧
    IntName s a.ix ∧
    (sel = 0x0A ∨ sel = 0x1A ∨ sel = 0x1B) ∧
    s.me.smode = false) ∧
    (∃ (sel : BitVec 14), (sel = 0x18 ∨ sel = 0x19 ∨ 0x1C ≤ sel.toNat)) ∧
    (∃ (sel : BitVec 14), sel ≠ 0x09 ∧
    sel ≠ 0x0A ∧
    sel ≠ 0x1A ∧
    sel ≠ 0x1B) ∧
    (∃ g d, ∃ sel : BitVec 14, ∃ (s : State), Ready s g [d.ix] [] (some d) ∧
    s.me.intOk d.ix = true ∧
    (sel = 0x0A ∨ sel = 0x1A ∨ sel = 0x1B) ∧
    s.me.smode = false) :=
  ⟨⟨g0, o 4, 0x16, _, W, _, ready_plain rfl rfl rfl, rfl, .inl .archlevel, writes_int rfl rfl rfl⟩,
    ⟨g0, o 1, 7, W, _, ready_plain rfl rfl rfl, ⟨_, _, _, _, rfl, rfl⟩, reads_int rfl, by decide⟩,
    ⟨g0, o 1, 7, WS, _, ready_plain rfl rfl rfl, ⟨_, _, _, _, rfl, rfl⟩, reads_int rfl, by decide⟩,
    ⟨g0, o 1, 7, WS, _, ready_plain rfl rfl rfl, ⟨_, _, _, _, rfl, rfl⟩, reads_int rfl, by decide⟩,
    ⟨g0, o 1, 7, WS, _, ready_plain rfl rfl rfl, ⟨_, _, _, _, rfl, rfl⟩, reads_int rfl, by decide⟩,
    ⟨g0, o 19, 64, W, _, ready_plain rfl rfl rfl, ⟨_, _, _, _, rfl, rfl⟩, reads_int rfl, by decide⟩,
    ⟨g0, o 26, 0x1000000, WN 0x1000000, _, ready_plain rfl rfl rfl, ⟨_, _, _, _, rfl, rfl⟩, reads_int rfl, by decide⟩,
    ⟨g0, o 26, 9, -1, WN (-1), _, ready_plain rfl rfl rfl, ⟨_, _, _, _, rfl, rfl⟩, reads_int rfl, by decide, .inl rfl⟩,
    ⟨g0, o 1, 0x0A, W, ready_plain rfl rfl rfl, ⟨_, _, _, _, rfl, rfl⟩, .inl rfl, rfl⟩, ⟨0x18, .inl rfl⟩, ⟨0, by decide⟩,
    ⟨g0, o 4, 0x1B, W, ready_plain rfl rfl rfl, rfl, by decide, rfl⟩⟩

theorem witness_RegionsAndYield :
    (∃ g, ∃ (live : Option Word), ∃ ws : List (Word × Bool), ∃ (s : State), Ready s g (liveIns (live.getD 0)) [] none ∧
    List.length ws = 8 ∧
    (∀ j, ∀ (h : j < ws.length), LiveIn s (live.getD 0) j ws[j].1 ws[j].2)) ∧
    (∃ g, ∃ (s : State), Ready s g [] [] none ∧
    s.me.rcount = 0) ∧
    (∃ g, ∃ (s : State), Ready s g [] [] none) ∧
    (∃ g, ∃ (s : State), Ready s g [] [] none) ∧
    (∃ g, ∃ (s : State), Ready s g [] [] none ∧
    s.me.frame ≠ 0 ∧
    (s.portBefore s.cur).dequeFull (coreOf s.cur) = false ∧
    Performed s s.counted) :=
  ⟨⟨g0, some 1, [(7, false), (0, false), (0, false), (0, false), (0, false), (0, false), (0, false), (0, false)], W,
      ready_plain rfl rfl rfl, rfl, by
        intro j h
        match j with
        | 0 => exact .inr ⟨_, rfl, rfl, rfl, .inl ⟨_, _, _, rfl, rfl⟩⟩
        | 1 => exact .inl ⟨rfl, rfl, rfl⟩
        | 2 => exact .inl ⟨rfl, rfl, rfl⟩
        | 3 => exact .inl ⟨rfl, rfl, rfl⟩
        | 4 => exact .inl ⟨rfl, rfl, rfl⟩
        | 5 => exact .inl ⟨rfl, rfl, rfl⟩
        | 6 => exact .inl ⟨rfl, rfl, rfl⟩
        | 7 => exact .inl ⟨rfl, rfl, rfl⟩
        | n + 8 => simp only [List.length_cons, List.length_nil] at h; omega⟩,
    ⟨g0, W, ready_plain rfl rfl rfl, rfl⟩, ⟨g0, W, ready_plain rfl rfl rfl⟩, ⟨g0, W, ready_plain rfl rfl rfl⟩,
    ⟨g0, { W with slots := [(0, { wSlot with frame := 0x8000 })] }, ready_plain rfl rfl rfl, by decide, rfl, rfl⟩⟩

theorem witness_TuneAppliesDescriptor :
    ∃ g, ∃ src : Src64, ∃ (va : Word) (ks : List NKind), ∃ h fs m st0, ∃ (s : State), Ready s g fs m none ∧
    ((∃ a v, src = .name a ∧ fs = [a.ix] ∧ m = [a] ∧ IntName s a.ix ∧ ReadsInt s (s.emptied [a]) a.ix v false st0 ∧
        va = BitVec.ofInt 64 v) ∨
      (src = .x64 va ∧ fs = [] ∧ m = [] ∧ st0 = s.counted)) ∧
    let t := st0.drain s.cur
    va.toNat % 8 = 0 ∧
    DescWord s t va.toNat h ∧
    h.toNat = 0x7E3A0100 + ks.length ∧
    ks.length < 256 ∧
    (∀ j, ∀ (hj : j < ks.length), ∃ w, DescWord s t (va.toNat + 8 * (j + 1)) w ∧ parseEntry (coreOf s.cur) w = some ks[j]) ∧
    s.declaredOthers s.cur + costOf ks ≤ 262144 ∧
    Performed s st0 ∧
    (s.tuneMoves s.cur ks = false ∨ s.mayRepack s.cur = true) :=
  ⟨g0, .x64 0x8000, 0x8000, [.int true 64 .wrap], _, _, _, _, W, ready_plain rfl rfl rfl, .inr ⟨rfl, rfl, rfl, rfl⟩, by decide,
    desc_word wLeaf 0x8000 rfl rfl, by decide, by decide, by
      intro j hj
      match j with
      | 0 => exact ⟨_, desc_word wLeaf 0x8008 rfl rfl, rfl⟩
      | n + 1 => simp only [List.length_cons, List.length_nil] at hj; omega,
    by decide, rfl, .inl (by decide)⟩

theorem witness_DescriptorEntries :
    (∃ (w : Nat), 1 ≤ w ∧
    w ≤ 64) ∧
    (∃ (w : Nat) (r c cg rg : Nat), 1 ≤ w ∧
    w ≤ 64 ∧
    1 ≤ r ∧
    r ≤ 1024 ∧
    1 ≤ c ∧
    c ≤ 1024 ∧
    cg = min c (1024 / elemW w) ∧
    rg = min r (1024 / (cg * elemW w))) ∧
    (∃ (k : FK) (r c cg rg : Nat), 1 ≤ r ∧
    r ≤ 1024 ∧
    1 ≤ c ∧
    c ≤ 1024 ∧
    cg = min c (1024 / k.elemW) ∧
    rg = min r (1024 / (cg * k.elemW))) :=
  ⟨⟨64, by decide⟩, ⟨32, 1024, 1024, 32, 1, by decide⟩, ⟨.e4m3, 1024, 1024, 128, 1, by decide⟩⟩

theorem witness_ResizeChangesWidth :
    (∃ (s st : State) (i : Instr) (d : Ix) (w : Nat), ∃ n sg w0 md, s.me.nm d = some n ∧
    n.kind = .int sg w0 md ∧
    n.f = true ∧
    ((∃ g wm1, i = .resize g d wm1 ∧ Ready s g [d] [] none ∧ w = BitVec.toNat wm1 + 1 ∧ st = s.counted) ∨
      (∃ g a v st0, i = .width g d a ∧ Ready s g [d, a.ix] [a] none ∧ ReadsInt s (s.emptied [a]) a.ix v false st0 ∧
        1 ≤ v ∧ v ≤ 64 ∧ w = v.toNat ∧ st = st0.count 0 (coreOf s.cur) 7 s.me.smode 1)) ∧
    ∃ y, (w ≤ w0 ∨ s.declared (coreOf s.cur) - w0 + w ≤ 262144) ∧
    fitInt sg w md (n.vals.headD 0) = some y ∧
    MayGrow s d n (.int sg w md)) ∧
    (∃ (s st : State) (i : Instr) (d : Ix) (w : Nat), ∃ n sg w0 md, s.me.nm d = some n ∧
    n.kind = .int sg w0 md ∧
    n.f = true ∧
    ((∃ g wm1, i = .resize g d wm1 ∧ Ready s g [d] [] none ∧ w = BitVec.toNat wm1 + 1 ∧ st = s.counted) ∨
      (∃ g a v st0, i = .width g d a ∧ Ready s g [d, a.ix] [a] none ∧ ReadsInt s (s.emptied [a]) a.ix v false st0 ∧
        1 ≤ v ∧ v ≤ 64 ∧ w = v.toNat ∧ st = st0.count 0 (coreOf s.cur) 7 s.me.smode 1)) ∧
    ∃ y, (w ≤ w0 ∨ s.declared (coreOf s.cur) - w0 + w ≤ 262144) ∧
    fitInt sg w md (n.vals.headD 0) = some y ∧
    ¬ MayGrow s d n (.int sg w md)) ∧
    (∃ (s st : State) (i : Instr) (d : Ix) (w : Nat), ∃ n sg w0 md, s.me.nm d = some n ∧
    n.kind = .int sg w0 md ∧
    n.f = true ∧
    ((∃ g wm1, i = .resize g d wm1 ∧ Ready s g [d] [] none ∧ w = BitVec.toNat wm1 + 1 ∧ st = s.counted) ∨
      (∃ g a v st0, i = .width g d a ∧ Ready s g [d, a.ix] [a] none ∧ ReadsInt s (s.emptied [a]) a.ix v false st0 ∧
        1 ≤ v ∧ v ≤ 64 ∧ w = v.toNat ∧ st = st0.count 0 (coreOf s.cur) 7 s.me.smode 1)) ∧
    (w ≤ w0 ∨ s.declared (coreOf s.cur) - w0 + w ≤ 262144) ∧
    fitInt sg w md (n.vals.headD 0) = none) ∧
    (∃ (s st : State) (i : Instr) (d : Ix) (w : Nat), ∃ n sg w0 md, s.me.nm d = some n ∧
    n.kind = .int sg w0 md ∧
    n.f = true ∧
    ((∃ g wm1, i = .resize g d wm1 ∧ Ready s g [d] [] none ∧ w = BitVec.toNat wm1 + 1 ∧ st = s.counted) ∨
      (∃ g a v st0, i = .width g d a ∧ Ready s g [d, a.ix] [a] none ∧ ReadsInt s (s.emptied [a]) a.ix v false st0 ∧
        1 ≤ v ∧ v ≤ 64 ∧ w = v.toNat ∧ st = st0.count 0 (coreOf s.cur) 7 s.me.smode 1)) ∧
    w0 < w ∧
    262144 < s.declared (coreOf s.cur) - w0 + w) :=
  ⟨⟨W, _, _, 1, 4, _, _, _, _, rfl, rfl, rfl, .inl ⟨g0, 3, rfl, ready_plain rfl rfl rfl, rfl, rfl⟩, 7,
      .inl (by decide), rfl, by unfold MayGrow; decide⟩,
    ⟨{ W with
        slots := [(0, { wSlot with names := [full (.int true 8 .wrap) [7], { num 0 with pos := 8 }] })],
        cores := [(0, { Core.reset with repack := some ⟨1, 0, 100, [], none⟩ })] },
      _, _, 1, 9, _, _, _, _, rfl, rfl, rfl, .inl ⟨g0, 8, rfl, ready_plain rfl rfl rfl, rfl, rfl⟩, 7, .inr (by decide), rfl,
      by unfold MayGrow; decide⟩,
    ⟨W, _, _, 3, 2, _, _, _, _, rfl, rfl, rfl,
      .inr ⟨g0, o 2, 2, _, rfl, ready_plain rfl rfl rfl, reads_int rfl, by decide, by decide, rfl, rfl⟩, .inl (by decide), rfl⟩,
    ⟨{ W with slots := [(0, { wSlot with names := [full (.int true 8 .wrap) [7], full (.ivec true 64 .wrap 512 8) []] })] },
      _, _, 1, 9, _, _, _, _, rfl, rfl, rfl, .inl ⟨g0, 8, rfl, ready_plain rfl rfl rfl, rfl, rfl⟩, by decide, by decide⟩⟩

theorem witness_RepacksTakeTurns :
    (∃ (s : State) (t u : Tid), u ≠ t ∧ coreOf u = coreOf t ∧ (s.slot u).st = .parked ∧
      (s.slot u).waiton.toNat / 2 ^ 60 = 8 ∧ s.mayRepack t = true) :=
  ⟨{ W with slots := [(0, wSlot), (1, { wSlot with st := .parked, waiton := 0x8000000000000000 })] }, 0, 1, by decide, by decide, rfl, by decide, by decide⟩

theorem witness_GrowingKeepsNames :
    ∃ (n : NameSt) (k : NKind), k.cost ≤ n.kind.cost :=
  ⟨num 7, .int true 8 .wrap, by decide⟩

theorem witness_ShapeGrants :
    (∃ g, ∃ (d v : Ix), ∃ rq cq n, ∃ q : ShapeReq, ∃ fs, ∃ (s : State), Ready s g fs [] none ∧
    s.me.nm v = some n ∧
    n.kind.isVec = true ∧
    (d = 0 ∨ IntName s d) ∧
    1 ≤ rq ∧
    rq ≤ 1024 ∧
    1 ≤ cq ∧
    cq ≤ 1024 ∧
    ((∃ b, q = .name b ∧ fs = [d, v, b] ∧ s.me.intNil b = true ∧
        ReadsInt s s.counted b ((rq * 65536 + cq : Nat) : Int) false s.counted) ∨
      (∃ x : BitVec 32, q = .x32 x ∧ fs = [d, v] ∧ x.toNat = rq * 65536 + cq)) ∧
    let sw := n.kind.sw
    let cg := min cq (1024 / sw)
    let rg := min rq (1024 / (cg * sw))
    let k := match n.kind with
        | .ivec sg w md _ _ => NKind.ivec sg w md rg cg
        | .fvec f _ _ => NKind.fvec f rg cg
        | o => o
    s.declared (coreOf s.cur) - n.kind.cost + k.cost ≤ 262144 ∧
    MayGrow s v n k ∧
    ∃ st2, WritesInt s ((s.counted.regrow s.cur (v.toNat - 1) n k).modName s.cur v (fun y => { y with
        vals := (List.range (rg * cg)).map (fun e => if e / cg < n.kind.shape.1 ∧ e % cg < n.kind.shape.2 then
          (y.vals[e / cg * n.kind.shape.2 + e % cg]?).getD 0 else 0) })) d (rg * 65536 + cg : Nat) false st2) ∧
    (∃ g, ∃ (d v : Ix), ∃ rq cq n, ∃ q : ShapeReq, ∃ fs, ∃ (s : State), Ready s g fs [] none ∧
    s.me.nm v = some n ∧
    n.kind.isVec = true ∧
    (d = 0 ∨ IntName s d) ∧
    1 ≤ rq ∧
    rq ≤ 1024 ∧
    1 ≤ cq ∧
    cq ≤ 1024 ∧
    ((∃ b, q = .name b ∧ fs = [d, v, b] ∧ s.me.intNil b = true ∧
        ReadsInt s s.counted b ((rq * 65536 + cq : Nat) : Int) false s.counted) ∨
      (∃ x : BitVec 32, q = .x32 x ∧ fs = [d, v] ∧ x.toNat = rq * 65536 + cq)) ∧
    let sw := n.kind.sw
    let cg := min cq (1024 / sw)
    let rg := min rq (1024 / (cg * sw))
    let k := match n.kind with
        | .ivec sg w md _ _ => NKind.ivec sg w md rg cg
        | .fvec f _ _ => NKind.fvec f rg cg
        | o => o
    ∃ sg w md, 262144 < s.declared (coreOf s.cur) - n.kind.cost + k.cost ∧
    (d = 0 ∨ ∃ y, s.me.nm d = some y ∧ y.kind = .int sg w md ∧ (fitInt sg w md (rg * 65536 + cg : Nat)).isSome = true)) :=
  ⟨⟨g0, 4, 9, 1, 3, _, .x32 0x10003, _, W, ready_plain rfl rfl rfl, rfl, rfl, .inr ⟨_, _, _, _, rfl, rfl⟩, by decide,
      by decide, by decide, by decide, (.inr ⟨_, rfl, rfl, by decide⟩), by decide, by unfold MayGrow; decide, _,
      writes_int (y := 65539) rfl rfl (by decide)⟩,
    ⟨g0, 0, 1, 1, 1024, _, .x32 0x10400, _, { W with
        slots := [(0, { wSlot with names := [full (.ivec true 1 .wrap 1 1) [1], full (.ivec true 64 .wrap 512 8) []] })] },
      ready_plain rfl rfl rfl, rfl, rfl, .inl rfl, by decide, by decide, by decide, by decide, (.inr ⟨_, rfl, rfl, by decide⟩),
      false, 0, .wrap, by decide, .inl rfl⟩⟩

theorem witness_NameBitOps :
    (∃ c f, ((c = Instr.fset ∧ f = true) ∨ (c = Instr.fclr ∧ f = false)) ∧
    ∃ g, ∃ (d : Ix) (s : State), Ready s g [d] [] none ∧
    NoQueue s d ∧
    d = 0) ∧
    (∃ c f, ((c = Instr.fset ∧ f = true) ∨ (c = Instr.fclr ∧ f = false)) ∧
    ∃ g, ∃ (d : Ix) (s : State), Ready s g [d] [] none ∧
    NoQueue s d ∧
    d ≠ 0) ∧
    (∃ g, ∃ (d a : Ix), ∃ v, ∃ (s : State) (st : State), Ready s g [d, a] [] none ∧
    NoQueue s a ∧
    ((a = 0 ∧ v = 1) ∨ (∃ n, s.me.nm a = some n ∧ v = (if n.f then 1 else 0) + 2 * (if n.p then 1 else 0))) ∧
    WritesInt s s.counted d v false st) :=
  ⟨⟨.fset, true, .inl ⟨rfl, rfl⟩, g0, 0, W, ready_plain rfl rfl rfl, rfl, rfl⟩,
    ⟨.fclr, false, .inr ⟨rfl, rfl⟩, g0, 4, W, ready_plain rfl rfl rfl, rfl, by decide⟩,
    ⟨g0, 4, 23, _, W, _, ready_plain rfl rfl rfl, rfl, .inr ⟨_, rfl, rfl⟩, writes_int rfl rfl rfl⟩⟩

theorem witness_LocalLoadsAndStores :
    (∃ g, ∃ fe : LdFe, ∃ (d : Ix), ∃ a o n, ∃ (s : State), ∃ st1 st2, Ready s g [d, a.ix] [a] none ∧
    ReadsInt s (s.emptied [a]) a.ix o false st1 ∧
    AccBytes s d n ∧
    InLocal s o n ∧
    let t := st1.drainFor (lsAccOf s (coreOf s.cur) o.toNat n false none)
    t.blocked (lsAccOf s (coreOf s.cur) o.toNat n false none) = false ∧
    (fe ≠ .plain → t.lsF (coreOf s.cur) o.toNat = true) ∧
    LoadsInto s t d n (t.lsRead (coreOf s.cur) o.toNat n) (t.lsP (coreOf s.cur) o.toNat) st2) ∧
    (∃ g f a b o n v p, ∃ (s : State), ∃ st1 st2, Ready s g [a.ix, b.ix] [a, b] none ∧
    ReadsInt s (s.emptied [a, b]) a.ix o false st1 ∧
    AccBytes s b.ix n ∧
    InLocal s o n ∧
    let t := st1.drainFor (lsAccOf s (coreOf s.cur) o.toNat n true none)
    t.blocked (lsAccOf s (coreOf s.cur) o.toNat n true none) = false ∧
    (f = true → t.lsF (coreOf s.cur) o.toNat = false) ∧
    Reads s t b.ix v p st2) :=
  ⟨⟨g0, .c, 4, o 19, 64, 8, { W with lf := [(8, true)] }, _, _, ready_plain rfl rfl rfl, reads_int rfl, acc_int rfl rfl rfl,
      ⟨by decide, by decide, by decide⟩, rfl, fun _ => by decide,
      .inr (.inr (.inl ⟨_, _, _, _, rfl, rfl, writes_int rfl rfl rfl⟩))⟩,
    ⟨g0, true, o 19, o 1, 64, 8, .int 7, false, W, _, _, ready_plain rfl rfl rfl, reads_int rfl, acc_int rfl rfl rfl,
      ⟨by decide, by decide, by decide⟩, rfl, fun _ => by decide, reads_int rfl⟩⟩

theorem witness_LocalWaitsPark :
    (∃ g, ∃ fe : LdFe, ∃ (d : Ix), ∃ a o n, ∃ (s : State), ∃ st1, Ready s g [d, a.ix] [a] none ∧
    ReadsInt s (s.emptied [a]) a.ix o false st1 ∧
    AccBytes s d n ∧
    InLocal s o n ∧
    fe ≠ .plain ∧
    let t := st1.drainFor (lsAccOf s (coreOf s.cur) o.toNat n false none)
    t.blocked (lsAccOf s (coreOf s.cur) o.toNat n false none) = false ∧
    t.lsF (coreOf s.cur) o.toNat = false) ∧
    (∃ g a b o n, ∃ (s : State), ∃ st1, Ready s g [a.ix, b.ix] [a, b] none ∧
    ReadsInt s (s.emptied [a, b]) a.ix o false st1 ∧
    AccBytes s b.ix n ∧
    InLocal s o n ∧
    let t := st1.drainFor (lsAccOf s (coreOf s.cur) o.toNat n true none)
    t.blocked (lsAccOf s (coreOf s.cur) o.toNat n true none) = false ∧
    t.lsF (coreOf s.cur) o.toNat = true) :=
  ⟨⟨g0, .w, 4, o 19, 64, 8, W, _, ready_plain rfl rfl rfl, reads_int rfl, acc_int rfl rfl rfl, ⟨by decide, by decide, by decide⟩,
      by decide, by decide⟩,
    ⟨g0, o 19, o 1, 64, 8, { W with lf := [(8, true)] }, _, ready_plain rfl rfl rfl, reads_int rfl, acc_int rfl rfl rfl,
      ⟨by decide, by decide, by decide⟩, by decide⟩⟩

theorem witness_LocalAccessFrame :
    (∃ g, ∃ fe : LdFe, ∃ (d : Ix), ∃ a o n, ∃ (s : State), ∃ st2 raw p, Ready s g [d, a.ix] [a] none ∧
    ReadsInt s (s.emptied [a]) a.ix o false (s.emptied [a]) ∧
    AccBytes s d n ∧
    InLocal s o n ∧
    s.inflight = [] ∧
    NoQueue s d ∧
    (fe ≠ .plain → s.lsF (coreOf s.cur) o.toNat = true) ∧
    raw = s.lsRead (coreOf s.cur) o.toNat n ∧
    p = s.lsP (coreOf s.cur) o.toNat ∧
    LoadsInto s (s.emptied [a]) d n raw p st2) ∧
    (∃ g f a b o n v p, ∃ (s : State), Ready s g [a.ix, b.ix] [a, b] none ∧
    ReadsInt s (s.emptied [a, b]) a.ix o false (s.emptied [a, b]) ∧
    AccBytes s b.ix n ∧
    InLocal s o n ∧
    s.inflight = [] ∧
    (f = true → s.lsF (coreOf s.cur) o.toNat = false) ∧
    Reads s (s.emptied [a, b]) b.ix v p (s.emptied [a, b])) :=
  ⟨⟨g0, .c, 4, o 19, 64, 8, { W with lf := [(8, true)] }, _, _, _, ready_plain rfl rfl rfl, reads_int rfl, acc_int rfl rfl rfl,
      ⟨by decide, by decide, by decide⟩, rfl, rfl, fun _ => by decide, rfl, rfl,
      .inr (.inr (.inl ⟨_, _, _, _, rfl, rfl, writes_int rfl rfl rfl⟩))⟩,
    ⟨g0, true, o 19, o 1, 64, 8, .int 7, false, W, ready_plain rfl rfl rfl, reads_int rfl, acc_int rfl rfl rfl,
      ⟨by decide, by decide, by decide⟩, rfl, fun _ => by decide, reads_int rfl⟩⟩

theorem witness_FarAccessesIssue :
    (∃ g cl acq, ∃ (d : Ix), ∃ a v n acc, ∃ (s : State), ∃ st1, Ready s g [d, a.ix] [a] none ∧
    NoQueue s d ∧
    ReadsInt s (s.emptied [a]) a.ix v false st1 ∧
    AccBytes s d n ∧
    FarAcc s st1 cl v n .rd false acq acc ∧
    st1.fabricFull (cluOf (coreOf s.cur)) = false) ∧
    (∃ g cl acq, ∃ (d : Ix), ∃ a v n acc, ∃ (s : State), ∃ st1, Ready s g [d, a.ix] [a] none ∧
    NoQueue s d ∧
    ReadsInt s (s.emptied [a]) a.ix v false st1 ∧
    AccBytes s d n ∧
    FarAcc s st1 cl v n .rd false acq acc ∧
    st1.fabricFull (cluOf (coreOf s.cur)) = true) ∧
    (∃ g cl rel a b v n acc w p, ∃ (s : State), ∃ st1 st2, Ready s g [a.ix, b.ix] [a, b] none ∧
    ReadsInt s (s.emptied [a, b]) a.ix v false st1 ∧
    (∀ sc, rel = some sc → st1.unreleased s.cur sc = false) ∧
    AccBytes s b.ix n ∧
    FarAcc s st1 cl v n .wr true none acc ∧
    Reads s st1 b.ix w p st2 ∧
    (p = false ∨ acc.tgt.isHostT = false) ∧
    st1.fabricFull (cluOf (coreOf s.cur)) = false) ∧
    (∃ g cl rel a b v n acc w p, ∃ (s : State), ∃ st1 st2, Ready s g [a.ix, b.ix] [a, b] none ∧
    ReadsInt s (s.emptied [a, b]) a.ix v false st1 ∧
    (∀ sc, rel = some sc → st1.unreleased s.cur sc = false) ∧
    AccBytes s b.ix n ∧
    FarAcc s st1 cl v n .wr true none acc ∧
    Reads s st1 b.ix w p st2 ∧
    (p = false ∨ acc.tgt.isHostT = false) ∧
    st1.fabricFull (cluOf (coreOf s.cur)) = true) ∧
    (∃ g sc, ∃ (s : State), Ready s g [] [] none ∧
    s.unperformed s.cur sc = false) ∧
    (∃ g sc, ∃ (s : State), Ready s g [] [] none ∧
    s.unperformed s.cur sc = true) :=
  ⟨⟨g0, false, none, 4, o 20, 0x8000, 8, _, W, _, ready_plain rfl rfl rfl, rfl, reads_int rfl, acc_int rfl rfl rfl,
      ⟨by decide, .inl ⟨rfl, 0x8000, wLeaf, rfl, rfl⟩⟩, rfl⟩,
    ⟨g0, false, none, 4, o 20, 0x8000, 8, _, WFab, _, ready_plain rfl rfl rfl, rfl, reads_int rfl, acc_int rfl rfl rfl,
      ⟨by decide, .inl ⟨rfl, 0x8000, wLeaf, rfl, rfl⟩⟩, fabric_full rfl⟩,
    ⟨g0, false, none, o 20, o 1, 0x8000, 8, _, .int 7, false, W, _, _, ready_plain rfl rfl rfl, reads_int rfl, nofun,
      acc_int rfl rfl rfl, ⟨by decide, .inl ⟨rfl, 0x8000, wLeaf, rfl, rfl⟩⟩, reads_int rfl, .inl rfl, rfl⟩,
    ⟨g0, false, none, o 20, o 1, 0x8000, 8, _, .int 7, false, WFab, _, _, ready_plain rfl rfl rfl, reads_int rfl, nofun,
      acc_int rfl rfl rfl, ⟨by decide, .inl ⟨rfl, 0x8000, wLeaf, rfl, rfl⟩⟩, reads_int rfl, .inl rfl, fabric_full rfl⟩,
    ⟨g0, .dev, W, ready_plain rfl rfl rfl, rfl⟩,
    ⟨g0, .dev, WR (.read ⟨0, 0, .mem 0x8000, 8, false, .rc, none, false⟩ ⟨0, 0, 4, 5⟩), ready_plain rfl rfl rfl, rfl⟩⟩

theorem witness_AtomicsIssue :
    (∃ c op ty rm, AtomicOp c op ty rm ∧
    ∃ g, ∃ f : AtomF, ∃ v bv b pb cv cc pc, ∃ (s : State), ∃ st1 acc, Ready s g (if f.ret || decide (op = .cas) then [f.d, f.a.ix, f.b.ix] else [f.a.ix, f.b.ix]) [f.a, f.b] none ∧
    atomKinds f op ty s.me = true ∧
    NoQueue s f.d ∧
    ReadsInt s (s.emptied [f.a, f.b]) f.a.ix v false st1 ∧
    (∀ sc, AOrder.rel f.order = some sc → st1.unreleased s.cur sc = false) ∧
    Reads s st1 f.b.ix bv pb st1 ∧
    AtomIn ty rm bv b ∧
    ((op = .cas ∧ ReadsInt s st1 f.d cv pc st1 ∧ AtomIn ty rm (.int cv) cc) ∨ (op ≠ .cas ∧ pc = false ∧ cc = 0)) ∧
    let st2 := if f.ret then s.pending st1 f.d else st1
    f.space = .ls ∧
    InLocal s v ty.bytes ∧
    acc = { lsAccOf s (coreOf s.cur) v.toNat ty.bytes true (AOrder.acq f.order) with
        ord := if f.order = .plain then .uo else .rc } ∧
    (st2.drainFor acc).blocked acc = false) ∧
    (∃ c op ty rm, AtomicOp c op ty rm ∧
    ∃ g, ∃ f : AtomF, ∃ v bv b pb cv cc pc, ∃ (s : State), ∃ st1 acc, Ready s g (if f.ret || decide (op = .cas) then [f.d, f.a.ix, f.b.ix] else [f.a.ix, f.b.ix]) [f.a, f.b] none ∧
    atomKinds f op ty s.me = true ∧
    NoQueue s f.d ∧
    ReadsInt s (s.emptied [f.a, f.b]) f.a.ix v false st1 ∧
    (∀ sc, AOrder.rel f.order = some sc → st1.unreleased s.cur sc = false) ∧
    Reads s st1 f.b.ix bv pb st1 ∧
    AtomIn ty rm bv b ∧
    ((op = .cas ∧ ReadsInt s st1 f.d cv pc st1 ∧ AtomIn ty rm (.int cv) cc) ∨ (op ≠ .cas ∧ pc = false ∧ cc = 0)) ∧
    f.space ≠ .ls ∧
    FarAcc s st1 (decide (f.space = .cl)) v ty.bytes .rw true (AOrder.acq f.order) acc ∧
    acc.tgt.isHostT = false ∧
    st1.fabricFull (cluOf (coreOf s.cur)) = false) ∧
    (∃ c op ty rm, AtomicOp c op ty rm ∧
    ∃ g, ∃ f : AtomF, ∃ v bv b pb cv cc pc, ∃ (s : State), ∃ st1 acc, Ready s g (if f.ret || decide (op = .cas) then [f.d, f.a.ix, f.b.ix] else [f.a.ix, f.b.ix]) [f.a, f.b] none ∧
    atomKinds f op ty s.me = true ∧
    NoQueue s f.d ∧
    ReadsInt s (s.emptied [f.a, f.b]) f.a.ix v false st1 ∧
    (∀ sc, AOrder.rel f.order = some sc → st1.unreleased s.cur sc = false) ∧
    Reads s st1 f.b.ix bv pb st1 ∧
    AtomIn ty rm bv b ∧
    ((op = .cas ∧ ReadsInt s st1 f.d cv pc st1 ∧ AtomIn ty rm (.int cv) cc) ∨ (op ≠ .cas ∧ pc = false ∧ cc = 0)) ∧
    f.space ≠ .ls ∧
    FarAcc s st1 (decide (f.space = .cl)) v ty.bytes .rw true (AOrder.acq f.order) acc ∧
    acc.tgt.isHostT = false ∧
    st1.fabricFull (cluOf (coreOf s.cur)) = true) :=
  ⟨⟨_, _, _, _, .add .s64, g0, ⟨true, .ls, .plain, 4, o 19, o 2⟩, 64, .int 2, 2, false, 0, 0, false, W, _, _,
      ready_plain rfl rfl rfl, rfl, rfl, reads_int rfl, nofun, reads_int rfl, .inl ⟨_, _, rfl, rfl, rfl⟩,
      .inr ⟨by decide, rfl, rfl⟩, rfl, ⟨by decide, by decide, by decide⟩, rfl, rfl⟩,
    ⟨_, _, _, _, .cas .s64, g0, ⟨true, .va, .plain, 1, o 20, o 2⟩, 0x8000, .int 2, 2, false, 7, 7, false, W, _, _,
      ready_plain rfl rfl rfl, rfl, rfl, reads_int rfl, nofun, reads_int rfl, .inl ⟨_, _, rfl, rfl, rfl⟩,
      .inl ⟨rfl, reads_int rfl, .inl ⟨_, _, rfl, rfl, rfl⟩⟩, by decide, ⟨by decide, .inl ⟨rfl, 0x8000, wLeaf, rfl, rfl⟩⟩,
      rfl, rfl⟩,
    ⟨_, _, _, _, .add .s64, g0, ⟨true, .va, .plain, 4, o 20, o 2⟩, 0x8000, .int 2, 2, false, 0, 0, false, WFab, _, _,
      ready_plain rfl rfl rfl, rfl, rfl, reads_int rfl, nofun, reads_int rfl, .inl ⟨_, _, rfl, rfl, rfl⟩,
      .inr ⟨by decide, rfl, rfl⟩, by decide, ⟨by decide, .inl ⟨rfl, 0x8000, wLeaf, rfl, rfl⟩⟩, rfl, fabric_full rfl⟩⟩

theorem witness_PerformedAtOwner :
    (∃ (id : Nat) (s : State), ∃ a, ∃ (dst : Dst), mfind id s.inflight = some (.read a dst) ∧
    s.mayPerform id (.read a dst) = true ∧
    a.far = false) ∧
    (∃ (id : Nat) (s : State), ∃ a v p, mfind id s.inflight = some (.write a v p) ∧
    s.mayPerform id (.write a v p) = true ∧
    a.far = false) ∧
    (∃ (id : Nat) (s : State), ∃ a op ty rm b c p, ∃ (dst : Option Dst), mfind id s.inflight = some (.atomic a op ty rm b c p dst) ∧
    s.mayPerform id (.atomic a op ty rm b c p dst) = true ∧
    a.far = false) ∧
    (∃ (id : Nat) (s : State), ∃ a v p q ws, mfind id s.inflight = some (.write a v p) ∧
    s.mayPerform id (.write a v p) = true ∧
    a.far = true ∧
    s.asked.find? (fun q => decide (q.id = id)) = some q ∧
    q.ans = some ws) ∧
    (∃ c ∈ [Instr.readAtOwner, Instr.writeAtOwner, Instr.atomicAtOwner], ∃ (id : Nat) (s : State), ∃ r, mfind id s.inflight = some r ∧
    s.mayPerform id r = false) ∧
    (∃ (id : Nat) (s : State), ∃ a, ∃ (dst : Dst), mfind id s.inflight = some (.read a dst) ∧
    s.mayPerform id (.read a dst) = true ∧
    a.far = true ∧
    s.asked.find? (fun q => decide (q.id = id)) = none) ∧
    (∃ (id : Nat) (s : State), ∃ a, ∃ (dst : Dst), mfind id s.inflight = some (.read a dst) ∧
    s.mayPerform id (.read a dst) = true ∧
    a.far = true ∧
    ∃ q, s.asked.find? (fun q => decide (q.id = id)) = some q ∧
    q.ans = none) ∧
    (∃ (id : Nat) (s : State), ∃ a, ∃ (dst : Dst), mfind id s.inflight = some (.read a dst) ∧
    s.mayPerform id (.read a dst) = true ∧
    a.far = true ∧
    ∃ q w p, s.asked.find? (fun q => decide (q.id = id)) = some q ∧
    q.ans = some [(w, p)]) :=
  ⟨⟨9, WR (.read ⟨0, 0, .mem 0x8000, 8, false, .rc, none, false⟩ ⟨0, 0, 4, 5⟩), _, _, rfl, rfl, rfl⟩,
    ⟨9, WR (.write ⟨0, 0, .mem 0x8000, 8, true, .rc, none, false⟩ 7 false), _, _, _, rfl, rfl, rfl⟩,
    ⟨9, WR (.atomic ⟨0, 0, .mem 0x8000, 8, true, .rc, none, false⟩ .add (.int .s64) .rne 1 0 false none), _, _, _, _, _, _, _, _,
      rfl, rfl, rfl⟩,
    ⟨9, { WR (.write ⟨0, 0, .mem 0x80040000000000, 8, true, .rc, none, false⟩ 7 false) with
        asked := [⟨0, 9, 1, [], some []⟩] }, _, _, _, _, _, rfl, rfl, rfl, rfl, rfl⟩,
    ⟨_, .head _, 9, { W with inflight := [(8, .write ⟨0, 0, .mem 0x8000, 8, true, .rc, none, false⟩ 7 false),
        (9, .read ⟨0, 0, .mem 0x8004, 4, false, .rc, none, false⟩ ⟨0, 0, 4, 5⟩)] }, _, rfl, rfl⟩,
    ⟨9, WR (.read ⟨0, 0, .mem 0x80040000000000, 8, false, .rc, none, false⟩ ⟨0, 0, 4, 5⟩), _, _, rfl, rfl, rfl, rfl⟩,
    ⟨9, { WR (.read ⟨0, 0, .mem 0x80040000000000, 8, false, .rc, none, false⟩ ⟨0, 0, 4, 5⟩) with asked := [⟨0, 9, 1, [], none⟩] },
      _, _, rfl, rfl, rfl, _, rfl, rfl⟩,
    ⟨9, { WR (.read ⟨0, 0, .mem 0x80040000000000, 8, false, .rc, none, false⟩ ⟨0, 0, 4, 5⟩) with
        asked := [⟨0, 9, 1, [], some [(7, false)]⟩] }, _, _, rfl, rfl, rfl, _, _, _, rfl, rfl⟩⟩

theorem witness_AccessOrder :
    ∃ (s : State) (id e : Nat) (q r : Req) (x y : Acc), (e, r) ∈ s.inflight ∧
    e < id ∧
    r.acc = some x ∧
    q.acc = some y ∧
    x.tid = y.tid ∧
    (overlap x.tgt y.tgt x.n y.n = true ∨ (x.ord = .so ∧ y.ord = .so) ∨
      (∃ sc, x.acq = some sc ∧ y.ord ≠ .uo ∧ inScope sc (coreOf x.tid) y.tgt = true)) :=
  ⟨{ W with inflight := [(8, .write ⟨0, 0, .mem 0x8000, 8, true, .rc, none, false⟩ 7 false),
      (9, .read ⟨0, 0, .mem 0x8004, 4, false, .rc, none, false⟩ ⟨0, 0, 4, 5⟩)] }, 9, 8,
    .read ⟨0, 0, .mem 0x8004, 4, false, .rc, none, false⟩ ⟨0, 0, 4, 5⟩, _, _, _, .head _, by decide, rfl, rfl, rfl, .inl rfl⟩

theorem witness_MemoryReadsBack :
    ∃ (tg u : Tgt) (n m : Nat), (∀ a b, tg = .mem a → u = .mem b → b + m ≤ a ∨ a + n ≤ b) ∧
    (∀ c a d b, tg = .ls c a → u = .ls d b → d * 2 ^ 18 + b + m ≤ c * 2 ^ 18 + a ∨ c * 2 ^ 18 + a + n ≤ d * 2 ^ 18 + b) :=
  ⟨.mem 0x8000, .mem 0x8008, 8, 8, by intro a b h1 h2; cases h1; cases h2; decide, nofun⟩

theorem witness_ResultsLand :
    (∃ (id : Nat) (s : State), ∃ d v p fl, mfind id s.inflight = some (.land d v p fl) ∧
    s.repacking (coreOf d.tid) = true) ∧
    (∃ (id : Nat) (s : State), ∃ d v p fl, mfind id s.inflight = some (.land d v p fl) ∧
    s.repacking (coreOf d.tid) = false ∧
    ¬ Lives s d) ∧
    (∃ (id : Nat) (s : State), ∃ d v p fl, mfind id s.inflight = some (.land d v p fl) ∧
    ∃ y, s.repacking (coreOf d.tid) = false ∧
    Lives s d ∧
    d.ix ≠ 0 ∧
    (s.slot d.tid).names[d.ix - 1]? = some y ∧
    y.pend ≠ some d.tk) ∧
    (∃ (id : Nat) (s : State), ∃ d v p fl, mfind id s.inflight = some (.land d v p fl) ∧
    ∃ y, s.repacking (coreOf d.tid) = false ∧
    Lives s d ∧
    d.ix ≠ 0 ∧
    (s.slot d.tid).names[d.ix - 1]? = some y ∧
    ∃ (x : Int), ∃ sg w m, y.pend = some d.tk ∧
    v = .int x ∧
    y.kind = .int sg w m) ∧
    (∃ (id : Nat) (s : State), ∃ d v p fl, mfind id s.inflight = some (.land d v p fl) ∧
    ∃ y, s.repacking (coreOf d.tid) = false ∧
    Lives s d ∧
    d.ix ≠ 0 ∧
    (s.slot d.tid).names[d.ix - 1]? = some y ∧
    ∃ n raw, y.pend = some d.tk ∧
    v = .raw n raw ∧
    ∃ sg w m r, y.kind = .int sg w m ∧
    fitInt sg w m (if sg then sext (8 * n) raw else raw) = some r) ∧
    (∃ (id : Nat) (s : State), ∃ d v p fl, mfind id s.inflight = some (.land d v p fl) ∧
    ∃ y, s.repacking (coreOf d.tid) = false ∧
    Lives s d ∧
    d.ix ≠ 0 ∧
    (s.slot d.tid).names[d.ix - 1]? = some y ∧
    ∃ n raw, y.pend = some d.tk ∧
    v = .raw n raw ∧
    ∃ sg w m, y.kind = .int sg w m ∧
    fitInt sg w m (if sg then sext (8 * n) raw else raw) = none) ∧
    (∃ (id : Nat) (s : State), ∃ d v p fl, mfind id s.inflight = some (.land d v p fl) ∧
    ∃ y, s.repacking (coreOf d.tid) = false ∧
    Lives s d ∧
    d.ix ≠ 0 ∧
    (s.slot d.tid).names[d.ix - 1]? = some y ∧
    ∃ n raw, y.pend = some d.tk ∧
    v = .raw n raw ∧
    ∃ k, y.kind = .flt k) ∧
    (∃ (id : Nat) (s : State), ∃ d v p fl, mfind id s.inflight = some (.land d v p fl) ∧
    ∃ y, s.repacking (coreOf d.tid) = false ∧
    Lives s d ∧
    d.ix ≠ 0 ∧
    (s.slot d.tid).names[d.ix - 1]? = some y ∧
    ∃ (x : Nat), ∃ k, y.pend = some d.tk ∧
    v = .pat x ∧
    y.kind = .flt k) :=
  ⟨⟨9, { WR (.land ⟨0, 0, 4, 5⟩ (.int 7) false 0) with
        cores := [(0, { Core.reset with repack := some ⟨0, 0, 100, [], none⟩ })] }, _, _, _, _, rfl, rfl⟩,
    ⟨9, WR (.land ⟨0, 1, 4, 5⟩ (.int 7) false 0), _, _, _, _, rfl, rfl, by unfold Lives; decide⟩,
    ⟨9, WR (.land ⟨0, 0, 4, 6⟩ (.int 7) false 0), _, _, _, _, rfl, _, rfl, ⟨rfl, by decide, by decide⟩, by decide, rfl, by decide⟩,
    ⟨9, WR (.land ⟨0, 0, 4, 5⟩ (.int 7) false 0), _, _, _, _, rfl, _, rfl, ⟨rfl, by decide, by decide⟩, by decide, rfl, _, _, _, _, rfl, rfl, rfl⟩,
    ⟨9, WR (.land ⟨0, 0, 4, 5⟩ (.raw 8 7) false 0), _, _, _, _, rfl, _, rfl, ⟨rfl, by decide, by decide⟩, by decide, rfl, _, _, rfl, rfl, _, _, _, 7, rfl,
      rfl⟩,
    ⟨9, { WR (.land ⟨0, 0, 1, 5⟩ (.raw 8 7) false 0) with
        slots := [(0, { wSlot with names := [{ full (.int true 2 .trap) [0] with f := false, pend := some 5 }] })] }, _, _, _, _,
      rfl, _, rfl, ⟨rfl, by decide, by decide⟩, by decide, rfl, _, _, rfl, rfl, _, _, _, rfl, rfl⟩,
    ⟨9, WR (.land ⟨0, 0, 15, 5⟩ (.raw 4 7) false 0), _, _, _, _, rfl, _, rfl, ⟨rfl, by decide, by decide⟩, by decide, rfl, _, _, rfl, rfl, _, rfl⟩,
    ⟨9, WR (.land ⟨0, 0, 15, 5⟩ (.pat 7) false 0), _, _, _, _, rfl, _, rfl, ⟨rfl, by decide, by decide⟩, by decide, rfl, _, _, rfl, rfl, rfl⟩⟩

theorem witness_WalksFillTheCache :
    (∃ (id : Nat) (s : State), ∃ cl part w va, mfind id s.inflight = some (.walk cl part w va) ∧
    ∃ l, (s.unsend id).walkVa part va = .ok l ∧
    backed (l.pa + (va - l.base)) = true ∧
    s.cached cl part va = none) ∧
    (∃ (id : Nat) (s : State), ∃ cl part w va, mfind id s.inflight = some (.walk cl part w va) ∧
    ∃ sc, (s.unsend id).walkVa part va = .error sc) :=
  ⟨⟨9, { WR (.walk 0 0 false 0x8000) with clus := [] }, _, _, _, _, rfl, _, rfl, rfl, rfl⟩,
    ⟨9, WR (.walk 0 0 false 0x40000000000), _, _, _, _, rfl, 2, rfl⟩⟩

end Sys2Proof.Machine.Tests
end

