-- ==== Sys2Proof/Tests/WitnessOps.lean ====
section
/-! SUPPORT. The hypotheses of the statements about integer and float ops, met by a small state. -/

namespace Sys2Proof.Machine.Tests

set_option Elab.async false

theorem witness_IntegerTwoSourceOps :
    ∃ c r, IntOp2 c r ∧
    ∃ g d a b, ∃ (s : State), ∃ st1 st2 st3 va vb vr p q, Ready s g [d.ix, a.ix, b.ix] [a, b] (some d) ∧
    ReadsInt s (s.emptied [a, b]) a.ix va p st1 ∧
    ReadsInt s st1 b.ix vb q st2 ∧
    r s.me d.ix a.ix va vb vr ∧
    WritesInt s st2 d.ix vr (p || q) st3 :=
  ⟨_, _, .add, g0, o 4, o 1, o 2, W, _, _, _, 7, 2, 9, false, false, ready_plain rfl rfl rfl,
    reads_int rfl, reads_int rfl, rfl, writes_int rfl rfl rfl⟩

theorem witness_IntegerOneSourceOps :
    ∃ c r, IntOp1 c r ∧
    ∃ g d a, ∃ (s : State), ∃ st1 st2 va vr p, Ready s g [d.ix, a.ix] [a] (some d) ∧
    ReadsInt s (s.emptied [a]) a.ix va p st1 ∧
    r s.me a.ix va vr ∧
    WritesInt s st1 d.ix vr p st2 :=
  ⟨_, _, .abs, g0, o 4, o 1, W, _, _, 7, 7, false, ready_plain rfl rfl rfl, reads_int rfl, rfl, writes_int rfl rfl rfl⟩

theorem witness_IntegerMovesAndMultiplyAdd :
    (∃ g d a b c, ∃ (s : State), ∃ st1 st2 st3 st4 va vb vc p q r, Ready s g [d.ix, a.ix, b.ix, c] [a, b] (some d) ∧
    ReadsInt s (s.emptied [a, b]) a.ix va p st1 ∧
    ReadsInt s st1 b.ix vb q st2 ∧
    ReadsInt s st2 c vc r st3 ∧
    WritesInt s st3 d.ix (va * vb + vc) (p || q || r) st4) ∧
    (∃ g d a b c, ∃ (s : State), ∃ st0 st1 st2 st3 va vb vc p q r, Ready s g [d.ix, a.ix, b.ix, c] [a, b] (some d) ∧
    IntName s c ∧
    ReadsInt s (s.emptied [a, b]) c vc r st0 ∧
    Reads s st0 a.ix va p st1 ∧
    Reads s st1 b.ix vb q st2 ∧
    ((∃ n m, va = .int n ∧ vb = .int m ∧ s.me.intOk d.ix = true ∧
        WritesInt s st2 d.ix (if vc ≠ 0 then n else m) (if vc ≠ 0 then r || p else r || q) st3) ∨
     (∃ k n m, va = .flt k n ∧ vb = .flt k m ∧ (d.ix = 0 ∨ FltName s d.ix k) ∧
        WritesPat s st2 d.ix k (if vc ≠ 0 then n else m) (if vc ≠ 0 then r || p else r || q) st3))) ∧
    (∃ g d a, ∃ (s : State), ∃ st1 st2 va p, Ready s g [d.ix, a.ix] [a] (some d) ∧
    Reads s (s.emptied [a]) a.ix va p st1 ∧
    ((∃ n, va = .int n ∧ WritesInt s st1 d.ix n p st2) ∨
     (∃ k n, va = .flt k n ∧ d.ix ≠ 0 ∧ WritesPat s st1 d.ix k n p st2))) ∧
    (∃ g d imm, ∃ (s : State), ∃ st1, Ready s g [d.ix] [] (some d) ∧
    (WritesInt s s.counted d.ix (moviVal s.me d.ix imm) false st1 ∨
     (∃ k, FltName s d.ix k ∧ WritesPat s s.counted d.ix k (umod k.width (moviVal s.me d.ix imm)) false st1))) ∧
    (∃ g d a, ∃ pos lenm1 : BitVec 6, ∃ (s : State), ∃ st0 st1 st2 vd va p q n sg w m, Ready s g [d, a.ix] [a] none ∧
    s.me.nm d = some n ∧
    n.kind = .int sg w m ∧
    ReadsInt s (s.emptied [a]) d vd p st0 ∧
    ReadsInt s st0 a.ix va q st1 ∧
    WritesInt s st1 d (insVal sg w vd va pos.toNat (lenm1.toNat + 1)) (p || q) st2) :=
  ⟨⟨g0, o 4, o 1, o 2, 16, W, _, _, _, _, 7, 2, 16, false, false, false, ready_plain rfl rfl rfl, reads_int rfl,
      reads_int rfl, reads_int rfl, writes_int rfl rfl rfl⟩,
    ⟨g0, o 4, o 1, o 2, 16, W, _, _, _, _, .int 7, .int 2, 16, false, false, false, ready_plain rfl rfl rfl,
      ⟨_, _, _, _, rfl, rfl⟩, reads_int rfl, reads_int rfl, reads_int rfl,
      .inl ⟨7, 2, rfl, rfl, rfl, writes_int rfl rfl rfl⟩⟩,
    ⟨g0, o 15, o 6, W, _, _, .flt .f32 0x3FC00000, false, ready_plain rfl rfl rfl, reads_flt rfl,
      .inr ⟨.f32, 0x3FC00000, rfl, by decide, writes_pat rfl rfl⟩⟩,
    ⟨g0, o 15, .i14 5, W, _, ready_plain rfl rfl rfl, .inr ⟨.f32, ⟨_, rfl, rfl⟩, writes_pat rfl rfl⟩⟩,
    ⟨g0, 1, o 2, 63, 0, W, _, _, _, 7, 2, false, false, _, _, _, _, ready_plain rfl rfl rfl, rfl, rfl, reads_int rfl,
      reads_int rfl, writes_int rfl rfl rfl⟩⟩

theorem witness_DivideByZero :
    (∃ c ∈ [(fun g d a b => Instr.div g d a b false), (fun g d a b => Instr.rem g d a b false)], ∃ (g : Guard) (d a b : Opd) (s : State), ∃ st1 st2 va p q, Ready s g [d.ix, a.ix, b.ix] [a, b] (some d) ∧
    s.me.intOk d.ix = true ∧
    ReadsInt s (s.emptied [a, b]) a.ix va p st1 ∧
    ReadsInt s st1 b.ix 0 q st2 ∧
    q = false) ∧
    (∃ c ∈ [(fun g d a b => Instr.div g d a b false), (fun g d a b => Instr.rem g d a b false)], ∃ (g : Guard) (d a b : Opd) (s : State), ∃ st1 st2 st3 va p q, Ready s g [d.ix, a.ix, b.ix] [a, b] (some d) ∧
    s.me.intOk d.ix = true ∧
    ReadsInt s (s.emptied [a, b]) a.ix va p st1 ∧
    ReadsInt s st1 b.ix 0 q st2 ∧
    q = true ∧
    WritesInt s st2 d.ix 0 true st3) :=
  ⟨⟨_, .head _, g0, o 4, o 1, o 5, W, _, _, 7, false, false, ready_plain rfl rfl rfl, rfl, reads_int rfl, reads_int rfl, rfl⟩,
    ⟨_, .head _, g0, o 4, o 1, o 23, W, _, _, _, 7, false, true, ready_plain rfl rfl rfl, rfl, reads_int rfl, reads_int rfl,
      rfl, writes_int rfl rfl rfl⟩⟩

theorem witness_ResultTooWideTraps :
    ∃ c r, IntOp2 c r ∧
    ∃ g d a b, ∃ (s : State), ∃ st1 st2 va vb vr p q n sg w, Ready s g [d.ix, a.ix, b.ix] [a, b] (some d) ∧
    ReadsInt s (s.emptied [a, b]) a.ix va p st1 ∧
    ReadsInt s st1 b.ix vb q st2 ∧
    r s.me d.ix a.ix va vb vr ∧
    s.me.nm d.ix = some n ∧
    n.kind = .int sg w .trap ∧
    (vr < imin sg w ∨ imax sg w < vr) :=
  ⟨_, _, .add, g0, o 3, o 3, o 1, W, _, _, 255, 7, 262, false, false, _, _, _, ready_plain rfl rfl rfl, reads_int rfl,
    reads_int rfl, rfl, rfl, rfl, .inr (by decide)⟩

theorem witness_IntegerOpsFrame :
    (∃ c r, IntOp2 c r ∧
    ∃ g d a b, ∃ (s : State), ∃ st1 st2 st3 va vb vr p q, Ready s g [d.ix, a.ix, b.ix] [a, b] (some d) ∧
    NoQueue s d.ix ∧
    NoQueue s a.ix ∧
    NoQueue s b.ix ∧
    ReadsInt s (s.emptied [a, b]) a.ix va p st1 ∧
    ReadsInt s st1 b.ix vb q st2 ∧
    r s.me d.ix a.ix va vb vr ∧
    WritesInt s st2 d.ix vr (p || q) st3) ∧
    (∃ c r, IntOp1 c r ∧
    ∃ g d a, ∃ (s : State), ∃ st1 st2 va vr p, Ready s g [d.ix, a.ix] [a] (some d) ∧
    NoQueue s d.ix ∧
    NoQueue s a.ix ∧
    ReadsInt s (s.emptied [a]) a.ix va p st1 ∧
    r s.me a.ix va vr ∧
    WritesInt s st1 d.ix vr p st2) ∧
    (∃ g d a b c, ∃ (s : State), ∃ st1 st2 st3 st4 va vb vc p q r, Ready s g [d.ix, a.ix, b.ix, c] [a, b] (some d) ∧
    NoQueue s d.ix ∧
    NoQueue s a.ix ∧
    NoQueue s b.ix ∧
    NoQueue s c ∧
    ReadsInt s (s.emptied [a, b]) a.ix va p st1 ∧
    ReadsInt s st1 b.ix vb q st2 ∧
    ReadsInt s st2 c vc r st3 ∧
    WritesInt s st3 d.ix (va * vb + vc) (p || q || r) st4) ∧
    (∃ g d a b c, ∃ (s : State), ∃ st0 st1 st2 va vb vc p q r, Ready s g [d.ix, a.ix, b.ix, c] [a, b] (some d) ∧
    NoQueue s d.ix ∧
    NoQueue s a.ix ∧
    NoQueue s b.ix ∧
    IntName s c ∧
    ReadsInt s (s.emptied [a, b]) c vc r st0 ∧
    Reads s st0 a.ix va p st1 ∧
    Reads s st1 b.ix vb q st2 ∧
    ((∃ n m st3, va = .int n ∧ vb = .int m ∧ s.me.intOk d.ix = true ∧
        WritesInt s st2 d.ix (if vc ≠ 0 then n else m) (if vc ≠ 0 then r || p else r || q) st3) ∨
     (∃ k n m, va = .flt k n ∧ vb = .flt k m ∧ (d.ix = 0 ∨ FltName s d.ix k)))) ∧
    (∃ g d a, ∃ (s : State), ∃ st1 va p, Ready s g [d.ix, a.ix] [a] (some d) ∧
    NoQueue s d.ix ∧
    NoQueue s a.ix ∧
    Reads s (s.emptied [a]) a.ix va p st1 ∧
    ((∃ n st2, va = .int n ∧ WritesInt s st1 d.ix n p st2) ∨ (∃ k n, va = .flt k n ∧ FltName s d.ix k))) ∧
    (∃ g d imm, ∃ (s : State), Ready s g [d.ix] [] (some d) ∧
    NoQueue s d.ix ∧
    ((∃ st1, WritesInt s s.counted d.ix (moviVal s.me d.ix imm) false st1) ∨ ∃ k, FltName s d.ix k)) ∧
    (∃ g d a, ∃ pos lenm1 : BitVec 6, ∃ (s : State), ∃ st0 st1 st2 vd va p q n sg w m, Ready s g [d, a.ix] [a] none ∧
    NoQueue s a.ix ∧
    s.me.nm d = some n ∧
    n.kind = .int sg w m ∧
    ReadsInt s (s.emptied [a]) d vd p st0 ∧
    ReadsInt s st0 a.ix va q st1 ∧
    WritesInt s st1 d (insVal sg w vd va pos.toNat (lenm1.toNat + 1)) (p || q) st2) :=
  ⟨⟨_, _, .add, g0, o 4, o 1, o 2, W, _, _, _, 7, 2, 9, false, false, ready_plain rfl rfl rfl, rfl, rfl, rfl,
      reads_int rfl, reads_int rfl, rfl, writes_int rfl rfl rfl⟩,
    ⟨_, _, .abs, g0, o 4, o 1, W, _, _, 7, 7, false, ready_plain rfl rfl rfl, rfl, rfl, reads_int rfl, rfl,
      writes_int rfl rfl rfl⟩,
    ⟨g0, o 4, o 1, o 2, 16, W, _, _, _, _, 7, 2, 16, false, false, false, ready_plain rfl rfl rfl, rfl, rfl, rfl, rfl,
      reads_int rfl, reads_int rfl, reads_int rfl, writes_int rfl rfl rfl⟩,
    ⟨g0, o 4, o 1, o 2, 16, W, _, _, _, .int 7, .int 2, 16, false, false, false, ready_plain rfl rfl rfl, rfl, rfl, rfl,
      ⟨_, _, _, _, rfl, rfl⟩, reads_int rfl, reads_int rfl, reads_int rfl,
      .inl ⟨7, 2, _, rfl, rfl, rfl, writes_int rfl rfl rfl⟩⟩,
    ⟨g0, o 15, o 6, W, _, .flt .f32 0x3FC00000, false, ready_plain rfl rfl rfl, rfl, rfl, reads_flt rfl,
      .inr ⟨.f32, 0x3FC00000, rfl, _, rfl, rfl⟩⟩,
    ⟨g0, o 15, .i14 5, W, ready_plain rfl rfl rfl, rfl, .inr ⟨.f32, _, rfl, rfl⟩⟩,
    ⟨g0, 1, o 2, 63, 0, W, _, _, _, 7, 2, false, false, _, _, _, _, ready_plain rfl rfl rfl, rfl, rfl, rfl, reads_int rfl,
      reads_int rfl, writes_int rfl rfl rfl⟩⟩

theorem witness_BitwiseResults :
    ∃ (w pos len k : Nat), 1 ≤ w ∧
    w ≤ 64 ∧
    1 ≤ len ∧
    pos + len ≤ 64 ∧
    k < w :=
  ⟨64, 63, 1, 63, by decide⟩

theorem witness_ShiftCountsAreExact :
    ∃ (w : Nat) (v : Int), 1 ≤ w ∧
    w ≤ 64 ∧
    -(2 ^ 63) ≤ v ∧
    v < 2 ^ 64 :=
  ⟨64, -(2 ^ 63), by decide⟩

theorem witness_FloatArithmeticRoundsOnce :
    (∃ c f, FltOp2 c f ∧
    ∃ g d a b, ∃ (s : State), ∃ ka na p kb nb q, Ready s g [d.ix, a.ix, b.ix] [a, b] (some d) ∧
    FltIs s a.ix ka na p ∧
    FltIs s b.ix kb nb q) ∧
    (∃ g d a b c, ∃ (s : State), ∃ ka na p kb nb q kc nc r, Ready s g [d.ix, a.ix, b.ix, c] [a, b] (some d) ∧
    FltIs s a.ix ka na p ∧
    FltIs s b.ix kb nb q ∧
    FltIs s c kc nc r) ∧
    (∃ g d a, ∃ (s : State), ∃ ka na p, Ready s g [d.ix, a.ix] [a] (some d) ∧
    FltIs s a.ix ka na p) ∧
    (∃ g d a b, ∃ (s : State), ∃ ka na p kb nb q, Ready s g [d.ix, a.ix, b.ix] [a, b] (some d) ∧
    FltIs s a.ix ka na p ∧ FltIs s b.ix kb nb q ∧ d.ix = 0 ∧ s.fpeMask = 0) :=
  ⟨⟨_, _, .add, g0, o 15, o 6, o 7, W, .f32, 0x3FC00000, false, .f32, 0x40000000, false, ready_plain rfl rfl rfl, flt_is rfl,
      flt_is rfl⟩,
    ⟨g0, o 15, o 6, o 7, 6, W, .f32, 0x3FC00000, false, .f32, 0x40000000, false, .f32, 0x3FC00000, false,
      ready_plain rfl rfl rfl, flt_is rfl, flt_is rfl, flt_is rfl⟩,
    ⟨g0, o 15, o 6, W, .f32, 0x3FC00000, false, ready_plain rfl rfl rfl, flt_is rfl⟩,
    ⟨g0, o 0, o 6, o 7, W, .f32, 0x3FC00000, false, .f32, 0x40000000, false, ready_plain rfl rfl rfl, flt_is rfl,
      flt_is rfl, rfl, rfl⟩⟩

theorem witness_FloatCompareMinMaxSign :
    (∃ g cc d a b, ∃ (s : State), ∃ ka na p kb nb q, ∃ (st : State), Ready s g [d.ix, a.ix, b.ix] [a, b] (some d) ∧
    FltIs s a.ix ka na p ∧
    FltIs s b.ix kb nb q ∧
    (fCompare cc (ka.decode na) (kb.decode nb)).2 &&& s.fpeMask = 0 ∧
    WritesInt s (s.raised (s.emptied [a, b]) (fCompare cc (ka.decode na) (kb.decode nb)).2) d.ix
      (if (fCompare cc (ka.decode na) (kb.decode nb)).1 then 1 else 0) (p || q) st) ∧
    (∃ c mx, ((c = Instr.fmin ∧ mx = false) ∨ (c = Instr.fmax ∧ mx = true)) ∧
    ∃ g d a b, ∃ (s : State), ∃ ka na p kb nb q k r fl, ∃ (st : State), Ready s g [d.ix, a.ix, b.ix] [a, b] (some d) ∧
    FltIs s a.ix ka na p ∧
    FltIs s b.ix kb nb q ∧
    ((∃ y, s.me.nm d.ix = some y ∧ y.kind = .flt k ∧ k.holds ka = true ∧ k.holds kb = true) ∨
      (s.me.isQ d.ix = true ∧ k = ka ∧ k.holds kb = true) ∨ d.ix = 0) ∧
    fMinMax mx (ka.decode na) (kb.decode nb) = (r, fl) ∧
    fl &&& s.fpeMask = 0 ∧
    WritesPat s (s.raised (s.emptied [a, b]) fl) d.ix k
      (match r with
        | .nan _ => k.cnan
        | .inf n => k.signed n k.infPat
        | .fin n m e => (k.roundFin .rne false n m e).1) (p || q) st) ∧
    (∃ g, ∃ op : SgnOp, ∃ d a b, ∃ (s : State), ∃ k na p kb nb q sg, ∃ (st : State), Ready s g (if op = .abs then [d.ix, a.ix] else [d.ix, a.ix, b.ix]) [a, b] (some d) ∧
    FltIs s a.ix k na p ∧
    (op = .abs ∧ b = ⟨0, false⟩ ∧ q = false ∨ op ≠ .abs ∧ FltIs s b.ix kb nb q) ∧
    sg = (match op with
      | .cpy => kb.signOf nb
      | .neg => !kb.signOf nb
      | .xor => k.signOf na != kb.signOf nb
      | .abs => false) ∧
    (d.ix = 0 ∨ FltName s d.ix k) ∧
    WritesPat s (s.emptied [a, b]) d.ix k (k.signed sg (na % k.signBit)) (p || q) st) :=
  ⟨⟨g0, .lt, o 4, o 6, o 7, W, .f32, 0x3FC00000, false, .f32, 0x40000000, false, _, ready_plain rfl rfl rfl, flt_is rfl,
      flt_is rfl, by decide, writes_int (y := 1) rfl rfl (by decide)⟩,
    ⟨.fmin, false, .inl ⟨rfl, rfl⟩, g0, o 15, o 6, o 7, W, .f32, 0x3FC00000, false, .f32, 0x40000000, false, .f32, _, 0, _,
      ready_plain rfl rfl rfl, flt_is rfl, flt_is rfl, .inl ⟨_, rfl, rfl, rfl, rfl⟩, rfl, by decide, writes_pat rfl rfl⟩,
    ⟨g0, .neg, o 15, o 6, o 7, W, .f32, 0x3FC00000, false, .f32, 0x40000000, false, true, _, ready_plain rfl rfl rfl,
      flt_is rfl, .inr ⟨by decide, flt_is rfl⟩, by decide, .inr ⟨_, rfl, rfl⟩, writes_pat rfl rfl⟩⟩

theorem witness_ConversionsRoundOnce :
    (∃ g rm sat d a, ∃ (s : State), ∃ k v p st0 fl r, ∃ (st : State), Ready s g [d.ix, a.ix] [a] (some d) ∧
    FltName s d.ix k ∧
    Reads s (s.emptied [a]) a.ix v p st0 ∧
    (match v with
      | .flt l n => l.convert k rm sat n
      | .int n => k.ofInt rm sat n) = (r, fl) ∧
    fl &&& s.fpeMask = 0 ∧
    WritesPat s (s.raised st0 fl) d.ix k r p st) ∧
    (∃ g rm d a, ∃ (s : State), ∃ l n p y sg w m r fl, ∃ (st : State), Ready s g [d.ix, a.ix] [a] (some d) ∧
    s.me.nm d.ix = some y ∧
    y.kind = .int sg w m ∧
    FltIs s a.ix l n p ∧
    floatToInt rm sg w m (l.decode n) = some (r, fl) ∧
    fl &&& s.fpeMask = 0 ∧
    WritesInt s (s.raised (s.emptied [a]) fl) d.ix r p st) ∧
    (∃ g rm d a, ∃ (s : State), ∃ l n p y sg w m, Ready s g [d.ix, a.ix] [a] (some d) ∧
    s.me.nm d.ix = some y ∧
    y.kind = .int sg w m ∧
    FltIs s a.ix l n p ∧
    floatToInt rm sg w m (l.decode n) = none) ∧
    (∃ g rm d a, ∃ (s : State), ∃ l n p fl, Ready s g [d.ix, a.ix] [a] (some d) ∧
    d.ix = 0 ∧
    FltIs s a.ix l n p ∧
    fl = (match l.decode n with
      | .nan _ => fNV
      | .inf _ => fNV
      | .fin sg m e => if (roundInt rm sg m e).2 then fNX else 0) ∧
    fl &&& s.fpeMask = 0) ∧
    (∃ g rm sat d a, ∃ (s : State), ∃ k v p st0 fl r, Ready s g [d.ix, a.ix] [a] (some d) ∧
    FltName s d.ix k ∧
    Reads s (s.emptied [a]) a.ix v p st0 ∧
    (match v with
      | .flt l n => l.convert k rm sat n
      | .int n => k.ofInt rm sat n) = (r, fl) ∧
    fl &&& s.fpeMask ≠ 0) ∧
    (∃ g rm d a, ∃ (s : State), ∃ l n p y sg w m r fl, Ready s g [d.ix, a.ix] [a] (some d) ∧
    s.me.nm d.ix = some y ∧
    y.kind = .int sg w m ∧
    FltIs s a.ix l n p ∧
    floatToInt rm sg w m (l.decode n) = some (r, fl) ∧
    fl &&& s.fpeMask ≠ 0) :=
  ⟨⟨g0, .rne, false, o 15, o 6, W, .f32, .flt .f32 0x3FC00000, false, _, 0, 0x3FC00000, _, ready_plain rfl rfl rfl,
      ⟨_, rfl, rfl⟩, reads_flt rfl, by decide, by decide, writes_pat rfl rfl⟩,
    ⟨g0, .rne, o 1, o 7, W, .f32, 0x40000000, false, _, _, _, _, 2, 0, _, ready_plain rfl rfl rfl, rfl, rfl, flt_is rfl,
      by decide, by decide, writes_int rfl rfl rfl⟩,
    ⟨g0, .rne, o 3, o 6, { W with slots := [(0, { wSlot with names := [num 0, num 0, full (.int false 8 .trap) [255], num 0,
        num 0, full (.flt .f32) [0x7F800000]] })] }, .f32, 0x7F800000, false, _, _, _, _, ready_plain rfl rfl rfl, rfl, rfl,
      flt_is rfl, by decide⟩,
    ⟨g0, .rne, o 0, o 6, W, .f32, 0x3FC00000, false, _, ready_plain rfl rfl rfl, rfl, flt_is rfl, rfl, by decide⟩,
    ⟨g0, .rne, false, o 6, o 26, WFpe, .f32, .int 16777217, false, _, fNX, 0x4B800000, ready_plain rfl rfl rfl,
      ⟨_, rfl, rfl⟩, reads_int rfl, by decide, by decide⟩,
    ⟨g0, .rne, o 1, o 6, WFpe, .f32, 0x3FC00000, false, _, _, _, _, 2, fNX, ready_plain rfl rfl rfl, rfl, rfl, flt_is rfl,
      by decide, by decide⟩⟩

theorem witness_RoundingKeepsHeldValues :
    ∃ (k : FK) (n : Nat) (neg : Bool) (m : Nat) (e : Int), n < 2 ^ k.width ∧
    k.decode n = .fin neg m e :=
  ⟨.f32, 0x3FC00000, false, _, _, by decide, rfl⟩

theorem witness_SpecialFunctionLandsLater :
    (∃ g d a, ∃ (s : State), ∃ k n p, Ready s g [d.ix, a.ix] [a] (some d) ∧
    FltIs s a.ix k n p ∧
    k ≠ .a56 ∧
    (∃ l, FltName s d.ix l)) ∧
    (∃ (id : Nat) (s : State) (dst : Dst), ∃ fn rm sat n p y l, mfind id s.inflight = some (.sfu dst fn rm sat [some n] 0 p) ∧
    s.repacking (coreOf dst.tid) = false ∧
    (∀ e ∈ s.inflight, e.1 < id → ∀ q fn rm sat src c p, e.2 = .sfu q fn rm sat src c p → coreOf q.tid ≠ coreOf dst.tid) ∧
    Lives s dst ∧
    dst.ix ≠ 0 ∧
    (s.slot dst.tid).names[dst.ix - 1]? = some y ∧
    y.pend = some dst.tk ∧
    y.kind = .flt l) :=
  ⟨⟨g0, o 15, o 6, W, .f32, 0x3FC00000, false, ready_plain rfl rfl rfl, flt_is rfl, by decide, .f32, _, rfl, rfl⟩,
    ⟨9, { W with inflight := [(9, .sfu ⟨0, 0, 15, 5⟩ .rcp .rne false [some 0x3FC00000] 0 false)] }, ⟨0, 0, 15, 5⟩, .rcp, .rne,
      false, _, _, _, .f32, rfl, rfl, by intro e he h; simp at he; subst he; simp at h,
      ⟨rfl, by decide, by decide⟩, by decide, rfl, rfl, rfl⟩⟩

end Sys2Proof.Machine.Tests
end

