-- ==== Sys2Proof/Tests/WitnessSystem.lean ====
section
/-! SUPPORT. The hypotheses of the statements about launches, partitions, links and the whole machine, met by a small state. -/

namespace Sys2Proof.Machine.Tests

set_option Elab.async false

/-- A restart entry with eight saved words. -/
def wRest : Restart := ⟨wRec, false, (0, 0), 0, List.replicate 8 (0, false)⟩
/-- What a save area with the block of core 1 and one restart entry holds. -/
def wArea : SaveArea := ⟨7, 0, [0, 0, 0, 0, 0x80000, 0, 0, 0], [1], [List.replicate 28080 (0, false)], [(1, wRest)], [], []⟩
/-- The state with a save area whose STATE and NCORE are given, and the words before its block. -/
def WAx (st ncore : Nat) : State := { WS with
  mem := [(0x1005, 1), (0x1006, 0x7E), (0x1007, 0x5A), (0x1008, 7), (0x1010, ncore), (0x1038, st), (0x1062, 8),
    (0x10000, 1), (0x10001, 0x30), (0x30000, 0x7F)] }
def areaHeadOf (st ncore : Nat) : List (Word × Bool) :=
  ([0x5A7E010000000000, 7, BitVec.ofNat 64 ncore, 0, 0, 0, 0, BitVec.ofNat 64 st, 0, 0, 0, 0, 0x80000, 0, 0, 0] ++
    List.replicate 16 (0 : Word)).map (fun w => (w, false))

/-- The fields of a flit whose bytes before the CRC are given. -/
def flitOfBody (b : List Byte) : Option Flit :=
  let fld := fun (o n : Nat) => leBytes ((b.drop o).take n)
  let route := fld 8 8
  let pmap := fld 4 4
  let used := bits route 26 22
  if fld 2 2 < 4096 ∧ pmap < 2 ^ 29 ∧ route < 2 ^ 27 ∧ used ≤ flitWords then
    some ⟨bits (fld 0 2) 11 0, bits (fld 0 2) 15 12, fld 2 2, bits route 9 0, bits route 19 10, bits route 21 20,
      (List.range used).map (fun k => (BitVec.ofNat 64 (fld (16 + 8 * k) 8), decide (pmap / 2 ^ k % 2 = 1)))⟩
  else none

/-- A flit that is sent with its CRC is read from its body. -/
theorem flit_of {f : Flit} (hb : f.body.length = 248) (h : flitOfBody f.body = some f) : Flit.of f.bytes = some f := by
  have hf : ∀ o n, o + n ≤ 248 → leBytes ((f.bytes.drop o).take n) = leBytes ((f.body.drop o).take n) := by
    intro o n h
    rw [Flit.bytes, List.drop_append_of_le_length (by omega), List.take_append_of_le_length (by simp; omega)]
  have hc : leBytes ((f.bytes.drop 248).take 8) = (Config.crc64 (f.bytes.take 248)).toNat := by
    rw [Flit.bytes, ← hb, List.drop_left, List.take_left, List.take_of_length_le (by simp), leBytes_toBytes]
    exact Nat.mod_eq_of_lt (Config.crc64 f.body).isLt
  have hl : f.bytes.length = 256 := by simp [Flit.bytes, hb]
  have hu : ∀ v, bits v 26 22 ≤ flitWords → (List.range (bits v 26 22)).map (fun k => (BitVec.ofNat 64
        (leBytes ((f.bytes.drop (16 + 8 * k)).take 8)), decide (leBytes ((f.body.drop 4).take 4) / 2 ^ k % 2 = 1))) =
      (List.range (bits v 26 22)).map (fun k => (BitVec.ofNat 64
        (leBytes ((f.body.drop (16 + 8 * k)).take 8)), decide (leBytes ((f.body.drop 4).take 4) / 2 ^ k % 2 = 1))) := by
    intro v hv
    refine List.map_congr_left fun k hk => ?_
    have := List.mem_range.1 hk
    rw [hf _ _ (by have : flitWords = 29 := rfl; omega)]
  rw [← h, Flit.of, flitOfBody]
  simp only [hl, hc, hf 0 2 (by decide), hf 2 2 (by decide), hf 4 4 (by decide), hf 8 8 (by decide), true_and]
  split
  · rename_i hh
    rw [hu _ hh.2.2.2]
  · rfl

/-- A flit of device 0 to itself. -/
def wFlit (seq kind : Nat) (ws : List (Word × Bool)) : Flit := ⟨seq, kind, 0, 0, 0, 0, ws⟩
def wKept (dst n : Nat) (c : Option Capsule) : KeptFlit := ⟨{ wFlit 0 1 [] with dst := dst }, c, n⟩
theorem flit_bad : Flit.of [] = none := by
  rw [Flit.of]
  exact if_neg (fun h => absurd h.1 (by decide))
/-- A turn comes next when nothing else is due. -/
theorem comes {s : State} {c : Nat} {t : Tid} (h : s.nextTurn = some (c, t)) (hb : s.boot = none) (hi : s.inputs = [])
    (ha : s.autoEvent = none) (hr : s.repackEnd = none) (hs : s.wakeAt = none) : TurnComes s c t :=
  ⟨h, .inr ⟨hb, hi, ha, by simp [hr], by simp [hs]⟩⟩
/-- A need that no condition of a pair's start stands for: a name that is not bound to a queue. -/
def plainNeed (s : State) (n : Need × Bool) : Bool :=
  match n.1 with
  | .pop i | .push i => !s.me.isQ i
  | _ => false
theorem hold_plain {s : State} {ns : List (Need × Bool)} (h : ns.all (plainNeed s) = true) : HoldAll s ns := by
  intro p q r hp e hf
  have hq := List.all_eq_true.1 h q (by simp [hp])
  rcases q with ⟨n, v⟩
  cases hf with
  | pop h _ | pushOwn h _ | pushFar h _ _ _ => obtain ⟨n, hn, hk⟩ := h; simp [plainNeed, Slot.isQ, Slot.kind, hn, hk] at hq
  | cmd _ | fence _ => simp [plainNeed] at hq
theorem fails_first {s : State} {n : Need} {v : Bool} {ns : List (Need × Bool)} {e : Stop} (h : Fails s [] n e) :
    FailsFirst s ((n, v) :: ns) e v := ⟨[], n, ns, rfl, h, fun p q r hp => by simp at hp⟩
theorem waits_none {s : State} {o : OpSpec} (h : (o.m ++ o.d.toList).all (fun q => !q.sync) = true) : WaitsForNone s o :=
  ⟨fun r hr ha => by simpa [ha.1] using List.all_eq_true.1 h r (by simp [hr]),
    fun q ha => by simpa [ha.2.1] using List.all_eq_true.1 h q (by simp [ha.1])⟩
theorem no_sync {s : State} {m : List Opd} {d : Option Opd} (h : (m ++ d.toList).all (fun q => !q.sync) = true) : NoSyncQueue s m d :=
  fun q hq hs => by simpa [hs] using List.all_eq_true.1 h q hq

theorem witness_LaunchQueues_1 :
    (∃ (s : State), ∃ part lev ring logn head tail, s.hasQueues part = true ∧
    lev < 4 ∧
    let q := (s.part part).q lev
    HeaderIs s q.pa ring logn head tail ∧
    q.stop ≠ 1 ∧
    tail = q.tail) :=
  ⟨WQ (.launch 64 0) [] wQueue, 0, 0, 0, 0, 0, 0, rfl, by decide, ⟨by decide, by decide, by decide, by decide, by decide, by decide⟩,
      by decide, rfl⟩

theorem witness_LaunchQueues_2 :
    (∃ (s : State), ∃ part lev ring logn head tail, s.hasQueues part = true ∧
    lev < 4 ∧
    let q := (s.part part).q lev
    HeaderIs s q.pa ring logn head tail ∧
    q.stop ≠ 1 ∧
    tail ≠ q.tail ∧
    tail - head ≤ 2 ^ logn) :=
  ⟨WQ (.launch 64 0) [(0xE018, 1)] wQueue, 0, 0, 0, 0, 0, 1, rfl, by decide,
      ⟨by decide, by decide, by decide, by decide, by decide, by decide⟩, by decide, by decide, by decide⟩

theorem witness_LaunchQueues_3 :
    (∃ (s : State), ∃ part lev ring logn head tail, s.hasQueues part = true ∧
    lev < 4 ∧
    let q := (s.part part).q lev
    HeaderIs s q.pa ring logn head tail ∧
    q.stop ≠ 1 ∧
    tail ≠ q.tail ∧
    2 ^ logn < tail - head ∧
    q.stop ≠ 7 ∧
    wordAt s q.pa 4 % 256 = 0) :=
  ⟨WQ (.launch 64 0) [(0xE018, 2)] wQueue, 0, 0, 0, 0, 0, 2, rfl, by decide,
      ⟨by decide, by decide, by decide, by decide, by decide, by decide⟩, by decide, by decide, by decide, by decide, by decide⟩

theorem witness_LaunchQueues_4 :
    (∃ (s : State) (id : Nat), ∃ c off lev g, ∃ (ws : List Word), ∃ ring logn head tail h, AtEngine s id c ∧
    c.kind = .launch off lev ∧
    (s.part c.part).cfg = some g ∧
    g.lqb ≠ 0 ∧
    s.lsWords c.core off 8 = ws.map (fun w => (w, false)) ∧
    let va := BitVec.toNat g.lqb + 64 * lev
    HeaderIs s h ring logn head tail ∧
    Mapped s c va h 64 .rw ∧
    ((s.part c.part).q lev).stop ≠ 0) :=
  ⟨WQ (.launch 64 0) [] { wQueue with stop := 7 }, 9, _, _, _, _, List.replicate 8 0, 0, 0, 0, 0, 0xE000, ⟨rfl, rfl, rfl⟩, rfl, rfl,
      by decide, by decide, ⟨by decide, by decide, by decide, by decide, by decide, by decide⟩,
      mapped_low rfl rfl rfl rfl nofun (by decide), by decide⟩

theorem witness_LaunchQueues_5 :
    (∃ (s : State) (id : Nat), ∃ c off lev g, ∃ (ws : List Word), ∃ ring logn head tail h, AtEngine s id c ∧
    c.kind = .launch off lev ∧
    (s.part c.part).cfg = some g ∧
    g.lqb ≠ 0 ∧
    s.lsWords c.core off 8 = ws.map (fun w => (w, false)) ∧
    let va := BitVec.toNat g.lqb + 64 * lev
    HeaderIs s h ring logn head tail ∧
    Mapped s c va h 64 .rw ∧
    ((s.part c.part).q lev).stop = 0 ∧
    tail - head = 2 ^ logn) :=
  ⟨WQ (.launch 64 0) [(0xE018, 1)] wQueue, 9, _, _, _, _, List.replicate 8 0, 0, 0, 0, 1, 0xE000, ⟨rfl, rfl, rfl⟩, rfl, rfl,
      by decide, by decide, ⟨by decide, by decide, by decide, by decide, by decide, by decide⟩,
      mapped_low rfl rfl rfl rfl nofun (by decide), by decide, by decide⟩

theorem witness_LaunchQueues_6 :
    (∃ (s : State) (id : Nat), ∃ c off lev g, ∃ (ws : List Word), ∃ ring logn head tail h pb, AtEngine s id c ∧
    c.kind = .launch off lev ∧
    (s.part c.part).cfg = some g ∧
    g.lqb ≠ 0 ∧
    s.lsWords c.core off 8 = ws.map (fun w => (w, false)) ∧
    let va := BitVec.toNat g.lqb + 64 * lev
    HeaderIs s h ring logn head tail ∧
    Mapped s c va h 64 .rw ∧
    ((s.part c.part).q lev).stop = 0 ∧
    tail - head ≠ 2 ^ logn ∧
    ring % 64 = 0 ∧
    va % 64 = 0 ∧
    tail + 1 < 2 ^ 64 ∧
    Mapped s c (ring + 64 * (tail % 2 ^ logn)) pb 64 .wr ∧
    (∀ j < 64, ∀ k < 64, pb + j ≠ h + k)) :=
  ⟨WQ (.launch 64 0) [] wQueue, 9, _, _, _, _, List.replicate 8 0, 0, 0, 0, 0, 0xE000, 0, ⟨rfl, rfl, rfl⟩, rfl, rfl,
      by decide, by decide, ⟨by decide, by decide, by decide, by decide, by decide, by decide⟩,
      mapped_low rfl rfl rfl rfl nofun (by decide), by decide, by decide, by decide, by decide, by decide,
      mapped_low rfl rfl rfl rfl nofun (by decide), by omega⟩

theorem witness_LaunchQueues_7 :
    (∃ (s : State) (id : Nat), ∃ c off lev, AtEngine s id c ∧
    c.kind = .launch off lev ∧
    (∃ w ∈ s.lsWords c.core off 8, w.2 = true)) :=
  ⟨{ WQ (.launch 64 0) [] wQueue with lp := [(8, true)] }, 9, _, _, _, ⟨rfl, rfl, rfl⟩, rfl, by decide⟩

theorem witness_LaunchQueues_8 :
    (∃ (s : State) (id : Nat), ∃ c off lev, ∃ (ws : List Word), ∃ g, AtEngine s id c ∧
    c.kind = .launch off lev ∧
    s.lsWords c.core off 8 = ws.map (fun w => (w, false)) ∧
    (s.part c.part).cfg = some g ∧
    g.lqb = 0) :=
  ⟨WE (wCmd (.launch 64 0)), 9, _, _, _, List.replicate 8 0, _, ⟨rfl, rfl, rfl⟩, rfl, by decide, rfl, rfl⟩

theorem witness_LaunchQueues :
    (∃ (s : State), ∃ part lev ring logn head tail, s.hasQueues part = true ∧
    lev < 4 ∧
    let q := (s.part part).q lev
    HeaderIs s q.pa ring logn head tail ∧
    q.stop ≠ 1 ∧
    tail = q.tail) ∧
    (∃ (s : State), ∃ part lev ring logn head tail, s.hasQueues part = true ∧
    lev < 4 ∧
    let q := (s.part part).q lev
    HeaderIs s q.pa ring logn head tail ∧
    q.stop ≠ 1 ∧
    tail ≠ q.tail ∧
    tail - head ≤ 2 ^ logn) ∧
    (∃ (s : State), ∃ part lev ring logn head tail, s.hasQueues part = true ∧
    lev < 4 ∧
    let q := (s.part part).q lev
    HeaderIs s q.pa ring logn head tail ∧
    q.stop ≠ 1 ∧
    tail ≠ q.tail ∧
    2 ^ logn < tail - head ∧
    q.stop ≠ 7 ∧
    wordAt s q.pa 4 % 256 = 0) ∧
    (∃ (s : State) (id : Nat), ∃ c off lev g, ∃ (ws : List Word), ∃ ring logn head tail h, AtEngine s id c ∧
    c.kind = .launch off lev ∧
    (s.part c.part).cfg = some g ∧
    g.lqb ≠ 0 ∧
    s.lsWords c.core off 8 = ws.map (fun w => (w, false)) ∧
    let va := BitVec.toNat g.lqb + 64 * lev
    HeaderIs s h ring logn head tail ∧
    Mapped s c va h 64 .rw ∧
    ((s.part c.part).q lev).stop ≠ 0) ∧
    (∃ (s : State) (id : Nat), ∃ c off lev g, ∃ (ws : List Word), ∃ ring logn head tail h, AtEngine s id c ∧
    c.kind = .launch off lev ∧
    (s.part c.part).cfg = some g ∧
    g.lqb ≠ 0 ∧
    s.lsWords c.core off 8 = ws.map (fun w => (w, false)) ∧
    let va := BitVec.toNat g.lqb + 64 * lev
    HeaderIs s h ring logn head tail ∧
    Mapped s c va h 64 .rw ∧
    ((s.part c.part).q lev).stop = 0 ∧
    tail - head = 2 ^ logn) ∧
    (∃ (s : State) (id : Nat), ∃ c off lev g, ∃ (ws : List Word), ∃ ring logn head tail h pb, AtEngine s id c ∧
    c.kind = .launch off lev ∧
    (s.part c.part).cfg = some g ∧
    g.lqb ≠ 0 ∧
    s.lsWords c.core off 8 = ws.map (fun w => (w, false)) ∧
    let va := BitVec.toNat g.lqb + 64 * lev
    HeaderIs s h ring logn head tail ∧
    Mapped s c va h 64 .rw ∧
    ((s.part c.part).q lev).stop = 0 ∧
    tail - head ≠ 2 ^ logn ∧
    ring % 64 = 0 ∧
    va % 64 = 0 ∧
    tail + 1 < 2 ^ 64 ∧
    Mapped s c (ring + 64 * (tail % 2 ^ logn)) pb 64 .wr ∧
    (∀ j < 64, ∀ k < 64, pb + j ≠ h + k)) ∧
    (∃ (s : State) (id : Nat), ∃ c off lev, AtEngine s id c ∧
    c.kind = .launch off lev ∧
    (∃ w ∈ s.lsWords c.core off 8, w.2 = true)) ∧
    (∃ (s : State) (id : Nat), ∃ c off lev, ∃ (ws : List Word), ∃ g, AtEngine s id c ∧
    c.kind = .launch off lev ∧
    s.lsWords c.core off 8 = ws.map (fun w => (w, false)) ∧
    (s.part c.part).cfg = some g ∧
    g.lqb = 0) :=
  ⟨witness_LaunchQueues_1, witness_LaunchQueues_2, witness_LaunchQueues_3, witness_LaunchQueues_4, witness_LaunchQueues_5, witness_LaunchQueues_6, witness_LaunchQueues_7, witness_LaunchQueues_8⟩

theorem witness_LaunchesPlaceAndComplete_1 :
    (∃ (s : State), ∃ qn p r lid l c ks t pa lf, s.reachAll = s ∧
    (s.qtr qn).placed ≤ s.cycle ∧
    s.servedPart qn = some (p, r) ∧
    s.chooseHead (s.placeable p qn) = some (lid, l, c) ∧
    s.launchTuning l.part c (nthW l.words 1) = .ok ks ∧
    s.fits c (costOf ks) = true ∧
    s.freeSlotOf c false = some t ∧
    s.xlatePart l.part true (BitVec.toNat (frameOf l l.next)) .wr = .ok pa lf ∧
    isDev pa = true ∧
    l.next + 1 < l.count) :=
  ⟨{ W with launches := [(5, wLaunchOf [0x1000, 0x8000, 0x9000, 1, 0x40000, 0, 0, 0])] }, 0, 0, _, 5,
      wLaunchOf [0x1000, 0x8000, 0x9000, 1, 0x40000, 0, 0, 0], 0, _, 1, 0x9000, _, rfl, by decide, rfl, by decide, rfl, rfl, by decide, rfl,
      by decide, by decide⟩

theorem witness_LaunchesPlaceAndComplete_2 :
    (∃ (s : State), ∃ qn, s.reachAll = s ∧
    s.cycle < (s.qtr qn).placed) :=
  ⟨{ W with qtrs := [(0, { Quarter.reset with placed := 1 })] }, 0, rfl, by decide⟩

theorem witness_LaunchesPlaceAndComplete_3 :
    (∃ (s : State), ∃ qn p r lid l c ks, s.reachAll = s ∧
    (s.qtr qn).placed ≤ s.cycle ∧
    s.servedPart qn = some (p, r) ∧
    s.chooseHead (s.placeable p qn) = some (lid, l, c) ∧
    s.launchTuning l.part c (nthW l.words 1) = .ok ks ∧
    s.fits c (costOf ks) = false) :=
  ⟨{ W with
        launches := [(5, { wLaunchOf [0x1000, 0x8000, 0x9000, 1, 0x40000, 0, 0, 0] with bits := 0 })]
        slots := [(1, { wSlot with names := [full (.ivec true 64 .wrap 512 8) []] })] }, 0, 0, _, 5,
      { wLaunchOf [0x1000, 0x8000, 0x9000, 1, 0x40000, 0, 0, 0] with bits := 0 }, 0, _, rfl, by decide, rfl, by decide, rfl, by decide⟩

theorem witness_LaunchesPlaceAndComplete_4 :
    (∃ (s : State), ∃ lid l, mfind lid s.launches = some l ∧
    l.susp = false ∧
    l.count ≤ l.next ∧
    s.borne l.part lid = false ∧
    nthW l.words 6 = 0) :=
  ⟨{ W with launches := [(5, { wLaunch with next := 1 })] }, 5, _, rfl, rfl, by decide, by decide, rfl⟩

theorem witness_LaunchesPlaceAndComplete_5 :
    (∃ (s : State), ∃ lid l pa lf, mfind lid s.launches = some l ∧
    l.susp = false ∧
    l.count ≤ l.next ∧
    s.borne l.part lid = false ∧
    let u := { s with launches := mdel lid s.launches }
    nthW l.words 6 ≠ 0 ∧
    u.xlatePart l.part true (BitVec.toNat (nthW l.words 6)) .wr = .ok pa lf) :=
  ⟨{ W with launches := [(5, { wLaunchOf [0, 0, 0, 0, 0, 0, 0xA000, 0] with next := 1 })] }, 5, _, 0xA000, _, rfl, rfl, by decide,
      by decide, by decide, rfl⟩

theorem witness_LaunchesPlaceAndComplete_6 :
    (∃ pa, isPeer pa = false) :=
  ⟨0, by decide⟩

theorem witness_LaunchesPlaceAndComplete_7 :
    (∃ (s : State), ∃ pa, isPeer pa = true ∧
    pa / 2 ^ 42 % 1024 ≠ s.devNum) :=
  ⟨W, 0x80040000000000, by decide⟩

theorem witness_LaunchesPlaceAndComplete_8 :
    (∃ (s : State), ∃ lid l, mfind lid s.launches = some l ∧
    (l.susp = true ∨ l.next < l.count ∨ s.borne l.part lid = true)) :=
  ⟨{ W with launches := [(5, wLaunch)] }, 5, _, rfl, .inr (.inl (by decide))⟩

theorem witness_LaunchesPlaceAndComplete_9 :
    (∃ (s : State), ∃ c t k, ∃ (r : Restart), ∃ ks, s.repacking c = false ∧
    s.headTakes c = false ∧
    (s.core c).offline = false ∧
    s.freeSlotOf c false = some t ∧
    s.nextRestart c = some (k, r) ∧
    let u := s.setCore c { s.core c with restart := (s.core c).restart.eraseIdx k }
    u.readTuning (u.partNum c) true c r.cont.tuning = .ok ks) :=
  ⟨{ W with cores := [(0, { Core.reset with restart := [⟨wRec, false, (0, 0), 0, []⟩] })] }, 0, _, 0, _, _, rfl, rfl, rfl, rfl,
      rfl, rfl⟩

theorem witness_LaunchesPlaceAndComplete_10 :
    (∃ (s : State) (t : Tid) (r : Restart) (j : Nat) (n : NameSt), ∃ sg w m, r.expl = true ∧
    (s.slot t).names[j]? = some n ∧
    n.kind = .int sg w m ∧
    (∀ k < 8, (liveIx r.list k).toNat ≠ j + 1)) :=
  ⟨W, 0, ⟨wRec, true, (0, 0), 0, []⟩, 0, _, _, _, _, rfl, rfl, rfl, by decide⟩

theorem witness_LaunchesPlaceAndComplete :
    (∃ (s : State), ∃ qn p r lid l c ks t pa lf, s.reachAll = s ∧
    (s.qtr qn).placed ≤ s.cycle ∧
    s.servedPart qn = some (p, r) ∧
    s.chooseHead (s.placeable p qn) = some (lid, l, c) ∧
    s.launchTuning l.part c (nthW l.words 1) = .ok ks ∧
    s.fits c (costOf ks) = true ∧
    s.freeSlotOf c false = some t ∧
    s.xlatePart l.part true (BitVec.toNat (frameOf l l.next)) .wr = .ok pa lf ∧
    isDev pa = true ∧
    l.next + 1 < l.count) ∧
    (∃ (s : State), ∃ qn, s.reachAll = s ∧
    s.cycle < (s.qtr qn).placed) ∧
    (∃ (s : State), ∃ qn p r lid l c ks, s.reachAll = s ∧
    (s.qtr qn).placed ≤ s.cycle ∧
    s.servedPart qn = some (p, r) ∧
    s.chooseHead (s.placeable p qn) = some (lid, l, c) ∧
    s.launchTuning l.part c (nthW l.words 1) = .ok ks ∧
    s.fits c (costOf ks) = false) ∧
    (∃ (s : State), ∃ lid l, mfind lid s.launches = some l ∧
    l.susp = false ∧
    l.count ≤ l.next ∧
    s.borne l.part lid = false ∧
    nthW l.words 6 = 0) ∧
    (∃ (s : State), ∃ lid l pa lf, mfind lid s.launches = some l ∧
    l.susp = false ∧
    l.count ≤ l.next ∧
    s.borne l.part lid = false ∧
    let u := { s with launches := mdel lid s.launches }
    nthW l.words 6 ≠ 0 ∧
    u.xlatePart l.part true (BitVec.toNat (nthW l.words 6)) .wr = .ok pa lf) ∧
    (∃ pa, isPeer pa = false) ∧
    (∃ (s : State), ∃ pa, isPeer pa = true ∧
    pa / 2 ^ 42 % 1024 ≠ s.devNum) ∧
    (∃ (s : State), ∃ lid l, mfind lid s.launches = some l ∧
    (l.susp = true ∨ l.next < l.count ∨ s.borne l.part lid = true)) ∧
    (∃ (s : State), ∃ c t k, ∃ (r : Restart), ∃ ks, s.repacking c = false ∧
    s.headTakes c = false ∧
    (s.core c).offline = false ∧
    s.freeSlotOf c false = some t ∧
    s.nextRestart c = some (k, r) ∧
    let u := s.setCore c { s.core c with restart := (s.core c).restart.eraseIdx k }
    u.readTuning (u.partNum c) true c r.cont.tuning = .ok ks) ∧
    (∃ (s : State) (t : Tid) (r : Restart) (j : Nat) (n : NameSt), ∃ sg w m, r.expl = true ∧
    (s.slot t).names[j]? = some n ∧
    n.kind = .int sg w m ∧
    (∀ k < 8, (liveIx r.list k).toNat ≠ j + 1)) :=
  ⟨witness_LaunchesPlaceAndComplete_1, witness_LaunchesPlaceAndComplete_2, witness_LaunchesPlaceAndComplete_3, witness_LaunchesPlaceAndComplete_4, witness_LaunchesPlaceAndComplete_5, witness_LaunchesPlaceAndComplete_6, witness_LaunchesPlaceAndComplete_7, witness_LaunchesPlaceAndComplete_8, witness_LaunchesPlaceAndComplete_9, witness_LaunchesPlaceAndComplete_10⟩

theorem witness_LaunchAndQueueWatchdogs :
    (∃ (s : State), ∃ lid l, mfind lid s.launches = some l ∧
    l.wdog ≠ 0 ∧
    l.wdSent = false ∧
    l.susp = false ∧
    l.wdStart + l.wdog * Config.cyclesPerUs ≤ s.cycle) ∧
    (∃ (s : State), ∃ lid l, mfind lid s.launches = some l ∧
    (l.wdog = 0 ∨ l.wdSent = true ∨ s.cycle < l.wdStart + l.wdog * Config.cyclesPerUs)) ∧
    (∃ (s : State), ∃ part lev, s.hasQueues part = true ∧
    let q := (s.part part).q lev
    q.wdBudget ≠ 0 ∧
    q.wdSent = false ∧
    wordAt s q.pa 3 ≠ wordAt s q.pa 2 ∧
    q.wdSince + q.wdBudget * Config.cyclesPerUs ≤ s.cycle) ∧
    (∃ (s : State), ∃ part lev, s.hasQueues part = true ∧
    let q := (s.part part).q lev
    (q.wdBudget = 0 ∨ q.wdSent = true ∨ wordAt s q.pa 3 = wordAt s q.pa 2)) :=
  ⟨⟨{ W with cycle := 10 ^ 9, launches := [(5, wLaunchOf [0, 0, 0, 0, 0, 1, 0, 0])] }, 5, _, rfl, by decide, by decide, by decide,
      by decide⟩,
    ⟨{ W with launches := [(5, wLaunch)] }, 5, _, rfl, .inl (by decide)⟩,
    ⟨{ WQ (.launch 64 0) [(0xE018, 1)] { wQueue with wdBudget := 1 } with cycle := 10 ^ 9 }, 0, 0, rfl, by decide, by decide,
      by decide, by decide⟩,
    ⟨WQ (.launch 64 0) [] wQueue, 0, 0, rfl, .inl (by decide)⟩⟩

theorem witness_SupervisorOpsNeedSMode :
    ∃ (s : State), ∃ i g fs m, Supervisor s i g fs m ∧
    Ready s g fs m none ∧
    s.me.smode = false :=
  ⟨W, _, g0, _, _, .drain g0 4 (o 1) rfl rfl, ready_plain rfl rfl rfl, rfl⟩

theorem witness_SaveAreaContents_1 :
    (∃ (s u : State), ∃ lid, ∃ (l : Launch), ∃ a, (s.slots.map (·.1)).Nodup ∧
    (s.cores.map (·.1)).Nodup ∧
    s.capture lid l = (a, u) ∧
    ∃ g, (s.part l.part).cfg = some g) :=
  ⟨W, _, 0, wLaunch, _, by decide, by decide, (Prod.eta _).symm, wPcb, rfl⟩

theorem witness_SaveAreaContents_2 :
    (∃ (s u : State), ∃ lid, ∃ (l : Launch), ∃ a, (s.slots.map (·.1)).Nodup ∧
    (s.cores.map (·.1)).Nodup ∧
    s.capture lid l = (a, u) ∧
    ∃ (id : Nat), ∃ q c, mfind id s.inflight = some q ∧
    q.capsule = some c ∧
    c.ofLaunch l.part lid = true) :=
  ⟨WR (.capSink (wCaps 0 0 0) false), _, 0, wLaunch, _, by decide, by decide, (Prod.eta _).symm, 9, _, _, rfl, rfl, by decide⟩

theorem witness_SaveAreaContents_3 :
    (∃ (s : State) (t : Tid), let x := s.slot t
    x.rgnpc = 0 ∧
    ∃ r, x.start = some r) :=
  ⟨WX { wSlot with start := some wRest }, 0, rfl, wRest, rfl⟩

theorem witness_SaveAreaContents_4 :
    (∃ (s : State) (t : Tid), let x := s.slot t
    x.rgnpc ≠ 0) :=
  ⟨WX { wSlot with rgnpc := 0x1000 }, 0, by decide⟩

theorem witness_SaveAreaContents_5 :
    (∃ (a : SaveArea), a.recd.length = 8 ∧
    (∀ b ∈ a.blocks, b.length = 28080) ∧
    (∀ e ∈ a.rest, e.2.save.length = 8)) :=
  ⟨wArea, rfl, fun b h => by rw [List.mem_singleton.1 h]; exact List.length_replicate,
      fun e h => by rw [List.mem_singleton.1 h]; rfl⟩

theorem witness_SaveAreaContents_6 :
    (∃ (r : Restart), ∃ core, r.cont.launch < 2 ^ 32 ∧
    r.cont.bits < 2 ^ 19 ∧
    r.cont.prio < 4 ∧
    r.cont.ack = true ∧
    r.sem.1 < 256 ∧
    r.sem.2 < 64 ∧
    core < 4096 ∧
    r.save.length = 8) :=
  ⟨wRest, 0, by decide⟩

theorem witness_SaveAreaContents_7 :
    (∃ (s : State), ∃ part va ws, s.areaGet part 32 va none = some ws ∧
    (ws.any (·.2) = true ∨ (nthW (ws.map (·.1)) 0).toNat ≠ 0x5A7E * 2 ^ 48 + 2 ^ 40 ∨ (∃ w ∈ ws.drop 16, w.1 ≠ 0))) :=
  ⟨WS, 0, 0x2000, List.replicate 32 (0, false), by decide +kernel, by decide⟩

theorem witness_SaveAreaContents_8 :
    (∃ (s : State), ∃ part va ws, s.areaGet part 32 va none = some ws ∧
    areaHeadOk ws = true ∧
    nthW (ws.map (·.1)) 7 ≠ 1) :=
  ⟨WAx 2 1, 0, 0x1000, areaHeadOf 2 1, by decide +kernel, by decide, by decide⟩

theorem witness_SaveAreaContents_9 :
    (∃ (s : State), ∃ part va ws, s.areaGet part 32 va none = some ws ∧
    areaHeadOk ws = true ∧
    nthW (ws.map (·.1)) 7 = 1 ∧
    ∃ l, mfind (nthW (ws.map (·.1)) 1).toNat s.launches = some l ∧
    l.susp = false) :=
  ⟨{ WA with launches := [(7, wLaunch)] }, 0, 0x1000, areaHead, by decide +kernel, by decide, by decide, wLaunch, by decide, rfl⟩

theorem witness_SaveAreaContents_10 :
    (∃ (s : State), ∃ part va ws, s.areaGet part 32 va none = some ws ∧
    areaHeadOk ws = true ∧
    nthW (ws.map (·.1)) 7 = 1 ∧
    mfind (nthW (ws.map (·.1)) 1).toNat s.launches = none ∧
    s.saveCores (nthW (ws.map (·.1)) 1).toNat (nthW (ws.map (·.1)) 2).toNat (((ws.map (·.1)).drop 8).take 8) = none) :=
  ⟨WAx 1 2, 0, 0x1000, areaHeadOf 1 2, by decide +kernel, by decide, by decide, by decide, by decide +kernel⟩

theorem witness_SaveAreaContents_11 :
    (∃ (s : State), ∃ lid n recd cs, s.saveCores lid n recd = some cs) :=
  ⟨WA, 7, 1, [0, 0, 0, 0, 0x80000, 0, 0, 0], [1], by decide +kernel⟩

theorem witness_SaveAreaContents_12 :
    (∃ (s : State) (a : SaveArea), (∀ c, (s.core c).deque.length + a.deq.length ≤ 256) ∧
    a.cores.Nodup ∧
    a.blocks.length = a.cores.length ∧
    (∀ c ∈ a.cores, c < 4096) ∧
    (∀ e ∈ a.deq, e.1 < 4096) ∧
    ∃ j, ∃ (h : j < a.cores.length), ∃ (h' : j < a.blocks.length), a.blocks[j].length = 28080) :=
  ⟨W, wArea, fun _ => (by decide : (0 : Nat) ≤ 256), by decide, rfl, by decide, by decide, 0, Nat.zero_lt_one, Nat.zero_lt_one,
      List.length_replicate⟩

theorem witness_SaveAreaContents_13 :
    (∃ (s : State), ∃ part va, ∃ (a : SaveArea), (∀ c, (s.core c).deque.length + a.deq.length ≤ 256) ∧
    a.cores.Nodup ∧
    a.blocks.length = a.cores.length ∧
    (∀ c ∈ a.cores, c < 4096) ∧
    (∀ e ∈ a.deq, e.1 < 4096) ∧
    ∃ pa lf, s.xlatePart part true ((va + 56) % 2 ^ 64) .wr = .ok pa lf) :=
  by
      obtain ⟨pa, l, h⟩ := low_maps 0x1038 .wr nofun (by omega)
      exact ⟨WA, 0, 0x1000, wArea, fun _ => (by decide : (0 : Nat) ≤ 256), by decide, rfl, by decide, by decide, pa, l, h⟩

theorem witness_SaveAreaContents :
    (∃ (s u : State), ∃ lid, ∃ (l : Launch), ∃ a, (s.slots.map (·.1)).Nodup ∧
    (s.cores.map (·.1)).Nodup ∧
    s.capture lid l = (a, u) ∧
    ∃ g, (s.part l.part).cfg = some g) ∧
    (∃ (s u : State), ∃ lid, ∃ (l : Launch), ∃ a, (s.slots.map (·.1)).Nodup ∧
    (s.cores.map (·.1)).Nodup ∧
    s.capture lid l = (a, u) ∧
    ∃ (id : Nat), ∃ q c, mfind id s.inflight = some q ∧
    q.capsule = some c ∧
    c.ofLaunch l.part lid = true) ∧
    (∃ (s : State) (t : Tid), let x := s.slot t
    x.rgnpc = 0 ∧
    ∃ r, x.start = some r) ∧
    (∃ (s : State) (t : Tid), let x := s.slot t
    x.rgnpc ≠ 0) ∧
    (∃ (a : SaveArea), a.recd.length = 8 ∧
    (∀ b ∈ a.blocks, b.length = 28080) ∧
    (∀ e ∈ a.rest, e.2.save.length = 8)) ∧
    (∃ (r : Restart), ∃ core, r.cont.launch < 2 ^ 32 ∧
    r.cont.bits < 2 ^ 19 ∧
    r.cont.prio < 4 ∧
    r.cont.ack = true ∧
    r.sem.1 < 256 ∧
    r.sem.2 < 64 ∧
    core < 4096 ∧
    r.save.length = 8) ∧
    (∃ (s : State), ∃ part va ws, s.areaGet part 32 va none = some ws ∧
    (ws.any (·.2) = true ∨ (nthW (ws.map (·.1)) 0).toNat ≠ 0x5A7E * 2 ^ 48 + 2 ^ 40 ∨ (∃ w ∈ ws.drop 16, w.1 ≠ 0))) ∧
    (∃ (s : State), ∃ part va ws, s.areaGet part 32 va none = some ws ∧
    areaHeadOk ws = true ∧
    nthW (ws.map (·.1)) 7 ≠ 1) ∧
    (∃ (s : State), ∃ part va ws, s.areaGet part 32 va none = some ws ∧
    areaHeadOk ws = true ∧
    nthW (ws.map (·.1)) 7 = 1 ∧
    ∃ l, mfind (nthW (ws.map (·.1)) 1).toNat s.launches = some l ∧
    l.susp = false) ∧
    (∃ (s : State), ∃ part va ws, s.areaGet part 32 va none = some ws ∧
    areaHeadOk ws = true ∧
    nthW (ws.map (·.1)) 7 = 1 ∧
    mfind (nthW (ws.map (·.1)) 1).toNat s.launches = none ∧
    s.saveCores (nthW (ws.map (·.1)) 1).toNat (nthW (ws.map (·.1)) 2).toNat (((ws.map (·.1)).drop 8).take 8) = none) ∧
    (∃ (s : State), ∃ lid n recd cs, s.saveCores lid n recd = some cs) ∧
    (∃ (s : State) (a : SaveArea), (∀ c, (s.core c).deque.length + a.deq.length ≤ 256) ∧
    a.cores.Nodup ∧
    a.blocks.length = a.cores.length ∧
    (∀ c ∈ a.cores, c < 4096) ∧
    (∀ e ∈ a.deq, e.1 < 4096) ∧
    ∃ j, ∃ (h : j < a.cores.length), ∃ (h' : j < a.blocks.length), a.blocks[j].length = 28080) ∧
    (∃ (s : State), ∃ part va, ∃ (a : SaveArea), (∀ c, (s.core c).deque.length + a.deq.length ≤ 256) ∧
    a.cores.Nodup ∧
    a.blocks.length = a.cores.length ∧
    (∀ c ∈ a.cores, c < 4096) ∧
    (∀ e ∈ a.deq, e.1 < 4096) ∧
    ∃ pa lf, s.xlatePart part true ((va + 56) % 2 ^ 64) .wr = .ok pa lf) :=
  ⟨witness_SaveAreaContents_1, witness_SaveAreaContents_2, witness_SaveAreaContents_3, witness_SaveAreaContents_4, witness_SaveAreaContents_5, witness_SaveAreaContents_6, witness_SaveAreaContents_7, witness_SaveAreaContents_8, witness_SaveAreaContents_9, witness_SaveAreaContents_10, witness_SaveAreaContents_11, witness_SaveAreaContents_12, witness_SaveAreaContents_13⟩

theorem witness_PartitionsAreDrainedAndReset_1 :
    (∃ g, ∃ (d : Ix), ∃ a, ∃ (s : State), ∃ v, ∃ (st : State), Ready s g [d, a.ix] [a] none ∧
    s.me.intNil d = true ∧
    s.me.intNil a.ix = true ∧
    s.me.smode = true ∧
    ReadsInt s (s.emptied [a]) a.ix v false st ∧
    let lid := umod 32 v
    (s.partNum (coreOf s.cur) ≠ 0 ∧ lid / 2 ^ 26 ≠ s.partNum (coreOf s.cur))) :=
  ⟨g0, 4, o 1, { WS with parts := [(1, { Part.reset with cfg := some wPcb })] }, 7, _, ready_plain rfl rfl rfl, rfl, rfl, rfl,
      reads_int rfl, by decide⟩

theorem witness_PartitionsAreDrainedAndReset_2 :
    (∃ g, ∃ (d : Ix), ∃ a, ∃ (s : State), ∃ v, ∃ (st : State), Ready s g [d, a.ix] [a] none ∧
    s.me.intNil d = true ∧
    s.me.intNil a.ix = true ∧
    s.me.smode = true ∧
    ReadsInt s (s.emptied [a]) a.ix v false st ∧
    let lid := umod 32 v
    (s.partNum (coreOf s.cur) = 0 ∨ lid / 2 ^ 26 = s.partNum (coreOf s.cur)) ∧
    mfind lid st.launches = none) :=
  ⟨g0, 4, o 1, WS, 7, _, ready_plain rfl rfl rfl, rfl, rfl, rfl, reads_int rfl, by decide, by decide⟩

theorem witness_PartitionsAreDrainedAndReset_3 :
    (∃ g, ∃ (d : Ix), ∃ a, ∃ (s : State), ∃ v, ∃ (st : State), Ready s g [d, a.ix] [a] none ∧
    s.me.intNil d = true ∧
    s.me.intNil a.ix = true ∧
    s.me.smode = true ∧
    ReadsInt s (s.emptied [a]) a.ix v false st ∧
    let lid := umod 32 v
    (s.partNum (coreOf s.cur) = 0 ∨ lid / 2 ^ 26 = s.partNum (coreOf s.cur)) ∧
    ∃ l, mfind lid st.launches = some l ∧
    l.susp = false ∧
    (∀ e ∈ s.cores, e.2.repack = none) ∧
    s.goesOnIn (st.drainLaunch lid)) :=
  ⟨g0, 4, o 1, { WS with launches := [(7, wLaunch)] }, 7, _, ready_plain rfl rfl rfl, rfl, rfl, rfl, reads_int rfl, by decide,
      _, rfl, rfl, nofun, ⟨by decide, by decide⟩⟩

theorem witness_PartitionsAreDrainedAndReset_4 :
    (∃ (s : State), ∃ lid l, mfind lid s.launches = some l ∧
    (s.cmds.map (·.1)).Nodup ∧
    ∃ e ∈ (s.drainLaunch lid).cmds, e.2.bears = true ∧
    e.2.launch = lid) :=
  ⟨{ WE { wCmd (.mdrain true wConf) with aux := [0, 0, 1, 7, 0] } with launches := [(0, wLaunch)] }, 0, _, rfl, by decide,
      _, .head _, by decide, by decide⟩

theorem witness_PartitionsAreDrainedAndReset_5 :
    (∃ g, ∃ (d : Ix), ∃ a, ∃ (s : State), ∃ v, ∃ (st : State), Ready s g [d, a.ix] [a] none ∧
    s.me.intNil d = true ∧
    s.me.intNil a.ix = true ∧
    s.me.smode = true ∧
    s.partNum (coreOf s.cur) = 0 ∧
    ReadsInt s (s.emptied [a]) a.ix v false st ∧
    (v ≤ 0 ∨ 63 < v)) :=
  ⟨g0, 4, o 5, WS, 0, _, ready_plain rfl rfl rfl, rfl, rfl, rfl, rfl, reads_int rfl, .inl (by decide)⟩

theorem witness_PartitionsAreDrainedAndReset_6 :
    (∃ g, ∃ (d : Ix), ∃ a, ∃ (s : State), ∃ v, ∃ (st : State), Ready s g [d, a.ix] [a] none ∧
    s.me.intNil d = true ∧
    s.me.intNil a.ix = true ∧
    s.me.smode = true ∧
    s.partNum (coreOf s.cur) = 0 ∧
    ReadsInt s (s.emptied [a]) a.ix v false st ∧
    0 < v ∧
    v ≤ 63 ∧
    (st.part v.toNat).cfg = none) :=
  ⟨g0, 4, o 1, WS, 7, _, ready_plain rfl rfl rfl, rfl, rfl, rfl, rfl, reads_int rfl, by decide, by decide, by decide⟩

theorem witness_PartitionsAreDrainedAndReset_7 :
    (∃ g, ∃ (d : Ix), ∃ a, ∃ (s : State), ∃ v, ∃ (st : State), Ready s g [d, a.ix] [a] none ∧
    s.me.intNil d = true ∧
    s.me.intNil a.ix = true ∧
    s.me.smode = true ∧
    s.partNum (coreOf s.cur) = 0 ∧
    ReadsInt s (s.emptied [a]) a.ix v false st ∧
    ∃ c, 0 < v ∧
    v ≤ 63 ∧
    (st.part v.toNat).cfg = some c ∧
    (∀ e ∈ s.cores, e.2.repack = none) ∧
    s.goesOnIn (st.drainPart v.toNat c)) :=
  ⟨g0, 4, o 1, { WS with parts := WS.parts ++ [(7, { Part.reset with cfg := some { wPcb with first := 32 } })] }, 7, _,
      ready_plain rfl rfl rfl, rfl, rfl, rfl, rfl, reads_int rfl, _, by decide, by decide, rfl, nofun, ⟨by decide, by decide⟩⟩

theorem witness_PartitionsAreDrainedAndReset_8 :
    (∃ g, ∃ (d : Ix), ∃ a, ∃ (s : State), ∃ v, ∃ (st : State), Ready s g [d, a.ix] [a] none ∧
    s.me.intNil d = true ∧
    s.me.intNil a.ix = true ∧
    s.me.smode = true ∧
    s.partNum (coreOf s.cur) = 0 ∧
    ReadsInt s (s.emptied [a]) a.ix v false st ∧
    ∃ c, 0 < v ∧
    v ≤ 63 ∧
    (st.part v.toNat).cfg = some c ∧
    ∃ pas u, Settled s (fun k => k.part = v.toNat) ∧
    st.overlaps v.toNat c = false ∧
    st.headerPas c = some pas ∧
    ∃ good, st.testCores c.cores = (good, u) ∧
    let w := u.preset v.toNat (if good then some c else none) (if good then pas else [])
    s.goesOnIn w) :=
  ⟨g0, 4, o 1, { WS with parts := WS.parts ++ [(7, { Part.reset with cfg := some { wPcb with first := 32 } })] }, 7, _,
      ready_plain rfl rfl rfl, rfl, rfl, rfl, rfl, reads_int rfl, { wPcb with first := 32 }, by decide, by decide, rfl, [], _,
      settled rfl rfl, by decide, by decide, _, (Prod.eta _).symm, ⟨by decide +kernel, by decide +kernel⟩⟩

theorem witness_PartitionsAreDrainedAndReset_9 :
    (∃ g, ∃ (d : Ix), ∃ a b, ∃ (s : State), ∃ v, ∃ (va : Nat) (st : State), ∃ st2, Ready s g [d, a.ix, b.ix] [a, b] none ∧
    s.me.intNil d = true ∧
    s.me.intNil a.ix = true ∧
    s.me.intNil b.ix = true ∧
    s.me.smode = true ∧
    ReadsInt s (s.emptied [a, b]) a.ix v false st ∧
    ReadsInt s st b.ix va false st2 ∧
    va < 2 ^ 64 ∧
    s.partNum (coreOf s.cur) = 0 ∧
    va % 4096 ≠ 0) :=
  ⟨g0, 4, o 1, o 1, WS, 7, 7, _, _, ready_plain rfl rfl rfl, rfl, rfl, rfl, rfl, reads_int rfl, reads_int rfl, by decide, rfl,
      by decide⟩

theorem witness_PartitionsAreDrainedAndReset_10 :
    (∃ g, ∃ (d : Ix), ∃ a b, ∃ (s : State), ∃ v, ∃ (va : Nat) (st : State), ∃ st2, Ready s g [d, a.ix, b.ix] [a, b] none ∧
    s.me.intNil d = true ∧
    s.me.intNil a.ix = true ∧
    s.me.intNil b.ix = true ∧
    s.me.smode = true ∧
    ReadsInt s (s.emptied [a, b]) a.ix v false st ∧
    ReadsInt s st b.ix va false st2 ∧
    va < 2 ^ 64 ∧
    s.partNum (coreOf s.cur) = 0 ∧
    ∃ l code u, va % 4096 = 0 ∧
    mfind (umod 32 v) st2.launches = some l ∧
    l.susp = false ∧
    Settled s (fun k => k.bears = true ∧ k.launch = umod 32 v) ∧
    st2.saveLaunch 0 va (umod 32 v) l = (code, u) ∧
    s.goesOnIn u) :=
  ⟨g0, 4, o 1, o 24, { WS with launches := [(7, wLaunch)] }, 7, 0x1000, _, _, ready_plain rfl rfl rfl, rfl, rfl, rfl, rfl,
      reads_int rfl, reads_int rfl, by decide, rfl, wLaunch, _, _, by decide, by decide, rfl, settled rfl rfl, (Prod.eta _).symm,
      ⟨by decide +kernel, by decide +kernel⟩⟩

theorem witness_PartitionsAreDrainedAndReset_11 :
    (∃ g, ∃ (d : Ix), ∃ a b, ∃ (s : State), ∃ v, ∃ (va : Nat) (st : State), ∃ st2, Ready s g [d, a.ix, b.ix] [a, b] none ∧
    s.me.intNil d = true ∧
    s.me.intNil a.ix = true ∧
    s.me.intNil b.ix = true ∧
    s.me.smode = true ∧
    ReadsInt s (s.emptied [a, b]) a.ix v false st ∧
    ReadsInt s st b.ix va false st2 ∧
    va < 2 ^ 64 ∧
    s.partNum (coreOf s.cur) = 0 ∧
    0 < v ∧
    v ≤ 63 ∧
    va = 0 ∧
    Settled s (fun k => k.part = v.toNat) ∧
    s.goesOnIn (st2.preset v.toNat none [])) :=
  ⟨g0, 4, o 1, o 5, WS, 7, 0, _, _, ready_plain rfl rfl rfl, rfl, rfl, rfl, rfl, reads_int rfl, reads_int rfl, by decide, rfl,
      by decide, by decide, rfl, settled rfl rfl, ⟨by decide, by decide⟩⟩

theorem witness_PartitionsAreDrainedAndReset_12 :
    (∃ g, ∃ (d : Ix), ∃ a b, ∃ (s : State), ∃ v, ∃ (va : Nat) (st : State), ∃ st2, Ready s g [d, a.ix, b.ix] [a, b] none ∧
    s.me.intNil d = true ∧
    s.me.intNil a.ix = true ∧
    s.me.intNil b.ix = true ∧
    s.me.smode = true ∧
    ReadsInt s (s.emptied [a, b]) a.ix v false st ∧
    ReadsInt s st b.ix va false st2 ∧
    va < 2 ^ 64 ∧
    s.partNum (coreOf s.cur) = 0 ∧
    0 < v ∧
    v ≤ 63 ∧
    va % 128 ≠ 0) :=
  ⟨g0, 4, o 1, o 1, WS, 7, 7, _, _, ready_plain rfl rfl rfl, rfl, rfl, rfl, rfl, reads_int rfl, reads_int rfl, by decide, rfl,
      by decide, by decide, by decide⟩

theorem witness_PartitionsAreDrainedAndReset_13 :
    (∃ g, ∃ (d : Ix), ∃ a b, ∃ (s : State), ∃ v, ∃ (va : Nat) (st : State), ∃ st2, Ready s g [d, a.ix, b.ix] [a, b] none ∧
    s.me.intNil d = true ∧
    s.me.intNil a.ix = true ∧
    s.me.intNil b.ix = true ∧
    s.me.smode = true ∧
    ReadsInt s (s.emptied [a, b]) a.ix v false st ∧
    ReadsInt s st b.ix va false st2 ∧
    va < 2 ^ 64 ∧
    s.partNum (coreOf s.cur) = 0 ∧
    ∃ ws, 0 < v ∧
    v ≤ 63 ∧
    va % 128 = 0 ∧
    va ≠ 0 ∧
    st2.devWords 0 true va 16 = .ok ws ∧
    parsePcb ws = none) :=
  ⟨g0, 4, o 1, o 24, WS, 7, 0x1000, _, _, ready_plain rfl rfl rfl, rfl, rfl, rfl, rfl, reads_int rfl, reads_int rfl, by decide,
      rfl, List.replicate 16 0, by decide, by decide, by decide, by decide, ok_is (by decide +kernel), by decide⟩

theorem witness_PartitionsAreDrainedAndReset_14 :
    (∃ g, ∃ (d : Ix), ∃ a b, ∃ (s : State), ∃ v, ∃ (va : Nat) (st : State), ∃ st2, Ready s g [d, a.ix, b.ix] [a, b] none ∧
    s.me.intNil d = true ∧
    s.me.intNil a.ix = true ∧
    s.me.intNil b.ix = true ∧
    s.me.smode = true ∧
    ReadsInt s (s.emptied [a, b]) a.ix v false st ∧
    ReadsInt s st b.ix va false st2 ∧
    va < 2 ^ 64 ∧
    s.partNum (coreOf s.cur) = 0 ∧
    ∃ ws, 0 < v ∧
    v ≤ 63 ∧
    va % 128 = 0 ∧
    va ≠ 0 ∧
    st2.devWords 0 true va 16 = .ok ws ∧
    ∃ c, parsePcb ws = some c ∧
    st2.overlaps v.toNat c = true) :=
  ⟨g0, 4, o 1, o 24, { WS with mem := wPcbMem false }, 7, 0x1000, _, _, ready_plain rfl rfl rfl, rfl, rfl, rfl, rfl,
      reads_int rfl, reads_int rfl, by decide, rfl, wPcbWords false, by decide, by decide, by decide, by decide, ok_is (by decide +kernel),
      _, rfl, by decide⟩

theorem witness_PartitionsAreDrainedAndReset_15 :
    (∃ g, ∃ (d : Ix), ∃ a b, ∃ (s : State), ∃ v, ∃ (va : Nat) (st : State), ∃ st2, Ready s g [d, a.ix, b.ix] [a, b] none ∧
    s.me.intNil d = true ∧
    s.me.intNil a.ix = true ∧
    s.me.intNil b.ix = true ∧
    s.me.smode = true ∧
    ReadsInt s (s.emptied [a, b]) a.ix v false st ∧
    ReadsInt s st b.ix va false st2 ∧
    va < 2 ^ 64 ∧
    s.partNum (coreOf s.cur) = 0 ∧
    ∃ ws, 0 < v ∧
    v ≤ 63 ∧
    va % 128 = 0 ∧
    va ≠ 0 ∧
    st2.devWords 0 true va 16 = .ok ws ∧
    ∃ c pas u, parsePcb ws = some c ∧
    st2.overlaps v.toNat c = false ∧
    st2.headerPas c = some pas ∧
    Settled s (fun k => k.part = v.toNat) ∧
    ∃ good, st2.testCores c.cores = (good, u) ∧
    let w := u.preset v.toNat (if good then some c else none) (if good then pas else [])
    s.goesOnIn w) :=
  ⟨g0, 4, o 1, o 24, { WS with mem := wPcbMem true }, 7, 0x1000, _, _, ready_plain rfl rfl rfl, rfl, rfl, rfl, rfl,
      reads_int rfl, reads_int rfl, by decide, rfl, wPcbWords true, by decide, by decide, by decide, by decide, ok_is (by decide +kernel),
      _, _, _, rfl, by decide, rfl, settled rfl rfl, _, (Prod.eta _).symm, ⟨by decide +kernel, by decide +kernel⟩⟩

theorem witness_PartitionsAreDrainedAndReset_16 :
    (∃ g, ∃ (d : Ix), ∃ b, ∃ (s : State) (va : Nat) (st : State), Ready s g [d, b.ix] [b] none ∧
    s.me.intNil d = true ∧
    s.me.intNil b.ix = true ∧
    s.me.smode = true ∧
    ReadsInt s (s.emptied [b]) b.ix va false st ∧
    va < 2 ^ 64 ∧
    s.partNum (coreOf s.cur) = 0 ∧
    va % 4096 ≠ 0) :=
  ⟨g0, 4, o 1, WS, 7, _, ready_plain rfl rfl rfl, rfl, rfl, rfl, reads_int rfl, by decide, rfl, by decide⟩

theorem witness_PartitionsAreDrainedAndReset_17 :
    (∃ g, ∃ (d : Ix), ∃ b, ∃ (s : State) (va : Nat) (st : State), Ready s g [d, b.ix] [b] none ∧
    s.me.intNil d = true ∧
    s.me.intNil b.ix = true ∧
    s.me.smode = true ∧
    ReadsInt s (s.emptied [b]) b.ix va false st ∧
    va < 2 ^ 64 ∧
    s.partNum (coreOf s.cur) = 0 ∧
    ∃ code, va % 4096 = 0 ∧
    st.readArea 0 va = .error code) :=
  ⟨g0, 4, o 24, WS, 0x1000, _, ready_plain rfl rfl rfl, rfl, rfl, rfl, reads_int rfl, by decide, rfl, 3, by decide, rfl⟩

theorem witness_PartitionsAreDrainedAndReset_18 :
    (∃ g, ∃ (d : Ix), ∃ b, ∃ (s : State) (va : Nat) (st : State), Ready s g [d, b.ix] [b] none ∧
    s.me.intNil d = true ∧
    s.me.intNil b.ix = true ∧
    s.me.smode = true ∧
    ReadsInt s (s.emptied [b]) b.ix va false st ∧
    va < 2 ^ 64 ∧
    s.partNum (coreOf s.cur) = 0 ∧
    ∃ ar, va % 4096 = 0 ∧
    st.readArea 0 va = .ok ar ∧
    s.goesOnIn (st.resume 0 va ar)) :=
  by
      obtain ⟨b, hb⟩ := area_read
      exact ⟨g0, 4, o 24, WA, 0x1000, WA, ready_plain rfl rfl rfl, rfl, rfl, rfl, reads_int rfl, by decide, rfl, _, by decide, hb,
        ⟨by rw [State.slot, area_resumed]; rfl, by rw [State.slot, area_resumed]; rfl⟩⟩

theorem witness_PartitionsAreDrainedAndReset_19 :
    (∃ (p : Nat) (g : Pcb) (c : Nat), c ∈ g.cores ∧
    0 < p ∧
    ∃ t, coreOf t = c) :=
  ⟨1, wPcb, 0, by decide, by decide, 0, rfl⟩

theorem witness_PartitionsAreDrainedAndReset_20 :
    (∃ p : Nat, 0 < p) :=
  ⟨1, by decide⟩

theorem witness_PartitionsAreDrainedAndReset_21 :
    (∃ (s : State) (cs : List Nat), (∀ c ∈ cs, (s.core c).offline = false)) :=
  ⟨{ W with cores := [] }, [0], by decide⟩

theorem witness_PartitionsAreDrainedAndReset_22 :
    (∃ (s : State) (id : Nat), ∃ d v, mfind id s.inflight = some (.landAfter d v) ∧
    s.repacking (coreOf d.tid) = false ∧
    s.lingers id = true) :=
  ⟨{ WR (.landAfter ⟨0, 0, 4, 5⟩ 7) with cmds := [(8, { wCmd (.mclr 0) with stopping := true })] }, 9, _, _, rfl, rfl, rfl⟩

theorem witness_PartitionsAreDrainedAndReset_23 :
    (∃ (s : State) (id : Nat), ∃ d v, mfind id s.inflight = some (.landAfter d v) ∧
    s.repacking (coreOf d.tid) = false ∧
    s.lingers id = false) :=
  ⟨WR (.landAfter ⟨0, 0, 4, 5⟩ 7), 9, _, _, rfl, rfl, rfl⟩

theorem witness_PartitionsAreDrainedAndReset :
    (∃ g, ∃ (d : Ix), ∃ a, ∃ (s : State), ∃ v, ∃ (st : State), Ready s g [d, a.ix] [a] none ∧
    s.me.intNil d = true ∧
    s.me.intNil a.ix = true ∧
    s.me.smode = true ∧
    ReadsInt s (s.emptied [a]) a.ix v false st ∧
    let lid := umod 32 v
    (s.partNum (coreOf s.cur) ≠ 0 ∧ lid / 2 ^ 26 ≠ s.partNum (coreOf s.cur))) ∧
    (∃ g, ∃ (d : Ix), ∃ a, ∃ (s : State), ∃ v, ∃ (st : State), Ready s g [d, a.ix] [a] none ∧
    s.me.intNil d = true ∧
    s.me.intNil a.ix = true ∧
    s.me.smode = true ∧
    ReadsInt s (s.emptied [a]) a.ix v false st ∧
    let lid := umod 32 v
    (s.partNum (coreOf s.cur) = 0 ∨ lid / 2 ^ 26 = s.partNum (coreOf s.cur)) ∧
    mfind lid st.launches = none) ∧
    (∃ g, ∃ (d : Ix), ∃ a, ∃ (s : State), ∃ v, ∃ (st : State), Ready s g [d, a.ix] [a] none ∧
    s.me.intNil d = true ∧
    s.me.intNil a.ix = true ∧
    s.me.smode = true ∧
    ReadsInt s (s.emptied [a]) a.ix v false st ∧
    let lid := umod 32 v
    (s.partNum (coreOf s.cur) = 0 ∨ lid / 2 ^ 26 = s.partNum (coreOf s.cur)) ∧
    ∃ l, mfind lid st.launches = some l ∧
    l.susp = false ∧
    (∀ e ∈ s.cores, e.2.repack = none) ∧
    s.goesOnIn (st.drainLaunch lid)) ∧
    (∃ (s : State), ∃ lid l, mfind lid s.launches = some l ∧
    (s.cmds.map (·.1)).Nodup ∧
    ∃ e ∈ (s.drainLaunch lid).cmds, e.2.bears = true ∧
    e.2.launch = lid) ∧
    (∃ g, ∃ (d : Ix), ∃ a, ∃ (s : State), ∃ v, ∃ (st : State), Ready s g [d, a.ix] [a] none ∧
    s.me.intNil d = true ∧
    s.me.intNil a.ix = true ∧
    s.me.smode = true ∧
    s.partNum (coreOf s.cur) = 0 ∧
    ReadsInt s (s.emptied [a]) a.ix v false st ∧
    (v ≤ 0 ∨ 63 < v)) ∧
    (∃ g, ∃ (d : Ix), ∃ a, ∃ (s : State), ∃ v, ∃ (st : State), Ready s g [d, a.ix] [a] none ∧
    s.me.intNil d = true ∧
    s.me.intNil a.ix = true ∧
    s.me.smode = true ∧
    s.partNum (coreOf s.cur) = 0 ∧
    ReadsInt s (s.emptied [a]) a.ix v false st ∧
    0 < v ∧
    v ≤ 63 ∧
    (st.part v.toNat).cfg = none) ∧
    (∃ g, ∃ (d : Ix), ∃ a, ∃ (s : State), ∃ v, ∃ (st : State), Ready s g [d, a.ix] [a] none ∧
    s.me.intNil d = true ∧
    s.me.intNil a.ix = true ∧
    s.me.smode = true ∧
    s.partNum (coreOf s.cur) = 0 ∧
    ReadsInt s (s.emptied [a]) a.ix v false st ∧
    ∃ c, 0 < v ∧
    v ≤ 63 ∧
    (st.part v.toNat).cfg = some c ∧
    (∀ e ∈ s.cores, e.2.repack = none) ∧
    s.goesOnIn (st.drainPart v.toNat c)) ∧
    (∃ g, ∃ (d : Ix), ∃ a, ∃ (s : State), ∃ v, ∃ (st : State), Ready s g [d, a.ix] [a] none ∧
    s.me.intNil d = true ∧
    s.me.intNil a.ix = true ∧
    s.me.smode = true ∧
    s.partNum (coreOf s.cur) = 0 ∧
    ReadsInt s (s.emptied [a]) a.ix v false st ∧
    ∃ c, 0 < v ∧
    v ≤ 63 ∧
    (st.part v.toNat).cfg = some c ∧
    ∃ pas u, Settled s (fun k => k.part = v.toNat) ∧
    st.overlaps v.toNat c = false ∧
    st.headerPas c = some pas ∧
    ∃ good, st.testCores c.cores = (good, u) ∧
    let w := u.preset v.toNat (if good then some c else none) (if good then pas else [])
    s.goesOnIn w) ∧
    (∃ g, ∃ (d : Ix), ∃ a b, ∃ (s : State), ∃ v, ∃ (va : Nat) (st : State), ∃ st2, Ready s g [d, a.ix, b.ix] [a, b] none ∧
    s.me.intNil d = true ∧
    s.me.intNil a.ix = true ∧
    s.me.intNil b.ix = true ∧
    s.me.smode = true ∧
    ReadsInt s (s.emptied [a, b]) a.ix v false st ∧
    ReadsInt s st b.ix va false st2 ∧
    va < 2 ^ 64 ∧
    s.partNum (coreOf s.cur) = 0 ∧
    va % 4096 ≠ 0) ∧
    (∃ g, ∃ (d : Ix), ∃ a b, ∃ (s : State), ∃ v, ∃ (va : Nat) (st : State), ∃ st2, Ready s g [d, a.ix, b.ix] [a, b] none ∧
    s.me.intNil d = true ∧
    s.me.intNil a.ix = true ∧
    s.me.intNil b.ix = true ∧
    s.me.smode = true ∧
    ReadsInt s (s.emptied [a, b]) a.ix v false st ∧
    ReadsInt s st b.ix va false st2 ∧
    va < 2 ^ 64 ∧
    s.partNum (coreOf s.cur) = 0 ∧
    ∃ l code u, va % 4096 = 0 ∧
    mfind (umod 32 v) st2.launches = some l ∧
    l.susp = false ∧
    Settled s (fun k => k.bears = true ∧ k.launch = umod 32 v) ∧
    st2.saveLaunch 0 va (umod 32 v) l = (code, u) ∧
    s.goesOnIn u) ∧
    (∃ g, ∃ (d : Ix), ∃ a b, ∃ (s : State), ∃ v, ∃ (va : Nat) (st : State), ∃ st2, Ready s g [d, a.ix, b.ix] [a, b] none ∧
    s.me.intNil d = true ∧
    s.me.intNil a.ix = true ∧
    s.me.intNil b.ix = true ∧
    s.me.smode = true ∧
    ReadsInt s (s.emptied [a, b]) a.ix v false st ∧
    ReadsInt s st b.ix va false st2 ∧
    va < 2 ^ 64 ∧
    s.partNum (coreOf s.cur) = 0 ∧
    0 < v ∧
    v ≤ 63 ∧
    va = 0 ∧
    Settled s (fun k => k.part = v.toNat) ∧
    s.goesOnIn (st2.preset v.toNat none [])) ∧
    (∃ g, ∃ (d : Ix), ∃ a b, ∃ (s : State), ∃ v, ∃ (va : Nat) (st : State), ∃ st2, Ready s g [d, a.ix, b.ix] [a, b] none ∧
    s.me.intNil d = true ∧
    s.me.intNil a.ix = true ∧
    s.me.intNil b.ix = true ∧
    s.me.smode = true ∧
    ReadsInt s (s.emptied [a, b]) a.ix v false st ∧
    ReadsInt s st b.ix va false st2 ∧
    va < 2 ^ 64 ∧
    s.partNum (coreOf s.cur) = 0 ∧
    0 < v ∧
    v ≤ 63 ∧
    va % 128 ≠ 0) ∧
    (∃ g, ∃ (d : Ix), ∃ a b, ∃ (s : State), ∃ v, ∃ (va : Nat) (st : State), ∃ st2, Ready s g [d, a.ix, b.ix] [a, b] none ∧
    s.me.intNil d = true ∧
    s.me.intNil a.ix = true ∧
    s.me.intNil b.ix = true ∧
    s.me.smode = true ∧
    ReadsInt s (s.emptied [a, b]) a.ix v false st ∧
    ReadsInt s st b.ix va false st2 ∧
    va < 2 ^ 64 ∧
    s.partNum (coreOf s.cur) = 0 ∧
    ∃ ws, 0 < v ∧
    v ≤ 63 ∧
    va % 128 = 0 ∧
    va ≠ 0 ∧
    st2.devWords 0 true va 16 = .ok ws ∧
    parsePcb ws = none) ∧
    (∃ g, ∃ (d : Ix), ∃ a b, ∃ (s : State), ∃ v, ∃ (va : Nat) (st : State), ∃ st2, Ready s g [d, a.ix, b.ix] [a, b] none ∧
    s.me.intNil d = true ∧
    s.me.intNil a.ix = true ∧
    s.me.intNil b.ix = true ∧
    s.me.smode = true ∧
    ReadsInt s (s.emptied [a, b]) a.ix v false st ∧
    ReadsInt s st b.ix va false st2 ∧
    va < 2 ^ 64 ∧
    s.partNum (coreOf s.cur) = 0 ∧
    ∃ ws, 0 < v ∧
    v ≤ 63 ∧
    va % 128 = 0 ∧
    va ≠ 0 ∧
    st2.devWords 0 true va 16 = .ok ws ∧
    ∃ c, parsePcb ws = some c ∧
    st2.overlaps v.toNat c = true) ∧
    (∃ g, ∃ (d : Ix), ∃ a b, ∃ (s : State), ∃ v, ∃ (va : Nat) (st : State), ∃ st2, Ready s g [d, a.ix, b.ix] [a, b] none ∧
    s.me.intNil d = true ∧
    s.me.intNil a.ix = true ∧
    s.me.intNil b.ix = true ∧
    s.me.smode = true ∧
    ReadsInt s (s.emptied [a, b]) a.ix v false st ∧
    ReadsInt s st b.ix va false st2 ∧
    va < 2 ^ 64 ∧
    s.partNum (coreOf s.cur) = 0 ∧
    ∃ ws, 0 < v ∧
    v ≤ 63 ∧
    va % 128 = 0 ∧
    va ≠ 0 ∧
    st2.devWords 0 true va 16 = .ok ws ∧
    ∃ c pas u, parsePcb ws = some c ∧
    st2.overlaps v.toNat c = false ∧
    st2.headerPas c = some pas ∧
    Settled s (fun k => k.part = v.toNat) ∧
    ∃ good, st2.testCores c.cores = (good, u) ∧
    let w := u.preset v.toNat (if good then some c else none) (if good then pas else [])
    s.goesOnIn w) ∧
    (∃ g, ∃ (d : Ix), ∃ b, ∃ (s : State) (va : Nat) (st : State), Ready s g [d, b.ix] [b] none ∧
    s.me.intNil d = true ∧
    s.me.intNil b.ix = true ∧
    s.me.smode = true ∧
    ReadsInt s (s.emptied [b]) b.ix va false st ∧
    va < 2 ^ 64 ∧
    s.partNum (coreOf s.cur) = 0 ∧
    va % 4096 ≠ 0) ∧
    (∃ g, ∃ (d : Ix), ∃ b, ∃ (s : State) (va : Nat) (st : State), Ready s g [d, b.ix] [b] none ∧
    s.me.intNil d = true ∧
    s.me.intNil b.ix = true ∧
    s.me.smode = true ∧
    ReadsInt s (s.emptied [b]) b.ix va false st ∧
    va < 2 ^ 64 ∧
    s.partNum (coreOf s.cur) = 0 ∧
    ∃ code, va % 4096 = 0 ∧
    st.readArea 0 va = .error code) ∧
    (∃ g, ∃ (d : Ix), ∃ b, ∃ (s : State) (va : Nat) (st : State), Ready s g [d, b.ix] [b] none ∧
    s.me.intNil d = true ∧
    s.me.intNil b.ix = true ∧
    s.me.smode = true ∧
    ReadsInt s (s.emptied [b]) b.ix va false st ∧
    va < 2 ^ 64 ∧
    s.partNum (coreOf s.cur) = 0 ∧
    ∃ ar, va % 4096 = 0 ∧
    st.readArea 0 va = .ok ar ∧
    s.goesOnIn (st.resume 0 va ar)) ∧
    (∃ (p : Nat) (g : Pcb) (c : Nat), c ∈ g.cores ∧
    0 < p ∧
    ∃ t, coreOf t = c) ∧
    (∃ p : Nat, 0 < p) ∧
    (∃ (s : State) (cs : List Nat), (∀ c ∈ cs, (s.core c).offline = false)) ∧
    (∃ (s : State) (id : Nat), ∃ d v, mfind id s.inflight = some (.landAfter d v) ∧
    s.repacking (coreOf d.tid) = false ∧
    s.lingers id = true) ∧
    (∃ (s : State) (id : Nat), ∃ d v, mfind id s.inflight = some (.landAfter d v) ∧
    s.repacking (coreOf d.tid) = false ∧
    s.lingers id = false) :=
  ⟨witness_PartitionsAreDrainedAndReset_1, witness_PartitionsAreDrainedAndReset_2, witness_PartitionsAreDrainedAndReset_3, witness_PartitionsAreDrainedAndReset_4, witness_PartitionsAreDrainedAndReset_5, witness_PartitionsAreDrainedAndReset_6, witness_PartitionsAreDrainedAndReset_7, witness_PartitionsAreDrainedAndReset_8, witness_PartitionsAreDrainedAndReset_9, witness_PartitionsAreDrainedAndReset_10, witness_PartitionsAreDrainedAndReset_11, witness_PartitionsAreDrainedAndReset_12, witness_PartitionsAreDrainedAndReset_13, witness_PartitionsAreDrainedAndReset_14, witness_PartitionsAreDrainedAndReset_15, witness_PartitionsAreDrainedAndReset_16, witness_PartitionsAreDrainedAndReset_17, witness_PartitionsAreDrainedAndReset_18, witness_PartitionsAreDrainedAndReset_19, witness_PartitionsAreDrainedAndReset_20, witness_PartitionsAreDrainedAndReset_21, witness_PartitionsAreDrainedAndReset_22, witness_PartitionsAreDrainedAndReset_23⟩

theorem witness_SlotsAreReadWrittenAndKilled_1 :
    (∃ g, ∃ (d : Ix), ∃ a, ∃ (s : State), ∃ v w, ∃ (st : State), Ready s g [d, a.ix] [a] none ∧
    s.me.intNil d = true ∧
    s.me.intNil a.ix = true ∧
    s.me.smode = true ∧
    ReadsInt s (s.emptied [a]) a.ix v false st ∧
    TargetIs s v w) :=
  ⟨g0, 4, o 16, WS, 16, _, _, ready_plain rfl rfl rfl, rfl, rfl, rfl, reads_int rfl,
      ⟨by decide, by decide, rfl, by decide, .inl rfl⟩⟩

theorem witness_SlotsAreReadWrittenAndKilled_2 :
    (∃ g, ∃ (d : Ix), ∃ a b, ∃ (sp : SlotSp) (sel : BitVec 8), ∃ run, ∃ (s : State), ∃ v w x, ∃ (st : State), ∃ st2, Ready s g [d, a.ix, b.ix] [a, b] none ∧
    s.me.intNil d = true ∧
    s.me.intNil a.ix = true ∧
    s.me.intNil b.ix = true ∧
    s.me.smode = true ∧
    ReadsInt s (s.emptied [a, b]) a.ix v false st ∧
    ReadsInt s st b.ix x false st2 ∧
    TargetIs s v w ∧
    (sp = .reg → selValueOk sel.toNat x = true) ∧
    (run = true → Performed s st2)) :=
  ⟨g0, 4, o 16, o 1, .nv, 1, false, WS, 16, _, 7, _, _, ready_plain rfl rfl rfl, rfl, rfl, rfl, rfl, reads_int rfl, reads_int rfl,
      ⟨by decide, by decide, rfl, by decide, .inl rfl⟩, nofun, nofun⟩

theorem witness_SlotsAreReadWrittenAndKilled_3 :
    (∃ (id : Nat) (s : State), ∃ src part o, ∃ (dst : Dst), AtTarget s id (.slotrd src part o dst) (tgtTid o.tgt) ∧
    s.epochOk o.tgt = false) :=
  ⟨9, WR (.slotrd 0 0 ⟨0x1000500000000, .nv, 1⟩ ⟨0, 0, 4, 5⟩), _, _, _, _, wr_slot rfl, by decide⟩

theorem witness_SlotsAreReadWrittenAndKilled_4 :
    (∃ (id : Nat) (s : State), ∃ src part o, ∃ (dst : Dst), AtTarget s id (.slotrd src part o dst) (tgtTid o.tgt) ∧
    let u := s.slot (tgtTid o.tgt)
    ∃ n sg wd m, s.epochOk o.tgt = true ∧
    u.names[o.sel - 1]? = some n ∧
    n.kind = .int sg wd m ∧
    o.sp = .nv) :=
  ⟨9, WR (.slotrd 0 0 ⟨0, .nv, 1⟩ ⟨0, 0, 4, 5⟩), _, _, _, _, wr_slot rfl, num 7, true, 64, .wrap, by decide, by decide, rfl,
      rfl⟩

theorem witness_SlotsAreReadWrittenAndKilled_5 :
    (∃ (id : Nat) (s : State), ∃ src part o, ∃ (dst : Dst), AtTarget s id (.slotrd src part o dst) (tgtTid o.tgt) ∧
    let u := s.slot (tgtTid o.tgt)
    ∃ n sg wd m, s.epochOk o.tgt = true ∧
    u.names[o.sel - 1]? = some n ∧
    n.kind = .int sg wd m ∧
    o.sp = .nf) :=
  ⟨9, WR (.slotrd 0 0 ⟨0, .nf, 1⟩ ⟨0, 0, 4, 5⟩), _, _, _, _, wr_slot rfl, num 7, true, 64, .wrap, by decide, by decide, rfl,
      rfl⟩

theorem witness_SlotsAreReadWrittenAndKilled_6 :
    (∃ (id : Nat) (s : State), ∃ src part o, ∃ (dst : Dst), AtTarget s id (.slotrd src part o dst) (tgtTid o.tgt) ∧
    let u := s.slot (tgtTid o.tgt)
    s.epochOk o.tgt = true ∧
    u.names[o.sel - 1]? = none ∧
    o.sp = .nv) :=
  ⟨9, WR (.slotrd 0 0 ⟨0, .nv, 100⟩ ⟨0, 0, 4, 5⟩), _, _, _, _, wr_slot rfl, by decide, by decide, rfl⟩

theorem witness_SlotsAreReadWrittenAndKilled_7 :
    (∃ (id : Nat) (s : State), ∃ src part o, ∃ (dst : Dst), AtTarget s id (.slotrd src part o dst) (tgtTid o.tgt) ∧
    let u := s.slot (tgtTid o.tgt)
    s.epochOk o.tgt = true ∧
    u.names[o.sel - 1]? = none ∧
    o.sp = .nf) :=
  ⟨9, WR (.slotrd 0 0 ⟨0, .nf, 100⟩ ⟨0, 0, 4, 5⟩), _, _, _, _, wr_slot rfl, by decide, by decide, rfl⟩

theorem witness_SlotsAreReadWrittenAndKilled_8 :
    (∃ (id : Nat) (s : State), ∃ src part o v run, ∃ (dst : Dst), AtTarget s id (.slotwr src part o v run dst) (tgtTid o.tgt) ∧
    let t := tgtTid o.tgt
    ((s.slot t).st ≠ .trapped ∨ s.epochOk o.tgt = false)) :=
  ⟨9, WR (.slotwr 0 0 ⟨0, .nv, 1⟩ 3 false ⟨0, 0, 4, 5⟩), _, _, _, _, _, _, wr_slot rfl, .inl (by decide)⟩

theorem witness_SlotsAreReadWrittenAndKilled_9 :
    (∃ (id : Nat) (s : State), ∃ src part o v run, ∃ (dst : Dst), AtTarget s id (.slotwr src part o v run dst) (tgtTid o.tgt) ∧
    let t := tgtTid o.tgt
    ∃ n sg wd m y, (s.slot t).st = .trapped ∧
    s.epochOk o.tgt = true ∧
    o.sp = .nv ∧
    (s.slot t).names[o.sel - 1]? = some n ∧
    n.kind = .int sg wd m ∧
    fitInt sg wd m v = some y) :=
  ⟨9, { WR (.slotwr 0 0 ⟨0, .nv, 1⟩ 3 false ⟨0, 0, 4, 5⟩) with slots := [(0, { wSlot with st := .trapped })] }, _, _, _, _, _, _,
      wr_slot rfl, num 7, true, 64, .wrap, 3, by decide, by decide, rfl, by decide, rfl, by decide⟩

theorem witness_SlotsAreReadWrittenAndKilled_10 :
    (∃ (id : Nat) (s : State), ∃ src part w, ∃ (dst : Dst), AtTarget s id (.slotkill src part w dst) (tgtTid w) ∧
    ((s.slot (tgtTid w)).st = .free ∨ s.epochOk w = false)) :=
  ⟨9, WR (.slotkill 0 0 1 ⟨0, 0, 4, 5⟩), _, _, _, _, wr_slot rfl, .inl (by decide)⟩

theorem witness_SlotsAreReadWrittenAndKilled_11 :
    (∃ (id : Nat) (s : State), ∃ src part w, ∃ (dst : Dst), AtTarget s id (.slotkill src part w dst) (tgtTid w) ∧
    (s.slot (tgtTid w)).st ≠ .free ∧
    s.epochOk w = true ∧
    s.heldBuf (tgtTid w) = none) :=
  ⟨9, WR (.slotkill 0 0 0 ⟨0, 0, 4, 5⟩), _, _, _, _, wr_slot rfl, by decide, by decide, by decide⟩

theorem witness_SlotsAreReadWrittenAndKilled_12 :
    (∃ (s : State) (t : Tid), (s.slot t).st ≠ .free) :=
  ⟨W, 0, by decide⟩

theorem witness_SlotsAreReadWrittenAndKilled :
    (∃ g, ∃ (d : Ix), ∃ a, ∃ (s : State), ∃ v w, ∃ (st : State), Ready s g [d, a.ix] [a] none ∧
    s.me.intNil d = true ∧
    s.me.intNil a.ix = true ∧
    s.me.smode = true ∧
    ReadsInt s (s.emptied [a]) a.ix v false st ∧
    TargetIs s v w) ∧
    (∃ g, ∃ (d : Ix), ∃ a b, ∃ (sp : SlotSp) (sel : BitVec 8), ∃ run, ∃ (s : State), ∃ v w x, ∃ (st : State), ∃ st2, Ready s g [d, a.ix, b.ix] [a, b] none ∧
    s.me.intNil d = true ∧
    s.me.intNil a.ix = true ∧
    s.me.intNil b.ix = true ∧
    s.me.smode = true ∧
    ReadsInt s (s.emptied [a, b]) a.ix v false st ∧
    ReadsInt s st b.ix x false st2 ∧
    TargetIs s v w ∧
    (sp = .reg → selValueOk sel.toNat x = true) ∧
    (run = true → Performed s st2)) ∧
    (∃ (id : Nat) (s : State), ∃ src part o, ∃ (dst : Dst), AtTarget s id (.slotrd src part o dst) (tgtTid o.tgt) ∧
    s.epochOk o.tgt = false) ∧
    (∃ (id : Nat) (s : State), ∃ src part o, ∃ (dst : Dst), AtTarget s id (.slotrd src part o dst) (tgtTid o.tgt) ∧
    let u := s.slot (tgtTid o.tgt)
    ∃ n sg wd m, s.epochOk o.tgt = true ∧
    u.names[o.sel - 1]? = some n ∧
    n.kind = .int sg wd m ∧
    o.sp = .nv) ∧
    (∃ (id : Nat) (s : State), ∃ src part o, ∃ (dst : Dst), AtTarget s id (.slotrd src part o dst) (tgtTid o.tgt) ∧
    let u := s.slot (tgtTid o.tgt)
    ∃ n sg wd m, s.epochOk o.tgt = true ∧
    u.names[o.sel - 1]? = some n ∧
    n.kind = .int sg wd m ∧
    o.sp = .nf) ∧
    (∃ (id : Nat) (s : State), ∃ src part o, ∃ (dst : Dst), AtTarget s id (.slotrd src part o dst) (tgtTid o.tgt) ∧
    let u := s.slot (tgtTid o.tgt)
    s.epochOk o.tgt = true ∧
    u.names[o.sel - 1]? = none ∧
    o.sp = .nv) ∧
    (∃ (id : Nat) (s : State), ∃ src part o, ∃ (dst : Dst), AtTarget s id (.slotrd src part o dst) (tgtTid o.tgt) ∧
    let u := s.slot (tgtTid o.tgt)
    s.epochOk o.tgt = true ∧
    u.names[o.sel - 1]? = none ∧
    o.sp = .nf) ∧
    (∃ (id : Nat) (s : State), ∃ src part o v run, ∃ (dst : Dst), AtTarget s id (.slotwr src part o v run dst) (tgtTid o.tgt) ∧
    let t := tgtTid o.tgt
    ((s.slot t).st ≠ .trapped ∨ s.epochOk o.tgt = false)) ∧
    (∃ (id : Nat) (s : State), ∃ src part o v run, ∃ (dst : Dst), AtTarget s id (.slotwr src part o v run dst) (tgtTid o.tgt) ∧
    let t := tgtTid o.tgt
    ∃ n sg wd m y, (s.slot t).st = .trapped ∧
    s.epochOk o.tgt = true ∧
    o.sp = .nv ∧
    (s.slot t).names[o.sel - 1]? = some n ∧
    n.kind = .int sg wd m ∧
    fitInt sg wd m v = some y) ∧
    (∃ (id : Nat) (s : State), ∃ src part w, ∃ (dst : Dst), AtTarget s id (.slotkill src part w dst) (tgtTid w) ∧
    ((s.slot (tgtTid w)).st = .free ∨ s.epochOk w = false)) ∧
    (∃ (id : Nat) (s : State), ∃ src part w, ∃ (dst : Dst), AtTarget s id (.slotkill src part w dst) (tgtTid w) ∧
    (s.slot (tgtTid w)).st ≠ .free ∧
    s.epochOk w = true ∧
    s.heldBuf (tgtTid w) = none) ∧
    (∃ (s : State) (t : Tid), (s.slot t).st ≠ .free) :=
  ⟨witness_SlotsAreReadWrittenAndKilled_1, witness_SlotsAreReadWrittenAndKilled_2, witness_SlotsAreReadWrittenAndKilled_3, witness_SlotsAreReadWrittenAndKilled_4, witness_SlotsAreReadWrittenAndKilled_5, witness_SlotsAreReadWrittenAndKilled_6, witness_SlotsAreReadWrittenAndKilled_7, witness_SlotsAreReadWrittenAndKilled_8, witness_SlotsAreReadWrittenAndKilled_9, witness_SlotsAreReadWrittenAndKilled_10, witness_SlotsAreReadWrittenAndKilled_11, witness_SlotsAreReadWrittenAndKilled_12⟩

theorem witness_SupervisorUnits_1 :
    (∃ g, ∃ (d : Ix), ∃ a, ∃ (s : State), ∃ v, ∃ (st : State), Ready s g [d, a.ix] [a] none ∧
    s.me.intNil d = true ∧
    s.me.intNil a.ix = true ∧
    s.me.smode = true ∧
    ReadsInt s (s.emptied [a]) a.ix v false st ∧
    canonical (umod 64 v) = false) :=
  ⟨g0, 4, o 26, WN (2 ^ 60), (2 ^ 60), _, ready_plain rfl rfl rfl, rfl, rfl, rfl, reads_int rfl, by decide⟩

theorem witness_SupervisorUnits_2 :
    (∃ g, ∃ (d : Ix), ∃ a, ∃ (s : State), ∃ v, ∃ (st : State), Ready s g [d, a.ix] [a] none ∧
    s.me.intNil d = true ∧
    s.me.intNil a.ix = true ∧
    s.me.smode = true ∧
    ReadsInt s (s.emptied [a]) a.ix v false st ∧
    canonical (umod 64 v) = true ∧
    s.inflight = [] ∧
    s.asked = []) :=
  ⟨g0, 4, o 1, WS, 7, _, ready_plain rfl rfl rfl, rfl, rfl, rfl, reads_int rfl, by decide, rfl, rfl⟩

theorem witness_SupervisorUnits_3 :
    (∃ (s : State) (id : Nat), ∃ d uses, mfind id s.inflight = some (.landUses d uses) ∧
    s.repacking (coreOf d.tid) = false ∧
    ((∃ e ∈ s.inflight, e.1 ∈ uses) ∨ (∃ a ∈ s.asked, a.ans = none ∧ a.tag ∈ uses))) :=
  ⟨{ W with inflight := [(8, .land ⟨0, 0, 4, 5⟩ (.int 0) false 0), (9, .landUses ⟨0, 0, 4, 5⟩ [8])] }, 9, _, _, rfl, rfl,
      .inl ⟨_, .head _, .head _⟩⟩

theorem witness_SupervisorUnits_4 :
    (∃ (s : State) (id : Nat), ∃ d uses, mfind id s.inflight = some (.landUses d uses) ∧
    s.repacking (coreOf d.tid) = false ∧
    (∀ e ∈ s.inflight, e.1 ∉ uses) ∧
    (∀ a ∈ s.asked, a.ans = none → a.tag ∉ uses)) :=
  ⟨WR (.landUses ⟨0, 0, 4, 5⟩ [8]), 9, _, _, rfl, rfl, by decide, nofun⟩

theorem witness_SupervisorUnits_5 :
    (∃ g, ∃ (d : Ix), ∃ a b, ∃ (s : State), ∃ v w, ∃ (st : State), ∃ st2, Ready s g [d, a.ix, b.ix] [a, b] none ∧
    s.me.intNil d = true ∧
    s.me.intNil a.ix = true ∧
    s.me.intNil b.ix = true ∧
    s.me.smode = true ∧
    ReadsInt s (s.emptied [a, b]) a.ix v false st ∧
    ReadsInt s st b.ix w false st2 ∧
    (canonical (umod 64 v) = false ∨ w < 1 ∨ 2 ^ 56 ≤ w)) :=
  ⟨g0, 4, o 1, o 5, WS, 7, 0, _, _, ready_plain rfl rfl rfl, rfl, rfl, rfl, rfl, reads_int rfl, reads_int rfl,
      .inr (.inl (by decide))⟩

theorem witness_SupervisorUnits_6 :
    (∃ g, ∃ (d : Ix), ∃ a b, ∃ (s : State), ∃ v w, ∃ (st : State), ∃ st2, Ready s g [d, a.ix, b.ix] [a, b] none ∧
    s.me.intNil d = true ∧
    s.me.intNil a.ix = true ∧
    s.me.intNil b.ix = true ∧
    s.me.smode = true ∧
    ReadsInt s (s.emptied [a, b]) a.ix v false st ∧
    ReadsInt s st b.ix w false st2 ∧
    canonical (umod 64 v) = true ∧
    1 ≤ w ∧
    w < 2 ^ 56 ∧
    s.inflight = [] ∧
    s.asked = [] ∧
    ∃ va, umod 64 v ≤ va ∧
    va < umod 64 v + w) :=
  ⟨g0, 4, o 1, o 2, WS, 7, 2, _, _, ready_plain rfl rfl rfl, rfl, rfl, rfl, rfl, reads_int rfl, reads_int rfl, by decide,
      by decide, by decide, rfl, rfl, 8, by decide, by decide⟩

theorem witness_SupervisorUnits_7 :
    (∃ g, ∃ (d : Ix) (s : State), Ready s g [d] [] none ∧
    s.me.intNil d = true ∧
    s.me.smode = true ∧
    s.inflight = [] ∧
    s.asked = []) :=
  ⟨g0, 4, WS, ready_plain rfl rfl rfl, rfl, rfl, rfl, rfl⟩

theorem witness_SupervisorUnits_8 :
    (∃ g, ∃ (d : Ix) (s : State), Ready s g [d] [] none ∧
    s.me.intNil d = true ∧
    s.me.smode = true ∧
    s.inflight = [] ∧
    s.asked = [] ∧
    s.partNum (coreOf s.cur) = 0) :=
  ⟨g0, 4, WS, ready_plain rfl rfl rfl, rfl, rfl, rfl, rfl, rfl⟩

theorem witness_SupervisorUnits_9 :
    (∃ g, ∃ (d : Ix) (s : State), Ready s g [d] [] none ∧
    s.me.intNil d = true ∧
    s.me.smode = true ∧
    s.partNum (coreOf s.cur) ≠ 0) :=
  ⟨g0, 4, { WS with parts := [(1, { Part.reset with cfg := some wPcb })] }, ready_plain rfl rfl rfl, rfl, rfl, by decide⟩

theorem witness_SupervisorUnits_10 :
    (∃ g, ∃ (d : Ix), ∃ a b, ∃ (s : State) (p lev w : Nat) (st : State), ∃ st2 st3, Ready s g [d, a.ix, b.ix] [a, b] none ∧
    s.me.intNil d = true ∧
    s.me.intNil a.ix = true ∧
    s.me.intNil b.ix = true ∧
    s.me.smode = true ∧
    p < 64 ∧
    lev < 4 ∧
    w < 2 ^ 32 ∧
    (s.partNum (coreOf s.cur) = 0 ∨ p = s.partNum (coreOf s.cur)) ∧
    ReadsInt s (s.emptied [a, b]) a.ix (p + 256 * lev : Nat) false st ∧
    ReadsInt s st b.ix w false st2 ∧
    WritesInt s (st2.modQ p lev (fun q => { q with wdBudget := w, wdSince := st2.cycle, wdSent := false })) d 0 false st3) :=
  ⟨g0, 4, o 5, o 1, WS, 0, 0, 7, _, _, _, ready_plain rfl rfl rfl, rfl, rfl, rfl, rfl, by decide, by decide, by decide,
      .inl rfl, reads_int rfl, reads_int rfl, writes_int rfl rfl rfl⟩

theorem witness_SupervisorUnits_11 :
    (∃ g, ∃ (d : Ix), ∃ a b, ∃ (s : State), ∃ v w, ∃ (st : State), ∃ st2 st3, Ready s g [d, a.ix, b.ix] [a, b] none ∧
    s.me.intNil d = true ∧
    s.me.intNil a.ix = true ∧
    s.me.intNil b.ix = true ∧
    s.me.smode = true ∧
    s.partNum (coreOf s.cur) = 0 ∧
    ReadsInt s (s.emptied [a, b]) a.ix v false st ∧
    ReadsInt s st b.ix w false st2 ∧
    (v / 2 ^ 10 ≠ 0 ∨ v / 2 ^ 6 % 4 ≠ 0 ∨ w < 0 ∨ 2 ^ 32 ≤ w) ∧
    WritesInt s st2 d 2 false st3) :=
  ⟨g0, 4, o 19, o 1, WS, 64, 7, _, _, _, ready_plain rfl rfl rfl, rfl, rfl, rfl, rfl, rfl, reads_int rfl, reads_int rfl,
      .inr (.inl (by decide)), writes_int rfl rfl rfl⟩

theorem witness_SupervisorUnits_12 :
    (∃ g a b, ∃ (s : State), ∃ v w unit idx k, ∃ (st : State), ∃ st2, Ready s g [a.ix, b.ix] [a, b] none ∧
    IntName s a.ix ∧
    IntName s b.ix ∧
    s.me.smode = true ∧
    ReadsInt s (s.emptied [a, b]) a.ix v false st ∧
    ReadsInt s st b.ix w false st2 ∧
    CounterIs s v unit idx k) :=
  ⟨g0, o 16, o 1, WS, 16, 7, 0, _, 4, _, _, ready_plain rfl rfl rfl, ⟨_, _, _, _, rfl, rfl⟩, ⟨_, _, _, _, rfl, rfl⟩, rfl,
      reads_int rfl, reads_int rfl, ⟨rfl, .inl ⟨rfl, by decide, rfl⟩⟩⟩

theorem witness_SupervisorUnits_13 :
    (∃ g, ∃ (d : Ix), ∃ a, ∃ (s : State), ∃ v unit idx k, ∃ (st : State), ∃ st2, Ready s g [d, a.ix] [a] none ∧
    s.me.intNil d = true ∧
    IntName s a.ix ∧
    s.me.smode = true ∧
    ReadsInt s (s.emptied [a]) a.ix v false st ∧
    CounterIs s v unit idx k ∧
    let c := s.ctr unit idx k
    c.evt < 2 ^ 10 ∧
    c.modef < 4 ∧
    WritesInt s st d ((if c.ovf then 2 ^ 63 else 0) + (if c.en then 2 ^ 62 else 0) + c.modef * 2 ^ 60 + c.evt : Nat) false st2) :=
  ⟨g0, 4, o 16, WS, 16, 0, _, 4, _, _, ready_plain rfl rfl rfl, rfl, ⟨_, _, _, _, rfl, rfl⟩, rfl, reads_int rfl,
      ⟨rfl, .inl ⟨rfl, by decide, rfl⟩⟩, by decide, by decide, writes_int (y := 0) rfl rfl (by decide)⟩

theorem witness_SupervisorUnits_14 :
    (∃ g, ∃ (d : Ix), ∃ a, ∃ (s : State), ∃ v unit idx k, ∃ (st : State), ∃ st2, Ready s g [d, a.ix] [a] none ∧
    s.me.intNil d = true ∧
    IntName s a.ix ∧
    s.me.smode = true ∧
    ReadsInt s (s.emptied [a]) a.ix v false st ∧
    CounterIs s v unit idx k ∧
    let c := s.ctr unit idx k
    c.evt < 2 ^ 10 ∧
    c.modef < 4 ∧
    (unit = 0 → c.evt ≠ 1) ∧
    c.count < 2 ^ 48 ∧
    WritesInt s st d c.count false st2) :=
  ⟨g0, 4, o 16, WS, 16, 0, _, 4, _, _, ready_plain rfl rfl rfl, rfl, ⟨_, _, _, _, rfl, rfl⟩, rfl, reads_int rfl,
      ⟨rfl, .inl ⟨rfl, by decide, rfl⟩⟩, by decide, by decide, by decide, by decide, writes_int rfl rfl rfl⟩

theorem witness_SupervisorUnits_15 :
    (∃ g, ∃ (d : Ix), ∃ a b, ∃ (s : State) (p bk n : Nat) (st : State), ∃ st2, Ready s g [d, a.ix, b.ix] [a, b] none ∧
    s.me.intNil d = true ∧
    s.me.intNil a.ix = true ∧
    s.me.intNil b.ix = true ∧
    s.me.smode = true ∧
    s.partNum (coreOf s.cur) = 0 ∧
    p < 64 ∧
    bk < 4096 ∧
    n < 512 ∧
    ReadsInt s (s.emptied [a, b]) a.ix (bk + 4096 * p : Nat) false st ∧
    ReadsInt s st b.ix n false st2) :=
  ⟨g0, 4, o 1, o 2, WS, 0, 7, 2, _, _, ready_plain rfl rfl rfl, rfl, rfl, rfl, rfl, rfl, by decide, by decide, by decide,
      reads_int rfl, reads_int rfl⟩

theorem witness_SupervisorUnits_16 :
    (∃ g, ∃ (d : Ix), ∃ a, ∃ (s : State) (p bk : Nat) (st : State), Ready s g [d, a.ix] [a] none ∧
    s.me.intNil d = true ∧
    s.me.intNil a.ix = true ∧
    s.me.smode = true ∧
    s.partNum (coreOf s.cur) = 0 ∧
    p < 64 ∧
    bk < 4096 ∧
    ReadsInt s (s.emptied [a]) a.ix (bk + 4096 * p : Nat) false st) :=
  ⟨g0, 4, o 1, WS, 0, 7, _, ready_plain rfl rfl rfl, rfl, rfl, rfl, rfl, by decide, by decide, reads_int rfl⟩

theorem witness_SupervisorUnits_17 :
    (∃ (s : State), ∃ (bk n : Nat) (e : Word × Word), (s.bank bk).ring[n]? = some e) :=
  ⟨{ W with banks := [(0, { Bank.reset with ring := [(0, 0)] })] }, 0, 0, _, rfl⟩

theorem witness_SupervisorUnits :
    (∃ g, ∃ (d : Ix), ∃ a, ∃ (s : State), ∃ v, ∃ (st : State), Ready s g [d, a.ix] [a] none ∧
    s.me.intNil d = true ∧
    s.me.intNil a.ix = true ∧
    s.me.smode = true ∧
    ReadsInt s (s.emptied [a]) a.ix v false st ∧
    canonical (umod 64 v) = false) ∧
    (∃ g, ∃ (d : Ix), ∃ a, ∃ (s : State), ∃ v, ∃ (st : State), Ready s g [d, a.ix] [a] none ∧
    s.me.intNil d = true ∧
    s.me.intNil a.ix = true ∧
    s.me.smode = true ∧
    ReadsInt s (s.emptied [a]) a.ix v false st ∧
    canonical (umod 64 v) = true ∧
    s.inflight = [] ∧
    s.asked = []) ∧
    (∃ (s : State) (id : Nat), ∃ d uses, mfind id s.inflight = some (.landUses d uses) ∧
    s.repacking (coreOf d.tid) = false ∧
    ((∃ e ∈ s.inflight, e.1 ∈ uses) ∨ (∃ a ∈ s.asked, a.ans = none ∧ a.tag ∈ uses))) ∧
    (∃ (s : State) (id : Nat), ∃ d uses, mfind id s.inflight = some (.landUses d uses) ∧
    s.repacking (coreOf d.tid) = false ∧
    (∀ e ∈ s.inflight, e.1 ∉ uses) ∧
    (∀ a ∈ s.asked, a.ans = none → a.tag ∉ uses)) ∧
    (∃ g, ∃ (d : Ix), ∃ a b, ∃ (s : State), ∃ v w, ∃ (st : State), ∃ st2, Ready s g [d, a.ix, b.ix] [a, b] none ∧
    s.me.intNil d = true ∧
    s.me.intNil a.ix = true ∧
    s.me.intNil b.ix = true ∧
    s.me.smode = true ∧
    ReadsInt s (s.emptied [a, b]) a.ix v false st ∧
    ReadsInt s st b.ix w false st2 ∧
    (canonical (umod 64 v) = false ∨ w < 1 ∨ 2 ^ 56 ≤ w)) ∧
    (∃ g, ∃ (d : Ix), ∃ a b, ∃ (s : State), ∃ v w, ∃ (st : State), ∃ st2, Ready s g [d, a.ix, b.ix] [a, b] none ∧
    s.me.intNil d = true ∧
    s.me.intNil a.ix = true ∧
    s.me.intNil b.ix = true ∧
    s.me.smode = true ∧
    ReadsInt s (s.emptied [a, b]) a.ix v false st ∧
    ReadsInt s st b.ix w false st2 ∧
    canonical (umod 64 v) = true ∧
    1 ≤ w ∧
    w < 2 ^ 56 ∧
    s.inflight = [] ∧
    s.asked = [] ∧
    ∃ va, umod 64 v ≤ va ∧
    va < umod 64 v + w) ∧
    (∃ g, ∃ (d : Ix) (s : State), Ready s g [d] [] none ∧
    s.me.intNil d = true ∧
    s.me.smode = true ∧
    s.inflight = [] ∧
    s.asked = []) ∧
    (∃ g, ∃ (d : Ix) (s : State), Ready s g [d] [] none ∧
    s.me.intNil d = true ∧
    s.me.smode = true ∧
    s.inflight = [] ∧
    s.asked = [] ∧
    s.partNum (coreOf s.cur) = 0) ∧
    (∃ g, ∃ (d : Ix) (s : State), Ready s g [d] [] none ∧
    s.me.intNil d = true ∧
    s.me.smode = true ∧
    s.partNum (coreOf s.cur) ≠ 0) ∧
    (∃ g, ∃ (d : Ix), ∃ a b, ∃ (s : State) (p lev w : Nat) (st : State), ∃ st2 st3, Ready s g [d, a.ix, b.ix] [a, b] none ∧
    s.me.intNil d = true ∧
    s.me.intNil a.ix = true ∧
    s.me.intNil b.ix = true ∧
    s.me.smode = true ∧
    p < 64 ∧
    lev < 4 ∧
    w < 2 ^ 32 ∧
    (s.partNum (coreOf s.cur) = 0 ∨ p = s.partNum (coreOf s.cur)) ∧
    ReadsInt s (s.emptied [a, b]) a.ix (p + 256 * lev : Nat) false st ∧
    ReadsInt s st b.ix w false st2 ∧
    WritesInt s (st2.modQ p lev (fun q => { q with wdBudget := w, wdSince := st2.cycle, wdSent := false })) d 0 false st3) ∧
    (∃ g, ∃ (d : Ix), ∃ a b, ∃ (s : State), ∃ v w, ∃ (st : State), ∃ st2 st3, Ready s g [d, a.ix, b.ix] [a, b] none ∧
    s.me.intNil d = true ∧
    s.me.intNil a.ix = true ∧
    s.me.intNil b.ix = true ∧
    s.me.smode = true ∧
    s.partNum (coreOf s.cur) = 0 ∧
    ReadsInt s (s.emptied [a, b]) a.ix v false st ∧
    ReadsInt s st b.ix w false st2 ∧
    (v / 2 ^ 10 ≠ 0 ∨ v / 2 ^ 6 % 4 ≠ 0 ∨ w < 0 ∨ 2 ^ 32 ≤ w) ∧
    WritesInt s st2 d 2 false st3) ∧
    (∃ g a b, ∃ (s : State), ∃ v w unit idx k, ∃ (st : State), ∃ st2, Ready s g [a.ix, b.ix] [a, b] none ∧
    IntName s a.ix ∧
    IntName s b.ix ∧
    s.me.smode = true ∧
    ReadsInt s (s.emptied [a, b]) a.ix v false st ∧
    ReadsInt s st b.ix w false st2 ∧
    CounterIs s v unit idx k) ∧
    (∃ g, ∃ (d : Ix), ∃ a, ∃ (s : State), ∃ v unit idx k, ∃ (st : State), ∃ st2, Ready s g [d, a.ix] [a] none ∧
    s.me.intNil d = true ∧
    IntName s a.ix ∧
    s.me.smode = true ∧
    ReadsInt s (s.emptied [a]) a.ix v false st ∧
    CounterIs s v unit idx k ∧
    let c := s.ctr unit idx k
    c.evt < 2 ^ 10 ∧
    c.modef < 4 ∧
    WritesInt s st d ((if c.ovf then 2 ^ 63 else 0) + (if c.en then 2 ^ 62 else 0) + c.modef * 2 ^ 60 + c.evt : Nat) false st2) ∧
    (∃ g, ∃ (d : Ix), ∃ a, ∃ (s : State), ∃ v unit idx k, ∃ (st : State), ∃ st2, Ready s g [d, a.ix] [a] none ∧
    s.me.intNil d = true ∧
    IntName s a.ix ∧
    s.me.smode = true ∧
    ReadsInt s (s.emptied [a]) a.ix v false st ∧
    CounterIs s v unit idx k ∧
    let c := s.ctr unit idx k
    c.evt < 2 ^ 10 ∧
    c.modef < 4 ∧
    (unit = 0 → c.evt ≠ 1) ∧
    c.count < 2 ^ 48 ∧
    WritesInt s st d c.count false st2) ∧
    (∃ g, ∃ (d : Ix), ∃ a b, ∃ (s : State) (p bk n : Nat) (st : State), ∃ st2, Ready s g [d, a.ix, b.ix] [a, b] none ∧
    s.me.intNil d = true ∧
    s.me.intNil a.ix = true ∧
    s.me.intNil b.ix = true ∧
    s.me.smode = true ∧
    s.partNum (coreOf s.cur) = 0 ∧
    p < 64 ∧
    bk < 4096 ∧
    n < 512 ∧
    ReadsInt s (s.emptied [a, b]) a.ix (bk + 4096 * p : Nat) false st ∧
    ReadsInt s st b.ix n false st2) ∧
    (∃ g, ∃ (d : Ix), ∃ a, ∃ (s : State) (p bk : Nat) (st : State), Ready s g [d, a.ix] [a] none ∧
    s.me.intNil d = true ∧
    s.me.intNil a.ix = true ∧
    s.me.smode = true ∧
    s.partNum (coreOf s.cur) = 0 ∧
    p < 64 ∧
    bk < 4096 ∧
    ReadsInt s (s.emptied [a]) a.ix (bk + 4096 * p : Nat) false st) ∧
    (∃ (s : State), ∃ (bk n : Nat) (e : Word × Word), (s.bank bk).ring[n]? = some e) :=
  ⟨witness_SupervisorUnits_1, witness_SupervisorUnits_2, witness_SupervisorUnits_3, witness_SupervisorUnits_4, witness_SupervisorUnits_5, witness_SupervisorUnits_6, witness_SupervisorUnits_7, witness_SupervisorUnits_8, witness_SupervisorUnits_9, witness_SupervisorUnits_10, witness_SupervisorUnits_11, witness_SupervisorUnits_12, witness_SupervisorUnits_13, witness_SupervisorUnits_14, witness_SupervisorUnits_15, witness_SupervisorUnits_16, witness_SupervisorUnits_17⟩

theorem witness_ErrorsAndLimits_1 :
    (∃ (pa : Nat), isDev pa = true) :=
  ⟨0, rfl⟩

theorem witness_ErrorsAndLimits_2 :
    (∃ (c o : Nat), c < 4096 ∧
    o < 2 ^ 18 ∧
    ∃ d x, lsWord d x ≠ lsWord c o) :=
  ⟨0, 0, by decide, by decide, 1, 0, by decide⟩

theorem witness_ErrorsAndLimits_3 :
    (∃ (s : State) (t : Tid) (j : Nat), ∃ n, coreOf t < 4096 ∧
    (s.slot t).names[j]? = some n ∧
    ∃ v, v ≠ t) :=
  ⟨W, 0, 0, _, by decide, rfl, 1, by decide⟩

theorem witness_ErrorsAndLimits_4 :
    (∃ (s : State) (c : Nat), c < 4096 ∧
    (s.core c).offline = false ∧
    (∀ e ∈ s.cores, e.2.repack = none)) :=
  ⟨W, 0, by decide, rfl, fun _ he => absurd he List.not_mem_nil⟩

theorem witness_ErrorsAndLimits_5 :
    (∃ (s : State) (c : Nat), c < 4096 ∧
    (s.core c).offline = false ∧
    s.repacking c = true) :=
  ⟨{ W with cores := [(0, { Core.reset with repack := some ⟨0, 0, 100, [], none⟩ })] }, 0, by decide, rfl, rfl⟩

theorem witness_ErrorsAndLimits_6 :
    (∃ site, siteHere site = true ∧
    site ≠ .hostLink) :=
  ⟨.mem 0, rfl, nofun⟩

theorem witness_ErrorsAndLimits_7 :
    (∃ site, siteHere site = true ∧
    site = .hostLink) :=
  ⟨.hostLink, rfl, rfl⟩

theorem witness_ErrorsAndLimits_8 :
    (∃ (s : State), ∃ q k evt c, ((s.qtr q).ctrs.map (·.1)).Nodup ∧
    s.ctr 2 q k = c ∧
    c.count = 0 ∧
    ((c.old = none ∧ c.en = true ∧ c.modef = 0 ∧ c.evt = evt) ∨ c.old = some (s.cycle, true, 0, evt))) :=
  ⟨{ W with qtrs := [(0, { Quarter.reset with ctrs := [(0, ⟨true, 0, 0x21, false, 0, none⟩)] })] }, 0, 0, 0x21, _, by decide, rfl, rfl, .inl (by decide)⟩

theorem witness_ErrorsAndLimits_9 :
    (∃ site, siteHere site = true) :=
  ⟨.mem 0, rfl⟩

theorem witness_ErrorsAndLimits_10 :
    (∃ (s : State), ∃ c, c < 4096 ∧
    (s.core c).offline = true) :=
  ⟨{ W with cores := [(0, { Core.reset with offline := true })] }, 0, by decide, rfl⟩

theorem witness_ErrorsAndLimits_11 :
    (∃ (s : State), ∃ c, c < 4096 ∧
    (s.core c).offline = false ∧
    s.launches = [] ∧
    (s.core c).repack = none ∧
    (s.part 0).cfg.isSome = true) :=
  ⟨W, 0, by decide, rfl, rfl, rfl, rfl⟩

theorem witness_ErrorsAndLimits_12 :
    (∃ (s : State), ∃ q, q < 4 ∧
    (s.qtr q).limAt ≤ s.cycle / 16 + 1 ∧
    ∃ r, s.cycle / 16 < r) :=
  ⟨W, 0, by decide, by decide, 1, by decide⟩

theorem witness_ErrorsAndLimits_13 :
    (∃ (s : State), ∃ q, q < 4 ∧
    (s.qtr q).limAt ≤ s.cycle / 16 + 1 ∧
    ∃ j, j ≠ q) :=
  ⟨W, 0, by decide, by decide, 1, by decide⟩

theorem witness_ErrorsAndLimits_14 :
    (∃ (s : State), ∃ q, q < 4 ∧
    (s.qtr q).limAt ≤ s.cycle / 16 + 1 ∧
    ∃ r, s.cycle / 16 < r) :=
  ⟨W, 0, by decide, by decide, 1, by decide⟩

theorem witness_ErrorsAndLimits_15 :
    (∃ (s : State), ∃ q, q < 4 ∧
    (s.qtr q).limAt ≤ s.cycle / 16 + 1 ∧
    ∃ j, j ≠ q) :=
  ⟨W, 0, by decide, by decide, 1, by decide⟩

theorem witness_ErrorsAndLimits_16 :
    (∃ (s : State), ∃ t c, s.turnOf t = some c) :=
  ⟨W, 0, _, rfl⟩

theorem witness_ErrorsAndLimits :
    (∃ (pa : Nat), isDev pa = true) ∧
    (∃ (c o : Nat), c < 4096 ∧
    o < 2 ^ 18 ∧
    ∃ d x, lsWord d x ≠ lsWord c o) ∧
    (∃ (s : State) (t : Tid) (j : Nat), ∃ n, coreOf t < 4096 ∧
    (s.slot t).names[j]? = some n ∧
    ∃ v, v ≠ t) ∧
    (∃ (s : State) (c : Nat), c < 4096 ∧
    (s.core c).offline = false ∧
    (∀ e ∈ s.cores, e.2.repack = none)) ∧
    (∃ (s : State) (c : Nat), c < 4096 ∧
    (s.core c).offline = false ∧
    s.repacking c = true) ∧
    (∃ site, siteHere site = true ∧
    site ≠ .hostLink) ∧
    (∃ site, siteHere site = true ∧
    site = .hostLink) ∧
    (∃ (s : State), ∃ q k evt c, ((s.qtr q).ctrs.map (·.1)).Nodup ∧
    s.ctr 2 q k = c ∧
    c.count = 0 ∧
    ((c.old = none ∧ c.en = true ∧ c.modef = 0 ∧ c.evt = evt) ∨ c.old = some (s.cycle, true, 0, evt))) ∧
    (∃ site, siteHere site = true) ∧
    (∃ (s : State), ∃ c, c < 4096 ∧
    (s.core c).offline = true) ∧
    (∃ (s : State), ∃ c, c < 4096 ∧
    (s.core c).offline = false ∧
    s.launches = [] ∧
    (s.core c).repack = none ∧
    (s.part 0).cfg.isSome = true) ∧
    (∃ (s : State), ∃ q, q < 4 ∧
    (s.qtr q).limAt ≤ s.cycle / 16 + 1 ∧
    ∃ r, s.cycle / 16 < r) ∧
    (∃ (s : State), ∃ q, q < 4 ∧
    (s.qtr q).limAt ≤ s.cycle / 16 + 1 ∧
    ∃ j, j ≠ q) ∧
    (∃ (s : State), ∃ q, q < 4 ∧
    (s.qtr q).limAt ≤ s.cycle / 16 + 1 ∧
    ∃ r, s.cycle / 16 < r) ∧
    (∃ (s : State), ∃ q, q < 4 ∧
    (s.qtr q).limAt ≤ s.cycle / 16 + 1 ∧
    ∃ j, j ≠ q) ∧
    (∃ (s : State), ∃ t c, s.turnOf t = some c) :=
  ⟨witness_ErrorsAndLimits_1, witness_ErrorsAndLimits_2, witness_ErrorsAndLimits_3, witness_ErrorsAndLimits_4, witness_ErrorsAndLimits_5, witness_ErrorsAndLimits_6, witness_ErrorsAndLimits_7, witness_ErrorsAndLimits_8, witness_ErrorsAndLimits_9, witness_ErrorsAndLimits_10, witness_ErrorsAndLimits_11, witness_ErrorsAndLimits_12, witness_ErrorsAndLimits_13, witness_ErrorsAndLimits_14, witness_ErrorsAndLimits_15, witness_ErrorsAndLimits_16⟩

theorem witness_PeerPorts_1 :
    (∃ f : Flit, f.seq < 4096 ∧
    f.kind < 16 ∧
    f.ack < 4096 ∧
    f.src < 1024 ∧
    f.dst < 1024 ∧
    f.vc < 4 ∧
    f.words.length ≤ 29 ∧
    ∃ (k : Nat) (w : Word × Bool), f.words[k]? = some w) :=
  ⟨wFlit 0 1 [(7, false)], by decide, by decide, by decide, by decide, by decide, by decide, by decide, 0, _, rfl⟩

theorem witness_PeerPorts_2 :
    (∃ bs f, Flit.of bs = some f) :=
  ⟨_, wFlit 0 1 [], flit_of (by decide +kernel) (by decide +kernel)⟩

theorem witness_PeerPorts_3 :
    (∃ (s : State), ∃ p, (s.port p).up = false) :=
  ⟨W, 0, rfl⟩

theorem witness_PeerPorts_4 :
    (∃ (s : State), ∃ p bs, (s.port p).up = true ∧
    Flit.of bs = none) :=
  ⟨WP [] 0, 0, [], rfl, flit_bad⟩

theorem witness_PeerPorts_5 :
    (∃ (s : State), ∃ p bs f, (s.port p).up = true ∧
    Flit.of bs = some f ∧
    f.kind ≠ 0 ∧
    f.kind ≠ 5 ∧
    f.seq ≠ (s.port p).rxSeq) :=
  ⟨WP [] 0, 0, _, wFlit 1 1 [], rfl, flit_of (by decide +kernel) (by decide +kernel), by decide, by decide, by decide⟩

theorem witness_PeerPorts_6 :
    (∃ (s : State), ∃ p bs f, (s.port p).up = true ∧
    Flit.of bs = some f ∧
    f.kind = 4 ∧
    f.seq = (s.port p).rxSeq ∧
    f.dst = s.devNum) :=
  ⟨WP [] 0, 0, _, wFlit 0 4 [], rfl, flit_of (by decide +kernel) (by decide +kernel), rfl, rfl, rfl⟩

theorem witness_PeerPorts_7 :
    (∃ (s : State), ∃ p bs f w0 w1 v, (s.port p).up = true ∧
    Flit.of bs = some f ∧
    f.kind = 1 ∧
    f.seq = (s.port p).rxSeq ∧
    f.dst = s.devNum ∧
    f.words = [(w0, false), (w1, false), v] ∧
    BitVec.toNat w0 / 2 ^ 8 % 2 ^ 8 = 16 ∧
    BitVec.toNat w0 / 2 ^ 6 % 2 = 0 ∧
    BitVec.toNat w0 / 2 ^ 16 % 2 ^ 16 = 8 ∧
    BitVec.toNat w1 % 8 = 0 ∧
    isDev (BitVec.toNat w1) = true) :=
  ⟨WP [] 0, 0, _, wFlit 0 1 [(0x81000, false), (0xA000, false), (7, false)], 0x81000, 0xA000, (7, false), rfl,
      flit_of (by decide +kernel) (by decide +kernel), rfl, rfl, rfl, rfl, by decide, by decide, by decide, by decide, by decide⟩

theorem witness_PeerPorts_8 :
    (∃ (p : Port) (k : Nat) (f : KeptFlit), p.unacked[k]? = some f ∧
    (∀ (j : Nat) (g : KeptFlit), j < k → p.unacked[j]? = some g → g.flit.seq ≠ f.flit.seq) ∧
    p.queue = []) :=
  ⟨{ Port.reset with unacked := [wKept 0 0 none] }, 0, _, rfl, fun j _ h => absurd h (Nat.not_lt_zero j), rfl⟩

theorem witness_PeerPorts_9 :
    (∃ (p : Port), p.up = true ∧
    p.queue = [] ∧
    p.unacked.length < 512) :=
  ⟨{ Port.reset with up := true }, rfl, rfl, by decide⟩

theorem witness_PeerPorts_10 :
    (∃ (p : Port), 512 ≤ p.unacked.length) :=
  ⟨{ Port.reset with unacked := List.replicate 512 (wKept 0 0 none) }, Nat.le_of_eq List.length_replicate.symm⟩

theorem witness_PeerPorts_11 :
    (∃ (s : State), ∃ (k : KeptFlit) (i : Nat) (p : Port), s.portTo k.flit.dst = some (i, p)) :=
  ⟨WP [] 0, wKept 1 0 none, _, _, rfl⟩

theorem witness_PeerPorts_12 :
    (∃ (s : State), ∃ (k : KeptFlit) (c : Capsule), s.portTo k.flit.dst = none ∧
    k.capsule = some c) :=
  ⟨W, wKept 1 0 (some (wCaps 0 0 0)), _, rfl, rfl⟩

theorem witness_PeerPorts_13 :
    (∃ (s : State), ∃ p k ks, (s.port p).up = true ∧
    (s.port p).unacked = k :: ks ∧
    s.cycle < (s.port p).since + 2 * Config.cyclesPerUs) :=
  ⟨WP [wKept 1 0 none] 0, 0, _, _, rfl, rfl, by decide⟩

theorem witness_PeerPorts_14 :
    (∃ (s : State), ∃ p k ks, (s.port p).up = true ∧
    (s.port p).unacked = k :: ks ∧
    (s.port p).since + 2 * Config.cyclesPerUs ≤ s.cycle ∧
    k.replays < 8 ∧
    ks.length < 512) :=
  ⟨WP [wKept 1 0 none] 100000, 0, _, _, rfl, rfl, by decide, by decide, by decide⟩

theorem witness_PeerPorts_15 :
    (∃ (s : State), ∃ p k ks, (s.port p).up = true ∧
    (s.port p).unacked = k :: ks ∧
    (s.port p).since + 2 * Config.cyclesPerUs ≤ s.cycle ∧
    8 ≤ k.replays) :=
  ⟨WP [wKept 1 8 none] 100000, 0, _, _, rfl, rfl, by decide, by decide⟩

theorem witness_PeerPorts_16 :
    (∃ (s : State), ∃ p, (s.port p).up = true) :=
  ⟨WP [] 0, 0, rfl⟩

theorem witness_PeerPorts_17 :
    (∃ (s : State), ∃ p, p < 36 ∧
    (s.port p).up = false) :=
  ⟨W, 0, by decide, rfl⟩

theorem witness_PeerPorts :
    (∃ f : Flit, f.seq < 4096 ∧
    f.kind < 16 ∧
    f.ack < 4096 ∧
    f.src < 1024 ∧
    f.dst < 1024 ∧
    f.vc < 4 ∧
    f.words.length ≤ 29 ∧
    ∃ (k : Nat) (w : Word × Bool), f.words[k]? = some w) ∧
    (∃ bs f, Flit.of bs = some f) ∧
    (∃ (s : State), ∃ p, (s.port p).up = false) ∧
    (∃ (s : State), ∃ p bs, (s.port p).up = true ∧
    Flit.of bs = none) ∧
    (∃ (s : State), ∃ p bs f, (s.port p).up = true ∧
    Flit.of bs = some f ∧
    f.kind ≠ 0 ∧
    f.kind ≠ 5 ∧
    f.seq ≠ (s.port p).rxSeq) ∧
    (∃ (s : State), ∃ p bs f, (s.port p).up = true ∧
    Flit.of bs = some f ∧
    f.kind = 4 ∧
    f.seq = (s.port p).rxSeq ∧
    f.dst = s.devNum) ∧
    (∃ (s : State), ∃ p bs f w0 w1 v, (s.port p).up = true ∧
    Flit.of bs = some f ∧
    f.kind = 1 ∧
    f.seq = (s.port p).rxSeq ∧
    f.dst = s.devNum ∧
    f.words = [(w0, false), (w1, false), v] ∧
    BitVec.toNat w0 / 2 ^ 8 % 2 ^ 8 = 16 ∧
    BitVec.toNat w0 / 2 ^ 6 % 2 = 0 ∧
    BitVec.toNat w0 / 2 ^ 16 % 2 ^ 16 = 8 ∧
    BitVec.toNat w1 % 8 = 0 ∧
    isDev (BitVec.toNat w1) = true) ∧
    (∃ (p : Port) (k : Nat) (f : KeptFlit), p.unacked[k]? = some f ∧
    (∀ (j : Nat) (g : KeptFlit), j < k → p.unacked[j]? = some g → g.flit.seq ≠ f.flit.seq) ∧
    p.queue = []) ∧
    (∃ (p : Port), p.up = true ∧
    p.queue = [] ∧
    p.unacked.length < 512) ∧
    (∃ (p : Port), 512 ≤ p.unacked.length) ∧
    (∃ (s : State), ∃ (k : KeptFlit) (i : Nat) (p : Port), s.portTo k.flit.dst = some (i, p)) ∧
    (∃ (s : State), ∃ (k : KeptFlit) (c : Capsule), s.portTo k.flit.dst = none ∧
    k.capsule = some c) ∧
    (∃ (s : State), ∃ p k ks, (s.port p).up = true ∧
    (s.port p).unacked = k :: ks ∧
    s.cycle < (s.port p).since + 2 * Config.cyclesPerUs) ∧
    (∃ (s : State), ∃ p k ks, (s.port p).up = true ∧
    (s.port p).unacked = k :: ks ∧
    (s.port p).since + 2 * Config.cyclesPerUs ≤ s.cycle ∧
    k.replays < 8 ∧
    ks.length < 512) ∧
    (∃ (s : State), ∃ p k ks, (s.port p).up = true ∧
    (s.port p).unacked = k :: ks ∧
    (s.port p).since + 2 * Config.cyclesPerUs ≤ s.cycle ∧
    8 ≤ k.replays) ∧
    (∃ (s : State), ∃ p, (s.port p).up = true) ∧
    (∃ (s : State), ∃ p, p < 36 ∧
    (s.port p).up = false) :=
  ⟨witness_PeerPorts_1, witness_PeerPorts_2, witness_PeerPorts_3, witness_PeerPorts_4, witness_PeerPorts_5, witness_PeerPorts_6, witness_PeerPorts_7, witness_PeerPorts_8, witness_PeerPorts_9, witness_PeerPorts_10, witness_PeerPorts_11, witness_PeerPorts_12, witness_PeerPorts_13, witness_PeerPorts_14, witness_PeerPorts_15, witness_PeerPorts_16, witness_PeerPorts_17⟩

theorem witness_HostInterface_1 :
    (∃ pa n, 0 < n ∧
    isDev pa = true ∧
    isDev (pa + (n - 1)) = true) :=
  ⟨0, 8, by decide, rfl, by decide⟩

theorem witness_HostInterface_2 :
    (∃ (s : State), ∃ off, ∃ (v : Word), ((off = 0 ∧ v.toNat % 2 ^ 16 = 0x5709 ∧ v.toNat / 2 ^ 16 = 0xC0) ∨
      (off = 8 ∧ v.toNat = s.fwstat % 16) ∨ (off = 16 ∧ v = s.mchkstat) ∨ (∃ k < 8, off = 64 + 8 * k ∧ v = nthW s.mchkrec k))) :=
  ⟨W, 0, 0xC05709, .inl ⟨rfl, by decide, by decide⟩⟩

theorem witness_HostInterface_3 :
    (∃ (pa : Nat) (bs : List Byte), bs ≠ [] ∧
    isDev pa = true ∧
    isDev (pa + (bs.length - 1)) = true ∧
    ∃ (k : Nat) (b : Byte), bs[k]? = some b) :=
  ⟨0, [7], by decide, rfl, by decide, 0, 7, rfl⟩

theorem witness_HostInterface_4 :
    (∃ (pa : Nat) (bs : List Byte), bs ≠ [] ∧
    isDev pa = true ∧
    isDev (pa + (bs.length - 1)) = true ∧
    ∃ w, pa ≤ 8 * w ∧
    8 * w + 8 ≤ pa + bs.length) :=
  ⟨0, List.replicate 8 0, by decide, rfl, by decide, 0, by decide, by decide⟩

theorem witness_HostInterface_5 :
    (∃ (s : State), ∃ ws rest, s.mchkq = ws :: rest) :=
  ⟨{ W with mchkq := [[]] }, _, _, rfl⟩

theorem witness_HostInterface_6 :
    (∃ (s : State), 1 ≤ s.spdm.state) :=
  ⟨{ W with spdm := ⟨1, [], []⟩ }, by decide⟩

theorem witness_HostInterface_7 :
    (∃ (s : State), 2 ≤ s.spdm.state) :=
  ⟨{ W with spdm := ⟨2, [], []⟩ }, by decide⟩

theorem witness_HostInterface_8 :
    (∃ (s : State), 3 ≤ s.spdm.state) :=
  ⟨{ W with spdm := ⟨3, [], []⟩ }, by decide⟩

theorem witness_HostInterface_9 :
    (∃ (s : State), ∃ q : List Byte, 3 ≤ s.spdm.state ∧
    let off := ((q[4]?).getD 0).toNat + 256 * ((q[5]?).getD 0).toNat
    let rest := certChain.length - off
    (q[2]?).getD 0 = 0 ∧
    0 < rest) :=
  ⟨{ W with spdm := ⟨3, [], []⟩ }, [0, 0, 0], by decide, rfl, by simp [certChain]⟩

theorem witness_HostInterface_10 :
    (∃ (s : State), ∃ q : List Byte, 3 ≤ s.spdm.state ∧
    let off := ((q[4]?).getD 0).toNat + 256 * ((q[5]?).getD 0).toNat
    let rest := certChain.length - off
    ((q[2]?).getD 0 ≠ 0 ∨ rest = 0)) :=
  ⟨{ W with spdm := ⟨3, [], []⟩ }, [0, 0, 1], by decide, .inl (by decide)⟩

theorem witness_HostInterface_11 :
    (∃ (s : State), ∃ q : List Byte, 3 ≤ s.spdm.state ∧
    let op := ((q[3]?).getD 0).toNat
    (q[2]?).getD 0 = 0 ∧
    op = 0) :=
  ⟨{ W with spdm := ⟨3, [], []⟩ }, [0, 0, 0, 0], by decide, by decide⟩

theorem witness_HostInterface_12 :
    (∃ (s : State), ∃ q : List Byte, 3 ≤ s.spdm.state ∧
    let op := ((q[3]?).getD 0).toNat
    (q[2]?).getD 0 = 0 ∧
    (op = 1 ∨ op = 0xFF)) :=
  ⟨{ W with spdm := ⟨3, [], []⟩ }, [0, 0, 0, 0xFF], by decide, by decide⟩

theorem witness_HostInterface_13 :
    (∃ (s : State), ∃ q : List Byte, 3 ≤ s.spdm.state ∧
    let op := ((q[3]?).getD 0).toNat
    ((q[2]?).getD 0 ≠ 0 ∨ (1 < op ∧ op ≠ 0xFF))) :=
  ⟨{ W with spdm := ⟨3, [], []⟩ }, [0, 0, 0, 2], by decide, by decide⟩

theorem witness_HostInterface_14 :
    (∃ (s : State), ∃ q : List Byte, 3 ≤ s.spdm.state ∧
    s.spdm.meas.length = 144 ∧
    let op := ((q[3]?).getD 0).toNat
    op = 0) :=
  ⟨{ W with spdm := ⟨3, List.replicate 144 0, []⟩ }, [0, 0, 0, 0], by decide, List.length_replicate, by decide⟩

theorem witness_HostInterface_15 :
    (∃ (s : State), ∃ q : List Byte, 3 ≤ s.spdm.state ∧
    s.spdm.meas.length = 144 ∧
    let op := ((q[3]?).getD 0).toNat
    op = 0xFF) :=
  ⟨{ W with spdm := ⟨3, List.replicate 144 0, []⟩ }, [0, 0, 0, 0xFF], by decide, List.length_replicate, by decide⟩

theorem witness_HostInterface_16 :
    (∃ (s : State), ∃ q : List Byte, 3 ≤ s.spdm.state ∧
    s.spdm.meas.length = 144 ∧
    let op := ((q[3]?).getD 0).toNat
    ∃ k, op = k ∧
    1 ≤ k ∧
    k ≤ 3) :=
  ⟨{ W with spdm := ⟨3, List.replicate 144 0, []⟩ }, [0, 0, 0, 1], by decide, List.length_replicate, 1, by decide, by decide,
      by decide⟩

theorem witness_HostInterface_17 :
    (∃ (s : State), ∃ q : List Byte, 3 ≤ s.spdm.state ∧
    s.spdm.meas.length = 144 ∧
    let op := ((q[3]?).getD 0).toNat
    3 < op ∧
    op ≠ 0xFF) :=
  ⟨{ W with spdm := ⟨3, List.replicate 144 0, []⟩ }, [0, 0, 0, 4], by decide, List.length_replicate, by decide, by decide⟩

theorem witness_HostInterface_18 :
    (∃ (s : State), s.spdm.state = 0) :=
  ⟨W, rfl⟩

theorem witness_HostInterface_19 :
    (∃ (s : State), ∃ img, s.boot = some img ∧
    s.turnCore = 0 ∧
    (∀ pa n rest, s.inputs ≠ .hostRead pa n :: rest) ∧
    (img = none ∨ ∃ m, img = some m ∧ (m.edOk = false ∨ m.mlOk = false ∨ parsePcb m.pcb = none))) :=
  ⟨{ W with boot := some none }, none, rfl, rfl, (by intro _ _ _ h; cases h), .inl rfl⟩

theorem witness_HostInterface_20 :
    (∃ (s : State), ∃ img, s.boot = some img ∧
    s.turnCore = 0 ∧
    (∀ pa n rest, s.inputs ≠ .hostRead pa n :: rest) ∧
    ∃ m g, img = some m ∧
    m.edOk = true ∧
    m.mlOk = true ∧
    parsePcb m.pcb = some g) :=
  ⟨{ W with boot := some (some ⟨[], true, true, 0, wPcbWords false, [], []⟩) }, _, rfl, rfl,
      (by intro _ _ _ h; cases h), _, _, rfl, rfl, rfl, rfl⟩

theorem witness_HostInterface_21 :
    (∃ (s : State), ∃ g ws, (s.part 0).cfg = some g ∧
    g.htab ≠ 0 ∧
    s.devWords 0 true g.htab.toNat 128 = .ok ws) :=
  ⟨W, wPcb, [0x4000, 0x9800, 0x4000, 0x8000] ++ List.replicate 124 0, rfl, by decide, ok_is (by decide +kernel)⟩

theorem witness_HostInterface :
    (∃ pa n, 0 < n ∧
    isDev pa = true ∧
    isDev (pa + (n - 1)) = true) ∧
    (∃ (s : State), ∃ off, ∃ (v : Word), ((off = 0 ∧ v.toNat % 2 ^ 16 = 0x5709 ∧ v.toNat / 2 ^ 16 = 0xC0) ∨
      (off = 8 ∧ v.toNat = s.fwstat % 16) ∨ (off = 16 ∧ v = s.mchkstat) ∨ (∃ k < 8, off = 64 + 8 * k ∧ v = nthW s.mchkrec k))) ∧
    (∃ (pa : Nat) (bs : List Byte), bs ≠ [] ∧
    isDev pa = true ∧
    isDev (pa + (bs.length - 1)) = true ∧
    ∃ (k : Nat) (b : Byte), bs[k]? = some b) ∧
    (∃ (pa : Nat) (bs : List Byte), bs ≠ [] ∧
    isDev pa = true ∧
    isDev (pa + (bs.length - 1)) = true ∧
    ∃ w, pa ≤ 8 * w ∧
    8 * w + 8 ≤ pa + bs.length) ∧
    (∃ (s : State), ∃ ws rest, s.mchkq = ws :: rest) ∧
    (∃ (s : State), 1 ≤ s.spdm.state) ∧
    (∃ (s : State), 2 ≤ s.spdm.state) ∧
    (∃ (s : State), 3 ≤ s.spdm.state) ∧
    (∃ (s : State), ∃ q : List Byte, 3 ≤ s.spdm.state ∧
    let off := ((q[4]?).getD 0).toNat + 256 * ((q[5]?).getD 0).toNat
    let rest := certChain.length - off
    (q[2]?).getD 0 = 0 ∧
    0 < rest) ∧
    (∃ (s : State), ∃ q : List Byte, 3 ≤ s.spdm.state ∧
    let off := ((q[4]?).getD 0).toNat + 256 * ((q[5]?).getD 0).toNat
    let rest := certChain.length - off
    ((q[2]?).getD 0 ≠ 0 ∨ rest = 0)) ∧
    (∃ (s : State), ∃ q : List Byte, 3 ≤ s.spdm.state ∧
    let op := ((q[3]?).getD 0).toNat
    (q[2]?).getD 0 = 0 ∧
    op = 0) ∧
    (∃ (s : State), ∃ q : List Byte, 3 ≤ s.spdm.state ∧
    let op := ((q[3]?).getD 0).toNat
    (q[2]?).getD 0 = 0 ∧
    (op = 1 ∨ op = 0xFF)) ∧
    (∃ (s : State), ∃ q : List Byte, 3 ≤ s.spdm.state ∧
    let op := ((q[3]?).getD 0).toNat
    ((q[2]?).getD 0 ≠ 0 ∨ (1 < op ∧ op ≠ 0xFF))) ∧
    (∃ (s : State), ∃ q : List Byte, 3 ≤ s.spdm.state ∧
    s.spdm.meas.length = 144 ∧
    let op := ((q[3]?).getD 0).toNat
    op = 0) ∧
    (∃ (s : State), ∃ q : List Byte, 3 ≤ s.spdm.state ∧
    s.spdm.meas.length = 144 ∧
    let op := ((q[3]?).getD 0).toNat
    op = 0xFF) ∧
    (∃ (s : State), ∃ q : List Byte, 3 ≤ s.spdm.state ∧
    s.spdm.meas.length = 144 ∧
    let op := ((q[3]?).getD 0).toNat
    ∃ k, op = k ∧
    1 ≤ k ∧
    k ≤ 3) ∧
    (∃ (s : State), ∃ q : List Byte, 3 ≤ s.spdm.state ∧
    s.spdm.meas.length = 144 ∧
    let op := ((q[3]?).getD 0).toNat
    3 < op ∧
    op ≠ 0xFF) ∧
    (∃ (s : State), s.spdm.state = 0) ∧
    (∃ (s : State), ∃ img, s.boot = some img ∧
    s.turnCore = 0 ∧
    (∀ pa n rest, s.inputs ≠ .hostRead pa n :: rest) ∧
    (img = none ∨ ∃ m, img = some m ∧ (m.edOk = false ∨ m.mlOk = false ∨ parsePcb m.pcb = none))) ∧
    (∃ (s : State), ∃ img, s.boot = some img ∧
    s.turnCore = 0 ∧
    (∀ pa n rest, s.inputs ≠ .hostRead pa n :: rest) ∧
    ∃ m g, img = some m ∧
    m.edOk = true ∧
    m.mlOk = true ∧
    parsePcb m.pcb = some g) ∧
    (∃ (s : State), ∃ g ws, (s.part 0).cfg = some g ∧
    g.htab ≠ 0 ∧
    s.devWords 0 true g.htab.toNat 128 = .ok ws) :=
  ⟨witness_HostInterface_1, witness_HostInterface_2, witness_HostInterface_3, witness_HostInterface_4, witness_HostInterface_5, witness_HostInterface_6, witness_HostInterface_7, witness_HostInterface_8, witness_HostInterface_9, witness_HostInterface_10, witness_HostInterface_11, witness_HostInterface_12, witness_HostInterface_13, witness_HostInterface_14, witness_HostInterface_15, witness_HostInterface_16, witness_HostInterface_17, witness_HostInterface_18, witness_HostInterface_19, witness_HostInterface_20, witness_HostInterface_21⟩

theorem witness_StepKeepsInvariant :
    ∃ (s : State), ∃ t, Machine.Inv s ∧
    Sys2Proof.Machine.step s = .next t :=
  ⟨{ State.reset with inputs := [.nop g0 false] }, _, ⟨rfl, rfl, rfl, rfl, rfl⟩, rfl⟩

theorem witness_StepRunsDecoded_1 :
    (∃ (s : State) (c : Nat) (t : Tid) (pa : Nat) (tr : Leaf) (s2 : State) (i : Instr) (n : Nat), TurnComes s c t ∧
    ¬ (((s.turnAt c t).slot t).st = .parked ∧ ((s.turnAt c t).slot t).kept.isSome = true) ∧
    ((s.turnAt c t).slot t).pc.toNat % 4 = 0 ∧
    (s.turnAt c t).xlateNow (cluOf (coreOf t)) ((s.turnAt c t).partNum (coreOf t)) ((s.turnAt c t).slot t).smode
      ((s.turnAt c t).slot t).pc.toNat .fetch = (.ok pa tr, s2) ∧
    decode (Memory.reads s2.mem pa (32 - ((s.turnAt c t).slot t).pc.toNat % 32)) = .ok (i, n) ∧
    (∀ k, k < n → s2.memPoison (pa + k) = false)) :=
  ⟨W, 0, 0, _, _, _, _, _, comes rfl rfl rfl rfl rfl rfl, by decide, by decide, rfl, rfl, by decide⟩

theorem witness_StepRunsDecoded_2 :
    (∃ (s : State), ∃ c t pa tr s2, TurnComes s c t ∧
    ¬ (((s.turnAt c t).slot t).st = .parked ∧ ((s.turnAt c t).slot t).kept.isSome = true) ∧
    ((s.turnAt c t).slot t).pc.toNat % 4 = 0 ∧
    (s.turnAt c t).xlateNow (cluOf (coreOf t)) ((s.turnAt c t).partNum (coreOf t)) ((s.turnAt c t).slot t).smode
      ((s.turnAt c t).slot t).pc.toNat .fetch = (.ok pa tr, s2) ∧
    s2.memPoison pa = false ∧
    let pc := ((s.turnAt c t).slot t).pc
    let lo := leBytes (Memory.reads s2.mem pa 1) % 4
    ∃ n e, n = (if lo = 0 then 8 else if lo = 1 then 12 else 16) ∧
    lo ≠ 3 ∧
    pc.toNat % 32 + n ≤ 32 ∧
    (∀ k, k < n → s2.memPoison (pa + k) = false) ∧
    decodeBits (BitVec.ofNat 128 (leBytes (Memory.reads s2.mem pa n))) = .error e) :=
  ⟨{ W with mem := (List.range 8).map (fun k => (0x1000 + k, if k = 0 then 0xFC else 0xFF)) ++ W.mem }, 0, 0, _, _, _,
      comes rfl rfl rfl rfl rfl rfl, by decide, by decide, rfl, by decide, 8, _, by decide, by decide, by decide, by decide, rfl⟩

theorem witness_StepRunsDecoded_3 :
    (∃ (s : State), ∃ c t pa tr s2, TurnComes s c t ∧
    ¬ (((s.turnAt c t).slot t).st = .parked ∧ ((s.turnAt c t).slot t).kept.isSome = true) ∧
    ((s.turnAt c t).slot t).pc.toNat % 4 = 0 ∧
    (s.turnAt c t).xlateNow (cluOf (coreOf t)) ((s.turnAt c t).partNum (coreOf t)) ((s.turnAt c t).slot t).smode
      ((s.turnAt c t).slot t).pc.toNat .fetch = (.ok pa tr, s2) ∧
    s2.memPoison pa = false ∧
    let pc := ((s.turnAt c t).slot t).pc
    let lo := leBytes (Memory.reads s2.mem pa 1) % 4
    lo = 3 ∧
    pc.toNat % 32 ≤ 24 ∧
    (∀ k, k < 8 → s2.memPoison (pa + k) = false)) :=
  ⟨{ W with mem := (0x1000, 3) :: W.mem }, 0, 0, _, _, _, comes rfl rfl rfl rfl rfl rfl, by decide, by decide, rfl, by decide,
      by decide, by decide, by decide⟩

theorem witness_StepRunsDecoded_4 :
    (∃ (s : State), ∃ c t w n, TurnComes s c t ∧
    ((s.turnAt c t).slot t).st = .parked ∧
    ((s.turnAt c t).slot t).kept = some (w, n) ∧
    ∃ i, decodeBits (BitVec.ofNat 128 w) = .ok i) :=
  ⟨WX { wSlot with st := .parked, kept := some (0, 1) }, 0, 0, 0, 1, comes rfl rfl rfl rfl rfl rfl, by decide, by decide, _, rfl⟩

theorem witness_StepRunsDecoded_5 :
    (∃ (s : State), ∃ c t w n, TurnComes s c t ∧
    ((s.turnAt c t).slot t).st = .parked ∧
    ((s.turnAt c t).slot t).kept = some (w, n) ∧
    ∃ e, decodeBits (BitVec.ofNat 128 w) = .error e) :=
  ⟨WX { wSlot with st := .parked, kept := some (3, 1) }, 0, 0, 3, 1, comes rfl rfl rfl rfl rfl rfl, by decide, by decide, _, rfl⟩

theorem witness_StepRunsDecoded_6 :
    (∃ (s : State), ∃ i rest, s.turnCore = 0 ∧
    s.boot = none ∧
    s.inputs = i :: rest ∧
    isEvent i = true) :=
  ⟨{ W with inputs := [.bankopExecute 0 none] }, _, _, rfl, rfl, rfl, rfl⟩

theorem witness_StepRunsDecoded_7 :
    (∃ (s : State), ∃ t, s.turnCore = 0 ∧
    s.boot = none ∧
    s.inputs = [] ∧
    s.autoEvent = some t) :=
  ⟨{ WR (.incAck 0 0 0) with inputs := [] }, _, rfl, rfl, rfl, rfl⟩

theorem witness_StepRunsDecoded :
    (∃ (s : State) (c : Nat) (t : Tid) (pa : Nat) (tr : Leaf) (s2 : State) (i : Instr) (n : Nat), TurnComes s c t ∧
    ¬ (((s.turnAt c t).slot t).st = .parked ∧ ((s.turnAt c t).slot t).kept.isSome = true) ∧
    ((s.turnAt c t).slot t).pc.toNat % 4 = 0 ∧
    (s.turnAt c t).xlateNow (cluOf (coreOf t)) ((s.turnAt c t).partNum (coreOf t)) ((s.turnAt c t).slot t).smode
      ((s.turnAt c t).slot t).pc.toNat .fetch = (.ok pa tr, s2) ∧
    decode (Memory.reads s2.mem pa (32 - ((s.turnAt c t).slot t).pc.toNat % 32)) = .ok (i, n) ∧
    (∀ k, k < n → s2.memPoison (pa + k) = false)) ∧
    (∃ (s : State), ∃ c t pa tr s2, TurnComes s c t ∧
    ¬ (((s.turnAt c t).slot t).st = .parked ∧ ((s.turnAt c t).slot t).kept.isSome = true) ∧
    ((s.turnAt c t).slot t).pc.toNat % 4 = 0 ∧
    (s.turnAt c t).xlateNow (cluOf (coreOf t)) ((s.turnAt c t).partNum (coreOf t)) ((s.turnAt c t).slot t).smode
      ((s.turnAt c t).slot t).pc.toNat .fetch = (.ok pa tr, s2) ∧
    s2.memPoison pa = false ∧
    let pc := ((s.turnAt c t).slot t).pc
    let lo := leBytes (Memory.reads s2.mem pa 1) % 4
    ∃ n e, n = (if lo = 0 then 8 else if lo = 1 then 12 else 16) ∧
    lo ≠ 3 ∧
    pc.toNat % 32 + n ≤ 32 ∧
    (∀ k, k < n → s2.memPoison (pa + k) = false) ∧
    decodeBits (BitVec.ofNat 128 (leBytes (Memory.reads s2.mem pa n))) = .error e) ∧
    (∃ (s : State), ∃ c t pa tr s2, TurnComes s c t ∧
    ¬ (((s.turnAt c t).slot t).st = .parked ∧ ((s.turnAt c t).slot t).kept.isSome = true) ∧
    ((s.turnAt c t).slot t).pc.toNat % 4 = 0 ∧
    (s.turnAt c t).xlateNow (cluOf (coreOf t)) ((s.turnAt c t).partNum (coreOf t)) ((s.turnAt c t).slot t).smode
      ((s.turnAt c t).slot t).pc.toNat .fetch = (.ok pa tr, s2) ∧
    s2.memPoison pa = false ∧
    let pc := ((s.turnAt c t).slot t).pc
    let lo := leBytes (Memory.reads s2.mem pa 1) % 4
    lo = 3 ∧
    pc.toNat % 32 ≤ 24 ∧
    (∀ k, k < 8 → s2.memPoison (pa + k) = false)) ∧
    (∃ (s : State), ∃ c t w n, TurnComes s c t ∧
    ((s.turnAt c t).slot t).st = .parked ∧
    ((s.turnAt c t).slot t).kept = some (w, n) ∧
    ∃ i, decodeBits (BitVec.ofNat 128 w) = .ok i) ∧
    (∃ (s : State), ∃ c t w n, TurnComes s c t ∧
    ((s.turnAt c t).slot t).st = .parked ∧
    ((s.turnAt c t).slot t).kept = some (w, n) ∧
    ∃ e, decodeBits (BitVec.ofNat 128 w) = .error e) ∧
    (∃ (s : State), ∃ i rest, s.turnCore = 0 ∧
    s.boot = none ∧
    s.inputs = i :: rest ∧
    isEvent i = true) ∧
    (∃ (s : State), ∃ t, s.turnCore = 0 ∧
    s.boot = none ∧
    s.inputs = [] ∧
    s.autoEvent = some t) :=
  ⟨witness_StepRunsDecoded_1, witness_StepRunsDecoded_2, witness_StepRunsDecoded_3, witness_StepRunsDecoded_4, witness_StepRunsDecoded_5, witness_StepRunsDecoded_6, witness_StepRunsDecoded_7⟩

theorem witness_DecodeEncode :
    ∃ i : Instr, i.wf = true ∧
    isEvent i = false :=
  ⟨.nop g0 false, by decide, rfl⟩

theorem witness_ReservedEncodingsAreRefused :
    (∃ (w : BitVec 128) (l f : Nat), l = (w.extractLsb' 0 2).toNat ∧
    f = (w.extractLsb' 2 2).toNat ∧
    l = 3) ∧
    (∃ (w : BitVec 128) (l f : Nat), l = (w.extractLsb' 0 2).toNat ∧
    f = (w.extractLsb' 2 2).toNat ∧
    ((l = 0 ∧ f ≠ 0) ∨ (l = 1 ∧ 2 ≤ f) ∨ (l = 2 ∧ f = 3))) ∧
    (∃ (w : BitVec 128) (l f : Nat), l = (w.extractLsb' 0 2).toNat ∧
    f = (w.extractLsb' 2 2).toNat ∧
    l = 2 ∧
    f = 0 ∧
    w.extractLsb' 64 4 ≠ 0) ∧
    (∃ (w : BitVec 128) (l f : Nat), l = (w.extractLsb' 0 2).toNat ∧
    f = (w.extractLsb' 2 2).toNat ∧
    ((l = 0 ∧ f = 0) ∨ (l = 1 ∧ f ≤ 1) ∨ (l = 2 ∧ (f = 1 ∨ f = 2))) ∧
    assigned (w.extractLsb' 4 10) = false) ∧
    (∃ (w : BitVec 128) (l f : Nat), l = (w.extractLsb' 0 2).toNat ∧
    f = (w.extractLsb' 2 2).toNat ∧
    l = 2 ∧
    f = 0 ∧
    w.extractLsb' 64 4 = 0 ∧
    (assigned (w.extractLsb' 4 10) = false ∨ assigned (w.extractLsb' 68 10) = false)) ∧
    (∃ (w : BitVec 128) (l f : Nat), l = (w.extractLsb' 0 2).toNat ∧
    f = (w.extractLsb' 2 2).toNat ∧
    l = 2 ∧
    f = 0 ∧
    w.extractLsb' 64 4 = 0 ∧
    assigned (w.extractLsb' 4 10) = true ∧
    assigned (w.extractLsb' 68 10) = true ∧
    (vClass (w.extractLsb' 4 10) = true ∨ excludedSlot0 (w.extractLsb' 4 10) = true ∨ vClass (w.extractLsb' 68 10) = false)) :=
  ⟨⟨3, _, _, rfl, rfl, by decide⟩,
    ⟨4, _, _, rfl, rfl, by decide⟩,
    ⟨0x10000000000000002, _, _, rfl, rfl, by decide, by decide, by decide⟩,
    ⟨0x3FF0, _, _, rfl, rfl, by decide, by decide⟩,
    ⟨0x3FF2, _, _, rfl, rfl, by decide, by decide, by decide, by decide⟩,
    ⟨2, _, _, rfl, rfl, by decide, by decide, by decide, by decide, by decide, by decide⟩⟩

theorem witness_PairsTakeEffectAsAUnit_1 :
    (∃ c r, IntOp2 c r ∧
    ∃ cv cls u f, VElemOp cv cls u f ∧
    ∃ g d a b h dv av bv, ∃ (s : State), ∃ st1 st2 st3 va vb vr p q v1 v2 m pa pb pm, ∃ (st : State), Ready s g [d.ix, a.ix, b.ix] [a, b] (some d) ∧
    ReadsInt s (s.emptied [a, b]) a.ix va p st1 ∧
    ReadsInt s st1 b.ix vb q st2 ∧
    r s.me d.ix a.ix va vb vr ∧
    WritesInt s st2 d.ix vr (p || q) st3 ∧
    HoldAll s [(.pop a.ix, false), (.pop b.ix, false), (.push d.ix, false)] ∧
    Ready s h.g [dv.ix, av.ix, bv.ix, h.msk] [av, bv] (some dv) ∧
    cls dv.ix av.ix bv.ix s.me = true ∧
    VReads s av.ix v1 pa ∧
    VReads s bv.ix v2 pb ∧
    VMasks s h m pm ∧
    (VWrites s (s.emptyOn st3 [av, bv]) dv.ix u (pa || pb || pm)
        (fun n i j => if i < (extent s.ctx [dv.ix, av.ix, bv.ix]).1 ∧ j < (extent s.ctx [dv.ix, av.ix, bv.ix]).2 ∧
            activeAt h m i j = true then
          some (f n.kind v1 v2 ((n.vals[i * n.kind.shape.2 + j]?).getD 0) i j) else none) st)) :=
  ⟨_, _, .add, _, _, _, _, .vaddI, g0, o 4, o 1, o 2, h0, o 18, o 9, o 10, W, _, _, _, 7, 2, 9, false, false, _, _, _, false, false,
      false, _, ready_plain rfl rfl rfl, reads_int rfl, reads_int rfl, rfl, writes_int rfl rfl rfl, hold_plain rfl,
      ready_plain rfl rfl rfl, rfl, v_reads rfl, v_reads rfl, v_nomask, v_writes rfl rfl⟩

theorem witness_PairsTakeEffectAsAUnit_2 :
    (∃ (a b : Instr) (o v : OpSpec) (s : State), specOf a = some o ∧
    specOf b = some v ∧
    Ready s o.g o.fields o.m o.d ∧
    o.kinds s.me = true ∧
    Ready s v.g v.fields v.m v.d ∧
    v.kinds s.me = true ∧
    ∃ e w t, FailsFirst s (o.conds false ++ v.conds true) e w ∧
    Stopped s w e t) :=
  ⟨.add g0 (o 4) (o 13) (o 2), .vadd h0 .rne false (o 18) (o 9) (o 10), _, _, W, rfl, rfl, ready_plain rfl rfl rfl, rfl, ready_plain rfl rfl rfl, rfl, _, _, _,
      fails_first (.pop ⟨_, rfl, rfl⟩ (by decide)), rfl⟩

theorem witness_PairsTakeEffectAsAUnit_3 :
    (∃ (a b : Instr) (o v : OpSpec) (s : State), specOf a = some o ∧
    specOf b = some v ∧
    Ready s o.g o.fields o.m o.d ∧
    o.kinds s.me = true ∧
    Ready s v.g v.fields v.m v.d ∧
    v.kinds s.me = true ∧
    HoldAll s (o.conds false ++ v.conds true) ∧
    ∃ i, o.run s.ctx (s.emptied o.m) = .error (.trap i)) :=
  ⟨.add g0 (o 3) (o 3) (o 3), .vadd h0 .rne false (o 18) (o 9) (o 10), _, _, W, rfl, rfl, ready_plain rfl rfl rfl, rfl, ready_plain rfl rfl rfl, rfl, hold_plain rfl, _, rfl⟩

theorem witness_PairsTakeEffectAsAUnit_4 :
    (∃ (a b : Instr) (o v : OpSpec) (s : State), specOf a = some o ∧
    specOf b = some v ∧
    Ready s o.g o.fields o.m o.d ∧
    o.kinds s.me = true ∧
    Ready s v.g v.fields v.m v.d ∧
    v.kinds s.me = true ∧
    HoldAll s (o.conds false ++ v.conds true) ∧
    ∃ i n, ∃ (st : State), o.run s.ctx (s.emptied o.m) = .ok (n, st) ∧
    v.run s.ctx (s.emptyOn st v.m) = .error (.trap i)) :=
  ⟨.add g0 (o 4) (o 1) (o 2), .vadd h0 .rne false (o 27) (o 27) (o 27), _, _, WY, rfl, rfl, ready_plain rfl rfl rfl, rfl, ready_plain rfl rfl rfl, rfl, hold_plain rfl, _, _, _,
      rfl, rfl⟩

theorem witness_PairsTakeEffectAsAUnit_5 :
    (∃ (a b : Instr) (o v : OpSpec) (s : State), specOf a = some o ∧
    specOf b = some v ∧
    Ready s o.g o.fields o.m o.d ∧
    o.kinds s.me = true ∧
    Ready s v.g v.fields v.m v.d ∧
    v.kinds s.me = true ∧
    HoldAll s (o.conds false ++ v.conds true) ∧
    ∃ w, o.run s.ctx (s.emptied o.m) = .error (.park w)) :=
  ⟨.semwait g0 0 1 false, .vadd h0 .rne false (o 18) (o 9) (o 10), _, _, W, rfl, rfl, ready_plain rfl rfl rfl, rfl, ready_plain rfl rfl rfl, rfl, hold_plain rfl, _, rfl⟩

theorem witness_PairsTakeEffectAsAUnit_6 :
    (∃ (a b : Instr) (o v : OpSpec) (s : State), specOf a = some o ∧
    specOf b = some v ∧
    Ready s o.g o.fields o.m o.d ∧
    o.kinds s.me = true ∧
    Ready s v.g v.fields v.m v.d ∧
    v.kinds s.me = true ∧
    HoldAll s (o.conds false ++ v.conds true) ∧
    ∃ w n, ∃ (st : State), o.run s.ctx (s.emptied o.m) = .ok (n, st) ∧
    v.run s.ctx (s.emptyOn st v.m) = .error (.park w)) :=
  ⟨.add g0 (o 4) (o 1) (o 2), .semwait g0 0 1 false, _, _, W, rfl, rfl, ready_plain rfl rfl rfl, rfl, ready_plain rfl rfl rfl, rfl, hold_plain rfl, _, _, _, rfl, rfl⟩

theorem witness_PairsTakeEffectAsAUnit_7 :
    (∃ (a b : Instr) (o v : OpSpec) (s : State) (i : Ix), specOf a = some o ∧
    specOf b = some v ∧
    WellNamed s o ∧
    WellNamed s v ∧
    GuardOn s o.g ∧
    WaitsFor s o i ∧
    (GuardOn s v.g ∨ GuardOff s v.g)) :=
  ⟨.add g0 (o 4) ⟨4, true⟩ (o 2), .vadd h0 .rne false (o 18) (o 9) (o 10), _, _, W, 4, rfl, rfl, ⟨declared rfl, .inl rfl, rfl, no_queue rfl⟩, ⟨declared rfl, .inl rfl, rfl, no_queue rfl⟩, .inl rfl,
      .inl ⟨[], ⟨4, true⟩, _, rfl, nofun, ⟨rfl, _, rfl, rfl⟩, rfl⟩, .inl (.inl rfl)⟩

theorem witness_PairsTakeEffectAsAUnit_8 :
    (∃ (a b : Instr) (o v : OpSpec) (s : State) (i : Ix), specOf a = some o ∧
    specOf b = some v ∧
    WellNamed s o ∧
    WellNamed s v ∧
    GuardOn s v.g ∧
    WaitsFor s v i ∧
    (GuardOff s o.g ∨ (GuardOn s o.g ∧ WaitsForNone s o))) :=
  ⟨.add g0 (o 4) (o 1) (o 2), .add g0 (o 4) ⟨4, true⟩ (o 2), _, _, W, 4, rfl, rfl, ⟨declared rfl, .inl rfl, rfl, no_queue rfl⟩, ⟨declared rfl, .inl rfl, rfl, no_queue rfl⟩, .inl rfl,
      .inl ⟨[], ⟨4, true⟩, _, rfl, nofun, ⟨rfl, _, rfl, rfl⟩, rfl⟩, .inr ⟨.inl rfl, waits_none rfl⟩⟩

theorem witness_PairsTakeEffectAsAUnit_9 :
    (∃ (a b : Instr) (o v : OpSpec) (s : State), specOf a = some o ∧
    specOf b = some v ∧
    WellNamed s o ∧
    WellNamed s v ∧
    GuardOff s o.g ∧
    Ready s v.g v.fields v.m v.d ∧
    ∃ (st : State), HoldAll s (v.conds true) ∧
    v.run s.ctx (s.emptied v.m) = .ok (.seq, st)) :=
  ⟨.add ⟨5, false⟩ (o 4) (o 1) (o 2), .vadd h0 .rne false (o 18) (o 9) (o 10), _, _, W, rfl, rfl, ⟨declared rfl, .inr rfl, rfl, no_queue rfl⟩, ⟨declared rfl, .inl rfl, rfl, no_queue rfl⟩, ⟨_, _, _, _, rfl, rfl, rfl, rfl, by decide⟩,
      ready_plain rfl rfl rfl, _, hold_plain rfl, rfl⟩

theorem witness_PairsTakeEffectAsAUnit_10 :
    (∃ (a b : Instr) (o v : OpSpec) (s : State), specOf a = some o ∧
    specOf b = some v ∧
    WellNamed s o ∧
    WellNamed s v ∧
    GuardOff s o.g ∧
    Ready s v.g v.fields v.m v.d ∧
    ∃ e w t, FailsFirst s (v.conds true) e w ∧
    Stopped s w e t) :=
  ⟨.add ⟨5, false⟩ (o 4) (o 1) (o 2), .add g0 (o 4) (o 13) (o 2), _, _, W, rfl, rfl, ⟨declared rfl, .inr rfl, rfl, no_queue rfl⟩, ⟨declared rfl, .inl rfl, rfl, no_sync rfl⟩, ⟨_, _, _, _, rfl, rfl, rfl, rfl, by decide⟩,
      ready_plain rfl rfl rfl, _, _, _, fails_first (.pop ⟨_, rfl, rfl⟩ (by decide)), rfl⟩

theorem witness_PairsTakeEffectAsAUnit_11 :
    (∃ (a b : Instr) (o v : OpSpec) (s : State), specOf a = some o ∧
    specOf b = some v ∧
    WellNamed s o ∧
    WellNamed s v ∧
    GuardOff s v.g ∧
    Ready s o.g o.fields o.m o.d ∧
    ∃ (st : State), HoldAll s (o.conds false) ∧
    o.run s.ctx (s.emptied o.m) = .ok (.seq, st)) :=
  ⟨.add g0 (o 4) (o 1) (o 2), .vadd ⟨⟨5, false⟩, 0, false⟩ .rne false (o 18) (o 9) (o 10), _, _, W, rfl, rfl, ⟨declared rfl, .inl rfl, rfl, no_queue rfl⟩, ⟨declared rfl, .inr rfl, rfl, no_queue rfl⟩, ⟨_, _, _, _, rfl, rfl, rfl, rfl, by decide⟩,
      ready_plain rfl rfl rfl, _, hold_plain rfl, rfl⟩

theorem witness_PairsTakeEffectAsAUnit_12 :
    (∃ (a b : Instr) (o v : OpSpec) (s : State), specOf a = some o ∧
    specOf b = some v ∧
    WellNamed s o ∧
    WellNamed s v ∧
    GuardOff s v.g ∧
    Ready s o.g o.fields o.m o.d ∧
    ∃ e w t, FailsFirst s (o.conds false) e w ∧
    Stopped s w e t) :=
  ⟨.add g0 (o 4) (o 13) (o 2), .vadd ⟨⟨5, false⟩, 0, false⟩ .rne false (o 18) (o 9) (o 10), _, _, W, rfl, rfl, ⟨declared rfl, .inl rfl, rfl, no_sync rfl⟩, ⟨declared rfl, .inr rfl, rfl, no_queue rfl⟩, ⟨_, _, _, _, rfl, rfl, rfl, rfl, by decide⟩,
      ready_plain rfl rfl rfl, _, _, _, fails_first (.pop ⟨_, rfl, rfl⟩ (by decide)), rfl⟩

theorem witness_PairsTakeEffectAsAUnit_13 :
    (∃ c r, IntOp2 c r) :=
  ⟨_, _, .add⟩

theorem witness_PairsTakeEffectAsAUnit_14 :
    (∃ c cls u f, VElemOp c cls u f) :=
  ⟨_, _, _, _, .vaddI⟩

theorem witness_PairsTakeEffectAsAUnit :
    (∃ c r, IntOp2 c r ∧
    ∃ cv cls u f, VElemOp cv cls u f ∧
    ∃ g d a b h dv av bv, ∃ (s : State), ∃ st1 st2 st3 va vb vr p q v1 v2 m pa pb pm, ∃ (st : State), Ready s g [d.ix, a.ix, b.ix] [a, b] (some d) ∧
    ReadsInt s (s.emptied [a, b]) a.ix va p st1 ∧
    ReadsInt s st1 b.ix vb q st2 ∧
    r s.me d.ix a.ix va vb vr ∧
    WritesInt s st2 d.ix vr (p || q) st3 ∧
    HoldAll s [(.pop a.ix, false), (.pop b.ix, false), (.push d.ix, false)] ∧
    Ready s h.g [dv.ix, av.ix, bv.ix, h.msk] [av, bv] (some dv) ∧
    cls dv.ix av.ix bv.ix s.me = true ∧
    VReads s av.ix v1 pa ∧
    VReads s bv.ix v2 pb ∧
    VMasks s h m pm ∧
    (VWrites s (s.emptyOn st3 [av, bv]) dv.ix u (pa || pb || pm)
        (fun n i j => if i < (extent s.ctx [dv.ix, av.ix, bv.ix]).1 ∧ j < (extent s.ctx [dv.ix, av.ix, bv.ix]).2 ∧
            activeAt h m i j = true then
          some (f n.kind v1 v2 ((n.vals[i * n.kind.shape.2 + j]?).getD 0) i j) else none) st)) ∧
    (∃ (a b : Instr) (o v : OpSpec) (s : State), specOf a = some o ∧
    specOf b = some v ∧
    Ready s o.g o.fields o.m o.d ∧
    o.kinds s.me = true ∧
    Ready s v.g v.fields v.m v.d ∧
    v.kinds s.me = true ∧
    ∃ e w t, FailsFirst s (o.conds false ++ v.conds true) e w ∧
    Stopped s w e t) ∧
    (∃ (a b : Instr) (o v : OpSpec) (s : State), specOf a = some o ∧
    specOf b = some v ∧
    Ready s o.g o.fields o.m o.d ∧
    o.kinds s.me = true ∧
    Ready s v.g v.fields v.m v.d ∧
    v.kinds s.me = true ∧
    HoldAll s (o.conds false ++ v.conds true) ∧
    ∃ i, o.run s.ctx (s.emptied o.m) = .error (.trap i)) ∧
    (∃ (a b : Instr) (o v : OpSpec) (s : State), specOf a = some o ∧
    specOf b = some v ∧
    Ready s o.g o.fields o.m o.d ∧
    o.kinds s.me = true ∧
    Ready s v.g v.fields v.m v.d ∧
    v.kinds s.me = true ∧
    HoldAll s (o.conds false ++ v.conds true) ∧
    ∃ i n, ∃ (st : State), o.run s.ctx (s.emptied o.m) = .ok (n, st) ∧
    v.run s.ctx (s.emptyOn st v.m) = .error (.trap i)) ∧
    (∃ (a b : Instr) (o v : OpSpec) (s : State), specOf a = some o ∧
    specOf b = some v ∧
    Ready s o.g o.fields o.m o.d ∧
    o.kinds s.me = true ∧
    Ready s v.g v.fields v.m v.d ∧
    v.kinds s.me = true ∧
    HoldAll s (o.conds false ++ v.conds true) ∧
    ∃ w, o.run s.ctx (s.emptied o.m) = .error (.park w)) ∧
    (∃ (a b : Instr) (o v : OpSpec) (s : State), specOf a = some o ∧
    specOf b = some v ∧
    Ready s o.g o.fields o.m o.d ∧
    o.kinds s.me = true ∧
    Ready s v.g v.fields v.m v.d ∧
    v.kinds s.me = true ∧
    HoldAll s (o.conds false ++ v.conds true) ∧
    ∃ w n, ∃ (st : State), o.run s.ctx (s.emptied o.m) = .ok (n, st) ∧
    v.run s.ctx (s.emptyOn st v.m) = .error (.park w)) ∧
    (∃ (a b : Instr) (o v : OpSpec) (s : State) (i : Ix), specOf a = some o ∧
    specOf b = some v ∧
    WellNamed s o ∧
    WellNamed s v ∧
    GuardOn s o.g ∧
    WaitsFor s o i ∧
    (GuardOn s v.g ∨ GuardOff s v.g)) ∧
    (∃ (a b : Instr) (o v : OpSpec) (s : State) (i : Ix), specOf a = some o ∧
    specOf b = some v ∧
    WellNamed s o ∧
    WellNamed s v ∧
    GuardOn s v.g ∧
    WaitsFor s v i ∧
    (GuardOff s o.g ∨ (GuardOn s o.g ∧ WaitsForNone s o))) ∧
    (∃ (a b : Instr) (o v : OpSpec) (s : State), specOf a = some o ∧
    specOf b = some v ∧
    WellNamed s o ∧
    WellNamed s v ∧
    GuardOff s o.g ∧
    Ready s v.g v.fields v.m v.d ∧
    ∃ (st : State), HoldAll s (v.conds true) ∧
    v.run s.ctx (s.emptied v.m) = .ok (.seq, st)) ∧
    (∃ (a b : Instr) (o v : OpSpec) (s : State), specOf a = some o ∧
    specOf b = some v ∧
    WellNamed s o ∧
    WellNamed s v ∧
    GuardOff s o.g ∧
    Ready s v.g v.fields v.m v.d ∧
    ∃ e w t, FailsFirst s (v.conds true) e w ∧
    Stopped s w e t) ∧
    (∃ (a b : Instr) (o v : OpSpec) (s : State), specOf a = some o ∧
    specOf b = some v ∧
    WellNamed s o ∧
    WellNamed s v ∧
    GuardOff s v.g ∧
    Ready s o.g o.fields o.m o.d ∧
    ∃ (st : State), HoldAll s (o.conds false) ∧
    o.run s.ctx (s.emptied o.m) = .ok (.seq, st)) ∧
    (∃ (a b : Instr) (o v : OpSpec) (s : State), specOf a = some o ∧
    specOf b = some v ∧
    WellNamed s o ∧
    WellNamed s v ∧
    GuardOff s v.g ∧
    Ready s o.g o.fields o.m o.d ∧
    ∃ e w t, FailsFirst s (o.conds false) e w ∧
    Stopped s w e t) ∧
    (∃ c r, IntOp2 c r) ∧
    (∃ c cls u f, VElemOp c cls u f) :=
  ⟨witness_PairsTakeEffectAsAUnit_1, witness_PairsTakeEffectAsAUnit_2, witness_PairsTakeEffectAsAUnit_3, witness_PairsTakeEffectAsAUnit_4, witness_PairsTakeEffectAsAUnit_5, witness_PairsTakeEffectAsAUnit_6, witness_PairsTakeEffectAsAUnit_7, witness_PairsTakeEffectAsAUnit_8, witness_PairsTakeEffectAsAUnit_9, witness_PairsTakeEffectAsAUnit_10, witness_PairsTakeEffectAsAUnit_11, witness_PairsTakeEffectAsAUnit_12, witness_PairsTakeEffectAsAUnit_13, witness_PairsTakeEffectAsAUnit_14⟩

end Sys2Proof.Machine.Tests
end

