-- ==== Sys2Proof/Tests/WitnessVec.lean ====
section
/-! SUPPORT. The hypotheses of the statements about vector ops, met by a small state. -/

namespace Sys2Proof.Machine.Tests

set_option Elab.async false

theorem witness_VectorElementwiseRule :
    ∃ c cls u f, VElemOp c cls u f ∧
    ∃ h d a b, ∃ (s : State), ∃ va vb m pa pb pm, ∃ (st : State), Ready s h.g [d.ix, a.ix, b.ix, h.msk] [a, b] (some d) ∧
    cls d.ix a.ix b.ix s.me = true ∧
    VReads s a.ix va pa ∧
    VReads s b.ix vb pb ∧
    VMasks s h m pm ∧
    (VWrites s (s.emptied [a, b]) d.ix u (pa || pb || pm)
      (fun n i j => if i < (extent s.ctx [d.ix, a.ix, b.ix]).1 ∧ j < (extent s.ctx [d.ix, a.ix, b.ix]).2 ∧
          activeAt h m i j = true then
        some (f n.kind va vb ((n.vals[i * n.kind.shape.2 + j]?).getD 0) i j) else none) st) :=
  ⟨_, _, _, _, .vaddI, h0, o 18, o 9, o 10, W, _, _, _, false, false, false, _, ready_plain rfl rfl rfl, rfl, v_reads rfl,
    v_reads rfl, v_nomask, v_writes rfl rfl⟩

theorem witness_VectorMovesOps :
    (∃ h d a b, ∃ (s : State), ∃ va vb m pa pb pm, ∃ (st : State), Ready s h.g [d.ix, a.ix, b.ix, h.msk] [a, b] (some d) ∧
    (intVecs d.ix a.ix b.ix s.me || fltVecs d.ix a.ix b.ix s.me) = true ∧
    h.msk ≠ 0 ∧
    VReads s a.ix va pa ∧
    VReads s b.ix vb pb ∧
    VMasks s h m pm ∧
    (VWrites s (s.emptied [a, b]) d.ix false (pa || pb || pm)
      (fun n i j => if i < (extent s.ctx [d.ix, a.ix, b.ix]).1 ∧ j < (extent s.ctx [d.ix, a.ix, b.ix]).2 then
        some (if activeAt h m i j then moveElem n.kind va i j else ((moveElem n.kind vb i j).1, 0)) else none) st)) ∧
    (∃ h rm sat d a, ∃ (s : State), ∃ va m pa pm, ∃ (st : State), Ready s h.g [d.ix, a.ix, 0, h.msk] [a, ⟨0, false⟩] (some d) ∧
    ((s.me.isFVec d.ix && (s.me.isFVec a.ix || s.me.isIVec a.ix)) || (s.me.isIVec d.ix && s.me.isFVec a.ix && !sat)) = true ∧
    VReads s a.ix va pa ∧
    VMasks s h m pm ∧
    (VWrites s (s.emptied [a, ⟨0, false⟩]) d.ix false (pa || pm)
      (fun n i j => if i < (extent s.ctx [d.ix, a.ix, 0]).1 ∧ j < (extent s.ctx [d.ix, a.ix, 0]).2 ∧ activeAt h m i j = true then
        some (match n.kind with
          | .ivec sg w md _ _ => match floatToInt rm sg w md (va.fv i j) with
            | none => (none, 0)
            | some (r, fl) => (some r, fl)
          | k => rndElem k.efk rm sat (.pure (va.fv i j))) else none) st)) ∧
    (∃ h rm sat d a, ∃ (s : State), ∃ va m pa pm, ∃ (st : State), Ready s h.g [d.ix, a.ix, h.msk] [a] (some d) ∧
    ((s.me.isIVec d.ix && (s.me.isIVec a.ix || s.me.intNil a.ix) && decide (rm = .rne) && !sat) ||
      (s.me.isFVec d.ix && (s.me.isFVec a.ix || s.me.isFlt a.ix))) = true ∧
    VReads s a.ix va pa ∧
    VMasks s h m pm ∧
    (VWrites s (s.emptied [a]) d.ix false (pa || pm)
      (fun n i j => if j < (extent s.ctx [d.ix, a.ix]).2 ∧ activeAt h m i j = true then
        some (match n.kind.fk with
          | none => fitElem n.kind (va.get 0 j)
          | some q => rndElem q rm sat (.pure (va.fv 0 j))) else none) st)) ∧
    (∃ h d a b, ∃ (s : State), ∃ va vb m pa pb pm, ∃ (st : State), Ready s h.g [d.ix, a.ix, b.ix, h.msk] [a, b] (some d) ∧
    sameClass s.me d.ix a.ix = true ∧
    s.me.isIVec b.ix = true ∧
    VReads s a.ix va pa ∧
    VReads s b.ix vb pb ∧
    VMasks s h m pm ∧
    (VWrites s (s.emptied [a, b]) d.ix false (pa || pb || pm)
      (fun n i j => if i < (extent s.ctx [d.ix, b.ix]).1 ∧ j < (extent s.ctx [d.ix, b.ix]).2 ∧ activeAt h m i j = true then
        some (if 0 ≤ vb.get i j ∧ vb.get i j < ((va.shape.getD (0, 0)).2 : Int) ∧ i < (va.shape.getD (0, 0)).1 then
          moveElem n.kind va i (vb.get i j).toNat else fitElem n.kind 0) else none) st)) ∧
    (∃ h d a, ∃ (s : State), ∃ va m pa pm, ∃ (st : State), Ready s h.g [d.ix, a.ix, h.msk] [a] (some d) ∧
    sameElem s.me d.ix a.ix = true ∧
    h.msk ≠ 0 ∧
    VReads s a.ix va pa ∧
    VMasks s h m pm ∧
    (VWrites s (s.emptied [a]) d.ix false (pa || pm)
      (fun n i j => if i < (extent s.ctx [d.ix, a.ix]).1 then
        (((List.range (va.shape.getD (0, 0)).2).filter (fun q => activeAt h m i q))[j]?).map
          (fun q => moveElem n.kind va i q) else none) st)) ∧
    (∃ h d a, ∃ (s : State), ∃ va m pa pm, ∃ (st : State), Ready s h.g [d.ix, a.ix, h.msk] [a] (some d) ∧
    sameElem s.me d.ix a.ix = true ∧
    h.msk ≠ 0 ∧
    VReads s a.ix va pa ∧
    VMasks s h m pm ∧
    (VWrites s (s.emptied [a]) d.ix false (pa || pm)
      (fun n i j => if i < (extent s.ctx [d.ix, a.ix]).1 then
        (if activeAt h m i j && decide (((List.range j).filter (fun q => activeAt h m i q)).length < (va.shape.getD (0, 0)).2) then
          some ((List.range j).filter (fun q => activeAt h m i q)).length else none).map
          (fun q => moveElem n.kind va i q) else none) st)) ∧
    (∃ h d a, ∃ (s : State), ∃ va m pa pm, ∃ (st : State), Ready s h.g [d.ix, a.ix, h.msk] [a] (some d) ∧
    s.me.isIVec d.ix = true ∧
    s.me.intNil a.ix = true ∧
    VReads s a.ix va pa ∧
    VMasks s h m pm ∧
    (VWrites s (s.emptied [a]) d.ix false (pa || pm)
      (fun n i j => if activeAt h m i j then some (fitElem n.kind (va.get 0 0 + (i * n.kind.shape.2 + j : Nat))) else none) st)) :=
  ⟨⟨⟨g0, 14, false⟩, o 18, o 9, o 10, W, _, _, _, false, false, false, _, ready_plain rfl rfl rfl, by decide, by decide,
      v_reads rfl, v_reads rfl, v_mask rfl rfl, v_writes rfl rfl⟩,
    ⟨h0, .rne, false, o 12, o 11, W, _, _, false, false, _, ready_plain rfl rfl rfl, by decide, v_reads rfl,
      v_nomask, v_writes rfl rfl⟩,
    ⟨h0, .rne, false, o 18, o 1, W, _, _, false, false, _, ready_plain rfl rfl rfl, by decide, v_reads rfl,
      v_nomask, v_writes rfl rfl⟩,
    ⟨h0, o 18, o 9, o 14, W, _, _, _, false, false, false, _, ready_plain rfl rfl rfl, by decide, by decide,
      v_reads rfl, v_reads rfl, v_nomask, v_writes rfl rfl⟩,
    ⟨⟨g0, 14, false⟩, o 9, o 10, W, _, _, false, false, _, ready_plain rfl rfl rfl, by decide, by decide, v_reads rfl,
      v_mask rfl rfl, v_writes rfl rfl⟩,
    ⟨⟨g0, 14, false⟩, o 9, o 10, W, _, _, false, false, _, ready_plain rfl rfl rfl, by decide, by decide, v_reads rfl,
      v_mask rfl rfl, v_writes rfl rfl⟩,
    ⟨h0, o 18, o 1, W, _, _, false, false, _, ready_plain rfl rfl rfl, by decide, by decide, v_reads rfl,
      v_nomask, v_writes rfl rfl⟩⟩

theorem witness_VectorReductions :
    (∃ h op rm d a, ∃ (s : State), ∃ va m pa pm, ∃ (st : State), Ready s h.g [d.ix, a.ix, h.msk] [a] (some d) ∧
    redKinds op rm d.ix a.ix s.me = true ∧
    s.me.isVec d.ix = true ∧
    VReads s a.ix va pa ∧
    VMasks s h m pm ∧
    (VWrites s (s.emptied [a]) d.ix false (pa || pm)
      (fun n i j => if i < (va.shape.getD (0, 0)).1 ∧ j = 0 then
        redElem op rm n.kind va (((List.range (va.shape.getD (0, 0)).2).map (fun q => (i, q))).filter
          (fun e => activeAt h m e.1 e.2)) else none) st)) ∧
    (∃ h op rm d a, ∃ (s : State), ∃ va m pa pm v, ∃ (st : State), Ready s h.g [d.ix, a.ix, h.msk] [a] (some d) ∧
    redKinds op rm d.ix a.ix s.me = true ∧
    s.me.isIVec a.ix = true ∧
    s.me.intNil d.ix = true ∧
    VReads s a.ix va pa ∧
    VMasks s h m pm ∧
    redInt op (((cells (va.shape.getD (0, 0)).1 (va.shape.getD (0, 0)).2).filter (fun e => activeAt h m e.1 e.2)).map
      (fun e => va.get e.1 e.2)) = some v ∧
    WritesInt s (s.emptied [a]) d.ix v (pa || pm) st) ∧
    (∃ h op rm d a, ∃ (s : State), ∃ va m pa pm x r, ∃ (st : State), ∃ k, Ready s h.g [d.ix, a.ix, h.msk] [a] (some d) ∧
    redKinds op rm d.ix a.ix s.me = true ∧
    s.me.isFVec a.ix = true ∧
    FltName s d.ix k ∧
    VReads s a.ix va pa ∧
    VMasks s h m pm ∧
    redFlt op rm (((cells (va.shape.getD (0, 0)).1 (va.shape.getD (0, 0)).2).filter (fun e => activeAt h m e.1 e.2)).map
      (fun e => va.fv e.1 e.2)) = some (x, r) ∧
    (if r then (x.round k rm false).2 else x.fl) &&& s.fpeMask = 0 ∧
    WritesPat s (s.raised (s.emptied [a]) (if r then (x.round k rm false).2 else x.fl)) d.ix k
      (if r then (x.round k rm false).1 else k.exact x.v) (pa || pm) st) ∧
    (∃ h op rm d a, ∃ (s : State), ∃ va m pa pm, ∃ (st : State), Ready s h.g [d.ix, a.ix, h.msk] [a] (some d) ∧
    ((s.me.isIVec a.ix && s.me.isIVec d.ix && decide (rm = .rne)) || (s.me.isFVec a.ix && s.me.isFVec d.ix)) = true ∧
    VReads s a.ix va pa ∧
    VMasks s h m pm ∧
    (VWrites s (s.emptied [a]) d.ix false (pa || pm)
      (fun n i j => if i < (extent s.ctx [d.ix, a.ix]).1 ∧ j < (extent s.ctx [d.ix, a.ix]).2 ∧ activeAt h m i j = true then
        redElem (scanRed op) rm n.kind va
          (((List.range (j + 1)).map (fun q => (i, q))).filter (fun e => activeAt h m e.1 e.2)) else none) st)) :=
  ⟨⟨h0, .add, .rne, o 10, o 9, W, _, _, false, false, _, ready_plain rfl rfl rfl, by decide, by decide, v_reads rfl,
      v_nomask, v_writes rfl rfl⟩,
    ⟨h0, .add, .rne, o 4, o 9, W, _, _, false, false, 10, _, ready_plain rfl rfl rfl, by decide, by decide, by decide,
      v_reads rfl, v_nomask, by decide, writes_int rfl rfl rfl⟩,
    ⟨h0, .max, .rne, o 15, o 11, W, _, _, false, false, _, _, _, .f32, ready_plain rfl rfl rfl, by decide, by decide,
      ⟨_, rfl, rfl⟩, v_reads rfl, v_nomask, rfl, by decide, writes_pat rfl rfl⟩,
    ⟨h0, .add, .rne, o 18, o 9, W, _, _, false, false, _, ready_plain rfl rfl rfl, by decide, v_reads rfl,
      v_nomask, v_writes rfl rfl⟩⟩

theorem witness_VectorElementPlaces :
    ∃ (s st st' : State) (d : Ix) (u p : Bool) (f : NameSt → Nat → Nat → Option ERes) (n : NameSt) (i j : Nat), VWrites s st d u p f st' ∧
    s.me.nm d = some n ∧
    (st.slot s.cur).nm d = some n ∧
    n.vals.length = n.kind.shape.1 * n.kind.shape.2 ∧
    i < n.kind.shape.1 ∧
    j < n.kind.shape.2 :=
  ⟨W, W, _, 18, false, false, fun _ _ _ => some (some 3, 0), _, 1, 1, v_writes rfl rfl,
    rfl, rfl, rfl, by decide, by decide⟩

theorem witness_VectorLoadsAndStores :
    (∃ c tr, (((∃ rm sat, c = (fun h w => Instr.vld h w false rm sat)) ∧ tr = false) ∨ (c = Instr.vldt ∧ tr = true)) ∧
    ∃ h w d a b n o rs m pm, ∃ (s : State) (st : State), Ready s h.g [d.ix, a.ix, b.ix, h.msk] [a, b] (some d) ∧
    s.me.nm d.ix = some n ∧
    VOperands s (s.emptied [a, b]) h d.ix a b (((if tr then n.kind.shape.1 else n.kind.shape.2) * n.kind.sw + 7) / 8) o rs ∧
    VMasks s h m pm ∧
    VInStore s h m n.kind tr o rs ∧
    LsOpen s [a, b] false ∧
    let t := s.lsReady [a, b] false
    (w = true → ∀ e ∈ cells n.kind.shape.1 n.kind.shape.2, activeAt h m e.1 e.2 = true →
      t.lsF (coreOf s.cur) (VAt tr o rs n.kind.sw e.1 e.2).off.toNat = true) ∧
    (VWrites s t d.ix false
      (pm || (cells n.kind.shape.1 n.kind.shape.2).any (fun e => activeAt h m e.1 e.2 &&
        ((loadElem n.kind n.kind.sw (t.elemBits (coreOf s.cur) n.kind.sw (VAt tr o rs n.kind.sw e.1 e.2))).2 ||
          t.lsP (coreOf s.cur) (VAt tr o rs n.kind.sw e.1 e.2).off.toNat)))
      (fun k i j => if activeAt h m i j = true then
        some (loadElem k.kind k.kind.sw (t.elemBits (coreOf s.cur) k.kind.sw (VAt tr o rs k.kind.sw i j))).1 else none) st)) ∧
    (∃ h w rm sat d a b n o v q4 gsz soff m pm, ∃ (s : State) (st : State), Ready s h.g [d.ix, a.ix, b.ix, h.msk] [a, b] (some d) ∧
    s.me.nm d.ix = some n ∧
    s.me.isFVec d.ix = true ∧
    VOperands s (s.emptied [a, b]) h d.ix a b 0 o v ∧
    QDesc v q4 gsz soff ∧
    VMasks s h m pm ∧
    o % 128 = 0 ∧
    LsOpen s [a, b] false ∧
    let t := s.lsReady [a, b] false
    let code := fun (i j : Nat) => (o + (if q4 then (i * n.kind.shape.2 + j) / 2 else i * n.kind.shape.2 + j : Nat) : Int)
    let ent := fun (i j : Nat) => soff + 4 * ((i * n.kind.shape.2 + j) / gsz)
    let byte := fun (i j : Nat) => t.lsRead (coreOf s.cur) (code i j).toNat 1
    let word := fun (i j : Nat) => t.lsRead (coreOf s.cur) (ent i j) 4
    (∀ e ∈ cells n.kind.shape.1 n.kind.shape.2, activeAt h m e.1 e.2 = true →
      0 ≤ code e.1 e.2 ∧ code e.1 e.2 + 1 ≤ (if s.me.smode then 2 ^ 18 else 0x3E000) ∧
      ent e.1 e.2 + 4 ≤ (if s.me.smode then 2 ^ 18 else 0x3E000) ∧
      (w = true → t.lsF (coreOf s.cur) (code e.1 e.2).toNat = true)) ∧
    (VWrites s t d.ix false
      (pm || (cells n.kind.shape.1 n.kind.shape.2).any (fun e => activeAt h m e.1 e.2 &&
        (decide (word e.1 e.2 / 2 ^ 24 ≠ 0) || t.lsP (coreOf s.cur) (code e.1 e.2).toNat ||
          t.lsP (coreOf s.cur) (ent e.1 e.2))))
      (fun k i j => if activeAt h m i j = true then
        some (rndElem k.kind.efk rm sat (dequant
          (if q4 then sext 4 (byte i j / 16 ^ ((i * n.kind.shape.2 + j) % 2)) else sext 8 (byte i j))
          (sext 8 (word i j / 2 ^ 16)) (word i j % 2 ^ 16))) else none) st)) ∧
    (∃ h d a b n o rs m pm v p, ∃ (s : State), Ready s h.g [d, a.ix, b.ix, h.msk] [a, b] none ∧
    s.me.nm d = some n ∧
    VOperands s (s.emptied [a, b]) h d a b ((n.kind.shape.2 * n.kind.sw + 7) / 8) o rs ∧
    VMasks s h m pm ∧
    VReads s d v p ∧
    VInStore s h m n.kind false o rs ∧
    LsOpen s [a, b] true) :=
  ⟨⟨_, false, .inl ⟨⟨.rne, false, rfl⟩, rfl⟩, h0, false, o 18, o 0, o 0, _, 0, 8, _, false, W, _, ready_plain rfl rfl rfl, rfl,
      ⟨rfl, rfl, rfl, .inl rfl, .inl ⟨rfl, rfl, rfl, rfl⟩, .inl ⟨rfl, rfl⟩⟩, v_nomask, ⟨fun _ => by decide, by decide⟩,
      rfl, nofun, v_writes rfl rfl⟩,
    ⟨h0, false, .rne, false, o 12, o 0, o 21, _, 0, 0x400100, true, 32, 256, _, false, W, _, ready_plain rfl rfl rfl, rfl, rfl,
      ⟨rfl, rfl, rfl, .inl rfl, .inl ⟨rfl, rfl, rfl, rfl⟩, .inr ⟨by decide, reads_int rfl⟩⟩, by unfold QDesc; decide, v_nomask,
      by decide, rfl, ⟨by decide, v_writes rfl rfl⟩⟩,
    ⟨h0, 9, o 0, o 0, _, 0, 8, _, false, _, false, W, ready_plain rfl rfl rfl, rfl,
      ⟨rfl, rfl, rfl, .inl rfl, .inl ⟨rfl, rfl, rfl, rfl⟩, .inl ⟨rfl, rfl⟩⟩, v_nomask, v_reads rfl,
      ⟨fun _ => by decide, by decide⟩, rfl⟩⟩

theorem witness_VectorStorePlaces :
    ∃ (sw : Nat) (es : List (VPlace × Nat)), (∀ e ∈ es, 0 ≤ e.1.off ∧ e.1.off + elemBytes sw ≤ 2 ^ 18) ∧
    ∃ q v rest, es = rest ++ [(q, v)] ∧
    8 ≤ sw ∧
    sw % 8 = 0 :=
  ⟨32, [(⟨0, 0, 0, 0⟩, 1), (⟨2 ^ 18 - 4, 0, 0, 1⟩, 2)], by decide, ⟨2 ^ 18 - 4, 0, 0, 1⟩, 2, [(⟨0, 0, 0, 0⟩, 1)], rfl,
    by decide, by decide⟩

theorem witness_VectorQuantizeRules :
    (∃ h gs rm sat d a e va ve m pa pe pm re ce, ∃ (s : State) (st : State), Ready s h.g [d.ix, a.ix, e.ix, h.msk] [a, e] (some d) ∧
    s.me.isFVec d.ix = true ∧
    s.me.isIVec a.ix = true ∧
    s.me.isEntryVec e.ix = true ∧
    VReads s a.ix va pa ∧
    VReads s e.ix ve pe ∧
    VMasks s h m pm ∧
    ve.shape = some (re, ce) ∧
    let act := fun (i j : Nat) => i < (extent s.ctx [d.ix, a.ix]).1 ∧ i < re ∧ j < (extent s.ctx [d.ix, a.ix]).2 ∧
        activeAt h m i j = true ∧ j / gsCols gs < ce
    let ent := fun (i j : Nat) => umod 32 (ve.get i (j / gsCols gs))
    (VWrites s (s.emptied [a, e]) d.ix false
      (pa || pe || pm || (cells re (extent s.ctx [d.ix, a.ix]).2).any (fun q =>
        decide (act q.1 q.2) && decide (ent q.1 q.2 / 2 ^ 24 ≠ 0)))
      (fun n i j => if act i j then
        some (rndElem n.kind.efk rm sat (dequant (va.get i j) (sext 8 (ent i j / 2 ^ 16)) (ent i j % 2 ^ 16))) else none) st)) ∧
    (∃ g gs d a e va pa nd ne w md r c sg md2 re ce, ∃ (s : State) (st : State), Ready s g [d.ix, a.ix, e.ix] [a, e] (some d) ∧
    s.me.nm d.ix = some nd ∧
    s.me.nm e.ix = some ne ∧
    nd.kind = .ivec true w md r c ∧
    (w = 4 ∨ w = 8) ∧
    ne.kind = .ivec sg 32 md2 re ce ∧
    s.me.isFVec a.ix = true ∧
    VReads s a.ix va pa ∧
    let er := min (extent s.ctx [d.ix, a.ix]).1 re
    let ec := (extent s.ctx [d.ix, a.ix]).2
    let gc := gsCols gs
    let grp := fun (i k : Nat) => quantGroup (if w = 4 then 7 else 127)
        (((List.range ec).filter (fun j => decide (j / gc = k))).map (fun j => va.fv i j))
    let fl := (cells er ((ec + gc - 1) / gc)).foldl (fun f q => f ||| (grp q.1 q.2).2.2) (0 : BitVec 5)
    fl &&& s.fpeMask = 0 ∧
    nd.f = true ∧
    ne.f = true ∧
    (VWrites s (s.raised (s.emptied [a, e]) fl) d.ix false pa
      (fun n i j => if i < er ∧ j < ec then some (fitElem n.kind (((grp i (j / gc)).2.1[j % gc]?).getD 0)) else none) st) ∧
    ∃ st2, (VWrites s st e.ix false pa
      (fun n i k => if i < er ∧ k < (ec + gc - 1) / gc then some (fitElem n.kind ((grp i k).1 : Int)) else none) st2)) ∧
    (∃ g d a b va pa q pb r c, ∃ (s : State) (st : State), Ready s g [d.ix, a.ix, b.ix] [a, b] (some d) ∧
    movsKinds d.ix a.ix b.ix s.me = true ∧
    NoQueue s d.ix ∧
    VReads s a.ix va pa ∧
    ReadsInt s (s.emptied [a, b]) b.ix q pb (s.emptied [a, b]) ∧
    va.shape = some (r, c) ∧
    let v := if 0 ≤ q ∧ q < 2 ^ 32 ∧ q / 2 ^ 16 < r ∧ q % 2 ^ 16 < c then va.get (q / 2 ^ 16).toNat (q % 2 ^ 16).toNat else 0
    ((va.fk = none ∧ WritesInt s (s.emptied [a, b]) d.ix v (pa || pb) st) ∨
      (∃ k, va.fk = some k ∧ WritesPat s (s.emptied [a, b]) d.ix k (k.canon v.toNat) (pa || pb) st))) ∧
    (∃ g d a b va pa q pb, ∃ (s : State) (st : State), Ready s g [d.ix, a.ix, b.ix] [a, b] (some d) ∧
    movsKinds d.ix a.ix b.ix s.me = true ∧
    s.me.isVec d.ix = true ∧
    VReads s a.ix va pa ∧
    ReadsInt s (s.emptied [a, b]) b.ix q pb (s.emptied [a, b]) ∧
    va.shape = none ∧
    VWrites s (s.emptied [a, b]) d.ix true (pa || pb)
      (fun n i j => if q = (i * 2 ^ 16 + j : Nat) ∧ j < 2 ^ 16 ∧ q < 2 ^ 32 then some (moveElem n.kind va 0 0) else none) st) ∧
    (∃ g mn d a va pa r c, ∃ (s : State) (st : State), Ready s g [d.ix, a.ix] [a] (some d) ∧
    s.me.isIVec d.ix = true ∧
    s.me.isVec a.ix = true ∧
    VReads s a.ix va pa ∧
    va.shape = some (r, c) ∧
    VWrites s (s.emptied [a]) d.ix false pa
      (fun n i j => if i < r ∧ j < c then ((rankRow va mn i c)[j]?).map (fun k => fitElem n.kind (k : Int)) else none) st) ∧
    (∃ h d a va m pa pm k n, ∃ (s : State), Ready s h.g [d.ix, a.ix, h.msk] [a] (some d) ∧
    s.me.isFVec d.ix = true ∧
    s.me.isFVec a.ix = true ∧
    va.fk = some k ∧
    k ≠ .a56 ∧
    VReads s a.ix va pa ∧
    VMasks s h m pm ∧
    s.me.nm d.ix = some n ∧
    n.f = true) :=
  ⟨⟨h0, .g32, .rne, false, o 12, o 9, o 10, _, _, _, false, false, false, 2, 2, W, _, ready_plain rfl rfl rfl, rfl, rfl, rfl,
      v_reads rfl, v_reads rfl, v_nomask, rfl, v_writes rfl rfl⟩,
    ⟨g0, .g32, o 22, o 11, o 10, _, false, _, _, 8, _, 2, 2, _, _, 2, 2, W, _, ready_plain rfl rfl rfl, rfl, rfl, rfl, .inr rfl, rfl,
      rfl, v_reads rfl, ⟨by decide, rfl, rfl, v_writes rfl rfl, _, v_writes rfl rfl⟩⟩,
    ⟨g0, o 15, o 11, o 5, _, false, 0, false, 2, 2, W, _, ready_plain rfl rfl rfl, rfl, rfl, v_reads rfl, reads_int rfl, rfl,
      .inr ⟨.f32, rfl, writes_pat rfl rfl⟩⟩,
    ⟨g0, o 9, o 1, o 5, _, false, 0, false, W, _, ready_plain rfl rfl rfl, rfl, rfl, v_reads rfl, reads_int rfl, rfl,
      v_writes rfl rfl⟩,
    ⟨g0, false, o 18, o 9, _, false, 2, 2, W, _, ready_plain rfl rfl rfl, rfl, rfl, v_reads rfl, rfl, v_writes rfl rfl⟩,
    ⟨h0, o 12, o 11, _, _, false, false, .f32, _, W, ready_plain rfl rfl rfl, rfl, rfl, rfl, by decide, v_reads rfl, v_nomask,
      rfl, rfl⟩⟩

theorem witness_ColumnRank :
    (∃ (va : VIn), va.fk = none) ∧
    (∃ (va : VIn), ∃ f, va.fk = some f) :=
  ⟨⟨⟨none, none, [0]⟩, rfl⟩, ⟨⟨some .f32, none, [0]⟩, .f32, rfl⟩⟩

end Sys2Proof.Machine.Tests
end

