-- ==== Sys2Proof/Tests/WitnessWork.lean ====
section
/-! SUPPORT. The hypotheses of the statements about threads, traps, messages and capsules, met by a small state. -/

namespace Sys2Proof.Machine.Tests

set_option Elab.async false

/-- No word of a list is poisoned, by counting. -/
theorem unpoisoned {l : List (Word × Bool)} (h : l.all (fun w => !w.2) = true) : ∀ w ∈ l, w.2 = false := by
  intro w hw
  have := List.all_eq_true.mp h w hw
  revert this
  cases w.2 <;> decide

/-- The small state with all four capsule buffers of core 0 in use. -/
def WF : State := { W with
  lmem := [(0x1006, 8), (0x1007, 1)],
  cores := [(0, { Core.reset with capBufs := [(0, wBuf (wHdr 1 0 0 0) none true), (1, wBuf (wHdr 1 0 0 0) none true),
    (2, wBuf (wHdr 1 0 0 0) none true), (3, wBuf (wHdr 1 0 0 0) none true)] })] }

theorem witness_SemaphoresAndQueues :
    (∃ g, ∃ n : BitVec 8, ∃ t : BitVec 12, ∃ (s : State), Ready s g [] [] none ∧
    BitVec.toNat t ≤ s.sem (coreOf s.cur) (BitVec.toNat n)) ∧
    (∃ g, ∃ n : BitVec 8, ∃ t : BitVec 12, ∃ (s : State), Ready s g [] [] none ∧
    s.sem (coreOf s.cur) (BitVec.toNat n) < BitVec.toNat t) ∧
    (∃ g, ∃ (s : State), Ready s g [] [] none ∧
    Released s s.counted .sys) ∧
    (∃ g, ∃ v : ImmS, ∃ k, ∃ (s : State), Ready s g [] [] none ∧
    ((∃ x, v = .i14 x ∧ k = BitVec.toNat x) ∨ (∃ x, v = .x32 x ∧ k = BitVec.toNat x))) ∧
    (∃ g d, ∃ n : BitVec 8, ∃ (s : State) (st : State), Ready s g [d.ix] [] (some d) ∧
    WritesInt s s.counted d.ix (s.sem (coreOf s.cur) (BitVec.toNat n)) false st) ∧
    (∃ g, ∃ (d : Ix), ∃ a c, ∃ (s : State) (st : State), Ready s g [d, a.ix] [a] none ∧
    s.me.isQ d = true ∧
    ((a.ix = 0 ∧ c = coreOf s.cur ∧ st = s.counted) ∨
      (IntName s a.ix ∧ ∃ v, ReadsInt s (s.emptied [a]) a.ix v false st ∧ CoreNamed s v c))) ∧
    (∃ g d, ∃ n : BitVec 5, ∃ (s : State) (st : State), Ready s g [d.ix] [] (some d) ∧
    NoQueue s d.ix ∧
    WritesInt s s.counted d.ix (s.queue (coreOf s.cur) (BitVec.toNat n)).length false st) ∧
    (∃ (id : Nat) (s : State), ∃ t ep core q v p, mfind id s.inflight = some (.push t ep core q v p) ∧
    (s.queue core q).length < 16 ∧
    (∀ e ∈ s.inflight, e.1 < id → ∀ ep v p, e.2 ≠ .push t ep core q v p)) :=
  ⟨⟨g0, 0, 0, W, ready_plain rfl rfl rfl, by decide⟩, ⟨g0, 0, 1, W, ready_plain rfl rfl rfl, by decide⟩,
    ⟨g0, W, ready_plain rfl rfl rfl, rfl⟩, ⟨g0, .i14 3, _, W, ready_plain rfl rfl rfl, .inl ⟨3, rfl, rfl⟩⟩,
    ⟨g0, o 4, 0, W, _, ready_plain rfl rfl rfl, writes_int rfl rfl rfl⟩,
    ⟨g0, 13, o 5, 0, W, _, ready_plain rfl rfl rfl, rfl, .inr ⟨⟨_, _, _, _, rfl, rfl⟩, 0, reads_int rfl, rfl, by decide, rfl⟩⟩,
    ⟨g0, o 4, 3, W, _, ready_plain rfl rfl rfl, rfl, writes_int rfl rfl rfl⟩,
    ⟨9, WR (.push 0 0 0 3 7 false), _, _, _, _, _, _, rfl, by decide, wr_first⟩⟩

theorem witness_MessagesAreSent :
    (∃ g, ∃ k : BitVec 6, ∃ a pl v, ∃ (st : State) (s : State), Ready s g (a.ix :: pl) [a] none ∧
    ReadsInt s (s.emptied [a]) a.ix v false st ∧
    (∀ i ∈ pl, s.me.isVec i = false ∧ s.me.isQ i = false) ∧
    ∃ c ws, CoreNamed s v c ∧
    (BitVec.toNat k = 0 → s.me.smode = true) ∧
    Payload s pl ws ∧
    ((st.core c).inMsg.length < 4 ∨ st.switchUse (cluOf (coreOf s.cur)) < Config.switchHolds) ∧
    Released s st .dev) ∧
    (∃ g, ∃ k : BitVec 6, ∃ a pl v, ∃ (st : State) (s : State), Ready s g (a.ix :: pl) [a] none ∧
    ReadsInt s (s.emptied [a]) a.ix v false st ∧
    (∀ i ∈ pl, s.me.isVec i = false ∧ s.me.isQ i = false) ∧
    ∃ c, CoreNamed s v c ∧
    BitVec.toNat k = 0 ∧
    s.me.smode = false) ∧
    (∃ g a pl v, ∃ (st : State) (s : State), Ready s g (a.ix :: pl) [a] none ∧
    ReadsInt s (s.emptied [a]) a.ix v false st ∧
    (∀ i ∈ pl, s.me.isVec i = false ∧ s.me.isQ i = false) ∧
    (v < 0 ∨ 4095 < v ∨ s.samePart v.toNat (coreOf s.cur) = false)) :=
  ⟨⟨g0, 1, o 5, [1], 0, _, W, ready_plain rfl rfl rfl, reads_int rfl, by decide, 0, _, ⟨rfl, by decide, rfl⟩, by decide,
      ⟨_, _, _, rfl, rfl, .inr ⟨_, rfl, rfl, rfl, .inl ⟨_, _, _, rfl, rfl⟩⟩⟩, .inl (by decide), rfl⟩,
    ⟨g0, 0, o 5, [1], 0, _, W, ready_plain rfl rfl rfl, reads_int rfl, by decide, 0, ⟨rfl, by decide, rfl⟩, by decide, rfl⟩,
    ⟨g0, o 20, [1], 0x8000, _, W, ready_plain rfl rfl rfl, reads_int rfl, by decide, .inr (.inl (by decide))⟩⟩

theorem witness_ThreadsSpawnJoinAndEnd :
    (∃ g a, ∃ t : ImmS, ∃ tgt v f c, ∃ (s : State) (st : State), Ready s g [a.ix] [a] none ∧
    IntName s a.ix ∧
    ReadsInt s (s.emptied [a]) a.ix v false st ∧
    let cf := BitVec.ofInt 64 v
    s.me.frame ≠ 0 ∧
    cf ≠ 0 ∧
    cf.toNat % 32 = 0 ∧
    FrameAcc s st s.me.frame f ∧
    FrameAcc s st cf c ∧
    (s.portBefore s.cur).dequeFull (coreOf s.cur) = false ∧
    Performed s st ∧
    ((∃ x, t = .i14 x ∧ tgt = s.me.pc + 4 * BitVec.signExtend 64 x) ∨
      (∃ x, t = .x32 x ∧ tgt = s.me.pc + 4 * BitVec.signExtend 64 x))) ∧
    (∃ g f, ∃ (s : State), Ready s g [] [] none ∧
    s.me.frame ≠ 0 ∧
    FrameAcc s s.counted s.me.frame f ∧
    Performed s s.counted) ∧
    (∃ g, ∃ (s : State), Ready s g [] [] none ∧
    s.me.frame = 0 ∧
    (s.counted.drain s.cur).heldBuf s.cur = none ∧
    (s.reserved (coreOf s.cur) = true → s.cur % 16 < 14) ∧
    Performed s s.counted) ∧
    (∃ g f, ∃ (s : State), Ready s g [] [] none ∧
    s.me.frame ≠ 0 ∧
    FrameAcc s s.counted s.me.frame f ∧
    (s.counted.drain s.cur).heldBuf s.cur = none ∧
    Performed s s.counted) :=
  ⟨⟨g0, o 20, .i14 4, _, 0x8000, _, _, WX { wSlot with frame := 0x9000 }, _, ready_plain rfl rfl rfl, ⟨_, _, _, _, rfl, rfl⟩,
      reads_int rfl, by decide, by decide, by decide, ⟨_, wLeaf, rfl, rfl, rfl⟩, ⟨_, wLeaf, rfl, rfl, rfl⟩, rfl, rfl,
      .inl ⟨4, rfl, rfl⟩⟩,
    ⟨g0, _, WX { wSlot with frame := 0x9000 }, ready_plain rfl rfl rfl, by decide, ⟨_, wLeaf, rfl, rfl, rfl⟩, rfl⟩,
    ⟨g0, W, ready_plain rfl rfl rfl, rfl, rfl, by decide, rfl⟩,
    ⟨g0, _, WX { wSlot with frame := 0x9000 }, ready_plain rfl rfl rfl, by decide, ⟨_, wLeaf, rfl, rfl, rfl⟩, rfl, rfl⟩⟩

theorem witness_FrameOperations :
    (∃ (id : Nat) (s : State), ∃ a pa l f, AtOwner s id (.inc a l f) ∧
    a.tgt = .mem pa) ∧
    (∃ (id : Nat) (s : State), ∃ a pa, ∃ (p tn : Word), AtOwner s id (.hdr a p tn) ∧
    a.tgt = .mem pa) ∧
    (∃ (id : Nat) (s : State), ∃ a pa l pr pc f, AtOwner s id (.dec a l pr pc f) ∧
    a.tgt = .mem pa ∧
    (∀ k < 4, s.memPoison (pa + 8 * k) = false) ∧
    wordAt s pa 2 = 0) ∧
    (∃ (id : Nat) (s : State), ∃ a pa l pr pc f, AtOwner s id (.dec a l pr pc f) ∧
    a.tgt = .mem pa ∧
    (∀ k < 4, s.memPoison (pa + 8 * k) = false) ∧
    ∃ q lf, wordAt s pa 2 ≠ 0 ∧
    s.xlatePart (launchPart l) false (wordAt s pa 2) .wr = .ok q lf ∧
    isDev q = true) ∧
    (∃ (id : Nat) (s : State), ∃ src ep l pa tr f, mfind id s.inflight = some (.decPrime src ep l pa tr f) ∧
    wordAt s pa 0 % 2 ^ 63 = 0) ∧
    (∃ (id : Nat) (s : State), ∃ src ep l pa tr f, mfind id s.inflight = some (.decPrime src ep l pa tr f) ∧
    wordAt s pa 0 % 2 ^ 63 ≠ 0) ∧
    (∃ (id : Nat) (s : State), ∃ a pa, ∃ (r : Word), AtOwner s id (.test a r) ∧
    a.tgt = .mem pa ∧
    wordAt s pa 0 % 2 ^ 63 = 0) ∧
    (∃ (id : Nat) (s : State), ∃ a pa, ∃ (r : Word), AtOwner s id (.test a r) ∧
    a.tgt = .mem pa ∧
    wordAt s pa 0 % 2 ^ 63 ≠ 0) :=
  ⟨⟨9, WR (.inc (wAcc 0x9000) 0 0x9000), _, _, _, _, ⟨rfl, rfl, near rfl⟩, rfl⟩,
    ⟨9, WR (.hdr (wAcc 0x9000) 0x9020 0x8000), _, _, _, _, ⟨rfl, rfl, near rfl⟩, rfl⟩,
    ⟨9, WR (.dec (wAcc 0x9000) 0 0 0x1000 0x9000), _, _, _, _, _, _, ⟨rfl, rfl, near rfl⟩, rfl, by decide, by decide⟩,
    ⟨9, WR (.dec (wAcc 0xFFF0) 0 0 0x1000 0xFFF0), _, _, _, _, _, _, ⟨rfl, rfl, near rfl⟩, rfl, by decide, _, _, by decide, rfl, rfl⟩,
    ⟨9, WR (.decPrime 0 0 0 0x9000 false 0x9000), _, _, _, _, _, _, rfl, by decide⟩,
    ⟨9, WR (.decPrime 0 0 0 0x8000 false 0x8000), _, _, _, _, _, _, rfl, by decide⟩,
    ⟨9, WR (.test (wAcc 0x9000) 0x1008), _, _, _, ⟨rfl, rfl, near rfl⟩, rfl, by decide⟩,
    ⟨9, WR (.test (wAcc 0x8000) 0x1008), _, _, _, ⟨rfl, rfl, near rfl⟩, rfl, by decide⟩⟩

theorem witness_WorkEvents :
    (∃ (id : Nat) (s : State), ∃ c l f, mfind id s.inflight = some (.incAck c l f) ∧
    (∀ e ∈ mdel id s.inflight, (∀ a k, e.2 = .inc a k f → coreOf a.tid ≠ c) ∧ (∀ k, e.2 ≠ .incAck c k f))) ∧
    (∃ (id : Nat) (s : State), ∃ t ep go r, mfind id s.inflight = some (.testReply t ep go) ∧
    s.repacking (coreOf t) = false ∧
    (s.slot t).held = .test r ∧
    (s.slot t).epoch = ep ∧
    go = false) ∧
    (∃ (id : Nat) (s : State), ∃ t ep go r, mfind id s.inflight = some (.testReply t ep go) ∧
    s.repacking (coreOf t) = false ∧
    (s.slot t).held = .test r ∧
    (s.slot t).epoch = ep ∧
    ∃ ks, go = true ∧
    s.readTuning (s.partNum (coreOf t)) true (coreOf t) r.tuning = .ok ks ∧
    s.fits (coreOf t) (costOf ks) = true) ∧
    (∃ (id : Nat) (s : State), ∃ t ep l pr, (s.slot t).held = .dec l pr ∧
    (s.slot t).epoch = ep ∧
    mfind id s.inflight = some (.decReply t ep none)) ∧
    (∃ (id : Nat) (s : State), ∃ t ep l pr, (s.slot t).held = .dec l pr ∧
    (s.slot t).epoch = ep ∧
    ∃ pc fr tn ks, mfind id s.inflight = some (.decReply t ep (some (pc, fr, tn))) ∧
    s.dequeFull (coreOf t) = false ∧
    s.portServes (coreOf t) t = true ∧
    s.readTuning (s.partNum (coreOf t)) true (coreOf t) tn = .ok ks) ∧
    (∃ (id : Nat) (s : State), ∃ t ep k v vs, mfind id s.inflight = some (.probe t ep k (v :: vs)) ∧
    (s.slot t).seeking ep k = true ∧
    s.portServes v t = true ∧
    ∃ r u, k = 0 ∧
    s.takeBottom v = some (r, u) ∧
    s.fits (coreOf t) r.bits = true) ∧
    (∃ (id : Nat) (s : State), ∃ t ep k v vs, mfind id s.inflight = some (.probe t ep k (v :: vs)) ∧
    (s.slot t).seeking ep k = true ∧
    s.portServes v t = true ∧
    ∃ r u, k ≠ 0 ∧
    s.takeTop v = some (r, u) ∧
    s.samePart (coreOf t) v = true ∧
    (s.core v).offline = false ∧
    r.ack = true ∧
    s.fits (coreOf t) r.bits = true) ∧
    (∃ (id : Nat) (s : State), ∃ t ep k v vs, mfind id s.inflight = some (.probe t ep k (v :: vs)) ∧
    (s.slot t).seeking ep k = true ∧
    s.portServes v t = true ∧
    ∃ r u, k = 0 ∧
    s.takeBottom v = some (r, u) ∧
    s.fits (coreOf t) r.bits = false) ∧
    (∃ (id : Nat) (s : State), ∃ t ep k v vs, mfind id s.inflight = some (.probe t ep k (v :: vs)) ∧
    (s.slot t).seeking ep k = true ∧
    s.portServes v t = true ∧
    (k = 0 → s.takeBottom v = none) ∧
    (k ≠ 0 → ∀ r u, s.takeTop v = some (r, u) → s.samePart (coreOf t) v = false ∨
        (s.core v).offline = true ∨ r.ack = false ∨ s.fits (coreOf t) r.bits = false)) ∧
    (∃ (id : Nat) (s : State), ∃ t ep k v vs, mfind id s.inflight = some (.probe t ep k (v :: vs)) ∧
    (s.slot t).seeking ep k = true ∧
    s.portServes v t = false) ∧
    (∃ (s : State) (t : Tid), (∀ e ∈ s.inflight, ∀ u ep k v vs, e.2 = .probe u ep k (v :: vs) → coreOf u ≠ coreOf t ∨ t ≤ u)) ∧
    (∃ (id : Nat) (s : State), ∃ t ep k, mfind id s.inflight = some (.probe t ep k []) ∧
    (s.slot t).seeking ep k = true) ∧
    (∃ (s : State), ∃ t, ∃ (id : Nat), ∃ ep r ks, s.tookOf t = some (id, ep, r) ∧
    s.repacking (coreOf t) = false ∧
    (s.slot t).seeking ep (s.slot t).probeNo = true ∧
    s.readTuning (s.partNum (coreOf t)) true (coreOf t) r.tuning = .ok ks ∧
    s.fits (coreOf t) (costOf ks) = true) ∧
    (∃ (s : State), ∃ c t, s.cycle % 512 = 16 * (c % 32) ∧
    (s.core c).lastSeek ≤ s.cycle ∧
    (s.core c).offline = false ∧
    (s.partOf c).isSome = true ∧
    LiveLaunch s (s.partNum c) ∧
    (∀ u ∈ coreTids c, ∀ k, (s.slot u).held ≠ .seek k true) ∧
    s.headTakes c = false ∧
    s.freeSlotOf c false = some t) :=
  ⟨⟨9, WR (.incAck 0 0 0x9000), _, _, _, rfl, by intro e he; exact nomatch (show e ∈ ([] : List (Nat × Req)) from he)⟩,
    ⟨9, WH (.test wRec) (.testReply 1 0 false), _, _, _, _, rfl, rfl, rfl, rfl, rfl⟩,
    ⟨9, WH (.test wRec) (.testReply 1 0 true), _, _, _, _, rfl, rfl, rfl, rfl, _, rfl, rfl, rfl⟩,
    ⟨9, WH (.dec 0 0) (.decReply 1 0 none), _, _, _, _, rfl, rfl, rfl⟩,
    ⟨9, WH (.dec 0 0) (.decReply 1 0 (some (0x1000, 0x9000, 0x8000))), _, _, _, _, rfl, rfl, _, _, _, _, rfl, rfl, rfl, rfl⟩,
    ⟨9, { WH (.seek 0 false) (.probe 1 0 0 [0]) with cores := [(0, { Core.reset with deque := [wRec] })] }, _, _, _, _, _, rfl,
      rfl, rfl, _, _, rfl, rfl, rfl⟩,
    ⟨9, { WH (.seek 1 false) (.probe 1 0 1 [1]) with cores := [(1, { Core.reset with deque := [wRec] })] }, _, _, _, _, _, rfl,
      rfl, rfl, _, _, by decide, rfl, rfl, rfl, rfl, rfl⟩,
    ⟨9, { WH (.seek 0 false) (.probe 1 0 0 [0]) with
        slots := [(0, { wSlot with names := [full (.ivec true 64 .wrap 512 8) [], num 0], bits := 262144 }),
          (1, heldSlot Slot.reset (.seek 0 false))]
        cores := [(0, { Core.reset with deque := [wRec] })] }, _, _, _, _, _, rfl, rfl, rfl, _, _, rfl, rfl, rfl⟩,
    ⟨9, WH (.seek 1 false) (.probe 1 0 1 [1]), _, _, _, _, _, rfl, rfl, rfl, by decide, fun _ _ _ h => nomatch h⟩,
    ⟨9, { WH (.seek 1 false) (.probe 1 0 1 [1]) with cores := [(1, { Core.reset with portAt := 1, portRank := 20 })] },
      _, _, _, _, _, rfl, rfl, rfl⟩,
    ⟨W, 0, by intro e he; exact nomatch (show e ∈ ([] : List (Nat × Req)) from he)⟩,
    ⟨9, WH (.seek 1 false) (.probe 1 0 1 []), _, _, _, rfl, rfl⟩,
    ⟨WH (.seek 0 false) (.took 1 0 wRec), 1, _, _, _, _, rfl, rfl, rfl, rfl, rfl⟩,
    ⟨{ W with launches := [(0, wLaunch)] }, 0, _, rfl, by decide, rfl, rfl, .inl ⟨_, .head _, rfl, rfl⟩, by
        intro u hu k
        have h : ∀ u ∈ coreTids 0, ({ W with launches := [(0, wLaunch)] }.slot u).held = .none := by decide
        rw [h u hu]; simp, rfl, rfl⟩⟩

theorem witness_GroupOps :
    (∃ g a v, ∃ (s : State), Ready s g [a.ix] [a] none ∧
    s.me.intNil a.ix = true ∧
    ReadsInt s (s.emptied [a]) a.ix v false (s.emptied [a]) ∧
    s.me.greq = .genterDone) ∧
    (∃ g a v, ∃ (s : State), Ready s g [a.ix] [a] none ∧
    s.me.intNil a.ix = true ∧
    ReadsInt s (s.emptied [a]) a.ix v false (s.emptied [a]) ∧
    ∃ va pa l, s.me.greq = .none ∧
    va = BitVec.ofInt 64 v ∧
    BitVec.toNat va % 32 = 0 ∧
    s.xlate (cluOf (coreOf s.cur)) (s.partNum (coreOf s.cur)) s.me.smode (BitVec.toNat va) .rw = .ok pa l ∧
    isHost pa = false ∧
    isPeer pa = false ∧
    (s.me.group = 0 ∨ Performed s (s.emptied [a]))) ∧
    (∃ g, ∃ (s : State), Ready s g [] [] none ∧
    (s.me.group = 0 ∨ Performed s s.counted)) ∧
    (∃ g, ∃ (s : State), Ready s g [] [] none ∧
    s.me.group = 0) ∧
    (∃ g, ∃ (s : State), Ready s g [] [] none ∧
    s.me.group ≠ 0 ∧
    s.me.greq = .gbarDone ∧
    (∀ m, s.me.marker = some m → m.1 = s.me.pc)) ∧
    (∃ g, ∃ (s : State), Ready s g [] [] none ∧
    s.me.group ≠ 0 ∧
    s.me.greq = .none ∧
    s.me.marker = none) ∧
    (∃ g d, ∃ (s : State), Ready s g [d.ix] [] (some d) ∧
    s.me.intOk d.ix = true ∧
    NoQueue s d.ix ∧
    s.me.group ≠ 0) ∧
    (∃ g d, ∃ (s : State), Ready s g [d.ix] [] (some d) ∧
    s.me.intOk d.ix = true ∧
    NoQueue s d.ix ∧
    ∃ (st : State), s.me.group = 0 ∧
    WritesInt s s.counted d.ix 0 false st) :=
  ⟨⟨g0, o 20, 0x8000, WX { wSlot with greq := .genterDone }, ready_plain rfl rfl rfl, rfl, reads_int rfl, rfl⟩,
    ⟨g0, o 20, 0x8000, W, ready_plain rfl rfl rfl, rfl, reads_int rfl, _, _, _, rfl, rfl, by decide, rfl, rfl, rfl,
      .inl rfl⟩,
    ⟨g0, W, ready_plain rfl rfl rfl, .inl rfl⟩, ⟨g0, W, ready_plain rfl rfl rfl, rfl⟩,
    ⟨g0, WX { wSlot with group := 0x9000, greq := .gbarDone, marker := some (0x1000, 0) }, ready_plain rfl rfl rfl, by decide, rfl,
      by intro m h; cases h; rfl⟩,
    ⟨g0, WX { wSlot with group := 0x9000 }, ready_plain rfl rfl rfl, by decide, rfl, rfl⟩,
    ⟨g0, o 4, WX { wSlot with group := 0x9000 }, ready_plain rfl rfl rfl, rfl, rfl, by decide⟩,
    ⟨g0, o 4, W, ready_plain rfl rfl rfl, rfl, rfl, _, rfl, writes_int rfl rfl rfl⟩⟩

theorem witness_GroupsAtTheBank :
    (∃ (id : Nat) (s : State), ∃ a pa va, AtOwner s id (.genter a va) ∧
    a.tgt = .mem pa ∧
    wordAt s pa 1 = 0) ∧
    (∃ (id : Nat) (s : State), ∃ a pa va, AtOwner s id (.genter a va) ∧
    a.tgt = .mem pa ∧
    wordAt s pa 1 ≠ 0) ∧
    (∃ (id : Nat) (s : State), ∃ a pa gen, AtOwner s id (.gleave a gen) ∧
    a.tgt = .mem pa ∧
    (gen = some (wordAt s pa 3) ∨ wordAt s pa 1 = 0) ∧
    ∃ k, 1 ≤ k ∧
    k ≤ 3) ∧
    (∃ (id : Nat) (s : State), ∃ a pa gen, AtOwner s id (.gleave a gen) ∧
    a.tgt = .mem pa ∧
    gen ≠ some (wordAt s pa 3) ∧
    wordAt s pa 1 ≠ 0 ∧
    (s.bank (bankOf pa)).held = [] ∧
    wordAt s pa 2 + 1 < 2 ^ 64 ∧
    wordAt s pa 2 + 1 ≠ wordAt s pa 1) ∧
    (∃ (id : Nat) (s : State), ∃ a pa gen, AtOwner s id (.gleave a gen) ∧
    a.tgt = .mem pa ∧
    gen ≠ some (wordAt s pa 3) ∧
    wordAt s pa 1 ≠ 0 ∧
    (s.bank (bankOf pa)).held = [] ∧
    wordAt s pa 2 + 1 < 2 ^ 64 ∧
    wordAt s pa 2 + 1 = wordAt s pa 1 ∧
    ∃ u, u ≠ a.tid ∧ WaitsIn s pa u) ∧
    (∃ (id : Nat) (s : State), ∃ a pa pc, AtOwner s id (.gbar a pc) ∧
    a.tgt = .mem pa ∧
    (s.slot a.tid).epoch = a.ep ∧
    (s.bank (bankOf pa)).held = [] ∧
    (s.slot a.tid).greq = .gbarSent ∧
    (s.slot a.tid).group ≠ 0 ∧
    (s.slot a.tid).groupPa = pa) ∧
    (∃ (id : Nat) (s : State), ∃ a pa, ∃ (dst : Dst), AtOwner s id (.gsize a dst) ∧
    a.tgt = .mem pa) ∧
    (∃ (id : Nat) (s : State), ∃ t ep va pa ord tr, mfind id s.inflight = some (.genterReply t ep va pa ord tr) ∧
    (s.slot t).inGenter ep = true) ∧
    (∃ (id : Nat) (s : State), ∃ t ep pa tr h, mfind id s.inflight = some (.genterWd t ep pa tr false) ∧
    (∀ e ∈ s.inflight, e.2.genters t ep = false) ∧
    s.mustWait t = false ∧
    h ∈ (s.bank (bankOf pa)).held ∧
    h.1.tid = t ∧
    h.1.ep = ep ∧
    h.1.tgt = .mem pa) :=
  ⟨⟨9, WR (.genter (wAcc 0x9000) 0x9000), _, _, _, ⟨rfl, rfl, near rfl⟩, rfl, by decide⟩,
    ⟨9, WR (.genter (wAcc 0x8000) 0x8000), _, _, _, ⟨rfl, rfl, near rfl⟩, rfl, by decide⟩,
    ⟨9, WR (.gleave (wAcc 0x9000) none), _, _, _, ⟨rfl, rfl, near rfl⟩, rfl, .inr (by decide), 1, by decide⟩,
    ⟨9, { WR (.gleave (wAcc 0x9000) none) with mem := [(0x9000, 3), (0x9008, 3), (0x9010, 1)] }, _, _, _,
      ⟨rfl, rfl, near rfl⟩, rfl, nofun, by decide, rfl, by decide, by decide⟩,
    ⟨9, { WR (.gleave (wAcc 0x9000) none) with
        mem := [(0x9000, 3), (0x9008, 3), (0x9010, 2)]
        slots := [(0, wSlot), (1, { wSlot with greq := .gbarSent, group := 0x9000, groupPa := 0x9000, marker := some (0x1000, 0) })]
        banks := [(bankOf 0x9000, { Bank.reset with waiters := [(0x9000, 1, 0)] })] }, _, _, _,
      ⟨rfl, rfl, near rfl⟩, rfl, nofun, by decide, rfl, by decide, by decide, 1, by decide, .head _, rfl, by decide, rfl, rfl⟩,
    ⟨9, { WR (.gbar (wAcc 0x9000) 0x1000) with
        slots := [(0, { wSlot with greq := .gbarSent, group := 0x9000, groupPa := 0x9000 })] }, _, _, _, ⟨rfl, rfl, near rfl⟩,
      rfl, rfl, rfl, rfl, by decide, rfl⟩,
    ⟨9, WR (.gsize (wAcc 0x9000) ⟨0, 0, 4, 5⟩), _, _, _, ⟨rfl, rfl, near rfl⟩, rfl⟩,
    ⟨9, { WR (.genterReply 0 0 0x9000 0x9000 .rc false) with slots := [(0, { wSlot with greq := .genterSent 0x9000 false })] },
      _, _, _, _, _, _, rfl, rfl⟩,
    ⟨9, { WR (.genterWd 0 0 0x9000 false false) with
        banks := [(bankOf 0x9000, { Bank.reset with held := [(wAcc 0x9000, 0x9000)] })] }, _, _, _, _, _, rfl, by decide, rfl, .head _, rfl,
      rfl, rfl⟩⟩

/-- The last member and one before it arrive at a barrier. -/
theorem witness_GroupsAtTheBank_arrivals :
    (∃ (id : Nat) (s : State) (a : Acc) (pa : Nat) (pc : Word), AtOwner s id (.gbar a pc) ∧ a.tgt = .mem pa ∧
      (s.slot a.tid).epoch = a.ep ∧ (s.bank (bankOf pa)).held = [] ∧ (s.slot a.tid).greq = .gbarSent ∧
      (s.slot a.tid).group ≠ 0 ∧ (s.slot a.tid).groupPa = pa ∧ wordAt s pa 1 = 0 ∧ (1 : Nat) ≠ wordAt s pa 0) ∧
    (∃ (id : Nat) (s : State) (a : Acc) (pa : Nat) (pc : Word) (u : Tid), AtOwner s id (.gbar a pc) ∧ a.tgt = .mem pa ∧
      (s.slot a.tid).epoch = a.ep ∧ (s.bank (bankOf pa)).held = [] ∧ (s.slot a.tid).greq = .gbarSent ∧
      (s.slot a.tid).group ≠ 0 ∧ (s.slot a.tid).groupPa = pa ∧ wordAt s pa 1 ≠ 0 ∧ wordAt s pa 2 + 1 < 2 ^ 64 ∧
      wordAt s pa 2 + 1 = wordAt s pa 1 ∧ WaitsIn s pa u) :=
  ⟨⟨9, { WR (.gbar (wAcc 0x9000) 0x1000) with
        mem := [(0x9000, 2)]
        slots := [(0, { wSlot with greq := .gbarSent, group := 0x9000, groupPa := 0x9000 })] }, _, _, _, ⟨rfl, rfl, near rfl⟩,
      rfl, rfl, rfl, rfl, by decide, rfl, by decide, by decide⟩,
    ⟨9, { WR (.gbar (wAcc 0x9000) 0x1000) with
        mem := [(0x9000, 2), (0x9008, 2), (0x9010, 1)]
        slots := [(0, { wSlot with greq := .gbarSent, group := 0x9000, groupPa := 0x9000 }),
          (1, { wSlot with greq := .gbarSent, group := 0x9000, groupPa := 0x9000, marker := some (0x1000, 0) })]
        banks := [(bankOf 0x9000, { Bank.reset with waiters := [(0x9000, 1, 0)] })] }, _, _, _, 1, ⟨rfl, rfl, near rfl⟩,
      rfl, rfl, rfl, rfl, by decide, rfl, by decide, by decide, by decide, .head _, rfl, by decide, rfl, rfl⟩⟩

theorem witness_TakingATrap :
    (∃ (s : State) (t : Tid), (s.drain t).heldBuf t = none ∧
    let d := s.drain t
    (d.slot t).smode = false ∧
    ∃ g, (d.part (d.partNum (coreOf t))).cfg = some g) ∧
    (∃ (s : State) (t : Tid), (s.drain t).heldBuf t = none ∧
    let d := s.drain t
    (d.slot t).smode = true ∧
    ∃ g, d.cfgOf (coreOf t) = some g ∧
    g.svec ≠ 0 ∧
    (d.slot t).ecause.toNat < 2 ^ 63) ∧
    (∃ (s : State) (t : Tid), (s.drain t).heldBuf t = none ∧
    let d := s.drain t
    (d.slot t).smode = true ∧
    (2 ^ 63 ≤ (d.slot t).ecause.toNat ∨ ∀ g, d.cfgOf (coreOf t) = some g → g.svec = 0) ∧
    d.partNum (coreOf t) = 0) ∧
    (∃ (s : State) (t : Tid), (s.drain t).heldBuf t = none ∧
    let d := s.drain t
    (d.slot t).smode = true ∧
    (2 ^ 63 ≤ (d.slot t).ecause.toNat ∨ ∀ g, d.cfgOf (coreOf t) = some g → g.svec = 0) ∧
    d.partNum (coreOf t) ≠ 0 ∧
    ∃ g, (d.part 0).cfg = some g) :=
  ⟨⟨W, 0, rfl, ⟨rfl, _, rfl⟩⟩,
    ⟨{ WS with parts := [(0, { Part.reset with cfg := some { wPcb with svec := 0x4000 } })] }, 0, rfl,
      ⟨rfl, _, rfl, by decide, by decide⟩⟩,
    ⟨WX { wSlot with smode := true, ecause := 0x8000000000000000 }, 0, rfl, ⟨rfl, by decide, rfl⟩⟩,
    ⟨{ WX { wSlot with smode := true, ecause := 0x8000000000000000 } with
        parts := [(0, { Part.reset with cfg := some { wPcb with first := 16 } }), (1, { Part.reset with cfg := some wPcb })] },
      0, rfl, ⟨rfl, by decide, by decide, _, rfl⟩⟩⟩

theorem witness_NameChecksTrap :
    (∃ i o, OpOf i o ∧
    ∃ (s : State), ∃ k, (o.g.name :: o.fields).find? (fun k => decide (s.me.names.length < k.toNat)) = some k) ∧
    (∃ i o, OpOf i o ∧
    ∃ (s : State), Declared s o.g o.fields ∧
    (o.kinds s.me = false ∨ (o.g.name ≠ 0 ∧ s.me.isInt o.g.name = false) ∨
        ∃ q ∈ o.m ++ o.d.toList, q.sync = true ∧ s.me.isQ q.ix = true)) ∧
    (∃ i o, OpOf i o ∧
    ∃ (s : State), ∃ n, WellNamed s o ∧
    s.me.nm o.g.name = some n ∧
    n.f = false) ∧
    (∃ i o, OpOf i o ∧
    ∃ (s : State), ∃ n, WellNamed s o ∧
    s.me.nm o.g.name = some n ∧
    n.f = true ∧
    n.p = true) ∧
    (∃ i o, OpOf i o ∧
    ∃ (s : State), ∃ e, Ready s o.g o.fields o.m o.d ∧
    o.kinds s.me = true ∧
    o.run s.ctx (s.emptied o.m) = .error (.trap e)) ∧
    (∃ c r, IntOp1 c r ∧
    ∃ (g : Guard) (d a : Opd), ∃ (s : State), Declared s g [d.ix, a.ix] ∧
    (g.name = 0 ∨ IntName s g.name) ∧
    (∃ k, FltName s a.ix k)) ∧
    (∃ c r, IntOp2 c r ∧
    ∃ (g : Guard) (d a b : Opd), ∃ (s : State), Declared s g [d.ix, a.ix, b.ix] ∧
    (g.name = 0 ∨ IntName s g.name) ∧
    ((∃ k, FltName s a.ix k) ∨ ∃ k, FltName s b.ix k)) ∧
    (∃ c r, IntOp1 c r ∧
    ∃ g d a, ∃ (s : State), ∃ n, Ready s g [d.ix, a.ix] [a] (some d) ∧
    s.me.intOk d.ix = true ∧
    IntName s a.ix ∧
    s.me.nm a.ix = some n ∧
    n.f = false) ∧
    (∃ c r, IntOp2 c r ∧
    ∃ g d a b, ∃ (s : State), ∃ n, Ready s g [d.ix, a.ix, b.ix] [a, b] (some d) ∧
    s.me.intOk d.ix = true ∧
    s.me.intOk a.ix = true ∧
    s.me.intOk b.ix = true ∧
    IntName s a.ix ∧
    s.me.nm a.ix = some n ∧
    n.f = false) ∧
    (∃ c r, IntOp2 c r ∧
    ∃ g d a b, ∃ (s : State), ∃ n, Ready s g [d.ix, a.ix, b.ix] [a, b] (some d) ∧
    s.me.intOk d.ix = true ∧
    s.me.intOk a.ix = true ∧
    s.me.intOk b.ix = true ∧
    ∃ va p, ∃ (st : State), ReadsInt s (s.emptied [a, b]) a.ix va p st ∧
    IntName s b.ix ∧
    s.me.nm b.ix = some n ∧
    n.f = false) ∧
    (∃ c f, FltOp2 c f ∧
    ∃ g d a b, ∃ (s : State), ∃ k l n m, Ready s g [d.ix, a.ix, b.ix] [a, b] (some d) ∧
    s.me.fltDst d.ix = true ∧
    s.me.nm a.ix = some n ∧
    n.kind = .flt k ∧
    s.me.nm b.ix = some m ∧
    m.kind = .flt l ∧
    n.f = false) ∧
    (∃ c f, FltOp2 c f ∧
    ∃ g d a b, ∃ (s : State), ∃ k l n m, Ready s g [d.ix, a.ix, b.ix] [a, b] (some d) ∧
    s.me.fltDst d.ix = true ∧
    s.me.nm a.ix = some n ∧
    n.kind = .flt k ∧
    s.me.nm b.ix = some m ∧
    m.kind = .flt l ∧
    n.f = true ∧
    m.f = false) ∧
    (∃ c cls u f, VElemOp c cls u f ∧
    ∃ h : VH, ∃ d a b, ∃ (s : State), ∃ n, Ready s h.g [d.ix, a.ix, b.ix, h.msk] [a, b] (some d) ∧
    cls d.ix a.ix b.ix s.me = true ∧
    (h.msk = 0 ∨ s.me.isIVec h.msk = true) ∧
    s.me.nm a.ix = some n ∧
    n.f = false) :=
  ⟨⟨.abs g0 (o 200) (o 1), _, .pairable rfl, W, 200, rfl⟩,
    ⟨.abs g0 (o 4) (o 6), _, .pairable rfl, W, declared rfl, .inl rfl⟩,
    ⟨.abs ⟨4, false⟩ (o 4) (o 1), _, .pairable rfl, W, _, ⟨declared rfl, .inr rfl, rfl, no_queue rfl⟩, rfl, rfl⟩,
    ⟨.abs ⟨23, false⟩ (o 4) (o 1), _, .pairable rfl, W, _, ⟨declared rfl, .inr rfl, rfl, no_queue rfl⟩, rfl, rfl, rfl⟩,
    ⟨.div g0 (o 4) (o 1) (o 5) false, _, .pairable rfl, W, _, ready_plain rfl rfl rfl, rfl, rfl⟩,
    ⟨_, _, .abs, g0, o 4, o 6, W, declared rfl, .inl rfl, _, _, rfl, rfl⟩,
    ⟨_, _, .add, g0, o 4, o 1, o 6, W, declared rfl, .inl rfl, .inr ⟨_, _, rfl, rfl⟩⟩,
    ⟨_, _, .abs, g0, o 1, o 4, W, _, ready_plain rfl rfl rfl, rfl, ⟨_, _, _, _, rfl, rfl⟩, rfl, rfl⟩,
    ⟨_, _, .add, g0, o 1, o 4, o 2, W, _, ready_plain rfl rfl rfl, rfl, rfl, rfl, ⟨_, _, _, _, rfl, rfl⟩, rfl, rfl⟩,
    ⟨_, _, .add, g0, o 1, o 2, o 4, W, _, ready_plain rfl rfl rfl, rfl, rfl, rfl, 2, false, _, reads_int rfl,
      ⟨_, _, _, _, rfl, rfl⟩, rfl, rfl⟩,
    ⟨_, _, .add, g0, o 6, o 15, o 7, W, _, _, _, _, ready_plain rfl rfl rfl, rfl, rfl, rfl, rfl, rfl, rfl⟩,
    ⟨_, _, .add, g0, o 6, o 7, o 15, W, _, _, _, _, ready_plain rfl rfl rfl, rfl, rfl, rfl, rfl, rfl, rfl, rfl⟩,
    ⟨_, _, _, _, .vaddI, h0, o 9, o 18, o 10, W, _, ready_plain rfl rfl rfl, rfl, .inl rfl, rfl, rfl⟩⟩

theorem witness_GuardsAndWaits :
    (∃ i o, OpOf i o ∧
    ∃ (s : State), WellNamed s o ∧
    GuardOff s o.g) ∧
    (∃ i o, OpOf i o ∧
    ∃ (s : State), WellNamed s o ∧
    ∃ k, GuardOn s o.g ∧
    WaitsFor s o k) ∧
    (∃ i o, OpOf i o ∧
    ∃ (s : State), ∃ w, Ready s o.g o.fields o.m o.d ∧
    o.kinds s.me = true ∧
    o.run s.ctx (s.emptied o.m) = .error (.park w)) ∧
    (∃ (s : State) (t : Tid), (s.slot t).st ≠ .parked) :=
  ⟨⟨.abs ⟨5, false⟩ (o 4) (o 1), _, .pairable rfl, W, ⟨declared rfl, .inr rfl, rfl, no_queue rfl⟩,
      ⟨_, _, _, _, rfl, rfl, rfl, rfl, by decide⟩⟩,
    ⟨.abs g0 (o 1) ⟨4, true⟩, _, .pairable rfl, W, ⟨declared rfl, .inl rfl, rfl, no_queue rfl⟩, _, .inl rfl,
      .inl ⟨[], ⟨4, true⟩, [], rfl, nofun, ⟨rfl, _, rfl, rfl⟩, rfl⟩⟩,
    ⟨.abs g0 (o 4) (o 13), _, .pairable rfl, W, _, ready_plain rfl rfl rfl, rfl, rfl⟩,
    ⟨W, 0, by decide⟩⟩

theorem witness_MessagesStart :
    (∃ (id : Nat) (s : State), ∃ m, mfind id s.inflight = some (.msg m) ∧
    (∀ e ∈ s.inflight, e.1 < id → ∀ q, e.2 = .msg q → q.before m = false) ∧
    s.portOpen m.dst = true ∧
    (m.trap = true ∨ (s.core m.dst).inMsg.length < 4)) ∧
    (∃ c, ∃ (s : State), ∃ m ms pc tn ks t, HeadMsg s c m ms ∧
    s.msgFirst c = true ∧
    s.handler m.part c m.k = some (pc, tn, ks) ∧
    s.freeSlotOf c true = some t ∧
    payloadOk ks m.pl.length = true) ∧
    (∃ c, ∃ (s : State), ∃ m ms, HeadMsg s c m ms ∧
    s.msgFirst c = true ∧
    s.handler m.part c m.k = none) ∧
    (∃ c, ∃ (s : State), ∃ m ms pc tn ks t, (s.core c).inTrap = m :: ms ∧
    s.handler m.part c 0 = some (pc, tn, ks) ∧
    payloadOk ks 8 = true ∧
    m.pl.length = 8 ∧
    s.msgFirst c = true ∧
    s.freeSlotOf c true = some t) ∧
    (∃ c, ∃ (s : State), ∃ m ms pc tn ks t k, HeadMsg s c m ms ∧
    s.msgFirst c = true ∧
    s.handler m.part c m.k = some (pc, tn, ks) ∧
    s.freeSlotOf c true = some t ∧
    payloadBad ks m.pl.length = some k) ∧
    (∃ c, ∃ (s : State), ∃ m ms g, HeadMsg s c m ms ∧
    s.msgFits c = false ∧
    s.cfgOf c = some g ∧
    (s.core c).msgSince + 16 * 2 ^ g.wle ≤ s.cycle) :=
  ⟨⟨9, WR (.msg ⟨0, 1, [(7, false)], 0, 0, false⟩), _, rfl, wr_first, rfl, .inr (by decide)⟩,
    ⟨0, { W with cores := [(0, { Core.reset with inMsg := [⟨0, 1, [(7, false)], 0, 0, false⟩] })] }, _, _, _, _, _, _, ⟨rfl, rfl⟩,
      rfl, rfl, rfl, rfl⟩,
    ⟨0, { W with cores := [(0, { Core.reset with inMsg := [⟨0, 2, [(7, false)], 0, 0, false⟩] })] }, _, _, ⟨rfl, rfl⟩, rfl, rfl⟩,
    ⟨0, { W with cores := [(0, { Core.reset with inTrap := [⟨0, 0, List.replicate 8 (0, false), 0, 0, true⟩] })] },
      _, _, _, _, _, _, rfl, rfl, rfl, rfl, rfl, rfl⟩,
    ⟨0, { W with cores := [(0, { Core.reset with inMsg := [⟨0, 1, [(7, false), (7, false)], 0, 0, false⟩] })] },
      _, _, _, _, _, _, _, ⟨rfl, rfl⟩, rfl,
      rfl, rfl, rfl⟩,
    ⟨0, { W with
        cycle := 1000
        slots := (List.range 16).map (fun k => (k, wSlot))
        cores := [(0, { Core.reset with inMsg := [⟨0, 1, [(7, false)], 0, 0, false⟩] })] }, _, _, _, ⟨rfl, rfl⟩, rfl, rfl,
      by decide⟩⟩

theorem witness_WaitLimitAndRepack :
    (∃ (s : State), ∃ t w n, (s.slot t).st = .parked ∧
    (s.slot t).waitChecked = true ∧
    (s.slot t).kept = some (w, n) ∧
    ((s.slot t).waiton.toNat / 2 ^ 60 = 5 → (s.slot t).greq ≠ .gbarDone) ∧
    ((s.slot t).waiton.toNat / 2 ^ 60 = 6 → (s.slot t).greq ≠ .genterDone ∧ ∀ pa tr, (s.slot t).greq ≠ .genterSent pa tr) ∧
    s.mustWait t = false) ∧
    (∃ (s : State), ∃ t pa tr, (s.slot t).st = .parked ∧
    (s.slot t).waitChecked = true ∧
    (s.slot t).waiton.toNat / 2 ^ 60 = 6 ∧
    (s.slot t).greq = .genterSent pa tr ∧
    s.mustWait t = false ∧
    (∀ e ∈ s.inflight, ∀ q b o, e.2 ≠ .genterWd t (s.slot t).epoch q b o)) ∧
    (∃ (s : State), ∃ c r, (s.core c).repack = some r ∧
    r.until_ ≤ s.cycle) :=
  ⟨⟨WX { wSlot with st := .parked, waitChecked := true, kept := some (5, 0) }, 0, _, _, rfl, rfl, rfl, by decide,
      fun h => absurd h (by decide), rfl⟩,
    ⟨WX { wSlot with st := .parked, waitChecked := true, waiton := 0x6000000000000000, greq := .genterSent 0x9000 false }, 0, _,
      _, rfl, rfl, by decide, rfl, rfl, by intro e he; exact nomatch (show e ∈ ([] : List (Nat × Req)) from he)⟩,
    ⟨{ W with cycle := 100, cores := [(0, { Core.reset with repack := some ⟨0, 0, 100, [], none⟩ })] }, 0, _, rfl, by decide⟩⟩

theorem witness_CapsuleOps :
    (∃ g, ∃ (d : Ix), ∃ a, ∃ (v : Nat) (st : State), ∃ st2, ∃ (s : State), Ready s g [d, a.ix] [a] none ∧
    s.me.intNil d = true ∧
    s.me.intNil a.ix = true ∧
    ReadsInt s (s.emptied [a]) a.ix v false st ∧
    v % 64 = 0 ∧
    let core := coreOf s.cur
    let hd := (st.lsWords core v 8).map (·.1)
    let its := (st.lsWords core (v + 64) 32).map (·.1)
    v + 320 + hTb hd ≤ (if s.me.smode then 2 ^ 18 else 0x36000) ∧
    (∀ w ∈ st.lsWords core v 8 ++ st.lsWords core (v + 64) 32, w.2 = false) ∧
    capsuleOk hd its = true ∧
    capsuleFresh hd = true ∧
    ∃ b, st.capCoreOk (s.partNum core) core = true ∧
    (st.core core).freeBuf = some b ∧
    WritesInt s ((st.lsPut core (bufOff b) false (st.lsWords core (v + 320) (hTb hd / 8))).route
        (madeCapsule s.ctx st v hd its)) d 0 false st2) ∧
    (∃ g, ∃ (d : Ix), ∃ a, ∃ (v : Nat) (st : State), ∃ st2, ∃ (s : State), Ready s g [d, a.ix] [a] none ∧
    s.me.intNil d = true ∧
    s.me.intNil a.ix = true ∧
    ReadsInt s (s.emptied [a]) a.ix v false st ∧
    v % 64 = 0 ∧
    let core := coreOf s.cur
    let hd := (st.lsWords core v 8).map (·.1)
    let its := (st.lsWords core (v + 64) 32).map (·.1)
    v + 320 + hTb hd ≤ (if s.me.smode then 2 ^ 18 else 0x36000) ∧
    (∀ w ∈ st.lsWords core v 8 ++ st.lsWords core (v + 64) 32, w.2 = false) ∧
    capsuleOk hd its = true ∧
    capsuleFresh hd = true ∧
    (st.core core).freeBuf = none ∧
    WritesInt s st d 1 false st2) ∧
    (∃ g b x, ∃ (s : State), Ready s g [] [] none ∧
    (s.heldBuf s.cur).isSome = true ∧
    let t := s.counted.releaseAt s.cur .sys
    Released s s.counted .sys ∧
    Holds s t b x) ∧
    (∃ g, ∃ (d : Ix), ∃ k : BitVec 6, ∃ b x v, ∃ (st : State) (s : State), Ready s g [d] [] none ∧
    s.me.intNil d = true ∧
    Holds s s b x ∧
    ((BitVec.toNat k < 32 ∧ (BitVec.toNat k / 2 < hNstop x.hdr ∨
        (hDiverted x.hdr = true ∧ 2 ≤ BitVec.toNat k ∧ BitVec.toNat k ≤ 9)) ∧ v = nthW x.its (BitVec.toNat k)) ∨
      (32 ≤ BitVec.toNat k ∧ v = nthW x.hdr (BitVec.toNat k - 32))) ∧
    WritesInt s s.counted d v.toNat false st) ∧
    (∃ g a b k x v w, ∃ (st : State) (s : State), Ready s g [a.ix, b.ix] [a, b] none ∧
    IntName s a.ix ∧
    IntName s b.ix ∧
    ReadsInt s (s.emptied [a, b]) a.ix v false st ∧
    ReadsInt s st b.ix w false st ∧
    Holds s s k x ∧
    stopOk (BitVec.ofInt 64 v) (BitVec.ofInt 64 w) = true ∧
    hNstop x.hdr ≠ 16) ∧
    (∃ g, ∃ n : BitVec 4, ∃ k x, ∃ (s : State), Ready s g [] [] none ∧
    Holds s s k x ∧
    hCur x.hdr + BitVec.toNat n < hNstop x.hdr ∧
    ¬(hCur x.hdr + 1 ≤ hFstop x.hdr ∧ hFstop x.hdr ≤ hCur x.hdr + BitVec.toNat n)) ∧
    (∃ g, ∃ n : BitVec 4, ∃ a k x v, ∃ (st : State) (s : State), Ready s g [a.ix] [a] none ∧
    IntName s a.ix ∧
    ReadsInt s (s.emptied [a]) a.ix v false st ∧
    Holds s s k x ∧
    hCur x.hdr + BitVec.toNat n < hNstop x.hdr ∧
    0 ≤ v ∧
    v < 2 ^ 32 ∧
    let p := 2 * (hCur x.hdr + BitVec.toNat n)
    stopOk (setBits (nthW x.its p) 63 32 v.toNat) (nthW x.its (p + 1)) = true) ∧
    (∃ g a b k x, ∃ (o : Nat), ∃ w, ∃ (st : State) (s : State), Ready s g [a.ix, b.ix] [a, b] none ∧
    IntName s a.ix ∧
    IntName s b.ix ∧
    ReadsInt s (s.emptied [a, b]) a.ix o false st ∧
    ReadsInt s st b.ix w false st ∧
    Holds s s k x ∧
    o % 64 = 0 ∧
    0 < o ∧
    o < hTb x.hdr ∧
    hCur x.hdr + 1 < hNstop x.hdr ∧
    Released s st .sys) ∧
    (∃ g a k x v p, ∃ (st : State) (s : State), Ready s g [a.ix] [a] none ∧
    s.me.intNil a.ix = true ∧
    ReadsInt s (s.emptied [a]) a.ix v p st ∧
    Holds s s k x) ∧
    (∃ g a b k x v w, ∃ (st : State), ∃ st2, ∃ (s : State), Ready s g [a.ix, b.ix] [a, b] none ∧
    IntName s a.ix ∧
    IntName s b.ix ∧
    ReadsInt s (s.emptied [a, b]) a.ix v false st ∧
    ReadsInt s st b.ix w false st2 ∧
    Holds s s k x ∧
    stopOk (BitVec.ofInt 64 v) (BitVec.ofInt 64 w) = false) ∧
    (∃ g a b k x v w, ∃ (st : State), ∃ st2, ∃ (s : State), Ready s g [a.ix, b.ix] [a, b] none ∧
    IntName s a.ix ∧
    IntName s b.ix ∧
    ReadsInt s (s.emptied [a, b]) a.ix v false st ∧
    ReadsInt s st b.ix w false st2 ∧
    Holds s s k x ∧
    stopOk (BitVec.ofInt 64 v) (BitVec.ofInt 64 w) = true ∧
    hNstop x.hdr = 16) ∧
    (∃ g, ∃ n : BitVec 4, ∃ k x, ∃ (s : State), Ready s g [] [] none ∧
    Holds s s k x ∧
    hNstop x.hdr ≤ hCur x.hdr + BitVec.toNat n) ∧
    (∃ g, ∃ n : BitVec 4, ∃ k x, ∃ (s : State), Ready s g [] [] none ∧
    Holds s s k x ∧
    hCur x.hdr + BitVec.toNat n < hNstop x.hdr ∧
    hCur x.hdr + 1 ≤ hFstop x.hdr ∧
    hFstop x.hdr ≤ hCur x.hdr + BitVec.toNat n) ∧
    (∃ g, ∃ (s : State), Ready s g [] [] none ∧
    s.heldBuf s.cur = none) :=
  ⟨⟨g0, 4, o 24, 0x1000, _, _, { W with lmem := [(0x1006, 8), (0x1007, 1)] }, ready_plain rfl rfl rfl, rfl, rfl, reads_int rfl,
      by decide, ⟨by decide, unpoisoned (by decide +kernel), rfl, rfl, _, rfl, rfl, writes_int rfl rfl rfl⟩⟩,
    ⟨g0, 4, o 24, 0x1000, _, _, WF, ready_plain rfl rfl rfl, rfl, rfl,
      reads_int rfl, by decide, ⟨by decide, unpoisoned (by decide +kernel), rfl, rfl, rfl, writes_int rfl rfl rfl⟩⟩,
    ⟨g0, _, _, WC (wHdr 3 0 0 0), ready_plain rfl rfl rfl, rfl, rfl, rfl⟩,
    ⟨g0, 4, 0, _, _, _, _, WC (wHdr 3 0 0 0), ready_plain rfl rfl rfl, rfl, rfl, .inl ⟨by decide, .inl (by decide), rfl⟩,
      writes_int rfl rfl rfl⟩,
    ⟨g0, o 5, o 5, _, _, 0, 0, _, WC (wHdr 3 0 0 0), ready_plain rfl rfl rfl, ⟨_, _, _, _, rfl, rfl⟩, ⟨_, _, _, _, rfl, rfl⟩,
      reads_int rfl, reads_int rfl, rfl, rfl, by decide⟩,
    ⟨g0, 1, _, _, WC (wHdr 3 0 0 0), ready_plain rfl rfl rfl, rfl, by decide, by decide⟩,
    ⟨g0, 1, o 5, _, _, 0, _, WC (wHdr 3 0 0 0), ready_plain rfl rfl rfl, ⟨_, _, _, _, rfl, rfl⟩, reads_int rfl, rfl, by decide,
      by decide, by decide, rfl⟩,
    ⟨g0, o 19, o 5, _, _, 64, 0, _, WC (wHdr 3 0 0 1), ready_plain rfl rfl rfl, ⟨_, _, _, _, rfl, rfl⟩, ⟨_, _, _, _, rfl, rfl⟩,
      reads_int rfl, reads_int rfl, rfl, by decide, by decide, by decide, by decide, rfl⟩,
    ⟨g0, o 1, _, _, 7, false, _, WC (wHdr 3 0 0 0), ready_plain rfl rfl rfl, rfl, reads_int rfl, rfl⟩,
    ⟨g0, o 1, o 5, _, _, 7, 0, _, _, WC (wHdr 3 0 0 0), ready_plain rfl rfl rfl, ⟨_, _, _, _, rfl, rfl⟩,
      ⟨_, _, _, _, rfl, rfl⟩, reads_int rfl, reads_int rfl, rfl, rfl⟩,
    ⟨g0, o 5, o 5, _, _, 0, 0, _, _, WC (wHdr 16 0 0 0), ready_plain rfl rfl rfl, ⟨_, _, _, _, rfl, rfl⟩,
      ⟨_, _, _, _, rfl, rfl⟩, reads_int rfl, reads_int rfl, rfl, rfl, by decide⟩,
    ⟨g0, 3, _, _, WC (wHdr 3 0 0 0), ready_plain rfl rfl rfl, rfl, by decide⟩,
    ⟨g0, 1, _, _, WC (wHdr 3 0 1 0), ready_plain rfl rfl rfl, rfl, by decide, by decide, by decide⟩,
    ⟨g0, W, ready_plain rfl rfl rfl, rfl⟩⟩

theorem witness_CapsulesAreRouted :
    (∃ (s : State) (c : Capsule) (w0 w1 : Word), stopAt c.its (hCur c.hdr) = (w0, w1) ∧
    let tgt := w0.toNat / 2 ^ 32 % 2 ^ 28
    hHops c.hdr < 255 ∧
    w0.toNat / 2 ^ 60 = 0 ∧
    s.capCoreOk c.part tgt = true) ∧
    (∃ (s : State) (c : Capsule) (w0 w1 : Word), stopAt c.its (hCur c.hdr) = (w0, w1) ∧
    let tgt := w0.toNat / 2 ^ 32 % 2 ^ 28
    ∃ k, hHops c.hdr < 255 ∧
    w0.toNat / 2 ^ 60 = 1 ∧
    s.classPick c.part tgt = some k) ∧
    (∃ (c : Capsule) (w0 w1 : Word), stopAt c.its (hCur c.hdr) = (w0, w1) ∧
    hHops c.hdr < 255 ∧
    w0.toNat / 2 ^ 60 = 2) ∧
    (∃ (s : State) (c : Capsule) (w0 w1 : Word), stopAt c.its (hCur c.hdr) = (w0, w1) ∧
    let tgt := w0.toNat / 2 ^ 32 % 2 ^ 28
    hHops c.hdr < 255 ∧
    w0.toNat / 2 ^ 60 = 3 ∧
    s.peerUp tgt = true) ∧
    (∃ (s : State) (c : Capsule) (w0 w1 : Word), stopAt c.its (hCur c.hdr) = (w0, w1) ∧
    hHops c.hdr < 255 ∧
    w0.toNat / 2 ^ 60 = 4 ∧
    hOdev c.hdr = s.devNum ∧
    s.capCoreOk c.part (hOtid c.hdr / 16) = true) ∧
    (∃ (s : State) (c : Capsule) (w0 w1 : Word), stopAt c.its (hCur c.hdr) = (w0, w1) ∧
    hHops c.hdr < 255 ∧
    w0.toNat / 2 ^ 60 = 4 ∧
    hOdev c.hdr ≠ s.devNum ∧
    s.peerUp (hOdev c.hdr) = true) ∧
    (∃ (c : Capsule) (w0 w1 : Word), stopAt c.its (hCur c.hdr) = (w0, w1) ∧
    hHops c.hdr < 255 ∧
    w0.toNat / 2 ^ 60 = 5) ∧
    (∃ (s : State) (c : Capsule) (w0 w1 : Word), stopAt c.its (hCur c.hdr) = (w0, w1) ∧
    let up : Capsule := { c with hdr := setH0 c.hdr 42 35 (hHops c.hdr + 1) }
    hHops c.hdr < 254 ∧
    hDiverted c.hdr = false ∧
    NoPlace s c w0 ∧
    let d := up.diverted [BitVec.ofNat 64 0x110F, 0, 0, 0, BitVec.ofNat 64 (w0.toNat / 2 ^ 32), 0, 0, 0]
    let up2 : Capsule := { d with hdr := setH0 d.hdr 42 35 (hHops d.hdr + 1) }
    ∃ r, s.placeReq up2 = some r) ∧
    (∃ (s : State) (c : Capsule) (w0 w1 : Word), stopAt c.its (hCur c.hdr) = (w0, w1) ∧
    let up : Capsule := { c with hdr := setH0 c.hdr 42 35 (hHops c.hdr + 1) }
    hHops c.hdr < 254 ∧
    hDiverted c.hdr = false ∧
    NoPlace s c w0 ∧
    let d := up.diverted [BitVec.ofNat 64 0x110F, 0, 0, 0, BitVec.ofNat 64 (w0.toNat / 2 ^ 32), 0, 0, 0]
    let up2 : Capsule := { d with hdr := setH0 d.hdr 42 35 (hHops d.hdr + 1) }
    s.placeReq up2 = none) ∧
    (∃ (s : State) (c : Capsule) (w0 w1 : Word), stopAt c.its (hCur c.hdr) = (w0, w1) ∧
    hHops c.hdr < 255 ∧
    hDiverted c.hdr = true ∧
    NoPlace s c w0) ∧
    (∃ (s : State) (c : Capsule) (w0 w1 : Word), stopAt c.its (hCur c.hdr) = (w0, w1) ∧
    hHops c.hdr = 255 ∧
    hDiverted c.hdr = false ∧
    ∃ g, (s.part c.part).cfg = some g ∧
    g.capen = true) ∧
    (∃ (c : Capsule) (w0 w1 : Word), stopAt c.its (hCur c.hdr) = (w0, w1) ∧
    ∃ rec, c.hdr.length = 8 ∧
    hDiverted c.hdr = false ∧
    (rec : List Word).length = 8) :=
  ⟨⟨W, wCaps 0 0 0, _, _, rfl, by decide⟩,
    ⟨{ W with
        parts := [(0, { Part.reset with cfg := some { wPcb with ptab := 0xC000 } })]
        mem := [(0xC000, 1), (0x10000, 1), (0x10001, 0x30), (0x30000, 0x7F)] }, wCaps 0x1000000000000000 0 0, _, _, rfl, 0,
      by decide, by decide, by decide +kernel⟩,
    ⟨wCaps 0x2000000000000000 0 0, _, _, rfl, by decide⟩,
    ⟨{ W with ports := [(0, { Port.reset with up := true, peer := 1 })] }, wCaps 0x3000000100000000 0 0, _, _, rfl, by decide⟩,
    ⟨W, wCaps 0x4000000000000000 0 0, _, _, rfl, by decide⟩,
    ⟨{ W with ports := [(0, { Port.reset with up := true, peer := 1 })] },
      { wCaps 0x4000000000000000 0 0 with hdr := [0x108000000000000, 0x4000000000, 0, 0, 0, 0, 0, 0] }, _, _, rfl, by decide⟩,
    ⟨wCaps 0x5000000000000000 0 0, _, _, rfl, by decide⟩,
    ⟨W, { wCaps 0x0000270F00000000 0 0 with hdr := wHdr 2 0 1 0 }, _, _, rfl, by decide, by decide, .inl ⟨by decide, by decide⟩,
      _, rfl⟩,
    ⟨W, wCaps 0x0000270F00000000 0 0, _, _, rfl, by decide, by decide, .inl ⟨by decide, by decide⟩, rfl⟩,
    ⟨W, { wCaps 0x0000270F00000000 0 0 with hdr := [0x108000000010000, 0, 0, 0, 0, 0, 0, 0] }, _, _, rfl, by decide, by decide,
      .inl ⟨by decide, by decide⟩⟩,
    ⟨W, wCaps 0 0 255, _, _, rfl, by decide, by decide, _, rfl, rfl⟩,
    ⟨wCaps 0 0 0, _, _, rfl, List.replicate 8 0, rfl, by decide, rfl⟩⟩

theorem witness_ClassPlaces :
    ∃ (s : State) (part k : Nat), ∃ g ws, (s.part part).cfg = some g ∧
    g.ptab ≠ 0 ∧
    s.devWords part true (g.ptab.toNat + 512 * k) 64 = .ok ws :=
  ⟨{ W with parts := [(0, { Part.reset with cfg := some { wPcb with ptab := 0xC000 } })] }, 0, 0, _, _, rfl, by decide, rfl⟩

theorem witness_CapsulesAtPlaces :
    (∃ (id : Nat) (s : State), ∃ core c since b, mfind id s.inflight = some (.capCore core c since) ∧
    (∀ e ∈ s.inflight, e.1 < id → e.2.capBefore core c.src = false) ∧
    s.capCoreOk c.part core = true ∧
    (s.core core).freeBuf = some b) ∧
    (∃ (s : State), ∃ core b x pc tn ks t, (s.core core).capHead = some (b, x) ∧
    s.capFirst core = true ∧
    s.capCoreOk x.part core = true ∧
    s.stopEntry x.part core ((stopAt x.its (hCur x.hdr)).1.toNat / 2 ^ 16 % 2 ^ 16) = some (pc, tn, ks) ∧
    s.freeSlotOf core true = some t) ∧
    (∃ (id : Nat) (s : State), ∃ c, ∃ (st : State), mfind id s.inflight = some (.capBank c) ∧
    let w := stopAt c.its (hCur c.hdr)
    let acc := decide (w.1.toNat / 2 ^ 16 % 2 ^ 16 = 1)
    ¬(acc = true ∧ hTfmt c.hdr = 15) ∧
    (s.unsend id).bankLines c.part acc (hTfmt c.hdr) 130 w.2.toNat c.tile = (none, st)) ∧
    (∃ (id : Nat) (s : State), ∃ c, mfind id s.inflight = some (.capHome c) ∧
    let arg := (stopAt c.its (hCur c.hdr)).2.toNat
    arg % 2 ^ 18 + hTb c.hdr ≤ 0x36000) ∧
    (∃ (id : Nat) (s : State), ∃ c pa, ∃ (st : State), mfind id s.inflight = some (.capSink c false) ∧
    let w := stopAt c.its (hCur c.hdr)
    let tgt := w.1.toNat / 2 ^ 32 % 2 ^ 28
    let u := s.unsend id
    u.capPa c.part w.2.toNat .rw = some pa ∧
    (u.memWrite pa 8 ((u.memRead pa 8 + 1) % 2 ^ 64) (u.memPoison pa)).imageWords c.part
      ((w.2.toNat + 64 + u.memRead pa 8 % 2 ^ (tgt % 32) * 8512) % 2 ^ 64) c.image = (none, st)) ∧
    (∃ (id : Nat) (s : State), ∃ c dev, mfind id s.inflight = some (.capEgress c dev) ∧
    dev ≠ s.devNum ∧
    s.peerUp dev = true) ∧
    (∃ (s : State), ∃ dev i p, ∃ k : KeptFlit, s.portTo dev = some (i, p) ∧
    k.flit.dst = dev) ∧
    (∃ (id : Nat) (s : State), ∃ c l x, mfind id s.inflight = some (.capEgress c s.devNum) ∧
    let w := stopAt c.its (hCur c.hdr)
    w.1.toNat / 2 ^ 60 ≠ 4 ∧
    l = w.2.toNat % 2 ^ 32 ∧
    mfind l s.launches = some x ∧
    x.susp = false ∧
    hCur c.hdr + 1 < hNstop c.hdr) ∧
    (∃ (id : Nat) (s : State), ∃ core c since, mfind id s.inflight = some (.capCore core c since) ∧
    since + s.limitCycles c.part < s.cycle) :=
  ⟨⟨9, WR (.capCore 0 (wCaps 0 0 0) 0), _, _, _, _, rfl, wr_first, rfl, rfl⟩,
    ⟨{ W with cores := [(0, { Core.reset with capBufs := [(0, wBuf (wHdr 3 0 0 0) none true)] })] }, 0, _, _, _, _, _, _, rfl, rfl,
      rfl, rfl, rfl⟩,
    ⟨9, WR (.capBank { wCaps 0x2000000000000000 0xA000 0 with tile := [(7, false)] }), _, _, rfl, ⟨by decide, fst_none (by decide)⟩⟩,
    ⟨9, WR (.capHome (wCaps 0x4000000000000000 0x1000 0)), _, rfl, by decide⟩,
    ⟨9, WR (.capSink { wCaps 0 0 0 with
        hdr := wHdr 1 0 0 0, its := [0x5000000000000000, 0xA000], tile := [(7, false)] } false), _, _, _, rfl, ⟨rfl, fst_none (by decide)⟩⟩,
    ⟨9, { WR (.capEgress (wCaps 0 0 0) 1) with ports := [(0, { Port.reset with up := true, peer := 1 })] }, _, _, rfl,
      by decide, rfl⟩,
    ⟨{ W with ports := [(0, { Port.reset with up := true, peer := 1 })] }, 1, 0, _, ⟨⟨0, 1, 0, 0, 1, 0, []⟩, none, 0⟩, rfl, rfl⟩,
    ⟨9, { WR (.capEgress { wCaps 0 0 0 with hdr := wHdr 3 0 0 0 } 0) with launches := [(0, wLaunch)] }, _, _, _, rfl, by decide, rfl, rfl, rfl, by decide⟩,
    ⟨9, { WR (.capCore 0 (wCaps 0 0 0) 0) with cycle := 17 }, _, _, _, rfl, by decide⟩⟩

end Sys2Proof.Machine.Tests
end

section
/-! PROOF. Errors and limits: a core that goes offline ends the searches of its slots (R96, R292), so its record to
partition 0 is not all that changes in flight. -/

namespace Sys2Proof.Machine

/-- Listing a value at an index leaves every other index alone. -/
theorem mfind_mins_ne {α : Type} {k j : Nat} (v : α) (m : SMap α) (h : j ≠ k) : mfind j (mins k v m) = mfind j m := by
  induction m with
  | nil => simp [mins, mfind, h.symm]
  | cons e m ih =>
    obtain ⟨a, w⟩ := e
    by_cases c : a < k
    · simp [mins, c, mfind, ih]
    · simp [mins, c, mfind, h.symm]

/-- Removing an index leaves every other index alone. -/
theorem mfind_mdel_ne {α : Type} {k j : Nat} (m : SMap α) (h : j ≠ k) : mfind j (mdel k m) = mfind j m := by
  induction m with
  | nil => rfl
  | cons e m ih =>
    obtain ⟨a, w⟩ := e
    by_cases c : a = k
    · simpa [mdel, c, mfind, h.symm] using ih
    · by_cases b : a = j
      · simp [mdel, mfind, b, h]
      · simpa [mdel, c, mfind, b] using ih

/-- A request that is sent leaves every request in flight where it is. -/
theorem State.mfind_send_ne (s : State) (r : Req) {id : Nat} (h : id ≠ s.nextId) :
    mfind id (s.send r).inflight = mfind id s.inflight :=
  (mfind_mins_ne r _ h).trans (mfind_mdel_ne _ h)

/-- A record that reaches partition 0 leaves every request in flight where it is. -/
theorem ToPartition0.mfind_ne {s t : State} {r : TrapRec} (h : ToPartition0 s r t) {id : Nat} (hid : id ≠ s.nextId) :
    mfind id t.inflight = mfind id s.inflight := by
  obtain ⟨g, -, rfl⟩ := h
  exact s.mfind_send_ne _ hid

/-- A device whose partition 0 has cores 0 and 1, with the trap handler on core 1, where slot 0 of core 0 has begun the periodic
search of its core (R100): no launch is in the device, and the search's first probe is in flight as request 1. -/
def searchingCore : State :=
  State.search { State.reset with
    parts := [(0, { Part.reset with cfg := some ⟨1, 0, 1, 0, 0, false, false, 0, 0, 0, 0, 0, 0, 0, 0, 0, 0, 0, []⟩ })] } 0 true

/-- The probe of the search is in flight. -/
theorem searchingCore_probe : mfind 1 searchingCore.inflight = some (.probe 0 0 0 [0]) := rfl

/-- Core 0 goes offline: the search ends and its probe is out of flight (R292). -/
theorem searchingCore_goOffline_probe : mfind 1 (searchingCore.goOffline 0).inflight = none := rfl

/-- Refutes O50: its clause on CORE_OFFLINE has the record to partition 0 as the only change beside the core's own marks,
for every core that bears no launch and no repack; but a core that goes offline also ends the searches of its slots. In
`searchingCore` the probe of a search of core 0 is in flight: CORE_OFFLINE takes it out of flight, where the clause keeps it. -/
theorem not_errorsAndLimits : ¬ Obligations.ErrorsAndLimits := by
  intro h
  obtain ⟨-, -, -, -, -, -, -, -, hoff, -⟩ := h
  obtain ⟨t, ht, hto⟩ := (hoff searchingCore 0 (by decide)).2 rfl rfl rfl
  have hexec : exec (.coreOffline 0) searchingCore = .next (searchingCore.goOffline 0) := rfl
  obtain rfl : searchingCore.goOffline 0 = t := Host.Outcome.next.inj (hexec.symm.trans ht)
  have hkept := (hto rfl).mfind_ne (id := 1) (by decide)
  exact absurd (searchingCore_goOffline_probe.symm.trans hkept) (by simp [searchingCore_probe])

end Sys2Proof.Machine
end

section
/-! PROOF. FSET, FCLR and FTEST (R50). -/

namespace Sys2Proof.Machine

/-- An op that sets F of a name leaves `nil` alone. -/
theorem setFSpec_run_nil (g : Guard) (f : Bool) (x : Ctx) (st : State) :
    (setFSpec g 0 f).run x st = .ok (.seq, st) := rfl

/-- An op that sets F of a name sets it and drops the name's pending result. -/
theorem setFSpec_run_name (g : Guard) {d : Ix} (f : Bool) (x : Ctx) (st : State) (hd : d ≠ 0) :
    (setFSpec g d f).run x st = .ok (.seq, st.modName x.t d (fun n => { n with f := f, pend := none })) := by
  have hn : (!isNil d) = true := by simpa [isNil, toNat_ne_zero_iff] using hd
  simp [setFSpec, hn, OpM.bind_apply]

/-- FSET and FCLR at their turn: they set F and drop the pending result, and do nothing to `nil`. -/
theorem issue_setFSpec {g : Guard} {d : Ix} {s : State} (f : Bool) (h : Ready s g [d] [] none) (hq : NoQueue s d) :
    (d = 0 → issue (setFSpec g d f) s = .next (s.goOn s.counted)) ∧
    (d ≠ 0 → issue (setFSpec g d f) s =
      .next (s.goOn (s.counted.modName s.cur d (fun n => { n with f := f, pend := none })))) := by
  have hk : (setFSpec g d f).kinds s.me = true := by simpa [setFSpec, NoQueue] using hq
  constructor
  · rintro rfl
    exact issue_seq (o := setFSpec g 0 f) h hk (setFSpec_run_nil g f s.ctx s.counted)
  · intro hd
    exact issue_seq (o := setFSpec g d f) h hk (setFSpec_run_name g f s.ctx s.counted hd)

/-- What FTEST reads of an index: 1 for `nil`, else F + 2 × P. -/
theorem specFtest_run {s st : State} {g : Guard} {d a : Ix} {v : Int}
    (hv : (a = 0 ∧ v = 1) ∨ ∃ n, s.me.nm a = some n ∧ v = (if n.f then 1 else 0) + 2 * (if n.p then 1 else 0))
    (hw : WritesInt s s.counted d v false st) : (specFtest g d a).run s.ctx s.counted = .ok (.seq, st) := by
  have hrun : (specFtest g d a).run s.ctx s.counted = (do writeInt s.ctx d v false; seqNext : OpM Next) s.counted := by
    rcases hv with ⟨rfl, rfl⟩ | ⟨n, hn, rfl⟩
    · simp [specFtest]
    · simp only [specFtest, State.ctx_sl, hn, b2n]
      cases n.f <;> cases n.p <;> rfl
  rw [hrun, OpM.bind_apply, hw.writeInt]
  rfl

/-- Settles O19: the two F ops share one specification, and FTEST writes what it reads of F and P. -/
theorem nameBitOps : Obligations.NameBitOps := by
  unfold Obligations.NameBitOps
  constructor
  · rintro c f (⟨rfl, rfl⟩ | ⟨rfl, rfl⟩) g d s h hq
    · exact issue_setFSpec true h hq
    · exact issue_setFSpec false h hq
  · intro g d a v s st h hq hv hw
    have hk : (specFtest g d a).kinds s.me = true := by
      have hq : s.me.isQ a = false := hq
      simp [specFtest, hw.intOk, hq]
    exact issue_seq (o := specFtest g d a) h hk (specFtest_run hv hw)

end Sys2Proof.Machine
end

section
/-! PROOF. FSFU at issue, and its result (R49, R174, R368). -/

namespace Sys2Proof.Machine

/-! ### A result that lands later -/

/-- The destination of a later result is no queue name: it is emptied and waits for the result's ticket (R49). -/
theorem late_name {x : Ctx} {d : Ix} {st : State} (hd : d ≠ 0) (hq : x.sl.isQ d = false) :
    late x d st = .ok (⟨x.t, x.sl.epoch, d.toNat, st.nextId⟩,
      ({ st with nextId := st.nextId + 1 } : State).modName x.t d (fun n => { n with f := false, pend := some st.nextId })) := by
  have hn : isNil d = false := by simpa [isNil, toNat_ne_zero_iff] using hd
  simp [late, OpM.bind_apply, OpM.map_apply, hq, hn, State.fresh]

/-- A result lands in the name that waits for it, with its flags (R174). -/
theorem State.landName_waiting {s : State} {d : Dst} {n : NameSt} {v : LandV} {p : Bool} {fl : BitVec 5}
    (hl : Lives s d) (hi : d.ix ≠ 0) (hn : (s.slot d.tid).names[d.ix - 1]? = some n) (hp : n.pend = some d.tk) :
    s.landName d v p fl = s.setSlot d.tid { s.slot d.tid with
      names := (s.slot d.tid).names.set (d.ix - 1) (n.land v p), fflags := (s.slot d.tid).fflags ||| fl } := by
  obtain ⟨hep, hfree, hheld⟩ := hl
  simp [State.landName, hep, hfree, hheld, hi, hn, hp]

/-- A pattern lands in a float name as its value. -/
theorem NameSt.land_pat_flt {n : NameSt} {k : FK} (hk : n.kind = .flt k) (x : Nat) (p : Bool) :
    n.land (.pat x) p = { n with vals := [(x : Int)], f := true, p := p, pend := none } := by
  simp [NameSt.land, hk]

/-! ### FSFU at issue -/

theorem FltName.isFlt {s : State} {i : Ix} {k : FK} (h : FltName s i k) : s.me.isFlt i = true := by
  obtain ⟨n, hn, hk⟩ := h
  exact Slot.isFlt_of hn hk

theorem FltName.isQ {s : State} {i : Ix} {k : FK} (h : FltName s i k) : s.me.isQ i = false := by
  obtain ⟨n, hn, hk⟩ := h
  simp [Slot.isQ, Slot.kind, hn, hk]

theorem FltName.ne_zero {s : State} {i : Ix} {k : FK} (h : FltName s i k) : i ≠ 0 := by
  obtain ⟨n, hn, -⟩ := h
  exact fun c => Slot.nm_some_ne hn (by simp [c])

theorem FltIs.fk {s : State} {i : Ix} {k : FK} {n : Nat} {p : Bool} (h : FltIs s i k n p) : s.me.fk i = some k := by
  obtain ⟨y, hy, hk, -⟩ := h
  simp [Slot.fk, Slot.kind, hy, hk]

/-- A full float name reads as its pattern and poison. -/
theorem FltIs.readPat {s st : State} {i : Ix} {k : FK} {n : Nat} {p : Bool} (h : FltIs s i k n p) :
    Machine.readPat s.ctx i st = .ok ((n, p), st) := by
  obtain ⟨y, hy, hk, hf, rfl, rfl⟩ := h
  have hr : Reads s st i (.flt k (y.vals.headD 0).toNat) y.p st := .inr (.inr (.inl ⟨y, k, hy, hk, hf, rfl, rfl, rfl⟩))
  simp only [Machine.readPat, OpM.bind_apply, hr.readName]
  rfl

theorem Slot.sfuSrc_of_fk {x : Slot} {i : Ix} {k : FK} (h : x.fk i = some k) (hk : k ≠ .a56) : x.sfuSrc i = true := by
  cases k <;> simp_all [Slot.sfuSrc]

/-- FSFU leaves its destination pending and sends its operand to the unit. -/
theorem specFsfu_run {s st : State} {g : Guard} {fn : SfuFn} {rm : Rm} {sat : Bool} {d a : Opd} {k : FK} {n : Nat} {p : Bool}
    (hd : d.ix ≠ 0) (hq : s.me.isQ d.ix = false) (ha : FltIs s a.ix k n p) :
    (specFsfu g fn rm sat d a).run s.ctx st = .ok (.seq,
      (({ st with nextId := st.nextId + 1 } : State).modName s.cur d.ix (fun y => { y with f := false, pend := some st.nextId })).send
        (.sfu ⟨s.cur, s.me.epoch, d.ix.toNat, st.nextId⟩ fn rm sat [some (toF32 k n)] 0 p)) := by
  simp [specFsfu, OpM.bind_apply, late_name (x := s.ctx) hd hq, ha.readPat, ha.fk]

/-! ### SFU_RESULT -/

/-- Earlier operations of the special-function unit of a core: the test of SFU_RESULT. -/
theorem State.noEarlierSfu {s : State} {id c : Nat}
    (h : ∀ e ∈ s.inflight, e.1 < id → ∀ q fn rm sat src k p, e.2 = .sfu q fn rm sat src k p → coreOf q.tid ≠ c) :
    s.inflight.any (fun e => decide (e.1 < id) && match e.2 with
      | .sfu q _ _ _ _ _ _ => decide (coreOf q.tid = c)
      | _ => false) = false := by
  rw [List.any_eq_false]
  rintro ⟨j, r⟩ he
  cases r with
  | sfu q fn rm sat src k p => simpa using fun hj => h _ he hj q fn rm sat src k p rfl
  | _ => simp

theorem State.sfuKind_name {s : State} {d : Dst} {n : NameSt} {k : FK} (hi : d.ix ≠ 0)
    (hn : (s.slot d.tid).names[d.ix - 1]? = some n) (hk : n.kind = .flt k) : s.sfuKind d = k := by
  simp [State.sfuKind, hi, hn, hk]

/-- SFU_RESULT of a scalar, where the core is not being repacked and the unit serves no earlier operation of it. -/
theorem execSfuResult_scalar {s : State} {id : Nat} {d : Dst} {fn : SfuFn} {rm : Rm} {sat p : Bool} {n : Nat}
    (hm : mfind id s.inflight = some (.sfu d fn rm sat [some n] 0 p)) (hr : s.repacking (coreOf d.tid) = false)
    (he : ∀ e ∈ s.inflight, e.1 < id → ∀ q fn rm sat src k p, e.2 = .sfu q fn rm sat src k p →
      coreOf q.tid ≠ coreOf d.tid) :
    execSfuResult id s = .next ((s.unsend id).landName d (.pat (sfuResult fn rm sat (s.sfuKind d) n).1) p
      (sfuResult fn rm sat (s.sfuKind d) n).2) := by
  unfold execSfuResult
  simp only [hm, hr, Bool.false_or]
  rw [if_neg (Bool.not_eq_true _ ▸ State.noEarlierSfu he)]
  simp

/-- Settles O6: FSFU by its run, SFU_RESULT by the landing of a pattern in a name that waits for it. -/
theorem specialFunctionLandsLater : Obligations.SpecialFunctionLandsLater := by
  unfold Obligations.SpecialFunctionLandsLater
  constructor
  · rintro g fn rm sat d a s k n p h ha hk ⟨l, hd⟩ st
    have hkinds : (specFsfu g fn rm sat d a).kinds s.me = true := by
      simp [specFsfu, Slot.fltDst, hd.isFlt, Slot.sfuSrc_of_fk ha.fk hk]
    exact issue_seq (o := specFsfu g fn rm sat d a) h hkinds (specFsfu_run hd.ne_zero hd.isQ ha)
  · intro id s dst fn rm sat n p y l hm hr he hl hi hn hp hk
    have hexec := execSfuResult_scalar hm hr he
    rw [State.sfuKind_name hi hn hk, State.landName_waiting (s := s.unsend id) hl hi hn hp,
      NameSt.land_pat_flt hk] at hexec
    refine ⟨_, hexec, rfl, ?_, ?_⟩
    · obtain ⟨hlen, -⟩ := List.getElem?_eq_some_iff.mp hn
      simp [List.getElem?_set_self hlen]
    · simp

end Sys2Proof.Machine
end

section
/-! PROOF. Engine commands: when one may start, and how one ends (R140, R180 to R184, R204, R275, R307). -/

namespace Sys2Proof.Machine

/-! ### What a landing result leaves alone (R174) -/

/-- A landing result changes no more than the names and flags of its slot. -/
theorem State.landName_only (s : State) (d : Dst) (v : LandV) (p : Bool) (fl : BitVec 5) :
    s.landName d v p fl = s ∨
      ∃ nms g, s.landName d v p fl = s.setSlot d.tid { s.slot d.tid with names := nms, fflags := g } := by
  simp only [State.landName]
  split
  · exact .inl rfl
  · split
    · exact .inr ⟨_, _, rfl⟩
    · split
      · exact .inl rfl
      · split
        · exact .inr ⟨_, _, rfl⟩
        · exact .inl rfl

/-- A landing result leaves all but the slots alone. -/
theorem State.landName_slots (s : State) (d : Dst) (v : LandV) (p : Bool) (fl : BitVec 5) :
    ∃ sl, s.landName d v p fl = { s with slots := sl } := by
  rcases s.landName_only d v p fl with h | ⟨nms, g, h⟩ <;> exact ⟨_, h⟩

/-- A landing result leaves every other slot alone. -/
theorem State.landName_slot_ne (s : State) (d : Dst) (v : LandV) (p : Bool) (fl : BitVec 5) {t : Tid} (ht : t ≠ d.tid) :
    (s.landName d v p fl).slot t = s.slot t := by
  rcases s.landName_only d v p fl with h | ⟨nms, g, h⟩
  · rw [h]
  · rw [h, State.slot_setSlot_ne _ _ _ _ ht]

/-- Of each slot a landing result changes no more than names and flags. -/
theorem State.landName_slot (s : State) (d : Dst) (v : LandV) (p : Bool) (fl : BitVec 5) (t : Tid) :
    ∃ nms g, (s.landName d v p fl).slot t = { s.slot t with names := nms, fflags := g } := by
  by_cases ht : t = d.tid
  · subst ht
    rcases s.landName_only d v p fl with h | ⟨nms, g, h⟩
    · exact ⟨_, _, by rw [h]⟩
    · exact ⟨nms, g, by rw [h, State.slot_setSlot]⟩
  · exact ⟨_, _, s.landName_slot_ne d v p fl ht⟩

/-! ### The end of a command (R183, R184) -/

/-- A command that has left its FIFO does not stand in it. -/
theorem State.leaveFifo_not_mem (s : State) (id : Nat) (c : Cmd) : id ∉ ((s.leaveFifo id c).clu c.clu).mfifo := by
  simp [State.leaveFifo]

/-- The end of a command: it leaves its FIFO and what it asked of peers; then its status word lands, or is held while its
core is being repacked. -/
theorem State.endCmd_eq (s : State) (id : Nat) (c : Cmd) (code sub det : Nat) :
    s.endCmd id c code sub det = if s.repacking c.core then
        ((s.leaveFifo id c).unask c.key).setCmd id { c with prog := 0, aux := [], ended := some (code, sub, det) }
      else ((s.leaveFifo id c).unask c.key).landCmd id c code sub det := rfl

/-- The status word of a command lands in its status name. -/
def State.statusLands (s : State) (c : Cmd) (v : Nat) : State :=
  match c.dst with
  | none => s
  | some d => s.landName d (.int v) false 0

/-- RCOUNT of a command's slot falls where the slot still runs the command's region (R275). -/
def State.rcountFalls (s : State) (c : Cmd) : State :=
  if (s.slot c.tid).epoch = c.ep ∧ (s.slot c.tid).rgnseq = c.rgnseq then
    s.setSlot c.tid { s.slot c.tid with rcount := (s.slot c.tid).rcount - 1 }
  else s

/-- A command that has ended, before its Signal: it has left the queue of commands, its status word has landed, and RCOUNT
has fallen. -/
def State.cmdLanded (s : State) (id : Nat) (c : Cmd) (v : Nat) : State :=
  (({ s with cmds := mdel id s.cmds } : State).statusLands c v).rcountFalls c

/-- Without a WS field a command that lands does not signal. -/
theorem State.landCmd_noWs (s : State) {c : Cmd} (id code sub det : Nat) (h : c.ws = none) :
    s.landCmd id c code sub det = s.cmdLanded id c (statusWord code sub det) := by
  unfold State.landCmd
  rw [h]
  rfl

/-- With one, its Signal follows where its increment is not 0. -/
theorem State.landCmd_ws (s : State) {c : Cmd} {w : Ws} (id code sub det : Nat) (h : c.ws = some w) :
    s.landCmd id c code sub det = if w.sinc = 0 then s.cmdLanded id c (statusWord code sub det)
      else (s.cmdLanded id c (statusWord code sub det)).signal c.core w.ssem.toNat w.sinc.toNat := by
  have hz : w.sinc = 0 ↔ w.sinc.toNat = 0 := by rw [BitVec.toNat_eq]; rfl
  unfold State.landCmd
  rw [h]
  simp only [hz]
  rfl

section Landed
variable (s : State) (c : Cmd)

theorem State.statusLands_slots (v : Nat) : ∃ sl, s.statusLands c v = { s with slots := sl } := by
  unfold State.statusLands
  split
  · exact ⟨_, rfl⟩
  · exact s.landName_slots ..

theorem State.statusLands_slot (v : Nat) (t : Tid) :
    ∃ nms g, (s.statusLands c v).slot t = { s.slot t with names := nms, fflags := g } := by
  unfold State.statusLands
  split
  · exact ⟨_, _, rfl⟩
  · exact s.landName_slot ..

theorem State.statusLands_slot_ne (v : Nat) {t : Tid} (ht : ∀ d, c.dst = some d → d.tid ≠ t) :
    (s.statusLands c v).slot t = s.slot t := by
  unfold State.statusLands
  split
  · rfl
  · next d hd => exact s.landName_slot_ne _ _ _ _ (ht d hd).symm

theorem State.rcountFalls_slots : ∃ sl, s.rcountFalls c = { s with slots := sl } := by
  unfold State.rcountFalls
  split <;> exact ⟨_, rfl⟩

theorem State.rcountFalls_slot_ne {t : Tid} (ht : t ≠ c.tid) : (s.rcountFalls c).slot t = s.slot t := by
  unfold State.rcountFalls
  split
  · exact State.slot_setSlot_ne _ _ _ _ ht
  · rfl

theorem State.rcountFalls_names (t : Tid) : ((s.rcountFalls c).slot t).names = (s.slot t).names := by
  by_cases ht : t = c.tid
  · subst ht
    unfold State.rcountFalls
    split <;> simp
  · rw [s.rcountFalls_slot_ne c ht]

theorem State.rcountFalls_rcount : ((s.rcountFalls c).slot c.tid).rcount =
    if (s.slot c.tid).epoch = c.ep ∧ (s.slot c.tid).rgnseq = c.rgnseq then (s.slot c.tid).rcount - 1
    else (s.slot c.tid).rcount := by
  unfold State.rcountFalls
  split <;> simp

variable (id v : Nat)

/-- A command that lands changes no more than the queue of commands and slots. -/
theorem State.cmdLanded_rest : ∃ sl, s.cmdLanded id c v = { s with cmds := mdel id s.cmds, slots := sl } := by
  obtain ⟨sl, h⟩ := State.statusLands_slots { s with cmds := mdel id s.cmds } c v
  obtain ⟨sl', h'⟩ := State.rcountFalls_slots { s with cmds := mdel id s.cmds, slots := sl } c
  exact ⟨sl', by rw [State.cmdLanded, h, h']⟩

/-- It leaves every slot alone but its own and that of its status name. -/
theorem State.cmdLanded_slot_ne {t : Tid} (ht : t ≠ c.tid) (hd : ∀ d, c.dst = some d → d.tid ≠ t) :
    (s.cmdLanded id c v).slot t = s.slot t := by
  rw [State.cmdLanded, State.rcountFalls_slot_ne _ _ ht, State.statusLands_slot_ne _ _ _ hd]
  rfl

/-- Its status word lands in its status name where that still waits for it. -/
theorem State.cmdLanded_name {d : Dst} {n : NameSt} (hc : c.dst = some d) (hl : Lives s d) (hi : d.ix ≠ 0)
    (hn : (s.slot d.tid).names[d.ix - 1]? = some n) (hp : n.pend = some d.tk) :
    ((s.cmdLanded id c v).slot d.tid).names[d.ix - 1]? = some (n.land (.int v) false) := by
  obtain ⟨hlen, -⟩ := List.getElem?_eq_some_iff.mp hn
  rw [State.cmdLanded, State.rcountFalls_names, State.statusLands, hc]
  simp only []
  rw [State.landName_waiting (s := { s with cmds := mdel id s.cmds }) hl hi hn hp, State.slot_setSlot]
  exact List.getElem?_set_self hlen

/-- RCOUNT of its slot falls where the slot still runs its region. -/
theorem State.cmdLanded_rcount : ((s.cmdLanded id c v).slot c.tid).rcount =
    if (s.slot c.tid).epoch = c.ep ∧ (s.slot c.tid).rgnseq = c.rgnseq then (s.slot c.tid).rcount - 1
    else (s.slot c.tid).rcount := by
  obtain ⟨nms, g, h⟩ := State.statusLands_slot { s with cmds := mdel id s.cmds } c v c.tid
  rw [State.cmdLanded, State.rcountFalls_rcount, h]
  rfl

end Landed

/-! ### The events of commands -/

/-- Every event of a command goes through the one test of whether the command may run. -/
theorem EngineEvent.exec_eq {id : Id} {i : Instr} (h : EngineEvent id i) (s : State) :
    ∃ f, exec i s = .next (s.cmdEvent id f) := by
  cases h <;> exact ⟨_, rfl⟩

/-- The event of a command that has ended lands its status word once no repack is under way. -/
theorem State.cmdEvent_ended {s : State} {id : Nat} {c : Cmd} {code sub det : Nat} (f : Cmd → State → State)
    (hc : mfind id s.cmds = some c) (he : c.ended = some (code, sub, det)) :
    s.cmdEvent id f = if s.repacking c.core then s else s.landCmd id c code sub det := by
  simp [State.cmdEvent, hc, he]

/-- The event of a command that may not run leaves the machine as it is. -/
theorem State.cmdEvent_held {s : State} {id : Nat} {c : Cmd} (f : Cmd → State → State) (hc : mfind id s.cmds = some c)
    (he : c.ended = none) (hr : s.canRun id c = false) : s.cmdEvent id f = s := by
  simp [State.cmdEvent, hc, he, hr]

/-! ### When a command may start (R181, R182, R204, R307) -/

theorem State.waitHolds_iff (s : State) (c : Cmd) :
    s.waitHolds c = true ↔ ∀ w, c.ws = some w → w.wthr.toNat ≤ s.sem c.core w.wsem.toNat := by
  unfold State.waitHolds
  split <;> simp_all

theorem State.waitHolds_false_iff (s : State) (c : Cmd) :
    s.waitHolds c = false ↔ ∃ w, c.ws = some w ∧ s.sem c.core w.wsem.toNat < w.wthr.toNat := by
  unfold State.waitHolds
  split <;> simp_all

theorem State.forked_iff (s : State) (id : Nat) (c : Cmd) :
    s.forked id c = true ↔ ∀ e ∈ s.inflight, e.1 < id → ∀ a, e.2.acc = some a → a.tid ≠ c.tid := by
  unfold State.forked
  rw [Bool.not_eq_true', List.any_eq_false]
  refine forall₂_congr fun e _ => ?_
  cases e.2.acc <;> simp

/-- The current limiter holds, of these engines, the Pegbox alone. -/
theorem State.held_false_iff (s : State) {c : Cmd} (h1 : c.kind.engine ≠ 1) (h5 : c.kind.engine ≠ 5) :
    s.held c = false ↔ (c.kind.engine = 3 → s.skips c = false) := by
  simp only [State.held, h1, h5, false_or, Bool.and_eq_false_iff, decide_eq_false_iff_not]
  cases s.skips c <;> simp

/-- The commands of an engine other than the Plectrum that start in issue order: those of one engine and one core. -/
theorem Cmd.sameUnit_iff (e : Cmd) {c : Cmd} (h1 : c.kind.engine ≠ 1) :
    e.sameUnit c = true ↔ e.kind.engine = c.kind.engine ∧ e.core = c.core := by
  simp only [Cmd.sameUnit, Bool.and_eq_true, Bool.or_eq_true, decide_eq_true_eq]
  refine and_congr_right fun he => ?_
  simp [he, h1]

/-- No earlier command of the engine and core waits to begin with its wait holding. -/
theorem State.noneFirst_iff (s : State) (id : Nat) {c : Cmd} (h1 : c.kind.engine ≠ 1) :
    s.cmds.all (fun e => decide (id ≤ e.1) || !e.2.sameUnit c || e.2.begun || !s.waitHolds e.2) = true ↔
      ∀ e ∈ s.cmds, e.1 < id → e.2.kind.engine = c.kind.engine → e.2.core = c.core → e.2.begun = false →
        ∃ w, e.2.ws = some w ∧ s.sem e.2.core w.wsem.toNat < w.wthr.toNat := by
  rw [List.all_eq_true]
  refine forall₂_congr fun e _ => ?_
  rw [← State.waitHolds_false_iff]
  have hu := e.2.sameUnit_iff h1
  simp only [Bool.or_eq_true, decide_eq_true_eq, Bool.not_eq_true', ← Bool.not_eq_true, hu]
  by_cases hid : id ≤ e.1
  · simp [hid, Nat.not_lt.mpr hid]
  · simp only [hid, false_or, Nat.lt_of_not_le hid, forall_const]
    grind

/-- A command that has not begun, of an engine other than the matrix engine and the Plectrum: when it may start. -/
theorem State.canRun_iff (s : State) (id : Nat) {c : Cmd} (hb : c.begun = false) (h1 : c.kind.engine ≠ 1)
    (h5 : c.kind.engine ≠ 5) :
    s.canRun id c = true ↔ s.waitHolds c = true ∧ s.forked id c = true ∧ s.held c = false ∧ s.asking c = false ∧
      s.cmds.all (fun e => decide (id ≤ e.1) || !e.2.sameUnit c || e.2.begun || !s.waitHolds e.2) = true := by
  have ht : s.taken id c = true := by simp [State.taken, h1]
  simp only [State.canRun, h5, if_false, hb, ht, Bool.false_or, Bool.and_true]
  cases s.forked id c <;> cases s.held c <;> cases s.asking c <;> simp

/-- Settles O39: a command's end is its FIFO left, its status word landed, RCOUNT lowered and its Signal; every engine event
goes through `State.cmdEvent`, whose test unfolds to the conditions of R181, R182, R204 and R307. -/
theorem commandsStartAndEnd : Obligations.CommandsStartAndEnd := by
  unfold Obligations.CommandsStartAndEnd
  refine ⟨⟨?_, ?_, ?_, ?_⟩, ?_, ?_⟩
  · intro s id c code sub det _ hr
    exact ⟨_, (s.endCmd_eq id c code sub det).trans (if_pos hr), s.leaveFifo_not_mem id c, rfl, rfl, rfl, fun _ _ => rfl, rfl⟩
  · intro s id c i code sub det hi hc he
    obtain ⟨f, hf⟩ := hi.exec_eq s
    rw [hf, State.cmdEvent_ended f hc he]
    exact ⟨fun hr => by rw [if_pos hr], fun hr => by rw [hr]; rfl⟩
  · intro s id c code sub det hr
    exact ⟨_, (s.endCmd_eq id c code sub det).trans (if_neg (by simp [hr])), s.leaveFifo_not_mem id c, rfl, rfl, rfl, rfl, fun _ _ => rfl⟩
  · intro s id c code sub det _
    refine ⟨s.cmdLanded id c (statusWord code sub det), ?_, ?_, ?_, ?_, ?_,
      fun t => State.cmdLanded_slot_ne s c id _, fun d n => State.cmdLanded_name s c id _, State.cmdLanded_rcount s c id _⟩
    · cases hw : c.ws with
      | none => exact s.landCmd_noWs id code sub det hw
      | some w => exact s.landCmd_ws id code sub det hw
    all_goals obtain ⟨sl, h⟩ := s.cmdLanded_rest c id (statusWord code sub det)
    all_goals rw [h]
    exact fun k n => rfl
  · intro s id c _ hb h1 h5
    rw [s.canRun_iff id hb h1 h5, s.waitHolds_iff, s.forked_iff, s.held_false_iff h1 h5, s.noneFirst_iff id h1]
  · intro s id i c hi hc he hr
    obtain ⟨f, hf⟩ := hi.exec_eq s
    rw [hf, State.cmdEvent_held f hc he hr]

end Sys2Proof.Machine
end

section
/-! PROOF. WAIT_TIMEOUT, the end of a repack, and the watchdogs of launches and queues (R60, R68, R273, R274, R373). -/

namespace Sys2Proof.Machine

/-! ### WAIT_TIMEOUT -/

/-- KIND of WAITON: what a parked slot waits for (R67). -/
def Slot.waitKind (x : Slot) : Nat := x.waiton.toNat / 2 ^ 60

/-- The wait of a parked slot has an answer of its own, or a request to withdraw first: a GBAR that is done, a GENTER. -/
def Slot.groupWait (x : Slot) : Prop :=
  (x.waitKind = 5 ∧ x.greq = .gbarDone) ∨
    (x.waitKind = 6 ∧ (x.greq = .genterDone ∨ ∃ pa tr, x.greq = .genterSent pa tr))

/-- A slot whose op has failed again at the wait limit, and that waits for no group, times out. -/
theorem execWaitTimeout_timeOut {s : State} {t : Tid} (hp : (s.slot t).st = .parked) (hc : (s.slot t).waitChecked = true)
    (hm : s.mustWait t = false) (hg : ¬ (s.slot t).groupWait) : execWaitTimeout t s = .next (s.timeOut t) := by
  unfold execWaitTimeout
  simp only [hp, hc, hm, ne_eq, not_true_eq_false, Bool.not_true, Bool.false_eq_true, or_self, if_false]
  split
  · next hk hq => exact absurd (.inl ⟨hk, hq⟩) hg
  · next hk hq => exact absurd (.inr ⟨hk, .inl hq⟩) hg
  · next pa tr hk hq => exact absurd (.inr ⟨hk, .inr ⟨pa, tr, hq⟩⟩) hg
  · rfl

/-- What a slot that times out makes of its kept word. -/
theorem State.timeOut_kept {s : State} {t : Tid} {w n : Nat} (hk : (s.slot t).kept = some (w, n)) :
    s.timeOut t = s.takeTrap t (s.slot t).pc (BitVec.ofNat 64 w)
      ⟨6, (s.slot t).waiton.toNat / 2 ^ 60, 0, (s.slot t).waiton⟩ (s.slot t).keptV := by
  simp only [State.timeOut, hk]

/-- A slot that waits in GENTER has its request withdrawn first, once. -/
theorem execWaitTimeout_genter {s : State} {t : Tid} {pa : Nat} {tr : Bool} (hp : (s.slot t).st = .parked)
    (hc : (s.slot t).waitChecked = true) (hm : s.mustWait t = false) (hk : (s.slot t).waitKind = 6)
    (hg : (s.slot t).greq = .genterSent pa tr)
    (hw : ∀ e ∈ s.inflight, ∀ q b o, e.2 ≠ .genterWd t (s.slot t).epoch q b o) :
    execWaitTimeout t s = .next (s.send (.genterWd t (s.slot t).epoch pa tr true)) := by
  have hnone : s.inflight.any (fun e => e.2.withdraws t (s.slot t).epoch) = false := by
    rw [List.any_eq_false]
    rintro ⟨j, r⟩ he
    cases r with
    | genterWd u ep q b o =>
      simp only [Req.withdraws, decide_eq_true_eq]
      rintro ⟨rfl, rfl⟩
      exact hw _ he q b o rfl
    | _ => simp [Req.withdraws]
  unfold Slot.waitKind at hk
  unfold execWaitTimeout
  simp only [hp, hc, hm, hk, hg, hnone, ne_eq, not_true_eq_false, Bool.not_true, Bool.false_eq_true, or_self, if_false]

/-! ### The end of a repack -/

/-- What a repack leaves as it is of a name: all but its place. -/
def NameSt.content (n : NameSt) : NKind × List Int × Bool × Bool × Option Nat := (n.kind, n.vals, n.f, n.p, n.pend)

/-- One name of a slot takes a new place. -/
def State.moveName (s : State) (m : Nat × Nat × Nat) : State :=
  s.modSlot m.1 (fun x => { x with names := x.names.modify m.2.1 (fun n => { n with pos := m.2.2 }) })

/-- Moving a name changes no name's content. -/
theorem State.moveName_content (s : State) (m : Nat × Nat × Nat) (u : Tid) :
    ((s.moveName m).slot u).names.map NameSt.content = (s.slot u).names.map NameSt.content := by
  unfold State.moveName
  by_cases hu : u = m.1
  · subst hu
    rw [State.slot_modSlot]
    apply List.ext_getElem?
    intro j
    simp only [List.getElem?_map, List.getElem?_modify]
    cases (s.slot m.1).names[j]? <;> simp [NameSt.content, apply_ite]
  · rw [State.slot_modSlot_ne _ _ _ _ hu]

/-- Moving names changes the slots alone, and no name's content. -/
theorem State.moveNames (ms : List (Nat × Nat × Nat)) (s : State) :
    (∃ sl, ms.foldl State.moveName s = { s with slots := sl }) ∧
      ∀ u, ((ms.foldl State.moveName s).slot u).names.map NameSt.content = (s.slot u).names.map NameSt.content := by
  induction ms generalizing s with
  | nil => exact ⟨⟨_, rfl⟩, fun _ => rfl⟩
  | cons m ms ih =>
    obtain ⟨⟨sl, h⟩, hn⟩ := ih (s.moveName m)
    exact ⟨⟨sl, h⟩, fun u => (hn u).trans (s.moveName_content m u)⟩

/-- The end of a repack: the names take their places, and the core has no repack. -/
theorem State.endRepack_eq {s : State} {c : Nat} {r : Repack} (h : (s.core c).repack = some r) :
    s.endRepack c = (r.moves.foldl State.moveName s).setCore c
      { (r.moves.foldl State.moveName s).core c with repack := none } := by
  simp only [State.endRepack, h]
  rfl

/-! ### Watchdogs -/

/-- LAUNCH_WATCHDOG_EXPIRY of a launch whose budget has passed reports it to partition 0. -/
theorem execLaunchWatchdogExpiry_report {s : State} {lid : Nat} {l : Launch} (h : mfind lid s.launches = some l)
    (hw : l.wdog ≠ 0) (hs : l.wdSent = false) (hp : l.susp = false) (hc : l.wdStart + usCycles l.wdog ≤ s.cycle) :
    execLaunchWatchdogExpiry lid s = .next ({ s with launches := mset lid { l with wdSent := true } s.launches }.sendTrap 0
      { TrapRec.zero 0x20 0 l.part s.cycle with addr := BitVec.ofNat 64 l.wdog, launch := lid }) := by
  simp only [execLaunchWatchdogExpiry, h, hw, hs, hp, Nat.not_lt.mpr hc, decide_false, Bool.or_self, Bool.false_eq_true,
    if_false]

/-- It reports nothing of a launch without a budget, of one that it has reported, and before the budget has passed. -/
theorem execLaunchWatchdogExpiry_quiet {s : State} {lid : Nat} {l : Launch} (h : mfind lid s.launches = some l)
    (hq : l.wdog = 0 ∨ l.wdSent = true ∨ s.cycle < l.wdStart + usCycles l.wdog) :
    execLaunchWatchdogExpiry lid s = .next s := by
  rcases hq with hq | hq | hq <;> simp [execLaunchWatchdogExpiry, h, hq]

/-- QUEUE_STALL_WATCHDOG of a queue whose HEAD has not moved within its budget while records wait reports it to
partition 0. -/
theorem execQueueStallWatchdog_report {s : State} {part lev : Nat} {q : LQueue} (h : s.hasQueues part = true)
    (he : (s.part part).q lev = q) (hw : q.wdBudget ≠ 0) (hs : q.wdSent = false)
    (hh : s.hdrWord q.pa 3 ≠ s.hdrWord q.pa 2) (hc : q.wdSince + usCycles q.wdBudget ≤ s.cycle) :
    execQueueStallWatchdog part lev s = .next ((s.modQ part lev (fun y => { y with wdSent := true })).sendTrap 0
      { TrapRec.zero 0x20 1 part s.cycle with name := lev, addr := BitVec.ofNat 64 q.wdBudget }) := by
  simp only [execQueueStallWatchdog, h, he, hw, hs, hh, Nat.not_lt.mpr hc, decide_false, Bool.not_true, Bool.or_self,
    Bool.false_eq_true, if_false]
  rfl

/-- It reports nothing of a queue without a budget, of one that it has reported, and while no record waits. -/
theorem execQueueStallWatchdog_quiet {s : State} {part lev : Nat} {q : LQueue} (he : (s.part part).q lev = q)
    (hq : q.wdBudget = 0 ∨ q.wdSent = true ∨ s.hdrWord q.pa 3 = s.hdrWord q.pa 2) :
    execQueueStallWatchdog part lev s = .next s := by
  rcases hq with hq | hq | hq <;> simp [execQueueStallWatchdog, he, hq]

/-- Settles O34: the time-out by the cases of the wait, the repack's end by moving one name after the other, the watchdogs by
their guards. -/
theorem waitsWatchdogsAndRepack : Obligations.WaitsWatchdogsAndRepack := by
  unfold Obligations.WaitsWatchdogsAndRepack
  refine ⟨⟨?_, ?_, ?_⟩, ?_, ?_⟩
  · intro s t w n hp hc hk h5 h6 hm
    have hg : ¬ (s.slot t).groupWait := by
      rintro (⟨hw, hq⟩ | ⟨hw, hq | ⟨pa, tr, hq⟩⟩)
      · exact h5 hw hq
      · exact (h6 hw).1 hq
      · exact (h6 hw).2 pa tr hq
    exact (execWaitTimeout_timeOut hp hc hm hg).trans (by rw [State.timeOut_kept hk])
  · intro s t pa tr hp hc hk hg hm hw
    exact execWaitTimeout_genter hp hc hm hk hg hw
  · intro s c r hr hu
    have hexec : exec (.repack c) s = .next (s.endRepack c) := by
      show execRepack c s = _
      simp [execRepack, hr, Nat.not_lt.mpr hu]
    obtain ⟨⟨sl, hsl⟩, hn⟩ := State.moveNames r.moves s
    refine ⟨_, hexec, ?_, ?_, ?_⟩
    · rw [State.endRepack_eq hr, State.core_setCore]
    · rw [State.endRepack_eq hr, State.setCore_mem, hsl]
    · intro u
      rw [State.endRepack_eq hr, State.slot_of_setCore]
      exact hn u
  · intro s lid l hl
    exact ⟨execLaunchWatchdogExpiry_report hl, execLaunchWatchdogExpiry_quiet hl⟩
  · intro s part lev hq
    exact ⟨execQueueStallWatchdog_report hq rfl, execQueueStallWatchdog_quiet rfl⟩

end Sys2Proof.Machine
end

section
/-! PROOF. TUNE: the entries of a descriptor, how it is read, and the names that it declares (R44 to R48, R51 to R56). -/

namespace Sys2Proof.Machine

/-! ### The entries of a descriptor (R45, R56) -/

@[simp] theorem modeOf_modeCode (m : Mode) : modeOf (modeCode m) = some m := by cases m <;> rfl
@[simp] theorem fkOf_fkCode (k : FK) : fkOf (fkCode k) = some k := by cases k <;> rfl
theorem modeCode_lt (m : Mode) : modeCode m < 4 := by cases m <;> decide
theorem fkCode_lt (k : FK) : fkCode k < 8 := by cases k <;> decide

/-- The entry of an integer name: KIND 1 signed, 2 unsigned; width less one; mode. -/
theorem parseEntry_int (core : Nat) (sg : Bool) {w : Nat} (md : Mode) (h1 : 1 ≤ w) (h64 : w ≤ 64) :
    parseEntry core (BitVec.ofNat 64 ((if sg then 1 else 2) * 2 ^ 60 + (w - 1) * 2 ^ 54 + modeCode md * 2 ^ 52)) =
      some (.int sg w md) := by
  have hm := modeCode_lt md
  have hs : (if sg then 1 else 2) < 3 := by cases sg <;> decide
  generalize hk : (if sg then 1 else 2) = kind at hs ⊢
  generalize he : kind * 2 ^ 60 + (w - 1) * 2 ^ 54 + modeCode md * 2 ^ 52 = e
  have hlt : e < 2 ^ 64 := by omega
  have hkind : bits e 63 60 = kind := by unfold bits; omega
  have hlow : bits e 51 0 = 0 := by unfold bits; omega
  have hmode : bits e 53 52 = modeCode md := by unfold bits; omega
  have hw : bits e 59 54 + 1 = w := by unfold bits; omega
  simp only [parseEntry, BitVec.toNat_ofNat, Nat.mod_eq_of_lt hlt, hkind, hlow, hmode, hw, modeOf_modeCode, if_true,
    Option.map_some]
  cases sg <;> subst hk <;> rfl

/-- The entry of a float name: KIND 3 and its float kind. -/
theorem parseEntry_flt (core : Nat) (k : FK) :
    parseEntry core (BitVec.ofNat 64 (3 * 2 ^ 60 + fkCode k * 2 ^ 57)) = some (.flt k) := by
  have hk := fkCode_lt k
  generalize he : 3 * 2 ^ 60 + fkCode k * 2 ^ 57 = e
  have hlt : e < 2 ^ 64 := by omega
  have hkind : bits e 63 60 = 3 := by unfold bits; omega
  have hlow : bits e 56 0 = 0 := by unfold bits; omega
  have hfk : bits e 59 57 = fkCode k := by unfold bits; omega
  simp only [parseEntry, BitVec.toNat_ofNat, Nat.mod_eq_of_lt hlt, hkind, hlow, hfk, fkOf_fkCode, if_true, Option.map_some]

/-- The entry of an integer vector: KIND 4, ELEM 0 signed, 1 unsigned; width less one; mode; rows and columns less one. -/
theorem parseEntry_ivec (core : Nat) (sg : Bool) {w : Nat} (md : Mode) {r c : Nat} (h1 : 1 ≤ w) (h64 : w ≤ 64)
    (hr1 : 1 ≤ r) (hr : r ≤ 1024) (hc1 : 1 ≤ c) (hc : c ≤ 1024) :
    parseEntry core (BitVec.ofNat 64 (4 * 2 ^ 60 + (if sg then 0 else 1) * 2 ^ 58 + (w - 1) * 2 ^ 52 + modeCode md * 2 ^ 50 +
      (r - 1) * 2 ^ 40 + (c - 1) * 2 ^ 30)) = some (.ivec sg w md (grant r c (elemW w)).1 (grant r c (elemW w)).2) := by
  have hm := modeCode_lt md
  have hs : (if sg then 0 else 1) < 2 := by cases sg <;> decide
  generalize hk : (if sg then 0 else 1) = elem at hs ⊢
  generalize he : 4 * 2 ^ 60 + elem * 2 ^ 58 + (w - 1) * 2 ^ 52 + modeCode md * 2 ^ 50 + (r - 1) * 2 ^ 40 +
    (c - 1) * 2 ^ 30 = e
  have hlt : e < 2 ^ 64 := by omega
  have hkind : bits e 63 60 = 4 := by unfold bits; omega
  have helem : bits e 59 58 = elem := by unfold bits; omega
  have hlow : bits e 29 0 = 0 := by unfold bits; omega
  have hw : bits e 57 52 + 1 = w := by unfold bits; omega
  have hmode : bits e 51 50 = modeCode md := by unfold bits; omega
  have hrow : bits e 49 40 + 1 = r := by unfold bits; omega
  have hcol : bits e 39 30 + 1 = c := by unfold bits; omega
  simp only [parseEntry, BitVec.toNat_ofNat, Nat.mod_eq_of_lt hlt, hkind, helem, hlow, hw, hmode, hrow, hcol,
    modeOf_modeCode, ne_eq, not_true_eq_false, if_false, Option.map_some]
  cases sg <;> subst hk <;> rfl

/-- The entry of a float vector: KIND 4, ELEM 2; its float kind; rows and columns less one. -/
theorem parseEntry_fvec (core : Nat) (k : FK) {r c : Nat} (hr1 : 1 ≤ r) (hr : r ≤ 1024) (hc1 : 1 ≤ c) (hc : c ≤ 1024) :
    parseEntry core (BitVec.ofNat 64 (4 * 2 ^ 60 + 2 * 2 ^ 58 + fkCode k * 2 ^ 52 + (r - 1) * 2 ^ 40 + (c - 1) * 2 ^ 30)) =
      some (.fvec k (grant r c k.elemW).1 (grant r c k.elemW).2) := by
  have hk := fkCode_lt k
  generalize he : 4 * 2 ^ 60 + 2 * 2 ^ 58 + fkCode k * 2 ^ 52 + (r - 1) * 2 ^ 40 + (c - 1) * 2 ^ 30 = e
  have hlt : e < 2 ^ 64 := by omega
  have hkind : bits e 63 60 = 4 := by unfold bits; omega
  have helem : bits e 59 58 = 2 := by unfold bits; omega
  have hlow : bits e 29 0 = 0 := by unfold bits; omega
  have hz : bits e 57 55 = 0 := by unfold bits; omega
  have hz' : bits e 51 50 = 0 := by unfold bits; omega
  have hfk : bits e 54 52 = fkCode k := by unfold bits; omega
  have hrow : bits e 49 40 + 1 = r := by unfold bits; omega
  have hcol : bits e 39 30 + 1 = c := by unfold bits; omega
  simp only [parseEntry, BitVec.toNat_ofNat, Nat.mod_eq_of_lt hlt, hkind, helem, hlow, hz, hz', hfk, hrow, hcol, fkOf_fkCode,
    ne_eq, not_true_eq_false, or_self, if_false, Option.map_some]

/-- The entry of a queue name: KIND 5 and the queue of the slot's core. -/
theorem parseEntry_queue (core : Nat) {q : Nat} (hq : q < 32) :
    parseEntry core (BitVec.ofNat 64 (5 * 2 ^ 60 + q * 2 ^ 55)) = some (.queue core q) := by
  generalize he : 5 * 2 ^ 60 + q * 2 ^ 55 = e
  have hlt : e < 2 ^ 64 := by omega
  have hkind : bits e 63 60 = 5 := by unfold bits; omega
  have hlow : bits e 54 0 = 0 := by unfold bits; omega
  have hqn : bits e 59 55 = q := by unfold bits; omega
  simp only [parseEntry, BitVec.toNat_ofNat, Nat.mod_eq_of_lt hlt, hkind, hlow, hqn, if_true]

/-- The header of a descriptor of `n` entries. -/
theorem parseHeader_of_toNat {h : Word} {n : Nat} (hh : h.toNat = 0x7E3A0100 + n) (hn : n < 256) : parseHeader h = some n := by
  have h1 : bits h.toNat 63 32 = 0 := by unfold bits; omega
  have h2 : bits h.toNat 31 16 = 0x7E3A := by unfold bits; omega
  have h3 : bits h.toNat 15 8 = 1 := by unfold bits; omega
  have h4 : bits h.toNat 7 0 = n := by unfold bits; omega
  simp only [parseHeader, h1, h2, h3, h4, and_self, if_true]

/-- The entry of every kind declares that kind, vectors with their granted shape. -/
theorem descriptorEntries : Clause.DescriptorEntries := by
  intro core
  refine ⟨fun sg w md => parseEntry_int core sg md, parseEntry_flt core, ?_, ?_, fun q => parseEntry_queue core⟩
  · rintro sg w md r c cg rg h1 h64 hr1 hr hc1 hc rfl rfl
    exact parseEntry_ivec core sg md h1 h64 hr1 hr hc1 hc
  · rintro k r c cg rg hr1 hr hc1 hc rfl rfl
    exact parseEntry_fvec core k hr1 hr hc1 hc

/-! ### The names of a tuning (R48, R53, R54) -/

/-- Placing kinds gives each of them a position. -/
theorem placeAll_length {occ : List Run} {ks : List NKind} {ps : List Nat} (h : placeAll occ ks = some ps) :
    ps.length = ks.length := by
  simp only [placeAll] at h
  split at h
  · cases h
  · simp only [Option.some.injEq] at h
    simp [← h]

/-- A compaction changes no more than the core's repack. -/
theorem State.compact_cores (s : State) (core : Nat) (t : Tid) (old : List Run) (grown : Option (Nat × Nat × Nat)) :
    ∃ cs, s.compact core t old grown = { s with cores := cs } := by
  simp only [State.compact]
  split <;> exact ⟨_, rfl⟩

/-- A slot has the names of a tuning, at their positions. -/
def State.declareNames (s : State) (t : Tid) (va : Word) (ks : List NKind) (ps : List Nat) : State :=
  s.modSlot t (fun x => { x with
    tuning := va, bits := costOf ks, names := (ks.zip ps).map (fun e => { NameSt.fresh e.1 with pos := e.2 }) })

/-- Applying a tuning declares its names, each at some position, and may begin a repack. -/
theorem State.applyTuning_eq (s : State) (t : Tid) (va : Word) (ks : List NKind) :
    ∃ ps cs, ps.length = ks.length ∧
      s.applyTuning t va ks = { (s.releaseNames t).declareNames t va ks ps with cores := cs } := by
  simp only [State.applyTuning]
  split
  · next ps hp => exact ⟨ps, _, placeAll_length hp, rfl⟩
  · obtain ⟨cs, h⟩ := ((s.releaseNames t).declareNames t va ks (ks.map fun _ => Config.storeBits)).compact_cores (coreOf t) t
      ((s.releaseNames t).occupied (coreOf t)) none
    exact ⟨_, cs, List.length_map _, h⟩

/-- A name as a tuning declares it, wherever it stands. -/
theorem NameSt.fresh_declares (k : NKind) (p : Nat) : Declares { NameSt.fresh k with pos := p } k := by
  refine ⟨rfl, rfl, rfl, rfl, ?_, ?_⟩ <;> cases k <;> simp [NameSt.fresh, NKind.shape]

/-- Applying a tuning gives the slot its names and leaves every other slot and all of memory alone. -/
theorem tuningDeclaresNames : Clause.TuningDeclaresNames := by
  intro s t va ks y
  obtain ⟨ps, cs, hlen, h⟩ := s.applyTuning_eq t va ks
  have hy : y = { s.slot t with
      tuning := va, bits := costOf ks, names := (ks.zip ps).map (fun e => { NameSt.fresh e.1 with pos := e.2 }) } := by
    show (s.applyTuning t va ks).slot t = _
    rw [h]
    show ((s.releaseNames t).declareNames t va ks ps).slot t = _
    simp [State.declareNames, State.releaseNames]
  refine ⟨by rw [hy], by rw [hy], by simp [hy, hlen], ?_, ?_, ⟨_, _, hy⟩, by rw [h]; rfl, by rw [h]; rfl⟩
  · intro j hj
    refine ⟨{ NameSt.fresh ks[j] with pos := ps[j] }, ?_, NameSt.fresh_declares _ _⟩
    have hz : (ks.zip ps)[j]? = some (ks[j], ps[j]) :=
      List.getElem?_zip_eq_some.mpr ⟨List.getElem?_eq_getElem hj, List.getElem?_eq_getElem (hlen ▸ hj)⟩
    simp only [hy, List.getElem?_map, hz, Option.map_some]
  · intro u hu
    rw [h]
    show ((s.releaseNames t).declareNames t va ks ps).slot u = _
    simp [State.declareNames, State.releaseNames, State.slot_modSlot_ne _ _ _ _ hu]

/-! ### Waiting for a repack (R59) -/

/-- An op goes on where it needs no repack or may begin the one it needs. -/
theorem awaitRepack_go {x : Ctx} {needs : Bool} (h : needs = true → x.s0.mayRepack x.t = true) :
    awaitRepack x needs = pure () := by
  cases needs with
  | false => rfl
  | true => simp [awaitRepack, h rfl]

/-- An op parks that needs a repack which it may not begin. -/
theorem awaitRepack_park {x : Ctx} (st : State) (h : x.s0.mayRepack x.t = false) :
    awaitRepack x true st = .error (.park (BitVec.ofNat 64 (8 * 2 ^ 60))) := by
  simp only [awaitRepack, h]
  rfl

/-! ### Reading a descriptor at a turn (R55) -/

/-- Nothing of a slot that is under way must come before an access of it where nothing of it is under way. -/
theorem State.blocked_of_not_busy {s : State} {y : Acc} (h : s.busy y.tid = false) : s.blocked y = false := by
  unfold State.busy at h
  unfold State.blocked
  rw [List.any_eq_false] at h ⊢
  intro e he
  have := h e he
  cases ha : e.2.acc with
  | none => simp
  | some a =>
    have hne : a.tid ≠ y.tid := by simpa [ha] using this
    simp [Acc.before, hne]

/-- Such an access is made at once. -/
theorem accessNow_of_not_busy {st : State} {y : Acc} (h : st.busy y.tid = false) : accessNow y st = .ok ((), st) := by
  have hb := State.blocked_of_not_busy h
  have hd : st.drainFor y = st := by simp [State.drainFor, hb]
  exact (accessNow_apply (by rw [hd, hb])).trans (by rw [hd])

/-- A translation that the cluster's cache holds. -/
theorem opXlate_ok {x : Ctx} {far : Bool} {va : Nat} {k : AKind} {st : State} {pa : Nat} {l : Leaf}
    (h : st.xlate x.clu x.part x.sl.smode va k = .ok pa l) : opXlate x far va k st = .ok ((pa, l), st) := by
  simp only [opXlate, h]

/-- A descriptor word that can be read, where no access of the slot is under way. -/
theorem DescWord.readDesc {s st : State} {va : Nat} {w : Word} (h : DescWord s st va w) (hb : st.busy s.cur = false) :
    Machine.readDesc s.ctx va st = .ok (w, st) := by
  obtain ⟨pa, l, hx, hp, rfl⟩ := h
  have hacc : accessNow ⟨s.ctx.t, s.ctx.sl.epoch, .mem pa, 8, false, l.ord, none, l.trace⟩ st = .ok ((), st) :=
    accessNow_of_not_busy hb
  simp only [Machine.readDesc, OpM.bind_apply, opXlate_ok (x := s.ctx) (far := false) hx, hacc, OpM.get_apply, hp]
  rfl

/-- The entries of a descriptor from one of them on. -/
theorem readDescEntries_ok {s st : State} {va : Word} (hb : st.busy s.cur = false) (ks : List NKind) (k : Nat)
    (h : ∀ j, ∀ (hj : j < ks.length), ∃ w, DescWord s st (va.toNat + 8 * (k + j)) w ∧
      parseEntry (coreOf s.cur) w = some ks[j]) :
    readDescEntries s.ctx va k ks.length st = .ok (ks, st) := by
  induction ks generalizing k with
  | nil => rfl
  | cons n ks ih =>
    obtain ⟨w, hw, hp⟩ := h 0 (by simp)
    have hrest := ih (k + 1) (fun j hj => by
      have := h (j + 1) (by simpa using hj)
      rwa [Nat.add_right_comm k 1 j, Nat.add_assoc k j 1])
    have hread : Machine.readDesc s.ctx (va.toNat + 8 * k) st = .ok (w, st) := hw.readDesc hb
    have hkind : parseEntry s.ctx.core w = some n := hp
    simp only [List.length_cons, readDescEntries, OpM.bind_apply, hread, hkind, hrest]
    rfl

/-- TUNE of a descriptor that can be read, is well-formed and fits. -/
theorem tuneTo_ok {s st0 : State} {va h : Word} {ks : List NKind} (ha : va.toNat % 8 = 0)
    (hb : (st0.drain s.cur).busy s.cur = false) (hh : DescWord s (st0.drain s.cur) va.toNat h)
    (hn : h.toNat = 0x7E3A0100 + ks.length) (hl : ks.length < 256)
    (he : ∀ j, ∀ (hj : j < ks.length), ∃ w, DescWord s (st0.drain s.cur) (va.toNat + 8 * (j + 1)) w ∧
      parseEntry (coreOf s.cur) w = some ks[j])
    (hs : s.declaredOthers s.cur + costOf ks ≤ 262144) (hm : s.tuneMoves s.cur ks = false ∨ s.mayRepack s.cur = true) :
    tuneTo s.ctx va st0 = .ok (.seq, (st0.drain s.cur).applyTuning s.cur va ks) := by
  have hents : readDescEntries s.ctx va 1 ks.length (st0.drain s.cur) = .ok (ks, st0.drain s.cur) :=
    readDescEntries_ok hb ks 1 (fun j hj => by rw [Nat.add_comm 1 j]; exact he j hj)
  have hread : Machine.readDesc s.ctx va.toNat (st0.drain s.ctx.t) = .ok (h, st0.drain s.cur) := hh.readDesc hb
  have hroom : ¬ Config.storeBits < s.ctx.s0.declaredOthers s.ctx.t + costOf ks := Nat.not_lt.mpr hs
  have hwait : awaitRepack s.ctx (s.ctx.s0.tuneMoves s.ctx.t ks) = pure () :=
    awaitRepack_go fun hneeds => hm.resolve_left (fun hno => Bool.noConfusion (hno.symm.trans hneeds))
  simp only [tuneTo, ha, ne_eq, not_true_eq_false, if_false, OpM.bind_apply, OpM.modify_apply, hread,
    parseHeader_of_toNat hn hl, hents, hroom, hwait, OpM.pure_apply, OpM.seqNext_apply]
  rfl

/-- TUNE applies its descriptor and goes on. -/
theorem tuneAppliesDescriptor : Clause.TuneAppliesDescriptor := by
  rintro g src va ks h fs m st0 s hready hsrc t ha hh hn hl he hs hperf hm
  have hrun := tuneTo_ok ha hperf hh hn hl he hs hm
  rcases hsrc with ⟨a, v, rfl, rfl, rfl, ⟨n, sg, w, md, hn, hk⟩, hread, rfl⟩ | ⟨rfl, rfl, rfl, rfl⟩
  · refine issue_seq (o := specTune g (.name a)) hready (Slot.isInt_of hn hk) ?_
    rw [← hrun]
    simp only [specTune, OpM.bind_apply, hread.readAddr, ofNat_umod]
  · exact issue_seq (o := specTune g (.x64 va)) hready rfl hrun

/-- Settles O17: its three clauses. -/
theorem tuning : Obligations.Tuning := ⟨tuneAppliesDescriptor, descriptorEntries, tuningDeclaresNames⟩

end Sys2Proof.Machine
end

section
/-! PROOF. RESIZE, WIDTH and SHAPE, and the repacks that they may cause (R53, R56 to R59, R61, R432). -/

namespace Sys2Proof.Machine

/-! ### Repacks -/

/-- The slots of a core are those whose thread ids lie in it. -/
theorem mem_coreTids (c u : Nat) : u ∈ coreTids c ↔ coreOf u = c := by
  simp only [coreTids, List.mem_map, List.mem_range, coreOf]
  constructor
  · rintro ⟨k, hk, rfl⟩
    omega
  · rintro rfl
    exact ⟨u % 16, by omega, by omega⟩

/-- The cycle from which the turns for a repack count a slot: since when it waits for one, else now. -/
theorem Slot.repackWait_getD (x : Slot) (now : Nat) :
    x.repackWait.getD now = if x.st = .parked ∧ x.waiton.toNat / 2 ^ 60 = 8 then x.waitSince else now := by
  unfold Slot.repackWait
  split <;> rfl

theorem Slot.repackWait_eq_some {x : Slot} {c : Nat} :
    x.repackWait = some c ↔ (x.st = .parked ∧ x.waiton.toNat / 2 ^ 60 = 8) ∧ x.waitSince = c := by
  unfold Slot.repackWait
  split <;> simp_all

theorem Slot.repackWait_eq_none {x : Slot} :
    x.repackWait = none ↔ ¬ (x.st = .parked ∧ x.waiton.toNat / 2 ^ 60 = 8) := by
  unfold Slot.repackWait
  split <;> simp_all

/-- Repacks of a core take turns. -/
theorem repacksTakeTurns : Clause.RepacksTakeTurns := by
  intro s t
  have hfree : (!s.repacking (coreOf t)) = true ↔ (s.core (coreOf t)).repack = none := by
    simp [State.repacking]
  rw [State.mayRepack, Slot.repackWait_getD, Bool.and_eq_true, hfree, List.all_eq_true]
  refine and_congr_right fun _ => forall_congr' fun u => ?_
  rw [mem_coreTids, Bool.or_eq_true, decide_eq_true_eq]
  cases hw : (s.slot u).repackWait with
  | none =>
    have := Slot.repackWait_eq_none.mp hw
    simp only [or_true, implies_true, true_iff]
    exact fun _ _ hp hk => absurd ⟨hp, hk⟩ this
  | some c =>
    obtain ⟨⟨hp, hk⟩, rfl⟩ := Slot.repackWait_eq_some.mp hw
    simp only [hp, hk, decide_eq_true_eq, forall_const]
    exact ⟨fun h hne hc => (h hc).resolve_left hne, fun h hc => (Decidable.em (u = t)).imp_right fun hne => h hne hc⟩

/-- The slot with another kind at one of its names. -/
def Slot.rekind (x : Slot) (ix : Nat) (k : NKind) : Slot := { x with names := x.names.modify ix (fun m => { m with kind := k }) }

/-- A name that takes a new kind keeps all else; only the core's repack may change beside it, and only where the name
grows. -/
theorem State.regrow_eq (s : State) (t : Tid) (ix : Nat) (n : NameSt) (k : NKind) :
    ∃ cs, s.regrow t ix n k = { s.modSlot t (·.rekind ix k) with cores := cs } ∧
      (k.cost ≤ n.kind.cost → cs = s.cores) := by
  cases hg : s.growth t ix n k with
  | stay =>
    refine ⟨s.cores, ?_, fun _ => rfl⟩
    simp only [State.regrow, hg]
    rfl
  | move p =>
    refine ⟨_, by simp only [State.regrow, hg]; rfl, fun hc => ?_⟩
    simp [State.growth, hc] at hg
  | compact =>
    obtain ⟨cs, h⟩ := (s.modSlot t (·.rekind ix k)).compact_cores (coreOf t) t (s.occupied (coreOf t))
      (some (t, ix, n.kind.cost))
    refine ⟨cs, by simp only [State.regrow, hg]; exact h, fun hc => ?_⟩
    simp [State.growth, hc] at hg

/-- A name that grows keeps its value, its bits and its place. -/
theorem growingKeepsNames : Clause.GrowingKeepsNames := by
  intro s t ix n k s'
  obtain ⟨cs, h, hcs⟩ := s.regrow_eq t ix n k
  have hs : s' = { s.modSlot t (·.rekind ix k) with cores := cs } := h
  rw [hs]
  exact ⟨fun u hu => s.slot_modSlot_ne t u (·.rekind ix k) hu, s.slot_modSlot t (·.rekind ix k), rfl, rfl, hcs⟩

/-! ### RESIZE and WIDTH -/

section Resize
variable {s st : State} {d : Ix} {n : NameSt} {sg : Bool} {w0 w : Nat} {md : Mode}

/-- A resize of a name that has room for its new width: what it does from there on. -/
theorem resizeTo_fits (hn : s.me.nm d = some n) (hk : n.kind = .int sg w0 md) (hf : n.f = true)
    (hroom : w ≤ w0 ∨ s.declared (coreOf s.cur) - w0 + w ≤ 262144) :
    resizeTo s.ctx d w st = (match fitInt sg w md (n.vals.headD 0) with
      | none => trapName 3 2 d
      | some y => do
        awaitRepack s.ctx (s.growMoves s.cur (d.toNat - 1) n (.int sg w md))
        modify (fun st => (st.regrow s.cur (d.toNat - 1) n (.int sg w md)).modName s.cur d (fun q => { q with vals := [y] }))
        seqNext : OpM Next) st := by
  have hr : ReadsInt s st d (n.vals.headD 0) n.p st := .inr (.inl ⟨n, sg, w0, md, hn, hk, hf, rfl, rfl, rfl⟩)
  have hno : (decide (w0 < w) && decide (Config.storeBits < s.ctx.s0.declared s.ctx.core - w0 + w)) = false := by
    rw [Bool.and_eq_false_iff, decide_eq_false_iff_not, decide_eq_false_iff_not]
    exact hroom.imp Nat.not_lt.mpr Nat.not_lt.mpr
  simp only [resizeTo, State.ctx_sl, hn, hk, OpM.bind_apply, hr.readInt, hno, Bool.false_eq_true, if_false, narrow]
  rfl

/-- A name that does not fit the register store at its new width traps with the shortfall (R61). -/
theorem resizeTo_space (hn : s.me.nm d = some n) (hk : n.kind = .int sg w0 md) (hf : n.f = true) (hw : w0 < w)
    (hroom : 262144 < s.declared (coreOf s.cur) - w0 + w) :
    resizeTo s.ctx d w st = .error (.trap
      ⟨0x0B, 2, d.toNat, BitVec.ofNat 64 (s.declared (coreOf s.cur) - w0 + w - 262144)⟩) := by
  have hr : ReadsInt s st d (n.vals.headD 0) n.p st := .inr (.inl ⟨n, sg, w0, md, hn, hk, hf, rfl, rfl, rfl⟩)
  have hyes : (decide (w0 < w) && decide (Config.storeBits < s.ctx.s0.declared s.ctx.core - w0 + w)) = true := by
    rw [Bool.and_eq_true, decide_eq_true_eq, decide_eq_true_eq]
    exact ⟨hw, hroom⟩
  simp only [resizeTo, State.ctx_sl, hn, hk, OpM.bind_apply, hr.readInt, hyes, if_true]
  rfl

end Resize

/-- RESIZE and WIDTH issue one operation: that of resizing D to a width, from the state in which their width is known. -/
theorem resize_issues {s st : State} {i : Instr} {d : Ix} {w : Nat}
    (h : (∃ g wm1, i = .resize g d wm1 ∧ Ready s g [d] [] none ∧ w = BitVec.toNat wm1 + 1 ∧ st = s.counted) ∨
      (∃ g a v st0, i = .width g d a ∧ Ready s g [d, a.ix] [a] none ∧ ReadsInt s (s.emptied [a]) a.ix v false st0 ∧
        1 ≤ v ∧ v ≤ 64 ∧ w = v.toNat ∧ st = st0.count 0 (coreOf s.cur) 7 s.me.smode 1)) :
    ∃ o : OpSpec, exec i s = issue o s ∧ Ready s o.g o.fields o.m o.d ∧ o.kinds s.me = true ∧
      o.run s.ctx (s.emptied o.m) = resizeTo s.ctx d w st := by
  rcases h with ⟨g, wm1, rfl, hready, rfl, rfl⟩ | ⟨g, a, v, st0, rfl, hready, hread, h1, h64, rfl, rfl⟩
  · exact ⟨specResize g d wm1, rfl, hready, rfl, rfl⟩
  · refine ⟨specWidth g d a, rfl, hready, hread.intOk, ?_⟩
    have hrange : ¬ (v < 1 ∨ 64 < v) := by omega
    simp only [specWidth, OpM.bind_apply, hread.readAddr, hrange, if_false]
    rfl

/-- RESIZE and WIDTH give a name its new width, trap or park. -/
theorem resizeChangesWidth : Clause.ResizeChangesWidth := by
  intro s st i d w n sg w0 md hn hk hf hi
  obtain ⟨o, hexec, hready, hkinds, hrun⟩ := resize_issues hi
  refine ⟨fun y hroom hy => ⟨fun hmay => ?_, fun hmay => ?_⟩, fun hroom hy => ?_, fun hw hroom => ?_⟩
  · refine hexec.trans (issue_seq hready hkinds ?_)
    have hgo : awaitRepack s.ctx (s.growMoves s.cur (d.toNat - 1) n (.int sg w md)) = pure () := awaitRepack_go hmay
    rw [hrun, resizeTo_fits hn hk hf hroom, hy]
    simp only [hgo]
    rfl
  · refine hexec.trans (issue_park hready hkinds ?_)
    obtain ⟨hmoves, hno⟩ := Classical.not_imp.mp hmay
    rw [hrun, resizeTo_fits hn hk hf hroom, hy]
    simp only [hmoves, OpM.bind_apply, awaitRepack_park (x := s.ctx) st (Bool.not_eq_true _ ▸ hno)]
  · refine hexec.trans (issue_trap hready hkinds ?_)
    rw [hrun, resizeTo_fits hn hk hf hroom, hy]
    rfl
  · exact hexec.trans (issue_trap hready hkinds (hrun.trans (resizeTo_space hn hk hf hw hroom)))

/-! ### SHAPE -/

/-- The shape that a vector is granted (R56). -/
theorem NKind.granted_shape {k : NKind} (hv : k.isVec = true) (rq cq : Nat) :
    (k.granted rq cq).shape = grant rq cq k.sw := by
  cases k with
  | ivec => rfl
  | fvec => rfl
  | _ => cases hv

/-- The name to which SHAPE writes the grant can take it: `nil`, or an integer name that holds it. -/
def Slot.holds (x : Slot) (d : Ix) (v : Int) : Prop :=
  x.kind d = none ∨ ∃ sg w m, x.kind d = some (.int sg w m) ∧ (fitInt sg w m v).isNone = false

/-- `nil` or an integer name to which a value is written holds it. -/
theorem WritesInt.holds {s st st' : State} {d : Ix} {v : Int} {p : Bool} (hw : WritesInt s st d v p st')
    (hd : d = 0 ∨ IntName s d) : s.me.holds d v := by
  rcases hd with rfl | ⟨n, sg, w, m, hn, hk⟩
  · exact .inl (by simp [Slot.kind])
  · refine .inr ⟨sg, w, m, by simp [Slot.kind, hn, hk], ?_⟩
    rcases hw with ⟨rfl, -⟩ | ⟨n', sg', w', m', y, hn', hk', hy, -⟩ | ⟨n', q, hn', hk', -⟩ | ⟨n', c, q, hn', hk', -⟩
    · simp at hn
    all_goals
      obtain rfl : n = n' := Option.some.inj (hn.symm.trans hn')
      have hkk := hk.symm.trans hk'
    · obtain ⟨rfl, rfl, rfl⟩ := NKind.int.inj hkk
      simp [hy]
    · cases hkk
    · cases hkk

section Shape
variable {s st : State} {d v : Ix} {n : NameSt} {rq cq rg cg : Nat} {k : NKind}

/-- SHAPE of a vector for a request within the limits, once the grant is known and D can take it. -/
theorem shapeTo_granted (hr1 : 1 ≤ rq) (hr : rq ≤ 1024) (hc1 : 1 ≤ cq) (hc : cq ≤ 1024)
    (hk : n.kind.granted rq cq = k) (hs : k.shape = (rg, cg)) (hd : s.me.holds d ((rg * 65536 + cg : Nat) : Int)) :
    shapeTo s.ctx d v n ((rq * 65536 + cq : Nat) : Int) st =
      (if Config.storeBits < s.declared (coreOf s.cur) - n.kind.cost + k.cost then
        .error (.trap ⟨0x0B, 3, v.toNat,
          BitVec.ofNat 64 (s.declared (coreOf s.cur) - n.kind.cost + k.cost - Config.storeBits)⟩)
      else (do
        awaitRepack s.ctx (s.growMoves s.cur (v.toNat - 1) n k)
        modify (fun st => (st.regrow s.cur (v.toNat - 1) n k).modName s.cur v
          (fun y => { y with vals := reshape y.vals n.kind.shape.1 n.kind.shape.2 rg cg }))
        writeInt s.ctx d ((rg * 65536 + cg : Nat) : Int) false
        seqNext : OpM Next) st) := by
  have hrange : ¬ (((rq * 65536 + cq : Nat) : Int) < 0 ∨ 2 ^ 32 ≤ ((rq * 65536 + cq : Nat) : Int)) := by omega
  have hrow : bits ((rq * 65536 + cq : Nat) : Int).toNat 31 16 = rq := by unfold bits; omega
  have hcol : bits ((rq * 65536 + cq : Nat) : Int).toNat 15 0 = cq := by unfold bits; omega
  have hlim : ¬ (rq = 0 ∨ cq = 0 ∨ 1024 < rq ∨ 1024 < cq) := by omega
  unfold shapeTo
  simp only [hrange, if_false, hrow, hcol, hlim, hk, hs, State.ctx_sl]
  rcases hd with hd | ⟨sg, w, m, hd, hfit⟩
  · simp only [hd]
    by_cases hroom : Config.storeBits < s.ctx.s0.declared s.ctx.core - n.kind.cost + k.cost <;>
      simp only [hroom, if_true, if_false]
    · exact (if_pos hroom).symm
    · exact (if_neg hroom).symm
  · simp only [hd, hfit, Bool.false_eq_true, if_false]
    by_cases hroom : Config.storeBits < s.ctx.s0.declared s.ctx.core - n.kind.cost + k.cost <;>
      simp only [hroom, if_true, if_false]
    · exact (if_pos hroom).symm
    · exact (if_neg hroom).symm

end Shape

/-- SHAPE issues one operation: that of granting a vector the request that its word or its operand holds. -/
theorem shape_issues {s : State} {g : Guard} {d v : Ix} {rq cq : Nat} {n : NameSt} {q : ShapeReq} {fs : List Ix}
    (hready : Ready s g fs [] none) (hn : s.me.nm v = some n) (hv : n.kind.isVec = true) (hd : d = 0 ∨ IntName s d)
    (hq : (∃ b, q = .name b ∧ fs = [d, v, b] ∧ s.me.intNil b = true ∧
        ReadsInt s s.counted b ((rq * 65536 + cq : Nat) : Int) false s.counted) ∨
      (∃ x : BitVec 32, q = .x32 x ∧ fs = [d, v] ∧ x.toNat = rq * 65536 + cq)) :
    ∃ o : OpSpec, exec (.shape g d v q) s = issue o s ∧ Ready s o.g o.fields o.m o.d ∧ o.kinds s.me = true ∧
      o.run s.ctx (s.emptied o.m) = shapeTo s.ctx d v n ((rq * 65536 + cq : Nat) : Int) s.counted := by
  have hdk : s.me.intNil d = true := by
    rcases hd with rfl | ⟨y, sg, w, m, hy, hk⟩
    · rfl
    · simp [Slot.intNil, Slot.isInt_of hy hk]
  rcases hq with ⟨b, rfl, rfl, hb, hread⟩ | ⟨x, rfl, rfl, hx⟩
  · refine ⟨specShape g d v (.name b), rfl, hready, by simp [specShape, hdk, hb], ?_⟩
    simp only [specShape, State.ctx_sl, hn, hv, Bool.not_true, Bool.false_eq_true, if_false, OpM.bind_apply]
    rw [show s.emptied [] = s.counted from rfl, hread.readAddr]
  · refine ⟨specShape g d v (.x32 x), rfl, hready, by simp [specShape, hdk], ?_⟩
    simp only [specShape, State.ctx_sl, hn, hv, Bool.not_true, Bool.false_eq_true, if_false, hx]
    rfl

/-- SHAPE grants a vector its request, or traps where the register store has no room for it. -/
theorem shapeGrants : Clause.ShapeGrants := by
  intro g d v rq cq n q fs s hready hn hv hd hr1 hr hc1 hc hq sw cg rg k
  obtain ⟨o, hexec, hready', hkinds, hrun⟩ := shape_issues hready hn hv hd hq
  have hk : n.kind.granted rq cq = k := by
    simp only [k, rg, cg, sw]
    cases n.kind <;> rfl
  have hs : k.shape = (rg, cg) := hk ▸ NKind.granted_shape hv rq cq
  refine ⟨fun hroom hmay st2 hw => ?_, fun sg w md hroom hfit => ?_⟩
  · have hno : ¬ Config.storeBits < s.declared (coreOf s.cur) - n.kind.cost + k.cost := Nat.not_lt.mpr hroom
    have hgo : awaitRepack s.ctx (s.growMoves s.cur (v.toNat - 1) n k) = pure () := awaitRepack_go hmay
    refine hexec.trans (issue_seq hready' hkinds ?_)
    rw [hrun, shapeTo_granted hr1 hr hc1 hc hk hs (hw.holds hd), if_neg hno]
    simp only [hgo, OpM.bind_apply, OpM.pure_apply, OpM.modify_apply, reshape, hw.writeInt, OpM.seqNext_apply]
  · have hover : Config.storeBits < s.declared (coreOf s.cur) - n.kind.cost + k.cost := hroom
    have hholds : s.me.holds d ((rg * 65536 + cg : Nat) : Int) := by
      rcases hfit with rfl | ⟨y, hy, hyk, hfit⟩
      · exact .inl rfl
      · exact .inr ⟨sg, w, md, by simp [Slot.kind, hy, hyk], by simpa using hfit⟩
    refine hexec.trans (issue_trap hready' hkinds ?_)
    rw [hrun, shapeTo_granted hr1 hr hc1 hc hk hs hholds, if_pos hover]
    rfl

/-- Settles O18: RESIZE and WIDTH, the turns for a repack, what a growing name keeps, and SHAPE, each by what its operation
does at its turn. -/
theorem resizeShapeAndRepack : Obligations.ResizeShapeAndRepack :=
  ⟨resizeChangesWidth, repacksTakeTurns, growingKeepsNames, shapeGrants⟩

end Sys2Proof.Machine
end
